-- ==== Sys2Proof/Word.lean ====
section
/-! DEFINITION. The word types of the PZ9 (00 R2): bytes, 32-bit words, 64-bit addresses. -/

namespace Sys2Proof

/-- A byte. -/
abbrev Byte := BitVec 8

/-- A 32-bit word: one register, one lane's element, a mask of 32 lanes. -/
abbrev Word := BitVec 32

/-- A 64-bit value: a register pair, an address before its upper byte is checked (06 R107). -/
abbrev Dword := BitVec 64

end Sys2Proof
end

