-- ==== Sys2Proof/Syntax.lean ====
section
/-! DEFINITION. The instruction set as syntax: operands of the one 8-bit operand space (03 R51), and `Instr`, one
constructor for each row of spec/opcode_table.json: the 180 opcodes of 03 Table 3.8, then the 104 steps of the device
that have no instruction word; those carry the unit they concern as arguments (log 1). -/

namespace Sys2Proof

/-- A decoded operand code of 03 Table 3.5; a literal carries the word of the next slot. -/
inductive Operand where
  /-- 0x00-0x7F: vector register -/
  | v (r : Fin 128)
  /-- 0x80-0xBF: scalar register -/
  | s (r : Fin 64)
  /-- 0xC0-0xC7: predicate -/
  | p (r : Fin 8)
  /-- 0xC8-0xD7: future handle -/
  | h (r : Fin 16)
  /-- 0xD8: LANEID -/
  | laneid
  /-- 0xD9: the issuing split's EXEC -/
  | exec
  /-- 0xDA: WAVEID -/
  | waveid
  /-- 0xE0-0xEF: integer constants 0-15; 0xE0 as a destination discards -/
  | int (k : Fin 16)
  /-- 0xF0-0xF7: 0.5, 1, 2, 4 and their negatives -/
  | flt (k : Fin 8)
  /-- 0xFF: the literal in the next slot -/
  | lit (w : Word)
deriving DecidableEq, Repr, Inhabited

/-- Which on-chip copy an EVICT step drops (08 Table 8.2, 06 R117). Lines are line numbers: VA / 64 for L1, VA / 256 else. -/
inductive CachePlace where
  /-- an L1 copy of owner p in core c -/
  | l1 (c p asid line : Nat)
  /-- a read-only copy in sector sec -/
  | copy (sec asid line : Nat)
  /-- a home line of L2: its dirty sectors go to the physical tiers (R117) -/
  | home (asid line : Nat)
  /-- a line of the memory-side SRAM caches, by physical address / 256: its dirty sectors go to GDDR7 (06 R119) -/
  | sram (line : Nat)
  /-- a bundle of core c's instruction cache (03 R45) -/
  | code (c asid bundle : Nat)
deriving DecidableEq, Repr, Inhabited

/-- Which dirty sector a WRITE_BACK step writes (08 Table 8.2). -/
inductive WritePlace where
  /-- a dirty stash sector of a window of block b, to its home -/
  | stash (b win line sector : Nat)
  /-- a dirty L2 sector, to the physical tiers -/
  | home (asid line sector : Nat)
deriving DecidableEq, Repr, Inhabited

/-- The two ports of 08 Table 8.1. -/
inductive Port where
  /-- FP, PZ link -/
  | fabric
  /-- SP, PCIe -/
  | system
deriving DecidableEq, Repr, Inhabited

/-- An engine queue of 08 Table 8.8. -/
inductive QueueRef where
  /-- the copy queue share of partition p in core c -/
  | copy (c p : Nat)
  /-- the slice queue of a block -/
  | slice (b : Nat)
  /-- the matrix queue of a quadrant -/
  | matrix (q : Nat)
  /-- the keyed push queue of a block -/
  | keyed (b : Nat)
  /-- the Lynx queue share of partition p in a sector -/
  | lynx (sec p : Nat)
deriving DecidableEq, Repr, Inhabited

/-- A sink's reply on the AUX channel (15 R230). -/
inductive AuxReply where
  | ack
  | nack
  | defer
deriving DecidableEq, Repr, Inhabited

/-- What Bruin does about a stage-2 fault (18 R256): map the page by writing table entries, or stop the partition. -/
inductive BruinAct where
  /-- write these 8-byte table entries at these physical addresses and resume the agents -/
  | mapPage (entries : List (Nat × BitVec 64))
  /-- stop the partition with REASON 6 -/
  | stopPartition
deriving DecidableEq, Repr, Inhabited

/-- A register window of the host interface (21 Table 21.7). -/
inductive RegWindow where
  /-- PF BAR0 -/
  | pf
  /-- the kick page of partition p -/
  | kick (p : Nat)
  /-- the presentation page of a link -/
  | link (l : Nat)
  /-- the attestation page of partition p -/
  | attest (p : Nat)
  /-- the mode field of partition p's entry, written by Bruin itself (21 Table 21.3) -/
  | bruin (p : Nat)
deriving DecidableEq, Repr, Inhabited

/-- A PCIe AtomicOp of 32 or 64 bits (21 R281, 18 R255). -/
inductive PcieAtomic where
  | fetchAdd (wide : Bool) (x : BitVec 64)
  | swap (wide : Bool) (x : BitVec 64)
  | cas (wide : Bool) (expect x : BitVec 64)
deriving DecidableEq, Repr, Inhabited

/-- An access arriving over PZ link (21 R283). -/
inductive FabricOp where
  | read (n : Nat)
  | write (bytes : List Byte)
  | atomic (op : PcieAtomic)
deriving DecidableEq, Repr, Inhabited

/-- Where a fault that raises a machine check lies (21 R285): storage private to a quadrant or to an owner's share of a core, data of an
ASID, or a shared unit. -/
inductive FaultSite where
  | quadrant (q : Nat)
  | share (core p : Nat)
  | data (asid : Nat)
  | core (c : Nat)
  | sector (n : Nat)
  | slice (n : Nat)
  | link (n : Nat)
  /-- a unit that every partition uses -/
  | whole
deriving DecidableEq, Repr, Inhabited

/-- The instruction set: one constructor for each row of the opcode table. -/
inductive Instr where
  /-- NOP (R366): Takes an issue opportunity and changes no architectural state. -/
  | nop
  /-- JMP (R335): Moves the whole split to the bundle OFF16 bundles away. -/
  | jmp (off : BitVec 16)
  /-- BRZ (R306): Uniform branch taken when the s register is zero. -/
  | brz (r : Operand) (off : BitVec 16)
  /-- BRNZ (R306): Uniform branch taken when the s register is nonzero. -/
  | brnz (r : Operand) (off : BitVec 16)
  /-- BANY (R300): Uniform branch taken when any EXEC lane of the predicate is set. -/
  | bany (r : Operand) (off : BitVec 16)
  /-- BALL (R300): Uniform branch taken when every EXEC lane of the predicate is set. -/
  | ball (r : Operand) (off : BitVec 16)
  /-- BRX (R72): Divergent branch that splits the split by a predicate and pushes rejoin entries. -/
  | brx (r : Operand) (off : BitVec 16) (rejoin : Word)
  /-- JOINW (R74): Parks the split until the named lanes all reach the same JOINW, then merges them. -/
  | joinw (a : Operand)
  /-- CALL (R308): Writes the next bundle address into an s pair and branches. -/
  | call (r : Operand) (off : BitVec 16)
  /-- RET (R389): Moves the whole split to the 64-bit address in an s pair. -/
  | ret (a : Operand)
  /-- JMPR (R336): Moves the whole split to the 64-bit target in an s pair. -/
  | jmpr (a : Operand)
  /-- EXIT (R322): Ends the lanes of EXEC once the scoreboard is empty. -/
  | exit
  /-- TRAP (R412): Raises cause 0x10 + k. -/
  | trap (imm : BitVec 16)
  /-- RETT (R248): Pops the trap frame and kind 2 entries and rebuilds the splits. -/
  | rett
  /-- BRK (R305): Raises BREAK. -/
  | brk
  /-- MODEA (R357): Writes TYPE, RND, SAT, GUARD and GNEG of MODE from the immediate. -/
  | modea (imm : BitVec 16)
  /-- MODEM (R357): Writes CPOL, SCOPE and AUSE of MODE from the immediate. -/
  | modem (imm : BitVec 16)
  /-- MODESV (R358): Writes the split's MODE to an s register. -/
  | modesv (d : Operand)
  /-- MODELD (R358): Loads MODE from a register, constant or literal. -/
  | modeld (a : Operand)
  /-- SRD (R401): Reads a special register. -/
  | srd (d a b : Operand)
  /-- SWR (R402): Writes a writable special register with its own effect. -/
  | swr (a b : Operand)
  /-- CLK (R311): Writes the core's 64-bit cycle counter to an s pair. -/
  | clk (d : Operand)
  /-- SENSE (R284): Reads a temperature, droop or process sensor. -/
  | sense (d b : Operand)
  /-- MSAVE (R350): Copies EXEC to a predicate or s register. -/
  | msave (d : Operand)
  /-- MSET (R350): Sets EXEC to the operand masked by LIVE. -/
  | mset (a : Operand)
  /-- MAND (R350): ANDs EXEC with the operand. -/
  | mand (a : Operand)
  /-- MANDN (R350): ANDs EXEC with the complement of the operand. -/
  | mandn (a : Operand)
  /-- FMARK (R261): Records a flashback mark and sets the rewindable flag. -/
  | fmark (offset : Word)
  /-- STKRD (R69): Copies a reconvergence stack entry into 8 scalar registers. -/
  | stkrd (d a : Operand)
  /-- STKWR (R69): Overwrites or pushes a reconvergence stack entry from 8 scalar registers. -/
  | stkwr (a b : Operand)
  /-- YIELD (R418): Swaps the split out of the active set if a pending split is ready. -/
  | yield
  /-- CMPEQ (R313): Sets predicate bits where A equals B. -/
  | cmpeq (d a b : Operand)
  /-- CMPNE (R313): Sets predicate bits where A differs from B. -/
  | cmpne (d a b : Operand)
  /-- CMPLT (R313): Sets predicate bits where A is less than B. -/
  | cmplt (d a b : Operand)
  /-- CMPLE (R313): Sets predicate bits where A is at most B. -/
  | cmple (d a b : Operand)
  /-- CMPGT (R313): Sets predicate bits where A is greater than B. -/
  | cmpgt (d a b : Operand)
  /-- CMPGE (R313): Sets predicate bits where A is at least B. -/
  | cmpge (d a b : Operand)
  /-- CMPUN (R313): Sets predicate bits where either float operand is NaN. -/
  | cmpun (d a b : Operand)
  /-- CLASS (R310): Sets predicate bits where every element falls in a masked float class. -/
  | classF (d a b : Operand)
  /-- PAND (R369): Predicate AND on all 32 bits. -/
  | pand (d a b : Operand)
  /-- POR (R369): Predicate OR on all 32 bits. -/
  | por (d a b : Operand)
  /-- PXOR (R369): Predicate XOR on all 32 bits. -/
  | pxor (d a b : Operand)
  /-- PNOT (R369): Predicate complement on all 32 bits. -/
  | pnot (d a : Operand)
  /-- PCNT (R370): Counts the bits of the operand within EXEC. -/
  | pcnt (d a : Operand)
  /-- PMOV (R372): Moves between predicates and s registers. -/
  | pmov (d a : Operand)
  /-- MOV (R359): Copies a value by bits. -/
  | mov (d a : Operand)
  /-- ADD (R297): Adds under MODE.TYPE. -/
  | add (d a b : Operand)
  /-- SUB (R410): Subtracts under MODE.TYPE. -/
  | sub (d a b : Operand)
  /-- MUL (R360): Multiplies, low half for integers. -/
  | mul (d a b : Operand)
  /-- MULHI (R361): Writes the high half of the integer product. -/
  | mulhi (d a b : Operand)
  /-- MAD (R349): Fused multiply-add into D. -/
  | mad (d a b : Operand)
  /-- MIN (R352): Writes the lesser operand. -/
  | min (d a b : Operand)
  /-- MAX (R352): Writes the greater operand. -/
  | max (d a b : Operand)
  /-- ABS (R295): Writes the absolute value. -/
  | abs (d a : Operand)
  /-- NEG (R365): Writes the negation. -/
  | neg (d a : Operand)
  /-- AND (R299): Bitwise AND. -/
  | andB (d a b : Operand)
  /-- OR (R368): Bitwise OR. -/
  | orB (d a b : Operand)
  /-- XOR (R417): Bitwise exclusive OR. -/
  | xorB (d a b : Operand)
  /-- NOT (R367): Bitwise complement. -/
  | notB (d a : Operand)
  /-- SHL (R399): Shifts left by the raw count. -/
  | shl (d a b : Operand)
  /-- SHR (R399): Shifts right, arithmetic for signed types. -/
  | shr (d a b : Operand)
  /-- BFX (R303): Extracts a bit field. -/
  | bfx (d a b : Operand)
  /-- BFI (R303): Inserts a bit field into D. -/
  | bfi (d a b : Operand)
  /-- POPC (R373): Counts set bits. -/
  | popc (d a : Operand)
  /-- CLZ (R312): Counts leading zeros. -/
  | clz (d a : Operand)
  /-- BREV (R304): Reverses the 32 bits. -/
  | brev (d a : Operand)
  /-- CSEL (R317): Copies B into D in lanes whose predicate bit is set. -/
  | csel (d a b : Operand)
  /-- ADDW (R298): Adds an extended 32-bit value to a 64-bit pair. -/
  | addw (d a b : Operand)
  /-- DOT (R173): Adds a packed dot product to D with one rounding. -/
  | dot (d a b : Operand)
  /-- CVT (R169): Converts elements from MODE.TYPE to the target type. -/
  | cvt (d a b : Operand)
  /-- ROUNDI (R391): Rounds to an integral float value under RND. -/
  | roundi (d a : Operand)
  /-- FRACT (R326): Writes x minus floor(x). -/
  | fract (d a : Operand)
  /-- LDEXP (R346): Scales a float by a power of two. -/
  | ldexp (d a b : Operand)
  /-- SCALEX (R172): Expands an E8 scale byte to an f32 power of two. -/
  | scalex (d a b : Operand)
  /-- RCP (R384): Computes a correctly rounded reciprocal. -/
  | rcp (d a : Operand)
  /-- RSQ (R384): Computes a faithful reciprocal square root. -/
  | rsq (d a : Operand)
  /-- SQRT (R384): Computes a correctly rounded square root. -/
  | sqrt (d a : Operand)
  /-- EXP2 (R323): Computes 2 to the x. -/
  | exp2 (d a : Operand)
  /-- LOG2 (R348): Computes the base-2 logarithm. -/
  | log2 (d a : Operand)
  /-- SIN (R384): Computes sin(2πx). -/
  | sin (d a : Operand)
  /-- COS (R314): Computes cos(2πx). -/
  | cos (d a : Operand)
  /-- SHFL (R398): Reads A from an indexed lane of the split. -/
  | shfl (d a b : Operand)
  /-- SHFLX (R398): Reads A from the lane LANEID xor B. -/
  | shflx (d a b : Operand)
  /-- RDLANE (R385): Reads one lane of a vector register into an s register. -/
  | rdlane (d a b : Operand)
  /-- WRLANE (R416): Writes one lane of a vector register. -/
  | wrlane (d a b : Operand)
  /-- BALLOT (R301): Writes the mask of ACT lanes with A nonzero. -/
  | ballot (d a : Operand)
  /-- VANY (R415): Writes 1 if any ACT lane of the predicate is set. -/
  | vany (d a : Operand)
  /-- VALL (R415): Writes 1 if every ACT lane of the predicate is set. -/
  | vall (d a : Operand)
  /-- MATCH (R351): Writes the mask of ACT lanes with equal A bits. -/
  | matchLanes (d a : Operand)
  /-- SCAN (R395): Inclusive prefix sum over ACT in lane order. -/
  | scan (d a : Operand)
  /-- REDUCE (R387): Reduces A over ACT into an s register. -/
  | reduce (d a b : Operand)
  /-- RANK (R383): Writes the number of ACT lanes below each lane. -/
  | rank (d : Operand)
  /-- REGROUP (R82): Arrives at a regroup and packs the arrived waves' lanes into full waves. -/
  | regroup (a b : Operand)
  /-- REBAL (R81): Spreads work items over lanes by prefix sums of lengths. -/
  | rebal (d a b : Operand)
  /-- LD8 (R343): Loads one byte per lane. -/
  | ld8 (d a b : Operand)
  /-- LD16 (R343): Loads two bytes per lane. -/
  | ld16 (d a b : Operand)
  /-- LD32 (R343): Loads four bytes per lane. -/
  | ld32 (d a b : Operand)
  /-- LD64 (R343): Loads eight bytes per lane into a pair. -/
  | ld64 (d a b : Operand)
  /-- LD128 (R343): Loads sixteen bytes per lane into a quad. -/
  | ld128 (d a b : Operand)
  /-- ST8 (R404): Stores one byte per lane. -/
  | st8 (d a b : Operand)
  /-- ST16 (R404): Stores two bytes per lane. -/
  | st16 (d a b : Operand)
  /-- ST32 (R404): Stores four bytes per lane. -/
  | st32 (d a b : Operand)
  /-- ST64 (R404): Stores eight bytes per lane from a pair. -/
  | st64 (d a b : Operand)
  /-- ST128 (R404): Stores sixteen bytes per lane from a quad. -/
  | st128 (d a b : Operand)
  /-- LDS32 (R347): Uniform load of 4 bytes into an s register. -/
  | lds32 (d a b : Operand)
  /-- LDS64 (R347): Uniform load of 8 bytes into an s pair. -/
  | lds64 (d a b : Operand)
  /-- LDS128 (R347): Uniform load of 16 bytes into an s quad. -/
  | lds128 (d a b : Operand)
  /-- STS32 (R409): Uniform store of 4 bytes from an s register. -/
  | sts32 (d a b : Operand)
  /-- LDACQ (R153): Loads 32 bits then acquires at MODE.SCOPE. -/
  | ldacq (d a b : Operand)
  /-- STREL (R153): Releases at MODE.SCOPE then stores 32 bits. -/
  | strel (d a b : Operand)
  /-- ACQR (R155): Device-scope acquiring load that promotes a block-scope writer. -/
  | acqr (d a b : Operand)
  /-- FENCE (R152): Acquire, release, acquire-release or sc fence at MODE.SCOPE. -/
  | fence (b : Operand)
  /-- PREF (R125): Prefetches lines into the home and L1. -/
  | pref (a b : Operand)
  /-- PIN (R126): Fills and pins a line at its home, reporting success. -/
  | pin (d a b : Operand)
  /-- UNPIN (R126): Clears the pin of a line at its home. -/
  | unpin (a b : Operand)
  /-- CWB (R127): Writes back dirty stash and L2 sectors of a range. -/
  | cwb (a b : Operand)
  /-- CINV (R128): Invalidates the owner's L1 lines of a range. -/
  | cinv (a b : Operand)
  /-- AADD (R292): Atomic add. -/
  | aadd (d a b : Operand)
  /-- AMIN (R292): Atomic minimum. -/
  | amin (d a b : Operand)
  /-- AMAX (R292): Atomic maximum. -/
  | amax (d a b : Operand)
  /-- AAND (R292): Atomic AND. -/
  | aand (d a b : Operand)
  /-- AOR (R292): Atomic OR. -/
  | aor (d a b : Operand)
  /-- AXOR (R292): Atomic XOR. -/
  | axor (d a b : Operand)
  /-- AXCHG (R292): Atomic exchange. -/
  | axchg (d a b : Operand)
  /-- ACAS (R292): Atomic compare and swap. -/
  | acas (d a b : Operand)
  /-- AINC (R292): Atomic wrapping increment. -/
  | ainc (d a b : Operand)
  /-- MON (R354): Arms the split's monitor on a line at its home. -/
  | mon (a b : Operand)
  /-- MWAIT (R355): Parks until the monitored line is written, a timeout, eviction or resumption. -/
  | mwait (d a : Operand)
  /-- MCANCEL (R356): Disarms the split's monitor. -/
  | mcancel
  /-- STMAP (R130): Maps a scratch range onto a global range as a stash window. -/
  | stmap (d a b : Operand)
  /-- STUNMAP (R134): Writes back and releases a stash window. -/
  | stunmap (a : Operand)
  /-- STFLUSH (R132): Writes back a stash window's dirty lines. -/
  | stflush (a : Operand)
  /-- MWBIND (R135): Binds a scratch range to a mirrored-window group. -/
  | mwbind (a b : Operand)
  /-- MWUNBIND (R137): Ends the block's binding of a mirrored-window group. -/
  | mwunbind (a : Operand)
  /-- CPY (R138): Queues a linear copy on the copy engine. -/
  | cpy (d a b : Operand)
  /-- CPY2D (R138): Queues a 2-D copy on the copy engine. -/
  | cpy2d (d a b : Operand)
  /-- CPCLOSE (R139): Closes the wave's open copies into a new batch. -/
  | cpclose (d : Operand)
  /-- CPWAIT (R139): Parks until copy batches up to A are performed. -/
  | cpwait (a : Operand)
  /-- GATH (R141): Gathers indexed elements from home slices into scratch. -/
  | gath (d a b : Operand)
  /-- SCAT (R141): Scatters scratch elements to their home slices. -/
  | scat (d a b : Operand)
  /-- QFENCE (R160): Places fence entries ordering the named engine queues. -/
  | qfence (d a : Operand)
  /-- BAR (R100): Arrives at a block barrier and waits for its phase. -/
  | bar (a b : Operand)
  /-- BARA (R100): Arrives at a block barrier. -/
  | bara (a b : Operand)
  /-- BARW (R100): Waits for the phase of the wave's last arrival. -/
  | barw (a : Operand)
  /-- RACQ (R99): Claims the ring slot at the producer cursor. -/
  | racq (d a : Operand)
  /-- RPUB (R99): Publishes a claimed ring slot as FULL. -/
  | rpub (a b : Operand)
  /-- RGET (R99): Takes the FULL ring slot at the consumer cursor. -/
  | rget (d a : Operand)
  /-- RREL (R99): Returns a taken ring slot to EMPTY. -/
  | rrel (a b : Operand)
  /-- HWAIT (R332): Parks while a handle is pending, then acquires. -/
  | hwait (d a : Operand)
  /-- HTEST (R331): Writes a handle's status without parking. -/
  | htest (d a : Operand)
  /-- HCANCEL (R329): Drops the unstarted parts of a pending handle's operation. -/
  | hcancel (a : Operand)
  /-- HMOV (R330): Reads a handle's code and tag, or writes a handle state. -/
  | hmov (d a : Operand)
  /-- SPAWN (R94): Creates one child wave per ACT lane. -/
  | spawn (d a b : Operand)
  /-- SPAWNW (R94): Creates one child wave per issue. -/
  | spawnw (d a b : Operand)
  /-- SUCCGO (R97): Marks the wave as having let its successors go. -/
  | succgo
  /-- PREDWAIT (R97): Parks until the predecessor launch completes, then acquires. -/
  | predwait
  /-- MXCLAIM (R179): Claims an operand slot. -/
  | mxclaim (d a : Operand)
  /-- MXREL (R179): Queues the release of an operand slot. -/
  | mxrel (a : Operand)
  /-- MXFILL (R181): Queues conversion of 32 scratch rows into a slot. -/
  | mxfill (d a b : Operand)
  /-- MXZERO (R188): Queues zeroing of a tile. -/
  | mxzero (d a : Operand)
  /-- MXMMA (R185): Queues a dense tile product. -/
  | mxmma (d a b : Operand)
  /-- MXMMAS (R185): Queues a block-scaled tile product. -/
  | mxmmas (d a b : Operand)
  /-- MXMMASP (R186): Queues an N:64 sparse tile product. -/
  | mxmmasp (d a b : Operand)
  /-- MXLDACC (R188): Queues a load of a tile from scratch. -/
  | mxldacc (d a b : Operand)
  /-- MXSTACC (R188): Queues a converted store of a tile to scratch. -/
  | mxstacc (d a b : Operand)
  /-- MXLIST (R189): Queues a list of matrix commands read from scratch. -/
  | mxlist (d a b : Operand)
  /-- KBIND (R197): Binds a keyed stage to the launch's cores. -/
  | kbind (a b : Operand)
  /-- KPUSH (R341): Pushes one keyed record per ACT lane to its home. -/
  | kpush (d a b : Operand)
  /-- KYIELD (R204): Suspends the lanes' contexts, or ends them under DRAIN. -/
  | kyield
  /-- KEND (R204): Ends the lanes' contexts. -/
  | kend
  /-- KDRAIN (R207): Queues a drain of a keyed stage. -/
  | kdrain (d a : Operand)
  /-- SNAP (R235): Opens a snapshot level over an address range. -/
  | snap (d a b : Operand)
  /-- SACC (R236): Accepts and closes the innermost snapshot level. -/
  | sacc (a : Operand)
  /-- SREJ (R236): Restores and closes the innermost snapshot level. -/
  | srej (a : Operand)
  /-- SQRY (R237): Writes the status of a snapshot region. -/
  | sqry (d a : Operand)
  /-- SSBUILD (R214): Queues a Lynx build of a sample-set index. -/
  | ssbuild (d a : Operand)
  /-- SSBIND (R216): Binds a built sample set and a keyed stage for drawing. -/
  | ssbind (a b : Operand)
  /-- TRIEMIT (R217): Emits one triangle per ACT lane to the binner. -/
  | triemit (d : Operand)
  /-- DRAWEND (R220): Closes the current draw. -/
  | drawend (d : Operand)
  /-- PRESENT (R226): Hands an image to a presentation link after a release. -/
  | present (a b : Operand)
  /-- RESERVED_OPCODE (R59): A split issues a word with a reserved opcode or a nonzero reserved field, which raises ILLEGAL at that slot after the earlier slots have performed. -/
  | reservedOpcode (w : Word)
  /-- SPLIT_SWAP (R77): Swaps the earliest-ready pending split into the slot of the longest-parked active split. -/
  | splitSwap (q : Nat)
  /-- RESULT_WRITE (R78): A long-latency result returns, is written and clears its pending-write bit. -/
  | resultWrite (w n : Nat)
  /-- REJOIN_ARRIVAL (R73): A split arrives at its governing entry's rejoin bundle and parks, switches arm or completes the entry. -/
  | rejoinArrival (w sp : Nat)
  /-- CONVDEAD (R75): Every live split is parked at a rejoin or JOINW with no condition holding, and the wave traps. -/
  | convdead (w : Nat)
  /-- TRAP_ENTRY (R246): Once all scoreboards are clear, pushes split entries and a frame and starts the handler. -/
  | trapEntry (w : Nat)
  /-- REGROUP_RESUME (R82): The regrouped destination waves resume after 64 plus 2 per migrated register cycles. -/
  | regroupResume (b tag : Nat)
  /-- MWAIT_TIMEOUT (R355): The MWAIT timeout count expires and MWAIT returns 2. -/
  | mwaitTimeout (w sp : Nat)
  /-- CORE_CLOCK_GATE (R105): A core whose splits are all parked and whose engines are idle gates its clock. -/
  | coreClockGate (c : Nat)
  /-- CORE_WAKE (R105): An event makes a split ready and the gated core wakes. -/
  | coreWake (c : Nat)
  /-- DRAIN (R147): The oldest entry for a line leaves a wave's store buffer into the block view. -/
  | drain (w line : Nat)
  /-- PERFORM (R147): The oldest outbound entry for a line is performed at its home and invalidations are sent. -/
  | perform (b line n : Nat)
  /-- FILL_L1 (R147): An L1 copy of a line is made from a sector copy or the home. -/
  | fillL1 (b line : Nat)
  /-- FILL_COPY (R147): A read-only sector copy of a line is made from its home. -/
  | fillCopy (sec asid line : Nat)
  /-- EVICT (R147): An L1 copy or sector copy is dropped. -/
  | evict (place : CachePlace)
  /-- CONSUME (R147): The head invalidation of a sector queue is consumed and its copy dropped. -/
  | consume (sec : Nat)
  /-- WRITE_BACK (R147): A dirty stash sector is written to its home or a dirty L2 sector to the physical tiers. -/
  | writeBack (place : WritePlace)
  /-- SATISFY (R145): An issued load takes its value from the first source holding the byte. -/
  | satisfy (w n lane : Nat)
  /-- PORT (R147): A write in transit through the fabric or system port reaches its target. -/
  | port (port : Port)
  /-- ENGINE (R160): The head operation of an engine queue makes progress. -/
  | engine (queue : QueueRef)
  /-- STASH_FILL (R131): A first scratch access to an ABSENT window line fetches it from its home and registers ownership. -/
  | stashFill (b win line : Nat)
  /-- MW_DELIVERY (R136): A mirrored-window store is delivered to another member's scratch. -/
  | mwDelivery (src dst : Nat)
  /-- COPY_STEP (R138): The copy engine moves bytes of a queued copy through its round-robin slot. -/
  | copyStep (c p : Nat)
  /-- SLICE_ELEMENT (R141): A home slice reads or stores one gather or scatter element. -/
  | sliceElement (b n i : Nat)
  /-- MATRIX_COMMAND (R190): The matrix engine starts a queued command's engine step on its fill or multiply path. -/
  | matrixCommand (q n : Nat)
  /-- MATRIX_COMMAND_DONE (R191): A matrix command's completion delay expires and its handle becomes done. -/
  | matrixCommandDone (q n : Nat)
  /-- LEASE_PASS (R98): At a command boundary the matrix engine passes to another waiting launch. -/
  | leasePass (q : Nat)
  /-- RECORD_ACCEPT (R200): A home accepts a keyed record into its buffer and advances its arrival counter. -/
  | recordAccept (p n : Nat)
  /-- KEYED_WAVE_FORM (R203): The Sett forms a keyed wave from runnable contexts when 32 are ready or 32 cycles pass. -/
  | keyedWaveForm (p stage c pc : Nat)
  /-- REFILL (R205): A spilled context is read back into the Sett. -/
  | refill (p stage key : Nat)
  /-- STAGE_DRAIN (R198): After the binding launch's non-keyed waves exit, the device drains the stage. -/
  | stageDrain (p stage : Nat)
  /-- DRAIN_COMPLETE (R207): A drain's contexts have ended at every home, the counters are written and the handle is done. -/
  | drainComplete (p stage : Nat)
  /-- LYNX_BUILD (R213): Lynx starts a queued build, writes the index and the final status. -/
  | lynxBuild (sec p : Nat)
  /-- BUILD_HANDLE_DONE (R215): The build handle becomes done 16 cycles after the status write. -/
  | buildHandleDone (p n : Nat)
  /-- BINNER_RECEIVE (R219): The binner gives a triangle its primitive id and appends it to the met root bins. -/
  | binnerReceive (l w : Nat)
  /-- RASTER_WORK_ITEM (R221): A raster unit tests a leaf against its root bin's primitives and makes fragment records. -/
  | rasterWorkItem (c p : Nat)
  /-- FRAGMENT_PUSH (R224): A held fragment record is pushed to its home once the home can accept. -/
  | fragmentPush (c home : Nat)
  /-- FRAME_COMPLETE (R226): After PRESENT's release completes, the image becomes the link's newest complete frame or is dropped. -/
  | frameComplete (link : Nat)
  /-- PRESENTATION_DEADLINE (R227): At the deadline before vertical blank the engine shows the newest frame or re-projects. -/
  | presentationDeadline (link : Nat)
  /-- HPD_CHANGE (R229): The sink's hot-plug line changes; loss clears TRAINED and ACTIVE and sets HPDCHG. -/
  | hpdChange (link : Nat) (present : Bool)
  /-- MODEGO_APPLY (R229): Writing 1 to MODEGO trains the link if needed, checks and applies the mode. -/
  | modegoApply (link lanes rate : Nat)
  /-- MODEGO_STOP (R229): Writing 0 to MODEGO stops sending. -/
  | modegoStop (link : Nat)
  /-- HPDCHG_CLEAR (R229): Writing 1 to HPDCHG clears it. -/
  | hpdchgClear (link : Nat)
  /-- AUX_NATIVE_WRITE (R230): Starts a native DPCD write transaction. -/
  | auxNativeWrite (link addr len : Nat)
  /-- AUX_NATIVE_READ (R230): Starts a native DPCD read transaction. -/
  | auxNativeRead (link addr len : Nat)
  /-- AUX_I2C_WRITE (R230): Starts an I2C-over-AUX write. -/
  | auxI2cWrite (link addr len : Nat)
  /-- AUX_I2C_READ (R230): Starts an I2C-over-AUX read. -/
  | auxI2cRead (link addr len : Nat)
  /-- AUX_I2C_WRITE_MOT (R230): Starts an I2C-over-AUX write with MOT. -/
  | auxI2cWriteMot (link addr len : Nat)
  /-- AUX_I2C_READ_MOT (R230): Starts an I2C-over-AUX read with MOT. -/
  | auxI2cReadMot (link addr len : Nat)
  /-- AUX_INVALID_REQUEST (R230): An invalid AUX code or reserved bit sets STAT 4 and sends nothing. -/
  | auxInvalidRequest (link : Nat) (w : Word)
  /-- AUX_REPLY (R230): The sink's reply ends the transaction, or a DEFER is retried up to 7 times. -/
  | auxReply (link : Nat) (reply : AuxReply) (data : List Byte)
  /-- AUX_TIMEOUT (R230): No reply within 400 µs ends the transaction with STAT 3. -/
  | auxTimeout (link : Nat)
  /-- DEADLINE_WRITE (R227): Writes DEADLINE, with 0 reading as 1. -/
  | deadlineWrite (link : Nat) (v : Word)
  /-- DOORBELL (R84): A doorbell write makes queue records available, latches them, or sets tail overrun. -/
  | doorbell (p q : Nat) (v : BitVec 64)
  /-- QUEUE_ENABLE (R84): Setting EN enables a queue when LOGN is valid. -/
  | queueEnable (p q : Nat) (v : Word)
  /-- QUEUE_DISABLE (R84): Clearing EN stops fetching and clears ERR, HEAD and FETCHED. -/
  | queueDisable (p q : Nat) (v : Word)
  /-- LAUNCH_FETCH (R87): The dispatcher fetches and checks a launch record from a queue. -/
  | launchFetch (p : Nat)
  /-- BLOCK_PLACE (R92): The dispatcher places a block on a core within the round-robin window. -/
  | blockPlace (l : Nat)
  /-- CHILD_PLACE (R94): A created child wave is placed on a core by the child counter. -/
  | childPlace (p : Nat)
  /-- LAUNCH_COMPLETE (R89): A launch completes, releases its writes and HEAD advances. -/
  | launchComplete (l : Nat)
  /-- LAUNCH_PREEMPT (R106): A lower-priority launch yields so a higher one can be placed. -/
  | launchPreempt (l : Nat)
  /-- WAVE_SAVE (R264): A wave leaving residence is rewound, saved whole or saved at a mark. -/
  | waveSave (w : Nat)
  /-- MARK_WINDOW_EXPIRY (R264): A running wave reaches no mark within 60,000 cycles and takes PREEMPT. -/
  | markWindowExpiry (w : Nat)
  /-- PREEMPT_HANDLER_TIMEOUT (R264): The PREEMPT handler's final EXIT has not come within 240,000 cycles and the partition stops. -/
  | preemptHandlerTimeout (w : Nat)
  /-- WAVE_RESTORE (R265): A saved or rewound wave resumes from its save area. -/
  | waveRestore (w : Nat)
  /-- FAULT_RECORD (R258): A translation fault record is written to the fault ring and TAIL advances. -/
  | faultRecord (p : Nat)
  /-- TRANSLATION_WALK (R254): A translation home walks the tables for a missing granule. -/
  | translationWalk (c asid granule : Nat)
  /-- STAGE2_FAULT (R256): A stage-2 fault goes to Bruin, which maps the page or stops the partition. -/
  | stage2Fault (p : Nat) (act : BruinAct)
  /-- FORWARDED_ACCESS (R255): An access to a non-resident page is forwarded to the host or owning peer. -/
  | forwardedAccess (b line n : Nat)
  /-- PAGE_MIGRATION (R255): Bruin migrates a page using the access counters. -/
  | pageMigration (p ipa : Nat) (leaf : BitVec 64)
  /-- WAVE_RESUME (R259): A fault-resume word of KIND 0 restarts the parked instruction. -/
  | waveResume (p : Nat) (v : BitVec 64)
  /-- ENGINE_RETRY (R259): A fault-resume word for an engine with FAIL clear retries the operation. -/
  | engineRetry (p : Nat) (v : BitVec 64)
  /-- ENGINE_FAIL (R259): A fault-resume word for an engine with FAIL set fails the operation. -/
  | engineFail (p : Nat) (v : BitVec 64)
  /-- SHADOW_COPY (R238): A first write after a cut copies the old line into the shadow pool before being performed. -/
  | shadowCopy (asid line : Nat)
  /-- RESERVE_MOVE (R244): A reserve shadow moves into the pool every 8 cycles while pool lines are free. -/
  | reserveMove (p : Nat)
  /-- COPY_BACK (R236): A restored line's shadow is copied back and freed after SREJ. -/
  | copyBack (p n : Nat)
  /-- SHADOW_POOL_BASE_WRITE (R242): Writes the shadow-pool BASE, ignored while USED is nonzero or misaligned. -/
  | shadowPoolBaseWrite (p : Nat) (v : BitVec 64)
  /-- SHADOW_POOL_SIZE_WRITE (R242): Writes the shadow-pool SIZE within quota and above USED. -/
  | shadowPoolSizeWrite (p : Nat) (v : Word)
  /-- ACTIVATE (R276): Checks the entries and activates a stopped partition. -/
  | activate (p : Nat)
  /-- RESCHED (R277): Re-reads quadrant entries, restores saved blocks and runs the partition. -/
  | resched (p : Nat)
  /-- DESCHED (R277): Saves every wave and the partition's core state and deschedules it. -/
  | desched (p : Nat)
  /-- STOP (R278): Stops the partition with REASON 1. -/
  | stop (p : Nat)
  /-- INVAL (R276): Drops the partition's rights-cache and TLB entries. -/
  | inval (p : Nat)
  /-- DIRTY (R279): Writes and clears the partition's dirty report. -/
  | dirty (p : Nat)
  /-- CMD_UNKNOWN_OP (R275): A CMD with an unknown op fails with ERR 7. -/
  | cmdUnknownOp (v : BitVec 64)
  /-- COMMAND_COMPLETE (R275): A PF command completes, clears BUSY and raises MSI-X vector 1. -/
  | commandComplete
  /-- PARTITION_STOP (R278): A stopping partition performs its writes, writes the reports and sets STATE 2. -/
  | partitionStop (p : Nat)
  /-- QUADRANT_ENTRY_WRITE (R275): Writes a quadrant entry, ignored while either partition runs. -/
  | quadrantEntryWrite (q : Nat) (v : BitVec 64)
  /-- POWERLIMIT_WRITE (R271): Writes POWERLIMIT, ignoring values outside 600–1500 W. -/
  | powerlimitWrite (v : Word)
  /-- SCRUB_WRITE (R285): Enables or disables patrol scrub. -/
  | scrubWrite (v : Word)
  /-- REGISTER_WRITE (R271): A write to a register with no behaviour of its own. -/
  | registerWrite (win : RegWindow) (off : Nat) (bytes : List Byte)
  /-- ATTESTATION_REQUEST (R287): Writing 1 to REQ makes Bruin write a signed report. -/
  | attestationRequest (p : Nat) (v : Word)
  /-- ATTESTATION_DONE (R287): Bruin finishes the report and sets STATUS by a system-scope release. -/
  | attestationDone (p : Nat)
  /-- BAR4_WRITE (R282): A host posted write to BAR4 is translated and performed at the home. -/
  | bar4Write (p off : Nat) (bytes : List Byte)
  /-- BAR4_READ (R282): A host read of BAR4 returns the home value after earlier posted writes. -/
  | bar4Read (p off n : Nat)
  /-- FABRIC_ACCESS (R283): An incoming PZ link access acts like a BAR4 access of the partition's window. -/
  | fabricAccess (p off : Nat) (acc : FabricOp)
  /-- FLIT_CRC_ERROR (R283): A flit failing its CRC is replayed, and after 16 failures the port goes down. -/
  | flitCrcError (port : Nat)
  /-- MACHINE_CHECK (R285): A detected fault raises a machine check and Bruin stops affected partitions. -/
  | machineCheck (unit num : Nat) (site : FaultSite)
  /-- CLOCK_STATE_CHANGE (R286): Bruin changes a core's clock state, stopping issue and clock for 2 µs. -/
  | clockStateChange (c st : Nat)
  /-- MODULE_RESET (R311): Reset runs the boot ROM checks and Bruin's bring-up. -/
  | moduleReset (ok : Bool)
  /-- BAR4_ATOMIC (R281): A host PCIe AtomicOp to the VF's BAR4 window is completed by the device as an atomic at the home. -/
  | bar4Atomic (p off : Nat) (op : PcieAtomic)
  /-- DROOP_EVENT (R284): A supply droop on a core is counted for every owner of that core and for the dispatcher's droop limit. -/
  | droopEvent (c : Nat)
  /-- PATROL_SCRUB (R285): Patrol scrub finds and corrects a latent single-bit error in SRAM or GDDR7 and counts it. -/
  | patrolScrub (kind p : Nat)
  /-- VERTICAL_BLANK (R229): A link reaches vertical blank at a frame boundary, raising VF vector 3 and starting a newly applied mode. -/
  | verticalBlank (link : Nat)
deriving DecidableEq, Repr, Inhabited

end Sys2Proof
end

