-- ==== Sys2Proof/WellFormed.lean ====
section
/-! DEFINITION. What the decoder requires of an instruction, whatever the wave's state (03 R49, R50, R51, R53): the operand
kinds, group alignments, reserved values and forms each reference entry allows. The footprint and the widths that MODE.TYPE
fixes are checked at issue (Machine/Operands.lean). -/

namespace Sys2Proof

/-! ## Operand kinds (03 Table 3.5) -/

/-- A vector register. -/
def isV : Operand → Bool
  | .v _ => true
  | _ => false
/-- A vector register that starts an even pair. -/
def isV2 : Operand → Bool
  | .v r => r.val % 2 == 0
  | _ => false
/-- A vector register that starts a quad. -/
def isV4 : Operand → Bool
  | .v r => r.val % 4 == 0
  | _ => false
/-- A vector register or LANEID. -/
def isVX : Operand → Bool
  | .v _ | .laneid => true
  | _ => false
/-- A scalar register. -/
def isS : Operand → Bool
  | .s _ => true
  | _ => false
/-- A scalar register that starts an even pair. -/
def isS2 : Operand → Bool
  | .s r => r.val % 2 == 0
  | _ => false
/-- A scalar register that starts a group of 4. -/
def isS4 : Operand → Bool
  | .s r => r.val % 4 == 0
  | _ => false
/-- A scalar register that starts a group of 8. -/
def isS8 : Operand → Bool
  | .s r => r.val % 8 == 0
  | _ => false
/-- A single scalar source: an s register, EXEC or WAVEID (03 R51). -/
def isS1 : Operand → Bool
  | .s _ | .exec | .waveid => true
  | _ => false
/-- A predicate. -/
def isP : Operand → Bool
  | .p _ => true
  | _ => false
/-- A handle. -/
def isH : Operand → Bool
  | .h _ => true
  | _ => false
/-- 0xE0 as a destination: the result is discarded. -/
def isDiscard : Operand → Bool
  | .int k => k.val == 0
  | _ => false
/-- A handle, or 0xE0 for none. -/
def isHD (o : Operand) : Bool := isH o || isDiscard o
/-- A destination of the ALU mould: vector, scalar, or 0xE0 (22 R290). -/
def isDst (o : Operand) : Bool := isV o || isS o || isDiscard o
/-- A vector or scalar register. -/
def isVS (o : Operand) : Bool := isV o || isS o
/-- A vector register or a single scalar source. -/
def isVS1 (o : Operand) : Bool := isV o || isS1 o
/-- A vector or scalar register that starts an even pair. -/
def isG2 (o : Operand) : Bool := isV2 o || isS2 o
/-- A predicate or a scalar register. -/
def isPS (o : Operand) : Bool := isP o || isS o
/-- A predicate or a single scalar source. -/
def isPSE (o : Operand) : Bool := isP o || isS1 o
/-- A scalar register or 0xE0 (HWAIT). -/
def isSD (o : Operand) : Bool := isS o || isDiscard o
/-- A handle or an even scalar register (HMOV). -/
def isHS (o : Operand) : Bool := isH o || isS2 o
/-- A scalar source, an inline integer constant or a literal. -/
def isScl : Operand → Bool
  | .s _ | .exec | .waveid | .int _ | .lit _ => true
  | _ => false
/-- A scalar source, any constant or a literal. -/
def isCon : Operand → Bool
  | .s _ | .exec | .waveid | .int _ | .flt _ | .lit _ => true
  | _ => false
/-- A scalar source or a literal. -/
def isSel : Operand → Bool
  | .s _ | .exec | .waveid | .lit _ => true
  | _ => false
/-- An address offset or lane index: no float constant and no predicate (06 R108). ADDW's B too: a value position whose valid TYPEs
are integers, where a float constant raises ILLEGAL (22 R298, 03 R54). -/
def isAddr : Operand → Bool
  | .v _ | .laneid => true
  | o => isScl o
/-- A value or raw source of any numeric kind (02 R21). -/
def isVal : Operand → Bool
  | .p _ | .h _ => false
  | _ => true
/-- SCALEX's B: a register or an inline integer constant (11 R172). -/
def isVSE : Operand → Bool
  | .v _ | .laneid | .s _ | .exec | .waveid | .int _ => true
  | _ => false
/-- A mask source: a predicate, a scalar source, an inline integer constant or a literal (23 Tables 23.4, 23.6). -/
def isMask (o : Operand) : Bool := isP o || isScl o
/-- An inline integer constant below n. -/
def isInt (n : Nat) : Operand → Bool
  | .int k => decide (k.val < n)
  | _ => false
/-- SRD's A: the code 0x00, or an inline integer constant for BARSTATE (04 R64). -/
def isSrdA : Operand → Bool
  | .v r => r.val == 0
  | .int _ => true
  | _ => false
/-- The index of a special register (04 R64). -/
def specialIndex : Operand → Option Nat
  | .int k => some k.val
  | .lit w => if w.toNat < 0x20 then some w.toNat else none
  | _ => none
/-- A valid index of a special register. -/
def isIdx (o : Operand) : Bool := (specialIndex o).isSome

/-- All literals of one word are the same word (03 R38). -/
def litAgree : Operand → Operand → Bool
  | .lit x, .lit y => x == y
  | _, _ => true

/-! ## Forms -/

/-- PMOV moves to a predicate from any mask source, and to an s register from a predicate only (23 R372). -/
def pmovOk : Operand → Operand → Bool
  | .p _, _ => true
  | .s _, .p _ => true
  | _, _ => false
/-- Exactly one of HMOV's operands is a handle (22 R330). -/
def hmovOk : Operand → Operand → Bool
  | .h _, .s _ => true
  | .s _, .h _ => true
  | _, _ => false
/-- BARSTATE takes a barrier in A, every other index 0x00; LANEID needs a vector D (04 R64). DEDUCED (log 92): SRD's D may
be 0xE0, which 03 Table 3.5 lists as a destination and 24 R401 does not exclude. -/
def srdOk (d a b : Operand) : Bool :=
  match specialIndex b with
  | none => false
  | some i => (if i == 0x18 then isInt 16 a else isV a) && (i != 0 || isV d)
/-- The writable special registers (24 Table 24.8). -/
def swrOk (b : Operand) : Bool :=
  match specialIndex b with
  | none => false
  | some i => i == 0x09 || (decide (0x10 ≤ i) && decide (i ≤ 0x17)) || i == 0x1A
/-- A uniform form takes no vector offset (08 R153). -/
def uniformOk (d b : Operand) : Bool := isV d || !(isVX b)
/-- CVT's target is a TYPE below 15 other than n64 (11 R169). -/
def cvtOk : Operand → Bool
  | .int k => decide (k.val < 14)
  | _ => false
/-- The atomic forms of 22 Table 22.2: a uniform form takes no vector offset, and no return takes literal data. -/
def atomicOk (d b : Operand) : Bool :=
  (isV d || !(isVX b)) && (!(isDiscard d) || match b with | .lit _ => true | _ => false)

/-- No field of a MODE value holds a reserved code (03 R56). -/
def modeOk (m : Nat) : Bool :=
  decide (m / 2097152 = 0) && decide (m % 16 < 15) && decide (m / 16 % 8 < 5) && decide (m / 4096 % 8 < 5) &&
    decide (m / 32768 % 8 < 6) && decide (m / 262144 % 8 < 5)
/-- MODEA's immediate (03 Table 3.7). -/
def modeaOk (imm : BitVec 16) : Bool := decide (imm.toNat < 4096) && modeOk imm.toNat
/-- MODEM's immediate (03 Table 3.7). -/
def modemOk (imm : BitVec 16) : Bool := decide (imm.toNat < 512) && modeOk (imm.toNat * 4096)

/-- What the decoder requires of each instruction. The steps of the device have no word and no requirement. -/
def Instr.wellFormed : Instr → Bool
  | .nop => true
  | .jmp _ => true
  | .brz r _ => isS r
  | .brnz r _ => isS r
  | .bany r _ => isP r
  | .ball r _ => isP r
  | .brx r _ rejoin => isP r && decide (rejoin.toNat < 0x10000)
  | .joinw a => isP a
  | .call r _ => isS2 r
  | .ret a => isS2 a
  | .jmpr a => isS2 a
  | .exit => true
  | .trap imm => decide (imm.toNat < 16)
  | .rett => true
  | .brk => true
  | .modea imm => modeaOk imm
  | .modem imm => modemOk imm
  | .modesv d => isS d
  | .modeld a => isScl a
  | .srd d a b => isDst d && isSrdA a && isIdx b && srdOk d a b
  | .swr a b => isScl a && isIdx b && swrOk b && litAgree a b
  | .clk d => isS2 d
  | .sense d b => isS d && isInt 4 b
  | .msave d => isPS d
  | .mset a => isMask a
  | .mand a => isMask a
  | .mandn a => isMask a
  | .fmark offset => decide (offset.toNat % 64 = 0)
  | .stkrd d a => isS8 d && isScl a
  | .stkwr a b => isS8 a && isScl b
  | .yield => true
  | .cmpeq d a b => isP d && isVal a && isVal b && litAgree a b
  | .cmpne d a b => isP d && isVal a && isVal b && litAgree a b
  | .cmplt d a b => isP d && isVal a && isVal b && litAgree a b
  | .cmple d a b => isP d && isVal a && isVal b && litAgree a b
  | .cmpgt d a b => isP d && isVal a && isVal b && litAgree a b
  | .cmpge d a b => isP d && isVal a && isVal b && litAgree a b
  | .cmpun d a b => isP d && isVal a && isVal b && litAgree a b
  | .classF d a b => isP d && isVal a && isCon b && litAgree a b
  | .pand d a b => isP d && isMask a && isMask b && litAgree a b
  | .por d a b => isP d && isMask a && isMask b && litAgree a b
  | .pxor d a b => isP d && isMask a && isMask b && litAgree a b
  | .pnot d a => isP d && isMask a
  | .pcnt d a => isS d && isPSE a
  | .pmov d a => isPS d && isMask a && pmovOk d a
  | .mov d a => isDst d && isVal a
  | .add d a b => isDst d && isVal a && isVal b && litAgree a b
  | .sub d a b => isDst d && isVal a && isVal b && litAgree a b
  | .mul d a b => isDst d && isVal a && isVal b && litAgree a b
  | .mulhi d a b => isDst d && isVal a && isVal b && litAgree a b
  | .mad d a b => isDst d && isVal a && isVal b && litAgree a b
  | .min d a b => isDst d && isVal a && isVal b && litAgree a b
  | .max d a b => isDst d && isVal a && isVal b && litAgree a b
  | .abs d a => isDst d && isVal a
  | .neg d a => isDst d && isVal a
  | .andB d a b => isDst d && isVal a && isVal b && litAgree a b
  | .orB d a b => isDst d && isVal a && isVal b && litAgree a b
  | .xorB d a b => isDst d && isVal a && isVal b && litAgree a b
  | .notB d a => isDst d && isVal a
  | .shl d a b => isDst d && isVal a && isVal b && litAgree a b
  | .shr d a b => isDst d && isVal a && isVal b && litAgree a b
  | .bfx d a b => isDst d && isVal a && isVal b && litAgree a b
  | .bfi d a b => isDst d && isVal a && isVal b && litAgree a b
  | .popc d a => isDst d && isVal a
  | .clz d a => isDst d && isVal a
  | .brev d a => isDst d && isVal a
  | .csel d a b => isV d && isP a && isVal b
  | .addw d a b => isG2 d && isG2 a && isAddr b
  | .dot d a b => isDst d && isVal a && isVal b && litAgree a b
  | .cvt d a b => isDst d && isVal a && isInt 16 b && cvtOk b
  | .roundi d a => isDst d && isVal a
  | .fract d a => isDst d && isVal a
  | .ldexp d a b => isDst d && isVal a && isVal b && litAgree a b
  | .scalex d a b => isDst d && isVal a && isVSE b
  | .rcp d a => isDst d && isVal a
  | .rsq d a => isDst d && isVal a
  | .sqrt d a => isDst d && isVal a
  | .exp2 d a => isDst d && isVal a
  | .log2 d a => isDst d && isVal a
  | .sin d a => isDst d && isVal a
  | .cos d a => isDst d && isVal a
  | .shfl d a b => isV d && isVX a && isAddr b
  | .shflx d a b => isV d && isVX a && isAddr b
  | .rdlane d a b => isS d && isVX a && isScl b
  | .wrlane d a b => isV d && isScl a && isScl b && litAgree a b
  | .ballot d a => isS d && isVal a
  | .vany d a => isS d && isP a
  | .vall d a => isS d && isP a
  | .matchLanes d a => isV d && isV a
  | .scan d a => isV d && isVX a
  | .reduce d a b => isS d && isVX a && isInt 6 b
  | .rank d => isV d
  | .regroup a b => isScl a && isScl b && litAgree a b
  | .rebal d a b => isV2 d && isV a && isScl b
  | .ld8 d a b => isV d && isS2 a && isAddr b
  | .ld16 d a b => isV d && isS2 a && isAddr b
  | .ld32 d a b => isV d && isS2 a && isAddr b
  | .ld64 d a b => isV2 d && isS2 a && isAddr b
  | .ld128 d a b => isV4 d && isS2 a && isAddr b
  -- DESIGN CHOICE (log 77): a store's data is a register; LANEID there, a vector source that 03 Table 3.5 lists, raises ILLEGAL
  | .st8 d a b => isV d && isS2 a && isAddr b
  | .st16 d a b => isV d && isS2 a && isAddr b
  | .st32 d a b => isV d && isS2 a && isAddr b
  | .st64 d a b => isV2 d && isS2 a && isAddr b
  | .st128 d a b => isV4 d && isS2 a && isAddr b
  | .lds32 d a b => isS d && isS2 a && isScl b
  | .lds64 d a b => isS2 d && isS2 a && isScl b
  | .lds128 d a b => isS4 d && isS2 a && isScl b
  | .sts32 d a b => isS1 d && isS2 a && isScl b
  | .ldacq d a b => isVS d && isS2 a && isAddr b && uniformOk d b
  | .strel d a b => isVS1 d && isS2 a && isAddr b && uniformOk d b
  | .acqr d a b => isVS d && isS2 a && isAddr b && uniformOk d b
  | .fence b => isInt 4 b
  | .pref a b => isS2 a && isAddr b
  | .pin d a b => isS d && isS2 a && isScl b
  | .unpin a b => isS2 a && isScl b
  | .cwb a b => isS2 a && isCon b
  | .cinv a b => isS2 a && isCon b
  | .aadd d a b => isDst d && isS2 a && isAddr b && atomicOk d b
  | .amin d a b => isDst d && isS2 a && isAddr b && atomicOk d b
  | .amax d a b => isDst d && isS2 a && isAddr b && atomicOk d b
  | .aand d a b => isDst d && isS2 a && isAddr b && atomicOk d b
  | .aor d a b => isDst d && isS2 a && isAddr b && atomicOk d b
  | .axor d a b => isDst d && isS2 a && isAddr b && atomicOk d b
  | .axchg d a b => isDst d && isS2 a && isAddr b && atomicOk d b
  | .acas d a b => isDst d && isS2 a && isAddr b && !isDiscard d && atomicOk d b
  | .ainc d a b => isDst d && isS2 a && isAddr b && atomicOk d b
  | .mon a b => isS2 a && isScl b
  | .mwait d a => isS d && isScl a
  | .mcancel => true
  | .stmap d a b => isS d && isS2 a && isS2 b
  | .stunmap a => isS1 a
  | .stflush a => isS1 a
  | .mwbind a b => isS2 a && isScl b
  | .mwunbind a => isScl a
  | .cpy d a b => isS1 d && isS2 a && isS2 b
  | .cpy2d d a b => isS4 d && isS2 a && isS2 b
  | .cpclose d => isS d
  | .cpwait a => isCon a
  | .gath d a b => isHD d && isS4 a && isS2 b
  | .scat d a b => isHD d && isS4 a && isS2 b
  | .qfence d a => isHD d && isScl a
  | .bar a b => isCon a && isCon b && litAgree a b
  | .bara a b => isCon a && isCon b && litAgree a b
  | .barw a => isCon a
  | .racq d a => isS d && isScl a
  | .rpub a b => isScl a && isScl b && litAgree a b
  | .rget d a => isS d && isScl a
  | .rrel a b => isScl a && isScl b && litAgree a b
  | .hwait d a => isSD d && isH a
  | .htest d a => isS d && isH a
  | .hcancel a => isH a
  | .hmov d a => isHS d && isHS a && hmovOk d a
  | .spawn d a b => isHD d && isS2 a && isVX b
  | .spawnw d a b => isHD d && isS2 a && isS1 b
  | .succgo => true
  | .predwait => true
  | .mxclaim d a => isS d && isCon a
  | .mxrel a => isCon a
  | .mxfill d a b => isHD d && isS1 a && isS2 b
  | .mxzero d a => isHD d && isCon a
  | .mxmma d a b => isHD d && isS1 a && isS2 b
  | .mxmmas d a b => isHD d && isS1 a && isS2 b
  | .mxmmasp d a b => isHD d && isS1 a && isS2 b
  | .mxldacc d a b => isHD d && isCon a && isSel b && litAgree a b
  | .mxstacc d a b => isHD d && isCon a && isS1 b
  | .mxlist d a b => isHD d && isSel a && isCon b && litAgree a b
  | .kbind a b => isCon a && isS2 b
  | .kpush d a b => isV d && isCon a && isG2 b
  | .kyield => true
  | .kend => true
  | .kdrain d a => isHD d && isCon a
  | .snap d a b => isS d && isS2 a && isS1 b
  | .sacc a => isScl a
  | .srej a => isScl a
  | .sqry d a => isS d && isScl a
  | .ssbuild d a => isHD d && isS2 a
  | .ssbind a b => isS2 a && isCon b
  | .triemit d => isV d
  | .drawend d => isHD d
  | .present a b => isS2 a && isSel b
  | .splitSwap _ => true
  | .resultWrite _ _ => true
  | .rejoinArrival _ _ => true
  | .convdead _ => true
  | .trapEntry _ => true
  | .regroupResume _ _ => true
  | .mwaitTimeout _ _ => true
  | .coreClockGate _ => true
  | .coreWake _ => true
  | .drain _ _ => true
  | .perform _ _ _ => true
  | .fillL1 _ _ => true
  | .fillCopy _ _ _ => true
  | .evict _ => true
  | .consume _ => true
  | .writeBack _ => true
  | .satisfy _ _ _ => true
  | .port _ => true
  | .engine _ => true
  | .stashFill _ _ _ => true
  | .mwDelivery _ _ => true
  | .copyStep _ _ => true
  | .sliceElement _ _ _ => true
  | .matrixCommand _ _ => true
  | .matrixCommandDone _ _ => true
  | .leasePass _ => true
  | .recordAccept _ _ => true
  | .keyedWaveForm _ _ _ _ => true
  | .refill _ _ _ => true
  | .stageDrain _ _ => true
  | .drainComplete _ _ => true
  | .lynxBuild _ _ => true
  | .buildHandleDone _ _ => true
  | .binnerReceive _ _ => true
  | .rasterWorkItem _ _ => true
  | .fragmentPush _ _ => true
  | .frameComplete _ => true
  | .presentationDeadline _ => true
  | .hpdChange _ _ => true
  | .modegoApply _ _ _ => true
  | .modegoStop _ => true
  | .hpdchgClear _ => true
  | .auxNativeWrite _ _ _ => true
  | .auxNativeRead _ _ _ => true
  | .auxI2cWrite _ _ _ => true
  | .auxI2cRead _ _ _ => true
  | .auxI2cWriteMot _ _ _ => true
  | .auxI2cReadMot _ _ _ => true
  | .auxInvalidRequest _ _ => true
  | .auxReply _ _ _ => true
  | .auxTimeout _ => true
  | .deadlineWrite _ _ => true
  | .doorbell _ _ _ => true
  | .queueEnable _ _ _ => true
  | .queueDisable _ _ _ => true
  | .launchFetch _ => true
  | .blockPlace _ => true
  | .childPlace _ => true
  | .launchComplete _ => true
  | .launchPreempt _ => true
  | .waveSave _ => true
  | .markWindowExpiry _ => true
  | .preemptHandlerTimeout _ => true
  | .waveRestore _ => true
  | .faultRecord _ => true
  | .translationWalk _ _ _ => true
  | .stage2Fault _ _ => true
  | .forwardedAccess _ _ _ => true
  | .pageMigration _ _ _ => true
  | .waveResume _ _ => true
  | .engineRetry _ _ => true
  | .engineFail _ _ => true
  | .shadowCopy _ _ => true
  | .reserveMove _ => true
  | .copyBack _ _ => true
  | .shadowPoolBaseWrite _ _ => true
  | .shadowPoolSizeWrite _ _ => true
  | .activate _ => true
  | .resched _ => true
  | .desched _ => true
  | .stop _ => true
  | .inval _ => true
  | .dirty _ => true
  | .cmdUnknownOp _ => true
  | .commandComplete => true
  | .partitionStop _ => true
  | .quadrantEntryWrite _ _ => true
  | .powerlimitWrite _ => true
  | .scrubWrite _ => true
  | .registerWrite _ _ _ => true
  | .attestationRequest _ _ => true
  | .attestationDone _ => true
  | .bar4Write _ _ _ => true
  | .bar4Read _ _ _ => true
  | .fabricAccess _ _ _ => true
  | .flitCrcError _ => true
  | .machineCheck _ _ _ => true
  | .clockStateChange _ _ => true
  | .moduleReset _ => true
  | .reservedOpcode _ => true
  | .bar4Atomic _ _ _ => true
  | .droopEvent _ => true
  | .patrolScrub _ _ => true
  | .verticalBlank _ => true

/-! ## Register spans -/

/-- How many registers an operand names (03 R53, 11 R162). -/
inductive Span where
  | one
  | two
  | four
  | six
  | eight
  /-- one, or a pair under n64: a value position or a result of element type -/
  | val
  /-- one, or a pair under n64, in a raw position: the counts of SHL and SHR (24 R399) -/
  | raw
  /-- an atomic's D with its data, B being the offset or the literal (22 Table 22.2) -/
  | atom (b : Operand)
  /-- CVT's destination and source runs, B being the target (11 R169) -/
  | cvtD (b : Operand)
  | cvtA (b : Operand)
deriving DecidableEq, Repr

/-- HMOV's operands: a handle register, or an even scalar pair (22 R330). -/
def handleSpan : Operand → Span
  | .h _ => .one
  | _ => .two

/-- The operands an instruction reads or writes, in the field order A, B, D of 04 R79. SRD's A names no register: it is the reserved
0x00 or a barrier's number (24 R401). -/
def Instr.uses : Instr → List (Operand × Span)
  | .nop => []
  | .jmp _ => []
  | .brz r _ => [(r, .one)]
  | .brnz r _ => [(r, .one)]
  | .bany r _ => [(r, .one)]
  | .ball r _ => [(r, .one)]
  | .brx r _ _ => [(r, .one)]
  | .joinw a => [(a, .one)]
  | .call r _ => [(r, .two)]
  | .ret a => [(a, .two)]
  | .jmpr a => [(a, .two)]
  | .exit => []
  | .trap _ => []
  | .rett => []
  | .brk => []
  | .modea _ => []
  | .modem _ => []
  | .modesv d => [(d, .one)]
  | .modeld a => [(a, .one)]
  | .srd d _ b => [(b, .one), (d, .one)]
  | .swr a b => [(a, .one), (b, .one)]
  | .clk d => [(d, .two)]
  | .sense d b => [(b, .one), (d, .one)]
  | .msave d => [(d, .one)]
  | .mset a => [(a, .one)]
  | .mand a => [(a, .one)]
  | .mandn a => [(a, .one)]
  | .fmark _ => []
  | .stkrd d a => [(a, .one), (d, .eight)]
  | .stkwr a b => [(a, .eight), (b, .one)]
  | .yield => []
  | .cmpeq d a b => [(a, .val), (b, .val), (d, .one)]
  | .cmpne d a b => [(a, .val), (b, .val), (d, .one)]
  | .cmplt d a b => [(a, .val), (b, .val), (d, .one)]
  | .cmple d a b => [(a, .val), (b, .val), (d, .one)]
  | .cmpgt d a b => [(a, .val), (b, .val), (d, .one)]
  | .cmpge d a b => [(a, .val), (b, .val), (d, .one)]
  | .cmpun d a b => [(a, .val), (b, .val), (d, .one)]
  | .classF d a b => [(a, .val), (b, .one), (d, .one)]
  | .pand d a b => [(a, .one), (b, .one), (d, .one)]
  | .por d a b => [(a, .one), (b, .one), (d, .one)]
  | .pxor d a b => [(a, .one), (b, .one), (d, .one)]
  | .pnot d a => [(a, .one), (d, .one)]
  | .pcnt d a => [(a, .one), (d, .one)]
  | .pmov d a => [(a, .one), (d, .one)]
  | .mov d a => [(a, .val), (d, .val)]
  | .add d a b => [(a, .val), (b, .val), (d, .val)]
  | .sub d a b => [(a, .val), (b, .val), (d, .val)]
  | .mul d a b => [(a, .val), (b, .val), (d, .val)]
  | .mulhi d a b => [(a, .val), (b, .val), (d, .val)]
  | .mad d a b => [(a, .val), (b, .val), (d, .val)]
  | .min d a b => [(a, .val), (b, .val), (d, .val)]
  | .max d a b => [(a, .val), (b, .val), (d, .val)]
  | .abs d a => [(a, .val), (d, .val)]
  | .neg d a => [(a, .val), (d, .val)]
  | .andB d a b => [(a, .val), (b, .val), (d, .val)]
  | .orB d a b => [(a, .val), (b, .val), (d, .val)]
  | .xorB d a b => [(a, .val), (b, .val), (d, .val)]
  | .notB d a => [(a, .val), (d, .val)]
  | .shl d a b => [(a, .val), (b, .raw), (d, .val)]
  | .shr d a b => [(a, .val), (b, .raw), (d, .val)]
  | .bfx d a b => [(a, .val), (b, .one), (d, .val)]
  | .bfi d a b => [(a, .val), (b, .one), (d, .val)]
  | .popc d a => [(a, .val), (d, .val)]
  | .clz d a => [(a, .val), (d, .val)]
  | .brev d a => [(a, .val), (d, .val)]
  | .csel d a b => [(a, .one), (b, .val), (d, .val)]
  | .addw d a b => [(a, .two), (b, .one), (d, .two)]
  | .dot d a b => [(a, .val), (b, .val), (d, .val)]
  | .cvt d a b => [(a, .cvtA b), (b, .one), (d, .cvtD b)]
  | .roundi d a => [(a, .val), (d, .val)]
  | .fract d a => [(a, .val), (d, .val)]
  | .ldexp d a b => [(a, .val), (b, .one), (d, .val)]
  | .scalex d a b => [(a, .one), (b, .one), (d, .one)]
  | .rcp d a => [(a, .val), (d, .val)]
  | .rsq d a => [(a, .val), (d, .val)]
  | .sqrt d a => [(a, .val), (d, .val)]
  | .exp2 d a => [(a, .val), (d, .val)]
  | .log2 d a => [(a, .val), (d, .val)]
  | .sin d a => [(a, .val), (d, .val)]
  | .cos d a => [(a, .val), (d, .val)]
  | .shfl d a b => [(a, .one), (b, .one), (d, .one)]
  | .shflx d a b => [(a, .one), (b, .one), (d, .one)]
  | .rdlane d a b => [(a, .one), (b, .one), (d, .one)]
  | .wrlane d a b => [(a, .one), (b, .one), (d, .one)]
  | .ballot d a => [(a, .one), (d, .one)]
  | .vany d a => [(a, .one), (d, .one)]
  | .vall d a => [(a, .one), (d, .one)]
  | .matchLanes d a => [(a, .one), (d, .one)]
  | .scan d a => [(a, .val), (d, .val)]
  | .reduce d a b => [(a, .one), (b, .one), (d, .one)]
  | .rank d => [(d, .one)]
  | .regroup a b => [(a, .one), (b, .one)]
  | .rebal d a b => [(a, .one), (b, .one), (d, .two)]
  | .ld8 d a b => [(a, .two), (b, .one), (d, .one)]
  | .ld16 d a b => [(a, .two), (b, .one), (d, .one)]
  | .ld32 d a b => [(a, .two), (b, .one), (d, .one)]
  | .ld64 d a b => [(a, .two), (b, .one), (d, .two)]
  | .ld128 d a b => [(a, .two), (b, .one), (d, .four)]
  | .st8 d a b => [(a, .two), (b, .one), (d, .one)]
  | .st16 d a b => [(a, .two), (b, .one), (d, .one)]
  | .st32 d a b => [(a, .two), (b, .one), (d, .one)]
  | .st64 d a b => [(a, .two), (b, .one), (d, .two)]
  | .st128 d a b => [(a, .two), (b, .one), (d, .four)]
  | .lds32 d a b => [(a, .two), (b, .one), (d, .one)]
  | .lds64 d a b => [(a, .two), (b, .one), (d, .two)]
  | .lds128 d a b => [(a, .two), (b, .one), (d, .four)]
  | .sts32 d a b => [(a, .two), (b, .one), (d, .one)]
  | .ldacq d a b => [(a, .two), (b, .one), (d, .one)]
  | .strel d a b => [(a, .two), (b, .one), (d, .one)]
  | .acqr d a b => [(a, .two), (b, .one), (d, .one)]
  | .fence b => [(b, .one)]
  | .pref a b => [(a, .two), (b, .one)]
  | .pin d a b => [(a, .two), (b, .one), (d, .one)]
  | .unpin a b => [(a, .two), (b, .one)]
  | .cwb a b => [(a, .two), (b, .one)]
  | .cinv a b => [(a, .two), (b, .one)]
  | .aadd d a b => [(a, .two), (b, .one), (d, .atom b)]
  | .amin d a b => [(a, .two), (b, .one), (d, .atom b)]
  | .amax d a b => [(a, .two), (b, .one), (d, .atom b)]
  | .aand d a b => [(a, .two), (b, .one), (d, .atom b)]
  | .aor d a b => [(a, .two), (b, .one), (d, .atom b)]
  | .axor d a b => [(a, .two), (b, .one), (d, .atom b)]
  | .axchg d a b => [(a, .two), (b, .one), (d, .atom b)]
  | .acas d a b => [(a, .two), (b, .one), (d, .atom b)]
  | .ainc d a b => [(a, .two), (b, .one), (d, .atom b)]
  | .mon a b => [(a, .two), (b, .one)]
  | .mwait d a => [(a, .one), (d, .one)]
  | .mcancel => []
  | .stmap d a b => [(a, .two), (b, .two), (d, .one)]
  | .stunmap a => [(a, .one)]
  | .stflush a => [(a, .one)]
  | .mwbind a b => [(a, .two), (b, .one)]
  | .mwunbind a => [(a, .one)]
  | .cpy d a b => [(a, .two), (b, .two), (d, .one)]
  | .cpy2d d a b => [(a, .two), (b, .two), (d, .four)]
  | .cpclose d => [(d, .one)]
  | .cpwait a => [(a, .one)]
  | .gath d a b => [(a, .four), (b, .two), (d, .one)]
  | .scat d a b => [(a, .four), (b, .two), (d, .one)]
  | .qfence d a => [(a, .one), (d, .one)]
  | .bar a b => [(a, .one), (b, .one)]
  | .bara a b => [(a, .one), (b, .one)]
  | .barw a => [(a, .one)]
  | .racq d a => [(a, .one), (d, .one)]
  | .rpub a b => [(a, .one), (b, .one)]
  | .rget d a => [(a, .one), (d, .one)]
  | .rrel a b => [(a, .one), (b, .one)]
  | .hwait d a => [(a, .one), (d, .one)]
  | .htest d a => [(a, .one), (d, .one)]
  | .hcancel a => [(a, .one)]
  | .hmov d a => [(a, handleSpan a), (d, handleSpan d)]
  | .spawn d a b => [(a, .two), (b, .one), (d, .one)]
  | .spawnw d a b => [(a, .two), (b, .one), (d, .one)]
  | .succgo => []
  | .predwait => []
  | .mxclaim d a => [(a, .one), (d, .one)]
  | .mxrel a => [(a, .one)]
  | .mxfill d a b => [(a, .one), (b, .two), (d, .one)]
  | .mxzero d a => [(a, .one), (d, .one)]
  | .mxmma d a b => [(a, .one), (b, .two), (d, .one)]
  | .mxmmas d a b => [(a, .one), (b, .two), (d, .one)]
  | .mxmmasp d a b => [(a, .one), (b, .two), (d, .one)]
  | .mxldacc d a b => [(a, .one), (b, .one), (d, .one)]
  | .mxstacc d a b => [(a, .one), (b, .one), (d, .one)]
  | .mxlist d a b => [(a, .one), (b, .one), (d, .one)]
  | .kbind a b => [(a, .one), (b, .two)]
  | .kpush d a b => [(a, .one), (b, .two), (d, .one)]
  | .kyield => []
  | .kend => []
  | .kdrain d a => [(a, .one), (d, .one)]
  | .snap d a b => [(a, .two), (b, .one), (d, .one)]
  | .sacc a => [(a, .one)]
  | .srej a => [(a, .one)]
  | .sqry d a => [(a, .one), (d, .one)]
  | .ssbuild d a => [(a, .two), (d, .one)]
  | .ssbind a b => [(a, .two), (b, .one)]
  | .triemit d => [(d, .six)]
  | .drawend d => [(d, .one)]
  | .present a b => [(a, .two), (b, .one)]
  | .splitSwap _ => []
  | .resultWrite _ _ => []
  | .rejoinArrival _ _ => []
  | .convdead _ => []
  | .trapEntry _ => []
  | .regroupResume _ _ => []
  | .mwaitTimeout _ _ => []
  | .coreClockGate _ => []
  | .coreWake _ => []
  | .drain _ _ => []
  | .perform _ _ _ => []
  | .fillL1 _ _ => []
  | .fillCopy _ _ _ => []
  | .evict _ => []
  | .consume _ => []
  | .writeBack _ => []
  | .satisfy _ _ _ => []
  | .port _ => []
  | .engine _ => []
  | .stashFill _ _ _ => []
  | .mwDelivery _ _ => []
  | .copyStep _ _ => []
  | .sliceElement _ _ _ => []
  | .matrixCommand _ _ => []
  | .matrixCommandDone _ _ => []
  | .leasePass _ => []
  | .recordAccept _ _ => []
  | .keyedWaveForm _ _ _ _ => []
  | .refill _ _ _ => []
  | .stageDrain _ _ => []
  | .drainComplete _ _ => []
  | .lynxBuild _ _ => []
  | .buildHandleDone _ _ => []
  | .binnerReceive _ _ => []
  | .rasterWorkItem _ _ => []
  | .fragmentPush _ _ => []
  | .frameComplete _ => []
  | .presentationDeadline _ => []
  | .hpdChange _ _ => []
  | .modegoApply _ _ _ => []
  | .modegoStop _ => []
  | .hpdchgClear _ => []
  | .auxNativeWrite _ _ _ => []
  | .auxNativeRead _ _ _ => []
  | .auxI2cWrite _ _ _ => []
  | .auxI2cRead _ _ _ => []
  | .auxI2cWriteMot _ _ _ => []
  | .auxI2cReadMot _ _ _ => []
  | .auxInvalidRequest _ _ => []
  | .auxReply _ _ _ => []
  | .auxTimeout _ => []
  | .deadlineWrite _ _ => []
  | .doorbell _ _ _ => []
  | .queueEnable _ _ _ => []
  | .queueDisable _ _ _ => []
  | .launchFetch _ => []
  | .blockPlace _ => []
  | .childPlace _ => []
  | .launchComplete _ => []
  | .launchPreempt _ => []
  | .waveSave _ => []
  | .markWindowExpiry _ => []
  | .preemptHandlerTimeout _ => []
  | .waveRestore _ => []
  | .faultRecord _ => []
  | .translationWalk _ _ _ => []
  | .stage2Fault _ _ => []
  | .forwardedAccess _ _ _ => []
  | .pageMigration _ _ _ => []
  | .waveResume _ _ => []
  | .engineRetry _ _ => []
  | .engineFail _ _ => []
  | .shadowCopy _ _ => []
  | .reserveMove _ => []
  | .copyBack _ _ => []
  | .shadowPoolBaseWrite _ _ => []
  | .shadowPoolSizeWrite _ _ => []
  | .activate _ => []
  | .resched _ => []
  | .desched _ => []
  | .stop _ => []
  | .inval _ => []
  | .dirty _ => []
  | .cmdUnknownOp _ => []
  | .commandComplete => []
  | .partitionStop _ => []
  | .quadrantEntryWrite _ _ => []
  | .powerlimitWrite _ => []
  | .scrubWrite _ => []
  | .registerWrite _ _ _ => []
  | .attestationRequest _ _ => []
  | .attestationDone _ => []
  | .bar4Write _ _ _ => []
  | .bar4Read _ _ _ => []
  | .fabricAccess _ _ _ => []
  | .flitCrcError _ => []
  | .machineCheck _ _ _ => []
  | .clockStateChange _ _ => []
  | .moduleReset _ => []
  | .reservedOpcode _ => []
  | .bar4Atomic _ _ _ => []
  | .droopEvent _ => []
  | .patrolScrub _ _ => []
  | .verticalBlank _ => []

end Sys2Proof
end

