-- ==== Sys2Proof/Decode.lean ====
section
/-! DEFINITION. The decoder and the encoder of instruction words (03 R46 to R51): total on every word, rejecting by name. -/

namespace Sys2Proof

/-- Why a word decodes to nothing; each raises ILLEGAL (03 R50, R59). -/
inductive Reject where
  /-- an opcode Table 3.8 does not assign -/
  | reservedOpcode
  /-- an operand code that is reserved in every field -/
  | reservedOperand
  /-- a form, operand kind or value the instruction's entry does not allow, or a nonzero reserved field -/
  | badField
deriving DecidableEq, Repr

/-- The four ways a constructor is written down: the word formats of 03 Table 3.3, and the steps that have no word. An unused
field is none. -/
inductive Shape where
  | f3 (op : Nat) (d a b : Option Operand)
  | fb (op : Nat) (r : Option Operand) (off : BitVec 16) (lit : Option Word)
  | fi (op : Nat) (imm : BitVec 16)
  | step
deriving DecidableEq, Repr

/-- The format and fields of an instruction (03 R46, Table 3.8). -/
def Instr.shape : Instr → Shape
  | .nop => .f3 0x00 none none none
  | .jmp off => .fb 0x01 none off none
  | .brz r off => .fb 0x02 (some r) off none
  | .brnz r off => .fb 0x03 (some r) off none
  | .bany r off => .fb 0x04 (some r) off none
  | .ball r off => .fb 0x05 (some r) off none
  | .brx r off rejoin => .fb 0x06 (some r) off (some rejoin)
  | .joinw a => .f3 0x07 none (some a) none
  | .call r off => .fb 0x08 (some r) off none
  | .ret a => .f3 0x09 none (some a) none
  | .jmpr a => .f3 0x0A none (some a) none
  | .exit => .f3 0x0B none none none
  | .trap imm => .fi 0x0C imm
  | .rett => .f3 0x0D none none none
  | .brk => .f3 0x0E none none none
  | .modea imm => .fi 0x10 imm
  | .modem imm => .fi 0x11 imm
  | .modesv d => .f3 0x12 (some d) none none
  | .modeld a => .f3 0x13 none (some a) none
  | .srd d a b => .f3 0x14 (some d) (some a) (some b)
  | .swr a b => .f3 0x15 none (some a) (some b)
  | .clk d => .f3 0x16 (some d) none none
  | .sense d b => .f3 0x17 (some d) none (some b)
  | .msave d => .f3 0x18 (some d) none none
  | .mset a => .f3 0x19 none (some a) none
  | .mand a => .f3 0x1A none (some a) none
  | .mandn a => .f3 0x1B none (some a) none
  | .fmark offset => .f3 0x1C none none (some (.lit offset))
  | .stkrd d a => .f3 0x1D (some d) (some a) none
  | .stkwr a b => .f3 0x1E none (some a) (some b)
  | .yield => .f3 0x1F none none none
  | .cmpeq d a b => .f3 0x20 (some d) (some a) (some b)
  | .cmpne d a b => .f3 0x21 (some d) (some a) (some b)
  | .cmplt d a b => .f3 0x22 (some d) (some a) (some b)
  | .cmple d a b => .f3 0x23 (some d) (some a) (some b)
  | .cmpgt d a b => .f3 0x24 (some d) (some a) (some b)
  | .cmpge d a b => .f3 0x25 (some d) (some a) (some b)
  | .cmpun d a b => .f3 0x26 (some d) (some a) (some b)
  | .classF d a b => .f3 0x27 (some d) (some a) (some b)
  | .pand d a b => .f3 0x28 (some d) (some a) (some b)
  | .por d a b => .f3 0x29 (some d) (some a) (some b)
  | .pxor d a b => .f3 0x2A (some d) (some a) (some b)
  | .pnot d a => .f3 0x2B (some d) (some a) none
  | .pcnt d a => .f3 0x2C (some d) (some a) none
  | .pmov d a => .f3 0x2D (some d) (some a) none
  | .mov d a => .f3 0x30 (some d) (some a) none
  | .add d a b => .f3 0x31 (some d) (some a) (some b)
  | .sub d a b => .f3 0x32 (some d) (some a) (some b)
  | .mul d a b => .f3 0x33 (some d) (some a) (some b)
  | .mulhi d a b => .f3 0x34 (some d) (some a) (some b)
  | .mad d a b => .f3 0x35 (some d) (some a) (some b)
  | .min d a b => .f3 0x36 (some d) (some a) (some b)
  | .max d a b => .f3 0x37 (some d) (some a) (some b)
  | .abs d a => .f3 0x38 (some d) (some a) none
  | .neg d a => .f3 0x39 (some d) (some a) none
  | .andB d a b => .f3 0x3A (some d) (some a) (some b)
  | .orB d a b => .f3 0x3B (some d) (some a) (some b)
  | .xorB d a b => .f3 0x3C (some d) (some a) (some b)
  | .notB d a => .f3 0x3D (some d) (some a) none
  | .shl d a b => .f3 0x3E (some d) (some a) (some b)
  | .shr d a b => .f3 0x3F (some d) (some a) (some b)
  | .bfx d a b => .f3 0x40 (some d) (some a) (some b)
  | .bfi d a b => .f3 0x41 (some d) (some a) (some b)
  | .popc d a => .f3 0x42 (some d) (some a) none
  | .clz d a => .f3 0x43 (some d) (some a) none
  | .brev d a => .f3 0x44 (some d) (some a) none
  | .csel d a b => .f3 0x45 (some d) (some a) (some b)
  | .addw d a b => .f3 0x46 (some d) (some a) (some b)
  | .dot d a b => .f3 0x47 (some d) (some a) (some b)
  | .cvt d a b => .f3 0x48 (some d) (some a) (some b)
  | .roundi d a => .f3 0x49 (some d) (some a) none
  | .fract d a => .f3 0x4A (some d) (some a) none
  | .ldexp d a b => .f3 0x4B (some d) (some a) (some b)
  | .scalex d a b => .f3 0x4C (some d) (some a) (some b)
  | .rcp d a => .f3 0x50 (some d) (some a) none
  | .rsq d a => .f3 0x51 (some d) (some a) none
  | .sqrt d a => .f3 0x52 (some d) (some a) none
  | .exp2 d a => .f3 0x53 (some d) (some a) none
  | .log2 d a => .f3 0x54 (some d) (some a) none
  | .sin d a => .f3 0x55 (some d) (some a) none
  | .cos d a => .f3 0x56 (some d) (some a) none
  | .shfl d a b => .f3 0x58 (some d) (some a) (some b)
  | .shflx d a b => .f3 0x59 (some d) (some a) (some b)
  | .rdlane d a b => .f3 0x5A (some d) (some a) (some b)
  | .wrlane d a b => .f3 0x5B (some d) (some a) (some b)
  | .ballot d a => .f3 0x5C (some d) (some a) none
  | .vany d a => .f3 0x5D (some d) (some a) none
  | .vall d a => .f3 0x5E (some d) (some a) none
  | .matchLanes d a => .f3 0x5F (some d) (some a) none
  | .scan d a => .f3 0x60 (some d) (some a) none
  | .reduce d a b => .f3 0x61 (some d) (some a) (some b)
  | .rank d => .f3 0x62 (some d) none none
  | .regroup a b => .f3 0x63 none (some a) (some b)
  | .rebal d a b => .f3 0x64 (some d) (some a) (some b)
  | .ld8 d a b => .f3 0x68 (some d) (some a) (some b)
  | .ld16 d a b => .f3 0x69 (some d) (some a) (some b)
  | .ld32 d a b => .f3 0x6A (some d) (some a) (some b)
  | .ld64 d a b => .f3 0x6B (some d) (some a) (some b)
  | .ld128 d a b => .f3 0x6C (some d) (some a) (some b)
  | .st8 d a b => .f3 0x6D (some d) (some a) (some b)
  | .st16 d a b => .f3 0x6E (some d) (some a) (some b)
  | .st32 d a b => .f3 0x6F (some d) (some a) (some b)
  | .st64 d a b => .f3 0x70 (some d) (some a) (some b)
  | .st128 d a b => .f3 0x71 (some d) (some a) (some b)
  | .lds32 d a b => .f3 0x72 (some d) (some a) (some b)
  | .lds64 d a b => .f3 0x73 (some d) (some a) (some b)
  | .lds128 d a b => .f3 0x74 (some d) (some a) (some b)
  | .sts32 d a b => .f3 0x75 (some d) (some a) (some b)
  | .ldacq d a b => .f3 0x76 (some d) (some a) (some b)
  | .strel d a b => .f3 0x77 (some d) (some a) (some b)
  | .acqr d a b => .f3 0x78 (some d) (some a) (some b)
  | .fence b => .f3 0x79 none none (some b)
  | .pref a b => .f3 0x7A none (some a) (some b)
  | .pin d a b => .f3 0x7B (some d) (some a) (some b)
  | .unpin a b => .f3 0x7C none (some a) (some b)
  | .cwb a b => .f3 0x7D none (some a) (some b)
  | .cinv a b => .f3 0x7E none (some a) (some b)
  | .aadd d a b => .f3 0x80 (some d) (some a) (some b)
  | .amin d a b => .f3 0x81 (some d) (some a) (some b)
  | .amax d a b => .f3 0x82 (some d) (some a) (some b)
  | .aand d a b => .f3 0x83 (some d) (some a) (some b)
  | .aor d a b => .f3 0x84 (some d) (some a) (some b)
  | .axor d a b => .f3 0x85 (some d) (some a) (some b)
  | .axchg d a b => .f3 0x86 (some d) (some a) (some b)
  | .acas d a b => .f3 0x87 (some d) (some a) (some b)
  | .ainc d a b => .f3 0x88 (some d) (some a) (some b)
  | .mon a b => .f3 0x89 none (some a) (some b)
  | .mwait d a => .f3 0x8A (some d) (some a) none
  | .mcancel => .f3 0x8B none none none
  | .stmap d a b => .f3 0x90 (some d) (some a) (some b)
  | .stunmap a => .f3 0x91 none (some a) none
  | .stflush a => .f3 0x92 none (some a) none
  | .mwbind a b => .f3 0x93 none (some a) (some b)
  | .mwunbind a => .f3 0x94 none (some a) none
  | .cpy d a b => .f3 0x95 (some d) (some a) (some b)
  | .cpy2d d a b => .f3 0x96 (some d) (some a) (some b)
  | .cpclose d => .f3 0x97 (some d) none none
  | .cpwait a => .f3 0x98 none (some a) none
  | .gath d a b => .f3 0x99 (some d) (some a) (some b)
  | .scat d a b => .f3 0x9A (some d) (some a) (some b)
  | .qfence d a => .f3 0x9B (some d) (some a) none
  | .bar a b => .f3 0xA0 none (some a) (some b)
  | .bara a b => .f3 0xA1 none (some a) (some b)
  | .barw a => .f3 0xA2 none (some a) none
  | .racq d a => .f3 0xA3 (some d) (some a) none
  | .rpub a b => .f3 0xA4 none (some a) (some b)
  | .rget d a => .f3 0xA5 (some d) (some a) none
  | .rrel a b => .f3 0xA6 none (some a) (some b)
  | .hwait d a => .f3 0xA7 (some d) (some a) none
  | .htest d a => .f3 0xA8 (some d) (some a) none
  | .hcancel a => .f3 0xA9 none (some a) none
  | .hmov d a => .f3 0xAA (some d) (some a) none
  | .spawn d a b => .f3 0xAB (some d) (some a) (some b)
  | .spawnw d a b => .f3 0xAC (some d) (some a) (some b)
  | .succgo => .f3 0xAD none none none
  | .predwait => .f3 0xAE none none none
  | .mxclaim d a => .f3 0xB0 (some d) (some a) none
  | .mxrel a => .f3 0xB1 none (some a) none
  | .mxfill d a b => .f3 0xB2 (some d) (some a) (some b)
  | .mxzero d a => .f3 0xB3 (some d) (some a) none
  | .mxmma d a b => .f3 0xB4 (some d) (some a) (some b)
  | .mxmmas d a b => .f3 0xB5 (some d) (some a) (some b)
  | .mxmmasp d a b => .f3 0xB6 (some d) (some a) (some b)
  | .mxldacc d a b => .f3 0xB7 (some d) (some a) (some b)
  | .mxstacc d a b => .f3 0xB8 (some d) (some a) (some b)
  | .mxlist d a b => .f3 0xB9 (some d) (some a) (some b)
  | .kbind a b => .f3 0xC0 none (some a) (some b)
  | .kpush d a b => .f3 0xC1 (some d) (some a) (some b)
  | .kyield => .f3 0xC2 none none none
  | .kend => .f3 0xC3 none none none
  | .kdrain d a => .f3 0xC4 (some d) (some a) none
  | .snap d a b => .f3 0xC8 (some d) (some a) (some b)
  | .sacc a => .f3 0xC9 none (some a) none
  | .srej a => .f3 0xCA none (some a) none
  | .sqry d a => .f3 0xCB (some d) (some a) none
  | .ssbuild d a => .f3 0xD0 (some d) (some a) none
  | .ssbind a b => .f3 0xD1 none (some a) (some b)
  | .triemit d => .f3 0xD2 (some d) none none
  | .drawend d => .f3 0xD3 (some d) none none
  | .present a b => .f3 0xD4 none (some a) (some b)
  | .splitSwap _ => .step
  | .resultWrite _ _ => .step
  | .rejoinArrival _ _ => .step
  | .convdead _ => .step
  | .trapEntry _ => .step
  | .regroupResume _ _ => .step
  | .mwaitTimeout _ _ => .step
  | .coreClockGate _ => .step
  | .coreWake _ => .step
  | .drain _ _ => .step
  | .perform _ _ _ => .step
  | .fillL1 _ _ => .step
  | .fillCopy _ _ _ => .step
  | .evict _ => .step
  | .consume _ => .step
  | .writeBack _ => .step
  | .satisfy _ _ _ => .step
  | .port _ => .step
  | .engine _ => .step
  | .stashFill _ _ _ => .step
  | .mwDelivery _ _ => .step
  | .copyStep _ _ => .step
  | .sliceElement _ _ _ => .step
  | .matrixCommand _ _ => .step
  | .matrixCommandDone _ _ => .step
  | .leasePass _ => .step
  | .recordAccept _ _ => .step
  | .keyedWaveForm _ _ _ _ => .step
  | .refill _ _ _ => .step
  | .stageDrain _ _ => .step
  | .drainComplete _ _ => .step
  | .lynxBuild _ _ => .step
  | .buildHandleDone _ _ => .step
  | .binnerReceive _ _ => .step
  | .rasterWorkItem _ _ => .step
  | .fragmentPush _ _ => .step
  | .frameComplete _ => .step
  | .presentationDeadline _ => .step
  | .hpdChange _ _ => .step
  | .modegoApply _ _ _ => .step
  | .modegoStop _ => .step
  | .hpdchgClear _ => .step
  | .auxNativeWrite _ _ _ => .step
  | .auxNativeRead _ _ _ => .step
  | .auxI2cWrite _ _ _ => .step
  | .auxI2cRead _ _ _ => .step
  | .auxI2cWriteMot _ _ _ => .step
  | .auxI2cReadMot _ _ _ => .step
  | .auxInvalidRequest _ _ => .step
  | .auxReply _ _ _ => .step
  | .auxTimeout _ => .step
  | .deadlineWrite _ _ => .step
  | .doorbell _ _ _ => .step
  | .queueEnable _ _ _ => .step
  | .queueDisable _ _ _ => .step
  | .launchFetch _ => .step
  | .blockPlace _ => .step
  | .childPlace _ => .step
  | .launchComplete _ => .step
  | .launchPreempt _ => .step
  | .waveSave _ => .step
  | .markWindowExpiry _ => .step
  | .preemptHandlerTimeout _ => .step
  | .waveRestore _ => .step
  | .faultRecord _ => .step
  | .translationWalk _ _ _ => .step
  | .stage2Fault _ _ => .step
  | .forwardedAccess _ _ _ => .step
  | .pageMigration _ _ _ => .step
  | .waveResume _ _ => .step
  | .engineRetry _ _ => .step
  | .engineFail _ _ => .step
  | .shadowCopy _ _ => .step
  | .reserveMove _ => .step
  | .copyBack _ _ => .step
  | .shadowPoolBaseWrite _ _ => .step
  | .shadowPoolSizeWrite _ _ => .step
  | .activate _ => .step
  | .resched _ => .step
  | .desched _ => .step
  | .stop _ => .step
  | .inval _ => .step
  | .dirty _ => .step
  | .cmdUnknownOp _ => .step
  | .commandComplete => .step
  | .partitionStop _ => .step
  | .quadrantEntryWrite _ _ => .step
  | .powerlimitWrite _ => .step
  | .scrubWrite _ => .step
  | .registerWrite _ _ _ => .step
  | .attestationRequest _ _ => .step
  | .attestationDone _ => .step
  | .bar4Write _ _ _ => .step
  | .bar4Read _ _ _ => .step
  | .fabricAccess _ _ _ => .step
  | .flitCrcError _ => .step
  | .machineCheck _ _ _ => .step
  | .clockStateChange _ _ => .step
  | .moduleReset _ => .step
  | .reservedOpcode _ => .step
  | .bar4Atomic _ _ _ => .step
  | .droopEvent _ => .step
  | .patrolScrub _ _ => .step
  | .verticalBlank _ => .step

/-- The operand an 8-bit code names (03 Table 3.5), a literal being the next slot's word. -/
def operandOf (c : Nat) (lit : Word) : Option Operand :=
  if h : c < 0x80 then some (.v ⟨c, h⟩)
  else if h : c - 0x80 < 64 then some (.s ⟨c - 0x80, h⟩)
  else if h : c - 0xC0 < 8 then some (.p ⟨c - 0xC0, h⟩)
  else if h : c - 0xC8 < 16 then some (.h ⟨c - 0xC8, h⟩)
  else if c = 0xD8 then some .laneid
  else if c = 0xD9 then some .exec
  else if c = 0xDA then some .waveid
  else if c < 0xE0 then none
  else if h : c - 0xE0 < 16 then some (.int ⟨c - 0xE0, h⟩)
  else if h : c - 0xF0 < 8 then some (.flt ⟨c - 0xF0, h⟩)
  else if c = 0xFF then some (.lit lit)
  else none

/-- The code of an operand (03 Table 3.5). -/
def Operand.code : Operand → Nat
  | .v r => r.val
  | .s r => 0x80 + r.val
  | .p r => 0xC0 + r.val
  | .h r => 0xC8 + r.val
  | .laneid => 0xD8
  | .exec => 0xD9
  | .waveid => 0xDA
  | .int k => 0xE0 + k.val
  | .flt k => 0xF0 + k.val
  | .lit _ => 0xFF

/-- The code of a field, 0x00 when unused (03 R49). -/
def fieldCode : Option Operand → Nat
  | none => 0
  | some o => o.code

/-- The literal of a field. -/
def fieldLit : Option Operand → Option Word
  | some (.lit w) => some w
  | _ => none

/-- The word and literal of a shape (03 Table 3.3). -/
def Shape.encode : Shape → Option (Word × Option Word)
  | .f3 op d a b =>
    some (BitVec.ofNat 32 (op * 16777216 + fieldCode d * 65536 + fieldCode a * 256 + fieldCode b),
      (fieldLit a).or ((fieldLit b).or (fieldLit d)))
  | .fb op r off lit => some (BitVec.ofNat 32 (op * 16777216 + fieldCode r * 65536 + off.toNat), lit)
  | .fi op imm => some (BitVec.ofNat 32 (op * 16777216 + imm.toNat), none)
  | .step => none

/-- The word of an instruction and its literal; none for a step of the device. -/
def encode (i : Instr) : Option (Word × Option Word) := i.shape.encode

/-- The format of an opcode (03 R46). -/
inductive Format where
  | f3
  | fb
  | fi
deriving DecidableEq, Repr

/-- The format of an opcode; none when Table 3.8 leaves it reserved. -/
def formatOf (op : Nat) : Option Format :=
  if op = 0x0C ∨ op = 0x10 ∨ op = 0x11 then some .fi
  else if (1 ≤ op ∧ op ≤ 6) ∨ op = 8 then some .fb
  else if op ≤ 0x0E ∨ (0x10 ≤ op ∧ op ≤ 0x2D) ∨ (0x30 ≤ op ∧ op ≤ 0x4C) ∨ (0x50 ≤ op ∧ op ≤ 0x56) ∨ (0x58 ≤ op ∧ op ≤ 0x64) ∨
    (0x68 ≤ op ∧ op ≤ 0x7E) ∨ (0x80 ≤ op ∧ op ≤ 0x8B) ∨ (0x90 ≤ op ∧ op ≤ 0x9B) ∨ (0xA0 ≤ op ∧ op ≤ 0xAE) ∨
    (0xB0 ≤ op ∧ op ≤ 0xB9) ∨ (0xC0 ≤ op ∧ op ≤ 0xC4) ∨ (0xC8 ≤ op ∧ op ≤ 0xCB) ∨ (0xD0 ≤ op ∧ op ≤ 0xD4) then some .f3
  else none

/-- The instruction of an opcode with the given fields (03 Table 3.8); a field the instruction does not use is dropped here
and checked by the decoder. -/
def instrOf (op : Nat) (d a b : Operand) (off : BitVec 16) (lit : Word) : Option Instr :=
  match op with
  | 0x00 => some (.nop)
  | 0x01 => some (.jmp off)
  | 0x02 => some (.brz d off)
  | 0x03 => some (.brnz d off)
  | 0x04 => some (.bany d off)
  | 0x05 => some (.ball d off)
  | 0x06 => some (.brx d off lit)
  | 0x07 => some (.joinw a)
  | 0x08 => some (.call d off)
  | 0x09 => some (.ret a)
  | 0x0A => some (.jmpr a)
  | 0x0B => some (.exit)
  | 0x0C => some (.trap off)
  | 0x0D => some (.rett)
  | 0x0E => some (.brk)
  | 0x10 => some (.modea off)
  | 0x11 => some (.modem off)
  | 0x12 => some (.modesv d)
  | 0x13 => some (.modeld a)
  | 0x14 => some (.srd d a b)
  | 0x15 => some (.swr a b)
  | 0x16 => some (.clk d)
  | 0x17 => some (.sense d b)
  | 0x18 => some (.msave d)
  | 0x19 => some (.mset a)
  | 0x1A => some (.mand a)
  | 0x1B => some (.mandn a)
  | 0x1C => some (.fmark lit)
  | 0x1D => some (.stkrd d a)
  | 0x1E => some (.stkwr a b)
  | 0x1F => some (.yield)
  | 0x20 => some (.cmpeq d a b)
  | 0x21 => some (.cmpne d a b)
  | 0x22 => some (.cmplt d a b)
  | 0x23 => some (.cmple d a b)
  | 0x24 => some (.cmpgt d a b)
  | 0x25 => some (.cmpge d a b)
  | 0x26 => some (.cmpun d a b)
  | 0x27 => some (.classF d a b)
  | 0x28 => some (.pand d a b)
  | 0x29 => some (.por d a b)
  | 0x2A => some (.pxor d a b)
  | 0x2B => some (.pnot d a)
  | 0x2C => some (.pcnt d a)
  | 0x2D => some (.pmov d a)
  | 0x30 => some (.mov d a)
  | 0x31 => some (.add d a b)
  | 0x32 => some (.sub d a b)
  | 0x33 => some (.mul d a b)
  | 0x34 => some (.mulhi d a b)
  | 0x35 => some (.mad d a b)
  | 0x36 => some (.min d a b)
  | 0x37 => some (.max d a b)
  | 0x38 => some (.abs d a)
  | 0x39 => some (.neg d a)
  | 0x3A => some (.andB d a b)
  | 0x3B => some (.orB d a b)
  | 0x3C => some (.xorB d a b)
  | 0x3D => some (.notB d a)
  | 0x3E => some (.shl d a b)
  | 0x3F => some (.shr d a b)
  | 0x40 => some (.bfx d a b)
  | 0x41 => some (.bfi d a b)
  | 0x42 => some (.popc d a)
  | 0x43 => some (.clz d a)
  | 0x44 => some (.brev d a)
  | 0x45 => some (.csel d a b)
  | 0x46 => some (.addw d a b)
  | 0x47 => some (.dot d a b)
  | 0x48 => some (.cvt d a b)
  | 0x49 => some (.roundi d a)
  | 0x4A => some (.fract d a)
  | 0x4B => some (.ldexp d a b)
  | 0x4C => some (.scalex d a b)
  | 0x50 => some (.rcp d a)
  | 0x51 => some (.rsq d a)
  | 0x52 => some (.sqrt d a)
  | 0x53 => some (.exp2 d a)
  | 0x54 => some (.log2 d a)
  | 0x55 => some (.sin d a)
  | 0x56 => some (.cos d a)
  | 0x58 => some (.shfl d a b)
  | 0x59 => some (.shflx d a b)
  | 0x5A => some (.rdlane d a b)
  | 0x5B => some (.wrlane d a b)
  | 0x5C => some (.ballot d a)
  | 0x5D => some (.vany d a)
  | 0x5E => some (.vall d a)
  | 0x5F => some (.matchLanes d a)
  | 0x60 => some (.scan d a)
  | 0x61 => some (.reduce d a b)
  | 0x62 => some (.rank d)
  | 0x63 => some (.regroup a b)
  | 0x64 => some (.rebal d a b)
  | 0x68 => some (.ld8 d a b)
  | 0x69 => some (.ld16 d a b)
  | 0x6A => some (.ld32 d a b)
  | 0x6B => some (.ld64 d a b)
  | 0x6C => some (.ld128 d a b)
  | 0x6D => some (.st8 d a b)
  | 0x6E => some (.st16 d a b)
  | 0x6F => some (.st32 d a b)
  | 0x70 => some (.st64 d a b)
  | 0x71 => some (.st128 d a b)
  | 0x72 => some (.lds32 d a b)
  | 0x73 => some (.lds64 d a b)
  | 0x74 => some (.lds128 d a b)
  | 0x75 => some (.sts32 d a b)
  | 0x76 => some (.ldacq d a b)
  | 0x77 => some (.strel d a b)
  | 0x78 => some (.acqr d a b)
  | 0x79 => some (.fence b)
  | 0x7A => some (.pref a b)
  | 0x7B => some (.pin d a b)
  | 0x7C => some (.unpin a b)
  | 0x7D => some (.cwb a b)
  | 0x7E => some (.cinv a b)
  | 0x80 => some (.aadd d a b)
  | 0x81 => some (.amin d a b)
  | 0x82 => some (.amax d a b)
  | 0x83 => some (.aand d a b)
  | 0x84 => some (.aor d a b)
  | 0x85 => some (.axor d a b)
  | 0x86 => some (.axchg d a b)
  | 0x87 => some (.acas d a b)
  | 0x88 => some (.ainc d a b)
  | 0x89 => some (.mon a b)
  | 0x8A => some (.mwait d a)
  | 0x8B => some (.mcancel)
  | 0x90 => some (.stmap d a b)
  | 0x91 => some (.stunmap a)
  | 0x92 => some (.stflush a)
  | 0x93 => some (.mwbind a b)
  | 0x94 => some (.mwunbind a)
  | 0x95 => some (.cpy d a b)
  | 0x96 => some (.cpy2d d a b)
  | 0x97 => some (.cpclose d)
  | 0x98 => some (.cpwait a)
  | 0x99 => some (.gath d a b)
  | 0x9A => some (.scat d a b)
  | 0x9B => some (.qfence d a)
  | 0xA0 => some (.bar a b)
  | 0xA1 => some (.bara a b)
  | 0xA2 => some (.barw a)
  | 0xA3 => some (.racq d a)
  | 0xA4 => some (.rpub a b)
  | 0xA5 => some (.rget d a)
  | 0xA6 => some (.rrel a b)
  | 0xA7 => some (.hwait d a)
  | 0xA8 => some (.htest d a)
  | 0xA9 => some (.hcancel a)
  | 0xAA => some (.hmov d a)
  | 0xAB => some (.spawn d a b)
  | 0xAC => some (.spawnw d a b)
  | 0xAD => some (.succgo)
  | 0xAE => some (.predwait)
  | 0xB0 => some (.mxclaim d a)
  | 0xB1 => some (.mxrel a)
  | 0xB2 => some (.mxfill d a b)
  | 0xB3 => some (.mxzero d a)
  | 0xB4 => some (.mxmma d a b)
  | 0xB5 => some (.mxmmas d a b)
  | 0xB6 => some (.mxmmasp d a b)
  | 0xB7 => some (.mxldacc d a b)
  | 0xB8 => some (.mxstacc d a b)
  | 0xB9 => some (.mxlist d a b)
  | 0xC0 => some (.kbind a b)
  | 0xC1 => some (.kpush d a b)
  | 0xC2 => some (.kyield)
  | 0xC3 => some (.kend)
  | 0xC4 => some (.kdrain d a)
  | 0xC8 => some (.snap d a b)
  | 0xC9 => some (.sacc a)
  | 0xCA => some (.srej a)
  | 0xCB => some (.sqry d a)
  | 0xD0 => some (.ssbuild d a)
  | 0xD1 => some (.ssbind a b)
  | 0xD2 => some (.triemit d)
  | 0xD3 => some (.drawend d)
  | 0xD4 => some (.present a b)
  | _ => none

/-- The opcode of a word. -/
def opOf (w : Word) : Nat := w.toNat / 16777216
/-- The D field of a word. -/
def dOf (w : Word) : Nat := w.toNat / 65536 % 256
/-- The A field of a word. -/
def aOf (w : Word) : Nat := w.toNat / 256 % 256
/-- The B field of a word. -/
def bOf (w : Word) : Nat := w.toNat % 256

/-- The instruction a word's opcode and operand codes spell, before its entry's requirements are checked. -/
def candidate (w lit : Word) : Except Reject Instr :=
  let off := BitVec.ofNat 16 (w.toNat % 65536)
  match formatOf (opOf w) with
  | none => .error .reservedOpcode
  | some .f3 =>
    match operandOf (dOf w) lit, operandOf (aOf w) lit, operandOf (bOf w) lit with
    | some d, some a, some b =>
      match instrOf (opOf w) d a b off lit with
      | some i => .ok i
      | none => .error .reservedOpcode
    | _, _, _ => .error .reservedOperand
  | some .fb =>
    match operandOf (dOf w) lit with
    | some r =>
      match instrOf (opOf w) r r r off lit with
      | some i => .ok i
      | none => .error .reservedOpcode
    | none => .error .reservedOperand
  | some .fi =>
    match instrOf (opOf w) .laneid .laneid .laneid off lit with
    | some i => .ok i
    | none => .error .reservedOpcode

/-- Decode a word, `lit` being the word of the next slot (03 R50): the instruction it spells, if it is well formed and its word
is this one, reserved fields included (03 R49). -/
def decode (w lit : Word) : Except Reject Instr :=
  match candidate w lit with
  | .error r => .error r
  | .ok i => if i.wellFormed && (encode i).map (·.1) == some w then .ok i else .error .badField

/-- DEDUCED (log 11): the source fields of 03 R38 are A and B where the entry uses them, and D where 03 R49 lists the
instruction as reading D. -/
def readsD (op : Nat) : Bool :=
  (decide (0x6D ≤ op) && decide (op ≤ 0x71)) || op == 0x75 || op == 0x77 || op == 0x35 || op == 0x41 || op == 0x45 || op == 0x47 ||
    (decide (0x80 ≤ op) && decide (op ≤ 0x88)) || op == 0x95 || op == 0x96 || op == 0xC1 || op == 0xD2

/-- The fields an F3 opcode uses as A and B: those of the instruction it spells. -/
def usesAB (op : Nat) : Bool × Bool :=
  match instrOf op .laneid .laneid .laneid 0 0 with
  | some i => match i.shape with | .f3 _ _ a b => (a.isSome, b.isSome) | _ => (false, false)
  | none => (false, false)

/-- Whether the word in a slot consumes a literal (03 R38, log 11). -/
def consumesLiteral (w : Word) : Bool :=
  match formatOf (opOf w) with
  | some .fb => opOf w == 6
  | some .f3 => opOf w == 0x1C || ((usesAB (opOf w)).1 && aOf w == 0xFF) || ((usesAB (opOf w)).2 && bOf w == 0xFF) ||
      (readsD (opOf w) && dOf w == 0xFF)
  | _ => false

/-- The instruction the decoder reads from a table word; a literal the word needs is its bits from 32 up. -/
def decodeTableWord (_nbits w : Nat) : Option Instr :=
  match decode (BitVec.ofNat 32 w) (BitVec.ofNat 32 (w / 4294967296)) with
  | .ok i => some i
  | .error _ => none

end Sys2Proof
end

