-- ==== Sys2Proof/Config.lean ====
section
/-! DEFINITION. What is fixed for one PZ9-M192 (01 Table 1.1) and what its manual leaves open. An `opaque` constant here is a
free value: no proof can see it, and every claim holds whatever it is (log 2). -/

namespace Sys2Proof.Config

/-- Cores of the device (01 Table 1.1). -/
def cores : Nat := 144
/-- Quadrants of the device (01 Table 1.1). -/
def quads : Nat := 576
/-- Cores of one sector (01 Table 1.1). -/
def coresPerSector : Nat := 24
/-- Sectors of the device (01 Table 1.1). -/
def sectors : Nat := 6
/-- Live L2 slices (01 Table 1.1). -/
def slices : Nat := 128
/-- Translation homes and GDDR7 channels (01 Table 1.1). -/
def channels : Nat := 24
/-- Partitions, one for each VF (21 R281). -/
def partitions : Nat := 64
/-- Presentation links (15 R227, 21 Table 21.3). -/
def links : Nat := 2
/-- The device id of PF BAR0 (21 Table 21.1). -/
def deviceId : Nat := 0x5A39
/-- DESIGN CHOICE (log 7): the revision this part reads once Bruin has come up; the manual names only 0xFFFF (21 start-up). -/
def revision : Nat := 0x0001
/-- GDDR7 bytes of one channel: 8 GB, which is decimal (21 R274, 00_scope.md). -/
def channelBytes : Nat := 8000000000
/-- The start of the scratch aperture (06 Table 6.1). -/
def aperture : Nat := 0x00FE000000000000
/-- The start of the reserved region (06 Table 6.1). -/
def reservedRegion : Nat := 0x00FF000000000000
/-- The first virtual address whose bits [63:56] are not zero (06 R107). -/
def vaEnd : Nat := 0x0100000000000000

/-- The k-th free natural number: choices the manual leaves to the device (log 2). -/
opaque freeNat : Nat → Nat
/-- The k-th free byte (log 2). -/
opaque freeByte : Nat → Byte
/-- The k-th free 32-bit word (log 2). -/
opaque freeWord : Nat → Word
/-- The k-th free choice between two courses the manual allows (log 2). -/
opaque freeBool : Nat → Bool
/-- Which of its die's three sectors a slice prefers; the manual says only that each holds at least 21 of the die's 64 (01 Table 1.1, log
14). -/
opaque sliceSector : Nat → Nat
/-- The set of a line in its L2 slice, by the line's key (log 15). -/
opaque l2Set : Nat → Nat
/-- The set of a line in an L1, by the line's key (log 15). -/
opaque l1Set : Nat → Nat
/-- Which PZ ports reach which peer: the fabric's wiring, which the manual leaves to the installation (21 R283, log 26). -/
opaque portReaches : Nat → Nat → Bool
/-- The detail word of a machine check's stop report: the manual says that it gives the unit kind and number, not how (21 Table 21.6,
log 27). -/
opaque mcDetail : Nat → Nat → Nat
/-- The health bytes at PF 0x5_0000: corrected errors by unit kind and the last machine check, in an order that the manual does not give
(21 Table 21.1, log 27). -/
opaque healthByte : List (Nat × Nat) → Option (Nat × Nat) → Nat → Byte
/-- What the special-function unit delivers for an operand, before it is held to the bound of 11 R174 (log 9). -/
opaque sfuResult : Nat → Nat
/-- SHAKE256 with a 256-bit output, an outside standard the manual names and does not define (21 R287). -/
opaque shake256 : List Byte → List Byte
/-- What follows the index in the XMSS-SHAKE256_20_256 signature with the device key: the randomiser, the WOTS+ values and the path, 2,816
bytes by RFC 8391 (21 R287). -/
opaque xmssSign : Nat → List Byte → List Byte
/-- The device serial number, 16 bytes from fuses (21 R287). -/
opaque serial : List Byte
/-- Bruin's image as verified at boot (21 R287). -/
opaque bruinImage : List Byte
/-- What the manufacturer puts into the device certificate (21 Table 21.12): the number of the issuing key, the device's public key of 68
bytes, and the signature of 2,820 bytes. -/
opaque issuingKey : Nat
opaque publicKey : List Byte
opaque certSignature : List Byte

end Sys2Proof.Config
end

