-- ==== Sys2Proof/Machine/Mem.lean ====
section
/-! DEFINITION. Memory as plain data: a list of (address, byte) cells in one canonical form, and tables of records keyed by
number in the same form. What an unlisted address reads as is `Memory.blank` (logs 5 and 6). -/

namespace Sys2Proof.Machine

/-- Bytes by address: addresses strictly rising, no cell equal to what an unlisted address reads as. -/
abbrev Memory := List Host.Cell

/-- DESIGN CHOICE (logs 5, 6): what a byte that nothing has written reads as. -/
def Memory.blank : Byte := 0

/-- The byte at an address. -/
def Memory.get : Memory → Nat → Byte
  | [], _ => Memory.blank
  | (b, x) :: m, a => if a = b then x else if a < b then Memory.blank else Memory.get m a

/-- Write one byte, keeping the canonical form. -/
def Memory.set : Memory → Nat → Byte → Memory
  | [], a, x => if x = Memory.blank then [] else [(a, x)]
  | (b, y) :: m, a, x =>
    if a < b then (if x = Memory.blank then (b, y) :: m else (a, x) :: (b, y) :: m)
    else if a = b then (if x = Memory.blank then m else (a, x) :: m)
    else (b, y) :: Memory.set m a x

/-- Every address of a memory lies above a bound and the memory is canonical from there. -/
def Memory.wfFrom : Option Nat → Memory → Bool
  | _, [] => true
  | lo, (a, x) :: m => (match lo with | none => true | some l => decide (l < a)) && decide (x ≠ Memory.blank) &&
      Memory.wfFrom (some a) m

/-- The canonical form: strictly rising addresses, no blank cell. -/
def Memory.wf (m : Memory) : Bool := Memory.wfFrom none m

/-- Read n bytes from an address upwards. -/
def Memory.read (m : Memory) (a : Nat) : Nat → List Byte
  | 0 => []
  | n + 1 => Memory.get m a :: Memory.read m (a + 1) n

/-- Write bytes from an address upwards. -/
def Memory.write (m : Memory) (a : Nat) : List Byte → Memory
  | [] => m
  | x :: xs => Memory.write (Memory.set m a x) (a + 1) xs

/-- Write (address, byte) pairs, a later pair over an earlier one. -/
def Memory.writeCells (m : Memory) : List Host.Cell → Memory
  | [] => m
  | (a, x) :: cs => Memory.writeCells (Memory.set m a x) cs

/-- Forget the bytes of [lo, lo + n): they read as blank again. -/
def Memory.clear (m : Memory) (lo n : Nat) : Memory := m.filter fun c => !(decide (lo ≤ c.1) && decide (c.1 < lo + n))

/-- The little-endian value of a list of bytes (00 R2). -/
def leValue : List Byte → Nat
  | [] => 0
  | x :: xs => x.toNat + 256 * leValue xs

/-- The n little-endian bytes of a number (00 R2). -/
def leBytes (v : Nat) : Nat → List Byte
  | 0 => []
  | n + 1 => BitVec.ofNat 8 v :: leBytes (v / 256) n

/-- The little-endian value of n bytes at an address. -/
def Memory.readLe (m : Memory) (a n : Nat) : Nat := leValue (m.read a n)

/-- Write the n little-endian bytes of a number at an address. -/
def Memory.writeLe (m : Memory) (a n v : Nat) : Memory := m.write a (leBytes v n)

/-- Records by number, keys strictly rising. -/
abbrev Table (α : Type) := List (Nat × α)

/-- The record with a key. -/
def Table.find {α : Type} : Table α → Nat → Option α
  | [], _ => none
  | (k, x) :: t, i => if i = k then some x else if i < k then none else Table.find t i

/-- Put a record at a key. -/
def Table.put {α : Type} : Table α → Nat → α → Table α
  | [], i, x => [(i, x)]
  | (k, y) :: t, i, x =>
    if i < k then (i, x) :: (k, y) :: t else if i = k then (i, x) :: t else (k, y) :: Table.put t i x

/-- Remove the record of a key. -/
def Table.drop {α : Type} (t : Table α) (i : Nat) : Table α := t.filter fun e => decide (e.1 ≠ i)

/-- Change the record of a key, if there is one. -/
def Table.modify {α : Type} (t : Table α) (i : Nat) (f : α → α) : Table α :=
  t.map fun e => if e.1 = i then (e.1, f e.2) else e

/-- Keys strictly rising. -/
def Table.wfFrom {α : Type} : Option Nat → Table α → Bool
  | _, [] => true
  | lo, (a, _) :: t => (match lo with | none => true | some l => decide (l < a)) && Table.wfFrom (some a) t

/-- Replace element i of a list, if there is one. -/
def setAt {α : Type} : List α → Nat → α → List α
  | [], _, _ => []
  | _ :: xs, 0, y => y :: xs
  | x :: xs, i + 1, y => x :: setAt xs i y

/-- 0, 1, …, n − 1. -/
def upTo (n : Nat) : List Nat := List.range n

/-- The 32 lane numbers. -/
def lanes : List Nat := [0, 1, 2, 3, 4, 5, 6, 7, 8, 9, 10, 11, 12, 13, 14, 15, 16, 17, 18, 19, 20, 21, 22, 23, 24, 25, 26, 27, 28,
  29, 30, 31]

end Sys2Proof.Machine
end

