-- ==== Sys2Proof/Machine/Types.lean ====
section
/-! DEFINITION. The records that State is made of, unit by unit, as the chapters of spec/ name them (INVENTORY.md, State).
Numbers that software never sees as words are Nat; registers, masks and status words are bit vectors. -/

namespace Sys2Proof.Machine

/-! ## Waves (04) -/

/-- A future handle (22 Table 22.7); a pending one carries its operation tag (22 R330). -/
inductive HState where
  | empty
  | pending (tag : Nat)
  | done
  | cancelled
  | failed
deriving DecidableEq, Repr, Inhabited

/-- A reference to the handle register an operation completes. -/
structure HRef where
  wave : Nat
  reg : Nat
deriving DecidableEq, Repr, Inhabited

/-- The state of an armed monitor (05 R102, 22 R355). -/
inductive MonState where
  | armed
  /-- a write to the line was performed since the MON -/
  | fired
  /-- evicted, kept with the split until its MWAIT -/
  | evicted
  /-- the split was saved while armed -/
  | saved
deriving DecidableEq, Repr, Inhabited

/-- A split's monitor on a 64-byte line (05 R102). -/
structure Monitor where
  asid : Nat
  line : Nat
  seq : Nat
  st : MonState
deriving DecidableEq, Repr, Inhabited

/-- One register write of a result. -/
inductive RegWrite where
  /-- lanes of the mask of vector register r -/
  | v (r : Nat) (mask : Word) (xs : Vector Word 32)
  | s (r : Nat) (x : Word)
  | p (r : Nat) (x : Word)
deriving DecidableEq, Repr

/-- One lane of an issued load; `got` is its value once satisfied (08 R145). -/
structure LaneLoad where
  lane : Nat
  addr : Nat
  /-- bytes whose newest entry in WSB(w) was an atomic at issue: they are taken from H (08 R145) -/
  atHome : List Nat
  got : Option (List Byte)
deriving DecidableEq, Repr, Inhabited

/-- An issued load that awaits its values (08 R147 satisfy). -/
structure LoadOp where
  seq : Nat
  /-- the stamp of its split's acquire before it: loads of the split issued before that one are satisfied first (08 R149) -/
  after : Nat
  width : Nat
  /-- operand code of the first destination register -/
  dst : Nat
  signed : Bool
  cpol : Nat
  lanes : List LaneLoad
  /-- the scope of LDACQ's or ACQR's acquire -/
  acq : Option Nat
  /-- ACQR promotes (08 R155) -/
  promote : Bool
deriving DecidableEq, Repr, Inhabited

/-- What a pending-write bit waits for (04 R78). -/
inductive PendOp where
  /-- the result is computed and travels back -/
  | ready (ws : List RegWrite)
  | load (l : LoadOp)
  /-- a returning atomic: lanes not yet performed -/
  | atomic (lanes : List Nat)
deriving DecidableEq, Repr

/-- A long-latency instruction whose pending-write bits are set (04 R78). -/
structure Pend where
  n : Nat
  split : Nat
  /-- operand codes of the registers it writes -/
  codes : List Nat
  op : PendOp
deriving DecidableEq, Repr

/-- What happens once a parked instruction's own work is complete (18 R419). -/
inductive After where
  /-- nothing more -/
  | proceed
  /-- nothing more; write-back faults are reported later (18 R260: SPAWN, SPAWNW) -/
  | quiet
  /-- STUNMAP: release the window (06 R134) -/
  | unmap (win : Nat)
  /-- SNAP at its point in the snapshot order (17 R235): destination, base, length -/
  | snap (d base len : Nat)
  /-- SREJ at its point (17 R236): token -/
  | srej (token : Word)
  /-- the final EXIT of a PREEMPT handler (18 R269): the address of the wave's save area -/
  | save (addr : Nat)
deriving DecidableEq, Repr, Inhabited

/-- What a parked instruction of the second kind of 18 R419 waits for. -/
inductive Waiting where
  /-- a release, or all the write-backs it started -/
  | release (n : Nat) (a : After)
  /-- the stash write-backs of a release (18 R260) -/
  | stash (n : Nat)
  /-- the records of a KPUSH, by number (14 R199) -/
  | records (ns : List Nat)
  /-- a KBIND's write of H with WSB stamp n (14 R197): stage, descriptor address -/
  | kbind (n stage desc : Nat)
  /-- the outgoing deliveries of an ended mirrored binding (06 R137) -/
  | deliveries (id : Nat)
  /-- TRIEMIT during a partial flush of its launch (15 R219) -/
  | flush (launch : Nat)
deriving DecidableEq, Repr, Inhabited

/-- What a wait of 18 R419 waits for, with the scalar register that receives its result. -/
inductive WaitFor where
  /-- HWAIT: handle register, destination if any (22 R332) -/
  | handle (reg : Nat) (dst : Option Nat)
  /-- CPWAIT: batch (06 R139) -/
  | copies (batch : Nat)
  /-- PREDWAIT (05 R97) -/
  | pred
  /-- BARW, or BAR after its arrival (05 R100) -/
  | barrier (b : Nat)
  /-- RACQ and RGET: ring, destination (05 R99) -/
  | racq (ring dst : Nat)
  | rget (ring dst : Nat)
  /-- MWAIT: this core's CLK at issue, timeout, destination (22 R355) -/
  | monitor (t0 timeout dst : Nat)
  /-- REGROUP after its arrival, by tag (04 R82) -/
  | regroup (tag : Nat)
  /-- the instruction has done nothing yet: its result handle is pending (04 R63) -/
  | free (reg : Nat)
  /-- MWBIND while the id or the owner's windows are in use, with the range that it read at issue (06 R135, 21 R280) -/
  | mirror (id off len : Nat)
  /-- KBIND while another launch holds the id, with the descriptor's address and its bytes as they were read at issue (14 R195, R197) -/
  | stage (id desc : Nat) (bytes : List Byte)
  /-- SPAWN and SPAWNW while their children find no room, with the record's bytes and the arguments as they were read at issue (05 R95, 24
  R400) -/
  | room (bytes : List Byte) (args : List Word)
deriving DecidableEq, Repr, Inhabited

/-- Why a split does not issue (04 R76, 18 R419). -/
inductive Park where
  | none
  /-- a marked slot issued (04 R79) -/
  | marker
  /-- a wait of 18 R419: the split's PC is the instruction's; the next PC, and whether the slot is marked (04 R79) -/
  | wait (f : WaitFor) (next : Nat) (marked : Bool)
  /-- at the rejoin bundle of the kind 0 entry at this bottom position (04 R73) -/
  | rejoin (pos : Nat)
  /-- at a JOINW with this condition (04 R74) -/
  | joinw (w : Word)
  /-- the instruction at pc has taken effect and waits for its completion (18 R419); whether its slot is marked -/
  | completing (pc : Nat) (w : Waiting) (marked : Bool)
  /-- a translation fault, until the fault-resume word (18 R257, R259) -/
  | fault
  /-- a stage-2 fault on this guest-physical granule, until Bruin resumes its agents (18 R256) -/
  | stage2 (granule : Nat)
deriving DecidableEq, Repr, Inhabited

/-- A split (04 R65). -/
structure Split where
  num : Nat
  pc : Nat
  live : Word
  exec : Word
  mode : Word
  /-- the stack entry JOIN names, by bottom position -/
  join : Option Nat
  prog : Word
  park : Park
  /-- the bundle it has begun issuing from, already checked (03 R39), and the words it fetched then: every later slot of it issues from
  them, never a mixture of old and new (03 R45) -/
  entered : Option (Nat × List Word)
  /-- it is ready: not parked, or its wait is over (04 R76) -/
  ready : Bool
  /-- the stamp of its last acquire: loads issued before it are satisfied before loads issued after it (08 R149) -/
  acq : Nat
  /-- when it last became ready and when it last parked (04 R77) -/
  readyAt : Nat
  parkedAt : Nat
deriving DecidableEq, Repr, Inhabited

/-- A reconvergence stack entry (04 Table 4.3). -/
structure Entry where
  pc : Nat
  rejoin : Nat
  mask : Word
  mode : Word
  kind : Nat
  owner : Nat
  cause : Nat
  prog : Word
  /-- R67: the owner's number was freed while lanes are held; a split that takes the number does not own the entry -/
  orphan : Bool
deriving DecidableEq, Repr, Inhabited

/-- A trap that waits for trap entry (18 R245, R246). -/
structure TrapReq where
  split : Nat
  cause : Nat
  faddr : Nat
  fmask : Word
  pc : Nat
deriving DecidableEq, Repr, Inhabited

/-- The opaque block Bruin holds in start-up, test and recovery mode (18 R251). -/
structure BruinBlock where
  stack : List Entry
  splits : List Split
  trapping : Nat
  prog : Word
  /-- the cause of the trap -/
  cause : Nat
deriving DecidableEq, Repr, Inhabited

/-- Where a wave is (18 R264-R267). -/
inductive Residence where
  | resident
  /-- saved by the device at an address of the save pool; `rewound` is the REWOUND form -/
  | saved (addr : Nat) (rewound : Bool)
  /-- saved by its PREEMPT handler at an address -/
  | handler (addr : Nat)
deriving DecidableEq, Repr, Inhabited

/-- Pre-emption in progress (18 R264). -/
inductive Preempt where
  | none
  /-- within the 60,000 cycles before PREEMPT: this core's CLK at the request -/
  | window (since : Nat)
  /-- a parked wave, or one whose recipe descriptor is bad, is being saved whole: it issues nothing, and the instructions that it is parked
  in complete first (18 R264, R419); CLK at the request -/
  | saving (since : Nat)
  /-- PREEMPT raised: the save area, CLK, and the number of splits that trap entry finds (18 R269) -/
  | raised (addr since splits : Nat)
deriving DecidableEq, Repr, Inhabited

/-- An atomic operation (22 Table 22.3). -/
inductive AtomicOp where
  | add | min | max | and | or | xor | xchg | cas | inc
deriving DecidableEq, Repr, Inhabited

/-- An atomic in a store buffer (08 R156). -/
structure AtomicReq where
  op : AtomicOp
  type : Nat
  rnd : Nat
  use : Nat
  width : Nat
  data : BitVec 64
  expect : BitVec 64
  lane : Nat
  /-- the pending-write record and destination code, if it returns its old value -/
  ret : Option (Nat × Nat)
  qsize : Nat
deriving DecidableEq, Repr, Inhabited

/-- The read of an atomic that the host's memory takes as a read and a write of the line (18 R255): where, and the value read. -/
structure HalfAtomic where
  addr : Nat
  old : Nat
deriving DecidableEq, Repr, Inhabited

/-- What a store-buffer entry does. -/
inductive Payload where
  | store (bytes : List Byte)
  | atomic (a : AtomicReq)
deriving DecidableEq, Repr, Inhabited

/-- An entry of WSB(w) or OQ(b) (08 Table 8.1). -/
structure WEntry where
  seq : Nat
  wave : Nat
  addr : Nat
  payload : Payload
  /-- written by a block-scope STREL (08 R155) -/
  tag : Bool
  /-- releases that must complete before it leaves WSB(w) (08 R152, R153) -/
  holds : List Nat
  /-- STREL's or a FENCE rel's later write: CPOL of the store -/
  cpol : Nat
  /-- a load of the block has taken its value from it (08 R146) -/
  read : Bool
  /-- the core's CLK at issue (06 R115) -/
  at_ : Nat
  /-- its read at the host is done and its write is not (18 R255) -/
  half : Option HalfAtomic
deriving DecidableEq, Repr, Inhabited

/-- A release in progress (08 R150). -/
structure Release where
  n : Nat
  scope : Nat
  wave : Nat
  block : Nat
  /-- covered writes not yet performed at H, by stamp -/
  seqs : List Nat
  /-- invalidations to the sector that it waits for, by stamp (sector scope) -/
  invs : List Nat
  /-- stash sectors to write back: block, window, line, sector -/
  stash : List (Nat × Nat × Nat × Nat)
  /-- L2 sectors to write to PT: line key, sector (system scope; CWB) -/
  l2 : List (Nat × Nat)
  /-- port writes to deliver, by stamp (fabric and system scope) -/
  ports : List Nat
  /-- the first FAULTED line met (18 R260) -/
  fault : Option Nat
deriving DecidableEq, Repr, Inhabited

/-- An acquire that has not taken effect (08 R151). -/
structure Acquire where
  seq : Nat
  scope : Nat
  /-- the sc form, with the release whose completion it follows (08 R152) -/
  sc : Option Nat
  isSc : Bool
deriving DecidableEq, Repr, Inhabited

/-- A flashback mark (18 R261). -/
structure Mark where
  desc : Nat
  pc : Nat
  exec : Word
  mode : Word
deriving DecidableEq, Repr, Inhabited

/-- A lane's context in a keyed wave (14 R203). -/
structure KeyedLane where
  lane : Nat
  key : Nat
  status : Nat
deriving DecidableEq, Repr, Inhabited

/-- What makes a wave a keyed wave (14 R203). -/
structure KeyedInfo where
  stage : Nat
  words : Nat
  ctx : List KeyedLane
  /-- bits [63:56] of its contexts' PC are not zero, and its first issue has not yet raised ILLEGAL (14 R202) -/
  reserved : Bool
deriving DecidableEq, Repr, Inhabited

/-- The state of an operand slot (12 Table 12.1). -/
structure MxSlot where
  claimed : Bool
  relQueued : Bool
  data : Memory
deriving DecidableEq, Repr, Inhabited

/-- A wave (04 R61, Tables 4.1 and 4.2). -/
structure Wave where
  part : Nat
  block : Nat
  launch : Nat
  core : Nat
  quad : Nat
  waveId : Nat
  role : Nat
  footprint : Nat
  depth : Nat
  /-- partition wave number (18 R259) -/
  token : Nat
  v : Vector (Vector Word 32) 128
  s : Vector Word 64
  p : Vector Word 8
  h : Vector HState 16
  /-- lanes that have not exited -/
  alive : Word
  splits : List Split
  /-- monitors by split number (05 R102) -/
  mons : Table Monitor
  /-- the reconvergence stack, top first -/
  stack : List Entry
  cause : Nat
  faddr : BitVec 64
  fmask : Word
  ks : Vector Word 4
  prog : Word
  fpflags : BitVec 5
  qsize : Nat
  tbase : BitVec 64
  kbase : BitVec 64
  trap : Option TrapReq
  /-- the blocks Bruin holds for traps of start-up, test and recovery mode, the innermost first (18 R251) -/
  bruin : List BruinBlock
  succgo : Bool
  mark : Option Mark
  rewindable : Bool
  pend : List Pend
  wsb : List WEntry
  releases : List Release
  /-- fence releases that hold every later write (08 R152) -/
  relHolds : List Nat
  acquires : List Acquire
  lastBatch : Nat
  failedBatches : List Nat
  /-- tiles: element (m, n) of tile t at word address t·1024 + 32m + n, as bytes -/
  tileCount : Nat
  tiles : Memory
  slots : List MxSlot
  keyed : Option KeyedInfo
  /-- the barrier phase of the last arrival, by barrier (05 R100) -/
  barPhase : Table Nat
  res : Residence
  preempt : Preempt
  /-- the guest context that a partition save tagged the wave with: its launch (18 R268, log 48) -/
  guest : Option Nat
  exited : Bool
deriving DecidableEq, Repr

/-! ## Blocks and launches (05) -/

/-- A ring slot state (05 Table 5.6). -/
inductive SlotState where
  | empty | claimed | full | taken
deriving DecidableEq, Repr, Inhabited

/-- A ring slot: state, phase bit, and the lap parity of the producer cursor at its claim (05 R99). -/
structure RingSlot where
  st : SlotState
  phase : Bool
  lap : Bool
deriving DecidableEq, Repr, Inhabited

/-- A stage ring (05 R99). -/
structure Ring where
  slots : List RingSlot
  prod : Nat
  prodLap : Bool
  cons : Nat
  consLap : Bool
  /-- parked RACQs and RGETs in issue order: wave, split -/
  acqs : List (Nat × Nat)
  gets : List (Nat × Nat)
deriving DecidableEq, Repr, Inhabited

/-- A barrier (05 R100). -/
structure Barrier where
  arrivals : Nat
  expected : Nat
  fixed : Bool
  phase : Nat
  /-- waves that have arrived in the open phase -/
  who : List Nat
deriving DecidableEq, Repr, Inhabited

/-- A regroup group (04 R82). -/
structure Group where
  tag : Nat
  n : Nat
  role : Nat
  waves : List Nat
deriving DecidableEq, Repr, Inhabited

/-- A stash line's state (06 Table 6.6); dirty sectors as a mask. -/
structure StashLine where
  present : Bool
  dirty : BitVec 4
  faulted : Bool
  /-- order in which lines became dirty (06 R132 capacity) -/
  dirtyAt : Nat
  /-- writers of each dirty sector: sector, wave (08 Table 8.3 system scope) -/
  writers : List (Nat × Nat)
  /-- the tag of a fill, or of a write-back at the block's end, that a fault has parked (18 R257, R260) -/
  parked : Option Nat
  /-- the home stamps of its bytes when it was filled, or last written back (08 R146) -/
  filled : List Nat
  /-- bytes that the block has stored since, while another window owns the home line (06 R133), and those of them that it has read -/
  own : List Nat
  read : List Nat
deriving DecidableEq, Repr, Inhabited

/-- A stash window (06 R130). -/
structure Window where
  id : Nat
  off : Nat
  len : Nat
  base : Nat
  lines : List StashLine
deriving DecidableEq, Repr, Inhabited

/-- A mirrored-window binding (06 R135); `use` is the group use of 21 R280. -/
structure MirrorBind where
  id : Nat
  off : Nat
  len : Nat
  use : Nat
  ended : Bool
  /-- order of its making, by which its deliveries name it (21 R280) -/
  at_ : Nat
deriving DecidableEq, Repr, Inhabited

/-- A delivery in flight (06 R136). -/
structure Delivery where
  seq : Nat
  part : Nat
  /-- the sector of its group -/
  sec : Nat
  src : Nat
  /-- the binding of the source that sent it, by its stamp (21 R280) -/
  bind : Nat
  dst : Nat
  id : Nat
  use : Nat
  off : Nat
  bytes : List Byte
deriving DecidableEq, Repr, Inhabited

/-- A quantum reservation of a block (08 R157). -/
structure Reservation where
  addr : Nat
  next : Nat
  remaining : Nat
  wide : Bool
  /-- releases in progress that cover the atomic that made it: it ends with them (08 R157) -/
  rels : List Nat
deriving DecidableEq, Repr, Inhabited

/-- A created child (05 R94). -/
structure ChildInfo where
  /-- the tag of its SPAWN operation -/
  tag : Nat
  arg : Word
  index : Nat
  count : Nat
  depth : Nat
deriving DecidableEq, Repr, Inhabited

/-- The fields of a launch record (05 Table 5.4). -/
structure LaunchRec where
  entry : Nat
  args : BitVec 64
  blocks : Nat
  waves : Nat
  regs : Nat
  early : Bool
  scratch : Nat
  roles : Nat
  tiles : Nat
  slots : Nat
  priority : Nat
  cls : Nat
  pred : Nat
  lease : Nat
  tbase : Nat
  kbase : Nat
deriving DecidableEq, Repr, Inhabited

/-- A block (05 R91, 06 R113). -/
structure Block where
  part : Nat
  launch : Nat
  blockId : Nat
  core : Nat
  pos : Nat
  size : Nat
  waves : List Nat
  child : Option ChildInfo
  record : LaunchRec
  scratch : Memory
  oq : List WEntry
  rings : List Ring
  bars : List Barrier
  groups : List Group
  windows : List Window
  mirrors : List MirrorBind
  /-- the newest home stamp the block has read, by byte key (08 R146) -/
  seen : Table Nat
  resv : List Reservation
  /-- FAULTED lines not yet reported as WBFAULT (18 R260) -/
  wbFaults : List Nat
  saved : Bool
  exited : Bool
  keyed : Bool
  /-- a child that has completed under 05 R89 -/
  complete : Bool
deriving DecidableEq, Repr

/-- A triangle that waits for the binner or is binned (15 R217). -/
structure Tri where
  prim : Nat
  x0 : Int
  y0 : Int
  x1 : Int
  y1 : Int
  x2 : Int
  y2 : Int
deriving DecidableEq, Repr, Inhabited

/-- A raster phase of a sample-set binding: a closed draw, or a partial flush of the open one (15 R219, R221). -/
structure Draw where
  no : Nat
  flush : Bool
  /-- the handle of its DRAWEND, and that operation's tag -/
  handle : Option HRef
  tag : Nat
  failed : Bool
  /-- root cell and binned triangle -/
  bins : List (Nat × Tri)
  /-- its work items have been made -/
  made : Bool
  /-- the tag of a read of the index that a fault has parked -/
  parked : Option Nat
deriving DecidableEq, Repr, Inhabited

/-- A triangle on its way to the binner (15 R217, 08 Table 8.6). -/
structure Emitted where
  wave : Nat
  split : Nat
  rel : Nat
  tri : Tri
deriving DecidableEq, Repr, Inhabited

/-- A sample-set binding of a launch (15 R216). -/
structure SampleBind where
  gen : Nat
  desc : Nat
  samples : Nat
  count : Nat
  skipZero : Bool
  x0 : Nat
  y0 : Nat
  gw : Nat
  gh : Nat
  index : Nat
  arena : Nat
  arenaSize : Nat
  /-- the keyed stage, and the launch that had bound it -/
  stage : Nat
  stageLaunch : Nat
  /-- the block and core of the binder: its sector's Lynx bins -/
  block : Nat
  core : Nat
  asid : Nat
  prim : Nat
  drawNo : Nat
  cores : List Nat
  /-- triangles emitted and not received -/
  queue : List Emitted
  /-- root cell and binned triangle -/
  bins : List (Nat × Tri)
  binned : Nat
  refs : Nat
  /-- triangles of the open draw that the binner has received -/
  openTris : Nat
  /-- a flush of the open draw has failed -/
  openFailed : Bool
  draws : List Draw
  /-- a partial flush holds the arena until the triangle that did not fit is binned -/
  flushing : Option Emitted
  /-- the tag of an arena write that a fault has parked, with the wave whose triangle it is for -/
  parked : Option (Nat × Nat)
deriving DecidableEq, Repr, Inhabited

/-- A launch (05 R84-R89). -/
structure Launch where
  part : Nat
  queue : Nat
  id : Nat
  order : Nat
  record : LaunchRec
  /-- the launch its predecessor field names, by key; none counts as complete -/
  pred : Option Nat
  hasPred : Bool
  nextBlock : Nat
  /-- a block can never fit, or the launch was cut short (05 R91) -/
  halted : Bool
  /-- its completion advances HEAD: the queue has not been disabled since it was fetched (05 R84) -/
  counts : Bool
  /-- the stamp at which all eight candidates were skipped for its next block (05 R92) -/
  skipped : Option Nat
  /-- another launch has yielded since its last placement decision (05 R106) -/
  served : Bool
  /-- a graphics launch that is to yield at its next boundary (05 R106) -/
  yielding : Bool
  yielded : Bool
  keyedBlocks : Nat
  bind : Option SampleBind
  /-- earlier bindings with draws that have not ended -/
  past : List SampleBind
  complete : Bool
deriving DecidableEq, Repr, Inhabited

/-! ## Engines -/

/-- How an engine operation stands (18 R257, R259). -/
inductive EngState where
  | ready
  /-- parked by a fault with a record -/
  | parked
  | failed
deriving DecidableEq, Repr, Inhabited

/-- A copy (06 R138). -/
structure CopyOp where
  tag : Nat
  part : Nat
  block : Nat
  wave : Nat
  dst : Nat
  src : Nat
  rows : Nat
  rowBytes : Nat
  dpitch : Nat
  spitch : Nat
  /-- bytes moved -/
  moved : Nat
  batch : Option Nat
  rel : Nat
  fences : List Nat
  st : EngState
deriving DecidableEq, Repr, Inhabited

/-- A gather or scatter (06 R141). -/
structure SliceOp where
  tag : Nat
  block : Nat
  wave : Nat
  split : Nat
  gather : Bool
  base : Nat
  elem : Nat
  data : Nat
  list : Nat
  count : Nat
  /-- index entries sent to slices (18 Table 18.2): element number and index -/
  sent : List (Nat × Nat)
  next : Nat
  done : List Nat
  cancelled : Bool
  href : Option HRef
  rel : Nat
  fences : List Nat
  st : EngState
deriving DecidableEq, Repr, Inhabited

/-- A matrix command (12 Table 12.2), with the values read at issue. -/
inductive MxOp where
  | rel (slot : Nat)
  | fill (word spec : Word) (off : Nat)
  | zero (tile : Nat)
  | mma (kind : Nat) (a w0 w1 : Word)
  | ldacc (tile off : Nat)
  | stacc (tile : Nat) (word : Word)
deriving DecidableEq, Repr, Inhabited

/-- An entry of a quadrant's matrix queue: one command, or the commands of an MXLIST (12 R180, R189). -/
structure MxCmd where
  tag : Nat
  wave : Nat
  block : Nat
  launch : Nat
  ops : List MxOp
  /-- the first op has started its engine step; rows or k-steps done -/
  started : Bool
  prog : Nat
  /-- E and O of every element of a stopped product, as bytes (12 R193) -/
  chains : Memory
  /-- all ops performed; the completion delay runs -/
  done : Bool
  dropped : Bool
  /-- a command of the entry has failed (12 R194) -/
  failed : Bool
  href : Option HRef
  rel : Nat
  fences : List Nat
  st : EngState
deriving DecidableEq, Repr, Inhabited

/-- A Lynx build (15 R214). -/
structure BuildOp where
  tag : Nat
  part : Nat
  sector : Nat
  block : Nat
  asid : Nat
  desc : Nat
  samples : Nat
  count : Nat
  leafCap : Nat
  skipZero : Bool
  x0 : Nat
  y0 : Nat
  x1 : Nat
  y1 : Nat
  index : Nat
  indexSize : Nat
  started : Bool
  /-- the status is written; the handle follows -/
  written : Bool
  href : Option HRef
  rel : Nat
  fences : List Nat
  st : EngState
deriving DecidableEq, Repr, Inhabited

/-- A QFENCE (08 R160): the operations it waits for. -/
structure QFenceRec where
  n : Nat
  mask : Nat
  part : Nat
  block : Nat
  core : Nat
  quad : Nat
  launch : Nat
  sector : Nat
  /-- what it waits for: operation tags, 2^32 + n for keyed record n, 2^33 + n for its issuer's release n -/
  waits : List Nat
  href : Option HRef
  tag : Nat
deriving DecidableEq, Repr, Inhabited

/-- A raster work item: a leaf of a flush or of a closed draw (15 R221). -/
structure WorkItem where
  tag : Nat
  part : Nat
  launch : Nat
  gen : Nat
  draw : Nat
  flush : Bool
  core : Nat
  leaf : Nat
  first : Nat
  count : Nat
  cx : Nat
  cy : Nat
  size : Nat
  prims : List Tri
  /-- the primitive and the sample of the leaf that come next -/
  pi : Nat
  si : Nat
  st : EngState
deriving DecidableEq, Repr, Inhabited

/-! ## Keyed stages (14) -/

/-- A keyed record on its way to its home or accepted there (14 R199, R201). -/
structure KRec where
  n : Nat
  /-- source: a wave, or the raster unit of a core as 2^32 + core -/
  src : Nat
  key : Nat
  words : List Word
  /-- the KPUSH's block, or none for the raster unit -/
  block : Option Nat
  launch : Nat
  draw : Option Nat
  gen : Nat
  rel : Nat
  fences : List Nat
  /-- CLK of its home since when it has been the first record of a key without a context (14 R203) -/
  headAt : Option Nat
deriving DecidableEq, Repr, Inhabited

/-- A context's state (14 Table 14.5). -/
inductive CtxState where
  | idle
  | running
  | spilled (slot : Nat)
  /-- in the save pool, at this address, since its partition was descheduled (21 R277) -/
  | pooled (addr : Nat)
deriving DecidableEq, Repr, Inhabited

/-- A context of a key (14 R202). -/
structure KCtx where
  /-- the key that the Sett holds it under -/
  key : Nat
  /-- its KEY field: another only where a program wrote its spill slot (14 R202) -/
  keyField : Nat
  pc : Nat
  saved : List Word
  st : CtxState
  /-- last-run mark: home arrival counter (14 R206) -/
  mark : Nat
  /-- when it last ran (14 R205) -/
  ranAt : Nat
  refilled : Bool
  fresh : Bool
  /-- order of creation -/
  age : Nat
  /-- drains that reached it and have not been served -/
  drains : List Nat
  /-- CLK of its home since when it has been runnable (14 R203) -/
  runAt : Option Nat
  /-- the tag of a spill or refill that a fault has parked (18 R257) -/
  parked : Option Nat
deriving DecidableEq, Repr, Inhabited

/-- A home of a binding (14 R200). -/
structure Home where
  core : Nat
  arrivals : Nat
  recs : List KRec
  ctxs : List KCtx
deriving DecidableEq, Repr, Inhabited

/-- A drain of a stage (14 R207): homes it has not reached, contexts (core, key) it waits for. -/
structure DrainRec where
  n : Nat
  tag : Nat
  href : Option HRef
  block : Option Nat
  /-- record stamps that must be accepted before it starts at a home -/
  after : List Nat
  /-- home cores at which it has not started -/
  left : List Nat
  /-- records accepted before it started, which are delivered first -/
  before : List Nat
  pending : List (Nat × Nat)
  fences : List Nat
  st : EngState
deriving DecidableEq, Repr, Inhabited

/-- A stage binding (14 R197). -/
structure Binding where
  stage : Nat
  launch : Nat
  desc : Nat
  asid : Nat
  template : Nat
  words : Nat
  recWords : Nat
  quiet : Bool
  idle : Nat
  spillBase : Nat
  spillCap : Nat
  homes : List Home
  inFlight : List KRec
  drains : List DrainRec
  pushed : Nat
  created : Nat
  spills : Nat
  refills : Nat
  retirements : Nat
  ends : Nat
  /-- the release of the write of H that it waits for; none once the id is bound (14 R197) -/
  waiting : Option Nat
  /-- the tag of the counter writes at its end, when a fault has parked them -/
  parked : Option Nat
deriving DecidableEq, Repr, Inhabited

/-! ## Snapshots (17) -/

/-- A shadow of a line (17 R238). -/
structure Shadow where
  line : Nat
  asid : Nat
  level : Nat
  /-- its value while it is in the reserve -/
  bytes : List Byte
  seq : Nat
  /-- its line of the shadow pool; none in the reserve (17 R243) -/
  pool : Option Nat
  /-- the restored line's copy back has not ended (17 R236) -/
  copyBack : Bool
deriving DecidableEq, Repr, Inhabited

/-- A level of a region: first line, lines (17 R231). -/
structure Level where
  base : Nat
  len : Nat
deriving DecidableEq, Repr, Inhabited

/-- A snapshot region (17 R231, Table 17.4). -/
structure Region where
  asid : Nat
  /-- open levels, outermost first; none when FREE -/
  levels : List Level
  exhausted : Bool
  shadows : List Shadow
deriving DecidableEq, Repr, Inhabited

/-! ## Partitions (05, 21) -/

/-- A queue's control block (05 Table 5.2) and tail. -/
structure Queue where
  base : Nat
  logn : Nat
  en : Bool
  prio : Nat
  cls : Nat
  err : Nat
  head : Nat
  fetched : Nat
  tail : Nat
deriving DecidableEq, Repr, Inhabited

/-- A fault record waiting to be written (18 Table 18.3). -/
structure FaultRec where
  va : Nat
  pc : Nat
  lanes : Word
  token : Nat
  asid : Nat
  type : Nat
  kind : Nat
  engine : Nat
deriving DecidableEq, Repr, Inhabited

/-- A partition entry as latched by ACTIVATE (21 Table 21.3). -/
structure PartEntry where
  asidBase : Nat
  colour : Nat
  mode : Nat
  highMark : Nat
  droop : Nat
  s2root : Nat
  ring : Nat
  savePool : Nat
  saveSize : Nat
  quota : Nat
  dirtyBuf : Nat
  dirtySize : Nat
  stopReport : Nat
  links : Nat
  winAsid : Nat
  winVa : Nat
deriving DecidableEq, Repr, Inhabited

/-- A quadrant entry (21 Table 21.2). -/
structure QuadEntry where
  part : Nat
  en : Bool
  rsv7 : Bool
  bank0 : Nat
  nbank : Nat
  l1w : Nat
  sett : Nat
  stash : Nat
  mwin : Nat
  cpq : Nat
  recb : Nat
  rsv58 : Nat
deriving DecidableEq, Repr, Inhabited

/-- A created, unplaced child (05 R95). -/
structure Child where
  launch : Nat
  wave : Nat
  record : LaunchRec
  info : ChildInfo
  /-- the device-scope release of its SPAWN (05 R95) -/
  rel : Nat
deriving DecidableEq, Repr, Inhabited

/-- A SPAWN operation: children that have not completed (05 R95). -/
structure SpawnOp where
  tag : Nat
  /-- the block that issued it -/
  block : Nat
  href : Option HRef
  left : Nat
  dropped : Bool
deriving DecidableEq, Repr, Inhabited

/-- The attestation page (21 R287). -/
structure Attest where
  nonce : BitVec 256
  dest : BitVec 64
  status : Nat
  busyNonce : BitVec 256
deriving DecidableEq, Repr, Inhabited

/-- A stage-2 fault that Bruin holds (18 R256). -/
structure S2Fault where
  core : Nat
  asid : Nat
  granule : Nat
deriving DecidableEq, Repr, Inhabited

/-- A partition (05 R83, 21 R271). -/
structure Part where
  state : Nat
  reason : Nat
  /-- a stop in progress: reason and detail (21 R278) -/
  stopping : Option (Nat × Nat)
  detail : Nat
  entry : PartEntry
  slices : List Nat
  quads : List (Nat × QuadEntry)
  queues : Table Queue
  latched : Table Nat
  /-- the queue served last, by PRIO (05 R86) -/
  lastQueue : Table Nat
  childCounter : Nat
  /-- the stamp at which all eight candidates were skipped for its next child (05 R92, R94) -/
  childSkipped : Option Nat
  waveCounter : Nat
  tagCounter : Nat
  children : List Child
  spawns : List SpawnOp
  regions : List Region
  poolBase : Nat
  poolSize : Nat
  ringLogn : Option Nat
  ringTail : Nat
  faults : List FaultRec
  s2faults : List S2Fault
  /-- save areas in use: offset, size -/
  areas : List (Nat × Nat)
  /-- raster work and records that a DESCHED has taken out of the cores: core and item, core and record (21 R277) -/
  work : List (Nat × WorkItem)
  held : List (Nat × Nat × KRec)
  dirty : List Nat
  dirtyOvf : Bool
  bindings : List Binding
  attest : Attest
  bypass : Nat
  corrected : Nat
  /-- scratch, barriers, rings and bindings of saved blocks were copied to the pool (21 R277) -/
  descheduled : Bool
deriving DecidableEq, Repr

/-! ## Memory system (06, 08) -/

/-- A translation of a 64 KiB granule (18 R253, R254); `ok = false` is a stage-1 fault found by the walk. -/
structure Right where
  ok : Bool
  /-- guest-physical granule (21 R279) -/
  ipa : Nat
  /-- output address of the granule -/
  pa : Nat
  tgt : Nat
  peer : Nat
  attr : Nat
  /-- combined permissions -/
  r : Bool
  w : Bool
  x : Bool
  /-- permissions of stage 1 alone -/
  r1 : Bool
  w1 : Bool
  x1 : Bool
deriving DecidableEq, Repr, Inhabited

/-- A home line of L2 (06 R117-R123, 08 Table 8.1). -/
structure L2Line where
  valid : BitVec 4
  dirty : BitVec 4
  prio : Nat
  pinned : Bool
  /-- the block whose block-scope STREL last wrote it (08 R155) -/
  lt : Option Nat
  /-- the owning stash window: block, window (06 R131) -/
  owner : Option (Nat × Nat)
  /-- sectors that hold copies (06 R118) -/
  copies : List Nat
  /-- the way of its set that holds it; none: L2 does not hold the line, and only its home's own records of it are here -/
  way : Option Nat
  /-- the stamp of its last use (06 R122) -/
  used : Nat
  pa : Nat
  /-- writers of each dirty sector: sector, wave (08 Table 8.3 system scope) -/
  writers : List (Nat × Nat)
deriving DecidableEq, Repr, Inhabited

/-- An L1 line of 64 bytes in the view of a block, with the home stamp of each byte (06 R114, 08 Table 8.1, R146). -/
structure L1Line where
  block : Nat
  asid : Nat
  line : Nat
  bytes : List (Byte × Nat)
deriving DecidableEq, Repr, Inhabited

/-- A read-only copy in a sector (06 R118). -/
structure Copy where
  sec : Nat
  asid : Nat
  line : Nat
  bytes : List (Byte × Nat)
  peer : Bool
  /-- its way in the set of its copy slice, its priority and the stamp of its last use (06 R118, R122) -/
  way : Nat
  prio : Nat
  used : Nat
deriving DecidableEq, Repr, Inhabited

/-- A line of the memory-side SRAM cache: 256 bytes, and a dirty bit for each 64-byte sector (06 R119). -/
structure SramLine where
  bytes : List Byte
  dirty : BitVec 4
deriving DecidableEq, Repr, Inhabited

/-- The commute f32 additions to one location since another write to it (08 R158): the value before them, each addend with its wave's RND,
and the value they have left. -/
structure SumRec where
  base : Nat
  adds : List (Nat × Nat)
  now : Nat
deriving DecidableEq, Repr, Inhabited

/-- An invalidation in IQ(S) (08 Table 8.1). -/
structure Inval where
  /-- the waves whose write sent it -/
  waves : List Nat
  sec : Nat
  asid : Nat
  line : Nat
  seq : Nat
deriving DecidableEq, Repr, Inhabited

/-- A write in transit through a port (08 Table 8.1 FP, SP). -/
structure PortWrite where
  seq : Nat
  /-- the waves whose writes it carries -/
  waves : List Nat
  /-- the stamp at which its access was checked (21 R276) -/
  born : Nat
  asid : Nat
  va : Nat
  tgt : Nat
  peer : Nat
  addr : Nat
  bytes : List Byte
deriving DecidableEq, Repr, Inhabited

/-- A core and its shared units (01 Table 1.2). -/
structure Core where
  clk : BitVec 64
  gated : Bool
  clock : Nat
  temp : Int
  droop : Nat
  /-- droop events by partition since its last SENSE 1 (21 Table 21.8) -/
  droopSeen : Table Nat
  /-- CLK of the latest droop events (05 R92) -/
  droopAt : List Nat
  /-- the stamp at which it last freed room (05 R92) -/
  freedAt : Nat
  rights : Table Right
  icache : Table (List Word)
  l1 : List L1Line
  copyQ : List CopyOp
  work : List WorkItem
  held : List (Nat × KRec)
deriving DecidableEq, Repr

/-- A quadrant (04 R76, 12). -/
structure Quad where
  slots : List (Option (Nat × Nat))
  mxq : List MxCmd
  lease : Option Nat
  leaseUsed : Nat
  mxprog : Nat
deriving DecidableEq, Repr

/-! ## Presentation (15) and the module (21) -/

/-- A complete frame of a link (15 R226). -/
structure Frame where
  no : Nat
  base : Nat
  pitch : Nat
  width : Nat
  height : Nat
  asid : Nat
  part : Nat
deriving DecidableEq, Repr, Inhabited

/-- A PRESENT whose release has not completed (15 R226). -/
structure Presenting where
  wave : Nat
  rel : Nat
  link : Nat
  frame : Frame
deriving DecidableEq, Repr, Inhabited

/-- A presentation link (15 Tables 15.9-15.11). -/
structure Link where
  deadline : Nat
  shown : Nat
  newest : Nat
  frame : Option Frame
  /-- the image last shown -/
  image : Option Frame
  reproj : Nat
  drops : Nat
  poseSeq : Word
  pose : Vector Word 9
  goodPose : Option (Vector Word 9)
  /-- a reading of the pose under way: POSESEQ as it was read first, and POSE once it has been read (15 R228) -/
  reading : Option (Word × Option (Vector Word 9))
  mode : Vector Word 6
  hpd : Bool
  trained : Bool
  active : Bool
  hpdchg : Bool
  lanes : Nat
  rate : Nat
  err : Nat
  line : Nat
  /-- a mode checked by MODEGO that starts at the next frame boundary -/
  pendingMode : Option (Vector Word 6)
  sentMode : Vector Word 6
  auxBusy : Bool
  auxStat : Nat
  auxCount : Nat
  auxData : BitVec 128
  auxCmd : Word
  auxDefers : Nat
  /-- pixels last put on the link, for the frames shown: the image, or none for black -/
  output : Option Frame
  reprojected : Bool
  /-- frames that a fault keeps from being complete: the tag of the parked read, the frame, and whether it is the image shown (23 R376) -/
  parked : List (Nat × Frame × Bool)
deriving DecidableEq, Repr

/-- A machine-check record (21 R285). -/
structure McRecord where
  unit : Nat
  num : Nat
deriving DecidableEq, Repr, Inhabited

/-- A port of PZ link (21 R283). -/
structure PzPort where
  up : Bool
  replays : Nat
deriving DecidableEq, Repr, Inhabited

/-- The module's own registers and Bruin's state (21 R271). -/
structure Module where
  booted : Bool
  revision : Nat
  /-- the command in progress: op, partition -/
  cmd : Option (Nat × Nat)
  /-- the order stamp at its start (21 R276) -/
  cmdAt : Nat
  cmdArg : BitVec 64
  cmdErr : Nat
  powerLimit : Nat
  scrub : Bool
  /-- partition, quadrant and colour entries as bytes at their PF BAR0 offsets (21 Table 21.1) -/
  entries : Memory
  corrected : Table Nat
  mcheck : Option McRecord
  /-- raised MSI-X interrupts: function (0 PF, p + 1 VF), vector -/
  msix : List (Nat × Nat)
  ports : Table PzPort
  sigIndex : Nat
  procmon : Vector Int 2
  /-- the answer to the host's last read of BAR4, of an atomic or of a fabric access; none is Unsupported Request -/
  reply : Option (List Byte)
  /-- accesses not yet forwarded are counted by granule key (18 R255) -/
  counters : Table Nat
deriving DecidableEq, Repr

/-! ## The model's own -/

/-- Which agent moves next (log 1). -/
inductive Turn where
  /-- split sp of wave w issues -/
  | issue (w sp : Nat)
  /-- a step of the device that has no instruction word -/
  | event (i : Instr)
  /-- n cycles of core c pass (log 3) -/
  | elapse (c n : Nat)
  /-- a sensor reading arrives: core temperature in 1/16 °C -/
  | sensor (c : Nat) (t : Int)
  /-- the host writes its own memory -/
  | hostStore (a : Nat) (bytes : List Byte)
  /-- software sets an ASID's stage-1 root (log 8) -/
  | setRoot (asid root : Nat)
  /-- the host places the BAR0 of partition p's VF (log 76) -/
  | setBar (p base : Nat)
  /-- a byte range of a peer's window changes: the peer's module id + 64 · partition, offset (21 R283) -/
  | peerStore (window a : Nat) (bytes : List Byte)
  /-- a quadrant's engine does one row or k-step of command n (12 R193) -/
  | mxStep (q n : Nat)
  /-- the presentation engine of a link reads POSESEQ, or POSE after it (15 R228) -/
  | poseRead (link : Nat)
  /-- n lines of a link's frame pass (15 Table 15.10 LINE) -/
  | scan (link n : Nat)
deriving DecidableEq, Repr, Inhabited

/-- The split that issues now, its PC and the next PC of 03 R41 (log 1). -/
structure Issue where
  wave : Nat
  split : Nat
  pc : Nat
  next : Nat
  /-- the slot carries a switch marker (03 Table 3.1) -/
  marked : Bool
deriving DecidableEq, Repr, Inhabited

end Sys2Proof.Machine
end

