-- ==== Sys2Proof/Machine/State.lean ====
section
/-! DEFINITION. The machine's state, whole: everything INVENTORY.md lists under State, as plain data. Tables list only what
differs from the value right after reset (`Core.reset`, `Quad.reset`, `Part.reset`, `Link.reset`). -/

namespace Sys2Proof.Machine

/-- A core right after reset (21 start-up, logs 1 and 7): CLK 0 (22 R311), clock running at 2.4 GHz, every unit empty. -/
def Core.reset : Core :=
  { clk := 0, gated := false, clock := 0, temp := 0, droop := 0, droopSeen := [], droopAt := [], freedAt := 0, rights := [], icache := [],
    l1 := [], copyQ := [], work := [], held := [] }

/-- A quadrant right after reset: no split, an empty matrix queue. -/
def Quad.reset : Quad :=
  { slots := [none, none, none, none, none, none, none, none], mxq := [], lease := none, leaseUsed := 0, mxprog := 0 }

/-- A queue right after reset (05 Table 5.2): every field 0. -/
def Queue.reset : Queue := { base := 0, logn := 0, en := false, prio := 0, cls := 0, err := 0, head := 0, fetched := 0, tail := 0 }

/-- A snapshot region that is FREE (17 R231). -/
def Region.free : Region := { asid := 0, levels := [], exhausted := false, shadows := [] }

/-- A partition entry of zeros (21 Table 21.3, log 7). -/
def PartEntry.zero : PartEntry :=
  { asidBase := 0, colour := 0, mode := 0, highMark := 0, droop := 0, s2root := 0, ring := 0, savePool := 0, saveSize := 0,
    quota := 0, dirtyBuf := 0, dirtySize := 0, stopReport := 0, links := 0, winAsid := 0, winVa := 0 }

/-- A partition right after reset: STATE 2 with REASON 0 (05 Table 5.3, 21 start-up); counters as log 7 says. -/
def Part.reset : Part :=
  { state := 2, reason := 0, stopping := none, detail := 0, entry := PartEntry.zero, slices := [], quads := [], queues := [],
    latched := [], lastQueue := [], childCounter := 0, childSkipped := none, waveCounter := 0, tagCounter := 1, children := [], spawns := [],
    regions := List.replicate 16 Region.free, poolBase := 0, poolSize := 0, ringLogn := none, ringTail := 0,
    faults := [], s2faults := [], areas := [], work := [], held := [], dirty := [], dirtyOvf := false, bindings := [],
    attest := { nonce := 0, dest := 0, status := 0, busyNonce := 0 }, bypass := 0, corrected := 0, descheduled := false }

/-- A presentation link right after reset (15 Tables 15.9 to 15.11, log 7). -/
def Link.reset : Link :=
  { deadline := 0, shown := 0xFFFFFFFF, newest := 0xFFFFFFFF, frame := none, image := none, reproj := 0, drops := 0,
    poseSeq := 0, pose := Vector.replicate 9 0, goodPose := none, reading := none, mode := Vector.replicate 6 0, hpd := false, trained := false,
    active := false, hpdchg := false, lanes := 0, rate := 0, err := 0, line := 0, pendingMode := none,
    sentMode := Vector.replicate 6 0, auxBusy := false, auxStat := 0, auxCount := 0, auxData := 0, auxCmd := 0, auxDefers := 0,
    output := none, reprojected := false, parked := [] }

/-- The module right after reset, Bruin up (21 start-up): SCRUB 1, entries 0, the rest as log 7 says. -/
def Module.reset : Module :=
  { booted := true, revision := Config.revision, cmd := none, cmdAt := 0, cmdArg := 0, cmdErr := 0, powerLimit := 1500, scrub := true,
    entries := [], corrected := [], mcheck := none, msix := [], ports := [], sigIndex := 0, procmon := #v[1024, 1024],
    reply := none, counters := [] }

/-- The state of the machine. -/
structure State where
  /-- free values drawn so far (log 2) -/
  free : Nat
  /-- order stamps given so far (log 2) -/
  seq : Nat
  /-- which agents move next (log 1) -/
  turns : List Turn
  /-- the split that issues now (log 1) -/
  issue : Option Issue
  module : Module
  parts : Table Part
  cores : Table Core
  quads : Table Quad
  launches : Table Launch
  blocks : Table Block
  waves : Table Wave
  links : Table Link
  /-- PRESENTs that wait for their release (15 R226) -/
  presenting : List Presenting
  /-- SSBUILDs in the six Lynx queues (15 R214) -/
  builds : List BuildOp
  /-- slice-queue operations of all blocks, in the order they entered (08 Table 8.8) -/
  sliceQ : List SliceOp
  /-- fences placed by QFENCE (08 R160) -/
  qfences : List QFenceRec
  /-- deliveries of mirrored windows in flight (06 R136) -/
  deliveries : List Delivery
  /-- PT: the bytes of GDDR7, by device physical address (08 Table 8.1) -/
  pt : Memory
  /-- PT: the lines of the memory-side SRAM caches, by physical address / 256 (06 R119) -/
  sram : Table SramLine
  /-- host memory as this device reaches it (18 R255) -/
  host : Memory
  /-- peer memory, at window · 2^64 + offset; a window is a module's for one partition number (21 R283) -/
  peers : Memory
  /-- H: bytes of the valid sectors of home lines, by ASID · 2^56 + address (08 Table 8.1) -/
  home : Memory
  /-- H: the stamp of the last write performed to a byte (08 R146) -/
  stamps : Table Nat
  /-- H: commute f32 additions not yet overwritten, by ASID · 2^56 + address (08 R158) -/
  sums : Table SumRec
  /-- H: home lines by ASID · 2^48 + address / 256 -/
  lines : Table L2Line
  /-- SC(S) of the six sectors -/
  copies : List Copy
  /-- IQ(S) of the six sectors, oldest first -/
  invals : List Inval
  /-- FP and SP -/
  portWrites : List PortWrite
  /-- the translation homes' TLBs, by ASID · 2^40 + granule (18 R254) -/
  tlb : Table Right
  /-- stage-1 roots by ASID (log 8) -/
  roots : Table Nat
  /-- the host-physical address of each partition's VF BAR0, as the host has placed it (21 Table 21.7, log 76) -/
  bars : Table Nat
deriving DecidableEq, Repr

/-- Why the machine stops. -/
inductive Fault where
  /-- Raised by the meaning of an instruction word when no split issues it (the word is issued by nobody, 04 R76). Safe: `step`
  always names a live split before it runs a word, so no run meets it. -/
  | noIssuer
deriving DecidableEq, Repr

/-- Why an instruction has no meaning. -/
inductive Refusal where
  /-- Raised by an arm of `exec` that has no meaning yet, with the row's mnemonic. Safe: nothing is claimed of it. -/
  | notModelled (mnemonic : String)
deriving DecidableEq, Repr

/-- The machine right after reset (21 start-up): Bruin accepts commands, every partition is stopped with REASON 0, nothing is
listed in memory. -/
def State.reset : State :=
  { free := 0, seq := 1, turns := [], issue := none, module := Module.reset, parts := [], cores := [], quads := [],
    launches := [], blocks := [], waves := [], links := [], presenting := [], builds := [], sliceQ := [], qfences := [],
    deliveries := [], pt := [], sram := [], sums := [], host := [], peers := [], home := [], stamps := [], lines := [], copies := [], invals := [],
    portWrites := [], tlb := [], roots := [], bars := [] }

end Sys2Proof.Machine
end

