-- ==== Sys2Proof/Machine/Ops.lean ====
section
/-! DEFINITION. The operations every meaning is built from: reading and changing the records of State, lane masks, the mould of
an instruction word (checks in rank order, then its own effect), and taking a trap and returning from one (18 R245 to R251). -/

namespace Sys2Proof.Machine

/-! ## Lane masks -/

/-- Bit l of a mask. -/
def bit (m : Word) (l : Nat) : Bool := m.getLsbD l

/-- The mask with only bit l set. -/
def laneBit (l : Nat) : Word := 1#32 <<< l

/-- The mask of the lanes that satisfy f. -/
def maskOf (f : Nat → Bool) : Word := lanes.foldl (fun m l => if f l then m ||| laneBit l else m) 0#32

/-- The lanes of a mask, ascending. -/
def lanesOf (m : Word) : List Nat := lanes.filter (bit m)

/-- The number of set bits. -/
def popcount (m : Word) : Nat := (lanesOf m).length

/-- All 32 lanes. -/
def allLanes : Word := 0xFFFFFFFF#32

/-- A 32-bit word of a number. -/
def word (n : Nat) : Word := BitVec.ofNat 32 n

/-- 2^64, the modulus of addresses (06 R108). -/
def two64 : Nat := 18446744073709551616

/-- Reading a list by position. -/
def nth {α : Type} (xs : List α) (i : Nat) (dflt : α) : α := (xs[i]?).getD dflt

/-- Reading a vector by position. -/
def vget {α : Type} {n : Nat} (xs : Vector α n) (i : Nat) (dflt : α) : α := (xs[i]?).getD dflt

/-- Writing a vector by position; a position beyond it changes nothing. -/
def vset {α : Type} {n : Nat} (xs : Vector α n) (i : Nat) (x : α) : Vector α n := xs.setIfInBounds i x

/-! ## Reading and changing State -/

def State.core (s : State) (c : Nat) : Core := (s.cores.find c).getD Core.reset
def State.quad (s : State) (q : Nat) : Quad := (s.quads.find q).getD Quad.reset
def State.part (s : State) (p : Nat) : Part := (s.parts.find p).getD Part.reset
def State.link (s : State) (l : Nat) : Link := (s.links.find l).getD Link.reset
def State.wave? (s : State) (w : Nat) : Option Wave := s.waves.find w
def State.block? (s : State) (b : Nat) : Option Block := s.blocks.find b
def State.launch? (s : State) (l : Nat) : Option Launch := s.launches.find l

def State.setCore (s : State) (c : Nat) (x : Core) : State := { s with cores := s.cores.put c x }
def State.setQuad (s : State) (q : Nat) (x : Quad) : State := { s with quads := s.quads.put q x }
def State.setPart (s : State) (p : Nat) (x : Part) : State := { s with parts := s.parts.put p x }
def State.setLink (s : State) (l : Nat) (x : Link) : State := { s with links := s.links.put l x }
def State.setWave (s : State) (w : Nat) (x : Wave) : State := { s with waves := s.waves.put w x }
def State.setBlock (s : State) (b : Nat) (x : Block) : State := { s with blocks := s.blocks.put b x }
def State.setLaunch (s : State) (l : Nat) (x : Launch) : State := { s with launches := s.launches.put l x }

def State.modCore (s : State) (c : Nat) (f : Core → Core) : State := s.setCore c (f (s.core c))
def State.modQuad (s : State) (q : Nat) (f : Quad → Quad) : State := s.setQuad q (f (s.quad q))
def State.modPart (s : State) (p : Nat) (f : Part → Part) : State := s.setPart p (f (s.part p))
def State.modLink (s : State) (l : Nat) (f : Link → Link) : State := s.setLink l (f (s.link l))
def State.modWave (s : State) (w : Nat) (f : Wave → Wave) : State := { s with waves := s.waves.modify w f }
def State.modBlock (s : State) (b : Nat) (f : Block → Block) : State := { s with blocks := s.blocks.modify b f }
def State.modLaunch (s : State) (l : Nat) (f : Launch → Launch) : State := { s with launches := s.launches.modify l f }

/-- The next order stamp, and the state that has given it (log 2). -/
def State.stamp (s : State) : Nat × State := (s.seq, { s with seq := s.seq + 1 })

/-- The state with one free value drawn (log 2); the value is a `Config` constant applied to the counter before. -/
def State.drawn (s : State) : State := { s with free := s.free + 1 }

/-- The keys of a table. -/
def Table.keys {α : Type} (t : Table α) : List Nat := t.map (·.1)

/-- A key no record of a table has: one above the highest. -/
def Table.fresh {α : Type} (t : Table α) : Nat := t.foldl (fun m e => max m (e.1 + 1)) 0

/-- Split k of a wave. -/
def Wave.split? (w : Wave) (k : Nat) : Option Split := w.splits.find? fun x => x.num == k

/-- Change split k of a wave. -/
def Wave.modSplit (w : Wave) (k : Nat) (f : Split → Split) : Wave :=
  { w with splits := w.splits.map fun x => if x.num = k then f x else x }

def State.modSplit (s : State) (w k : Nat) (f : Split → Split) : State := s.modWave w fun x => x.modSplit k f

/-- The partition runs: STATE 0 or 3, with no stop in progress (05 Table 5.3, 21 R278). -/
def Part.running (p : Part) : Bool := (p.state == 0 || p.state == 3) && p.stopping.isNone

/-- Waves may be placed: the partition runs and no DESCHED is under way (21 R277). -/
def State.placing (s : State) (p : Nat) : Bool := (s.part p).running && s.module.cmd != some (3, p)

/-- Start-up, test or recovery mode (18 R251). -/
def Part.special (p : Part) : Bool := p.state == 3

/-- Die and sector of a core (01 Table 1.1). -/
def dieOf (c : Nat) : Nat := c / 72
def sectorOf (c : Nat) : Nat := c / Config.coresPerSector

/-- The home key of a byte: its ASID and virtual address (08 R144). -/
def gkey (asid va : Nat) : Nat := asid * Config.vaEnd + va

/-- The key of a 256-byte home line. -/
def lkey (asid line : Nat) : Nat := asid * 281474976710656 + line

/-- The ASID of a wave: the base of its partition's range (21 Table 21.3). -/
def State.asidOf (s : State) (p : Nat) : Nat := (s.part p).entry.asidBase

/-- The owner's share fields: the entry of its lowest-numbered quadrant in a core (21 R272). -/
def Part.shareIn (p : Part) (core : Nat) : Option QuadEntry :=
  (p.quads.find? fun e => e.1 / 4 == core).map (·.2)

/-- The quadrants a partition owns in a core, ascending. -/
def Part.quadsIn (p : Part) (core : Nat) : List Nat := (p.quads.map (·.1)).filter fun q => q / 4 == core

/-- The cores in which a partition owns a quadrant, ascending (05 R92). -/
def Part.coreList (p : Part) : List Nat := (upTo Config.cores).filter fun c => p.quads.any fun e => e.1 / 4 == c

/-- Raise an MSI-X interrupt (21 Table 21.7): function 0 is the PF, p + 1 the VF of partition p. -/
def State.raiseMsix (s : State) (fn vec : Nat) : State :=
  { s with module := { s.module with msix := s.module.msix ++ [(fn, vec)] } }

/-- A partition begins to stop (21 R278, Table 21.6): from now on none of its waves issues. A stopped partition, or one that is
stopping, stays as it is. -/
def State.beginStop (s : State) (p reason detail : Nat) : State :=
  s.modPart p fun x => if x.state = 2 ∨ x.stopping.isSome then x else { x with stopping := some (reason, detail) }

/-! ## Handles (22 R328) -/

/-- The operation of a tag ends: the handle that waits for it takes its final state. -/
def State.endHandle (s : State) (h : Option HRef) (tag : Nat) (st : HState) : State :=
  match h with
  | none => s
  | some r => s.modWave r.wave fun w =>
      if vget w.h r.reg .empty = .pending tag then { w with h := vset w.h r.reg st } else w

/-- A handle is pending (04 R63). -/
def HState.isPending : HState → Bool
  | .pending _ => true
  | _ => false

/-- The tags that a sample-set binding's operations hold. -/
def SampleBind.tags (b : SampleBind) : List Nat := (b.draws.flatMap fun d => d.tag :: d.parked.toList) ++ (b.parked.map (·.1)).toList

/-- The tags that a stage binding's operations hold. -/
def Binding.tags (b : Binding) : List Nat :=
  b.parked.toList ++ b.drains.map (·.tag) ++ b.homes.flatMap fun h => h.ctxs.filterMap (·.parked)

/-- The tags of a partition's pending operations (18 R259, 22 R330). -/
def State.tagsOf (s : State) (p : Nat) : List Nat :=
  let x := s.part p
  let here (b : Nat) : Bool := (s.block? b).any fun y => y.part == p
  (s.cores.flatMap fun e => (e.2.copyQ.filter (·.part == p)).map (·.tag) ++ (e.2.work.filter (·.part == p)).map (·.tag)) ++
  x.work.map (·.2.tag) ++ x.spawns.map (·.tag) ++ x.bindings.flatMap Binding.tags ++
  (s.sliceQ.filter fun o => here o.block).map (·.tag) ++ (s.quads.flatMap fun e => (e.2.mxq.filter fun o => here o.block).map (·.tag)) ++
  (s.builds.filter (·.part == p)).map (·.tag) ++ (s.qfences.filter (·.part == p)).map (·.tag) ++
  ((s.launches.filter (·.2.part == p)).flatMap fun e => (e.2.bind.toList ++ e.2.past).flatMap SampleBind.tags) ++
  (s.links.flatMap fun e => (e.2.parked.filter (·.2.1.part == p)).map (·.1)) ++
  (s.blocks.filter (·.2.part == p)).flatMap fun e => e.2.windows.flatMap fun w => w.lines.filterMap (·.parked)

/-- The tag after one: 32 bits, never 0. -/
def tagAfter (t : Nat) : Nat := if 4294967295 ≤ t then 1 else t + 1

/-- The first tag from t on that is not held, among the next n. -/
def freeTag (held : List Nat) : Nat → Nat → Nat
  | 0, t => t
  | n + 1, t => if held.contains t then freeTag held n (tagAfter t) else t

/-- The next operation tag of a partition, unique among its pending operations (22 R330). -/
def State.takeTag (s : State) (p : Nat) : Nat × State :=
  let held := s.tagsOf p
  let t := freeTag held (held.length + 1) (s.part p).tagCounter
  (t, s.modPart p fun x => { x with tagCounter := tagAfter t })

/-- What a QFENCE waits for has come: fences that wait for nothing end and complete their handles (08 R160). -/
def State.endWaits (s : State) (gone : Nat → Bool) : State :=
  let fs := s.qfences.map fun f => { f with waits := f.waits.filter fun t => !(gone t) }
  let ended := fs.filter fun f => f.waits.isEmpty
  let s := { s with qfences := fs.filter fun f => !f.waits.isEmpty }
  ended.foldl (fun s f => s.endHandle f.href f.tag .done) s

/-- An operation ends: no QFENCE waits for it any more. -/
def State.endOp (s : State) (tag : Nat) : State := s.endWaits fun t => t == tag

/-! ## Causes (18 Table 18.1) -/

namespace Cause
def illegal : Nat := 0x01
def badTarget : Nat := 0x02
def illConv : Nat := 0x03
def hazard : Nat := 0x04
def misalign : Nat := 0x05
def aperture : Nat := 0x06
def snapFull : Nat := 0x07
def wbFault : Nat := 0x08
def convDead : Nat := 0x09
def stackOvf : Nat := 0x0A
def spawnDepth : Nat := 0x0B
def brk : Nat := 0x0C
def preempt : Nat := 0x0D
def role : Nat := 0x0E
def engFail : Nat := 0x0F
end Cause

/-! ## MODE (03 Table 3.6) -/

def mType (m : Word) : Nat := m.toNat % 16
def mRnd (m : Word) : Nat := m.toNat / 16 % 8
def mSat (m : Word) : Bool := m.getLsbD 7
def mGuard (m : Word) : Nat := m.toNat / 256 % 8
def mGneg (m : Word) : Bool := m.getLsbD 11
def mCpol (m : Word) : Nat := m.toNat / 4096 % 8
def mScope (m : Word) : Nat := m.toNat / 32768 % 8
def mAuse (m : Word) : Nat := m.toNat / 262144 % 8

/-- The value a read of p register r gives; p0 reads all ones (03 R51). -/
def Wave.readP (w : Wave) (r : Nat) : Word := if r = 0 then allLanes else vget w.p r 0

/-- ACT: EXEC and the guard (03 R58). -/
def actOf (w : Wave) (sp : Split) : Word :=
  sp.exec &&& (w.readP (mGuard sp.mode) ^^^ (if mGneg sp.mode then allLanes else 0))

/-! ## Register writes -/

/-- Write the lanes of a mask of vector register r. -/
def Wave.writeV (w : Wave) (r : Nat) (mask : Word) (f : Nat → Word) : Wave :=
  let old := vget w.v r (Vector.replicate 32 0)
  { w with v := vset w.v r (Vector.ofFn fun l => if bit mask l.val then f l.val else vget old l.val 0) }

/-- Write a scalar register. -/
def Wave.writeS (w : Wave) (r : Nat) (x : Word) : Wave := { w with s := vset w.s r x }

/-- Write a predicate; a write to p0 is ignored (03 R51). -/
def Wave.writeP (w : Wave) (r : Nat) (x : Word) : Wave := if r = 0 then w else { w with p := vset w.p r x }

/-- Read a scalar register. -/
def Wave.readS (w : Wave) (r : Nat) : Word := vget w.s r 0

/-- Read a lane of a vector register. -/
def Wave.readV (w : Wave) (r l : Nat) : Word := vget (vget w.v r (Vector.replicate 32 0)) l 0

/-- A scalar pair as a 64-bit value, low word first. -/
def Wave.readS2 (w : Wave) (r : Nat) : Nat := (w.readS r).toNat + 4294967296 * (w.readS (r + 1)).toNat

/-- Apply one register write of a result. -/
def Wave.apply (w : Wave) : RegWrite → Wave
  | .v r mask xs => w.writeV r mask fun l => vget xs l 0
  | .s r x => w.writeS r x
  | .p r x => w.writeP r x

/-- Pending-write codes of a split: the registers its long-latency instructions have not written (04 R78). -/
def Wave.sbOf (w : Wave) (k : Nat) : List Nat := (w.pend.filter fun p => p.split == k).flatMap (·.codes)

/-- The scoreboards of all splits are clear. -/
def Wave.sbClear (w : Wave) : Bool := w.pend.isEmpty

/-! ## The reconvergence stack (04 R68 to R71) -/

/-- The bottom position of the entry at a top index (04 R65). -/
def bottomPos (depth top : Nat) : Nat := depth - 1 - top

/-- The entry at a bottom position. -/
def Wave.entryAt (w : Wave) (pos : Nat) : Option Entry := w.stack.reverse[pos]?

/-- Push an entry: every entry below keeps its bottom position (04 R65). -/
def Wave.push (w : Wave) (e : Entry) : Wave := { w with stack := e :: w.stack }

/-- What a JOIN becomes when the entry at a bottom position is popped (04 R70). -/
def joinAfterPop (pos : Nat) : Option Nat → Option Nat
  | none => none
  | some j => if j = pos then none else if pos < j then some (j - 1) else some j

/-- A split parked at an entry's rejoin keeps the entry when one beneath it is popped; without its entry it is ready (04 R70, R73). -/
def Park.afterPop (pos : Nat) : Park → Park
  | .rejoin k => if k = pos then .none else if pos < k then .rejoin (k - 1) else .rejoin k
  | p => p

/-- Pop the entry at a bottom position, wherever it stands (04 R70). -/
def Wave.popAt (w : Wave) (pos : Nat) : Wave :=
  { w with
    stack := ((w.stack.reverse.eraseIdx pos).reverse).map fun e =>
      if e.kind < 2 then e
      else
        let j := e.rejoin / 4294967296 % 65536
        let j' := match joinAfterPop pos (if j = 0 then none else some (j - 1)) with | none => 0 | some k => k + 1
        { e with rejoin := e.rejoin % 4294967296 + 4294967296 * j' }
    splits := w.splits.map fun x => { x with join := joinAfterPop pos x.join, park := x.park.afterPop pos } }

/-- Numbers of the live splits. -/
def Wave.splitNums (w : Wave) : List Nat := w.splits.map (·.num)

/-- Split numbers in use: those of live splits, and those that kind 2 and 3 entries name while a trap frame is on the stack
(04 R67). -/
def Wave.numsInUse (w : Wave) : List Nat :=
  w.splitNums ++ (if w.stack.any (fun e => e.kind == 3)
    then (w.stack.filter fun e => e.kind == 2 || e.kind == 3).map (·.owner) else [])

/-- The lowest free split number. -/
def Wave.freeNum (w : Wave) : Option Nat := [0, 1, 2, 3].find? fun k => !(w.numsInUse.contains k)

/-- Insert a split, splits standing in ascending number. -/
def insertSplit (x : Split) : List Split → List Split
  | [] => [x]
  | y :: ys => if x.num < y.num then x :: y :: ys else y :: insertSplit x ys

/-- A fresh split. -/
def newSplit (num pc : Nat) (live exec mode : Word) (join : Option Nat) (at_ : Nat) : Split :=
  { num := num, pc := pc, live := live, exec := exec, mode := mode, join := join, prog := 0, park := .none, entered := none,
    ready := false, acq := 0, readyAt := at_, parkedAt := at_ }

/-- Pack an entry into the 8 words of 04 Table 4.3. -/
def Entry.words (e : Entry) : List Word :=
  [word e.pc, word (e.pc / 4294967296), word e.rejoin, word (e.rejoin / 4294967296), e.mask, e.mode,
    word (e.kind + 16 * e.owner + 256 * e.cause), e.prog]

/-- Read an entry from 8 words; none for a reserved kind, a nonzero reserved field or a reserved MODE code (04 R69). -/
def Entry.ofWords (xs : List Word) : Option Entry :=
  let x (i : Nat) : Nat := (nth xs i 0).toNat
  let kind := x 6 % 8
  let cause := x 6 / 256 % 256
  let rejoin := x 2 + 4294967296 * x 3
  if kind > 3 ∨ x 6 / 8 % 2 ≠ 0 ∨ x 6 / 64 % 4 ≠ 0 ∨ x 6 / 65536 ≠ 0 ∨ (kind ≠ 3 ∧ cause ≠ 0) ∨
      (kind < 2 ∧ x 7 ≠ 0) ∨ (2 ≤ kind ∧ x 3 / 65536 ≠ 0) ∨ modeOk (x 5) = false then none
  else some { pc := x 0 + 4294967296 * x 1, rejoin := rejoin, mask := nth xs 4 0, mode := nth xs 5 0, kind := kind,
              owner := x 6 / 16 % 4, cause := cause, prog := nth xs 7 0, orphan := false }

/-- The EXEC field of a kind 2 or 3 entry. -/
def Entry.exec (e : Entry) : Word := word e.rejoin

/-- The JOIN field of a kind 2 or 3 entry. -/
def Entry.join (e : Entry) : Option Nat :=
  let j := e.rejoin / 4294967296 % 65536
  if j = 0 then none else some (j - 1)

/-- The entry trap entry pushes for a split (18 R246). -/
def splitEntry (x : Split) (pc kind cause : Nat) : Entry :=
  { pc := pc, rejoin := x.exec.toNat + 4294967296 * (match x.join with | none => 0 | some j => j + 1), mask := x.live,
    mode := x.mode, kind := kind, owner := x.num, cause := cause, prog := x.prog, orphan := false }

/-- The split goes on at a PC, ready; the progress of the instruction it leaves is over (18 Table 18.2). -/
def Split.goTo (x : Split) (pc : Nat) : Split := { x with pc := pc, prog := 0, park := .none }

/-- The split parks. -/
def Split.parkAs (x : Split) (p : Park) (at_ : Nat) : Split :=
  { x with park := p, parkedAt := if x.park = .none then at_ else x.parkedAt }

/-! ## Splits: arriving, merging, ending (04 R67, R71 to R74, R421) -/

/-- How many entries stand up to the topmost trap frame, counted from the bottom; 0 without one. Splits that issue while a frame
is on the stack are a handler's: the entries below the frame belong to the splits that its kind 2 and 3 entries stand for
(log 13). -/
def Wave.frameDepth (w : Wave) : Nat :=
  match w.stack.findIdx? fun e => e.kind == 3 with
  | none => 0
  | some i => w.stack.length - i

/-- The bottom positions of the stack from the top down, with their entries. -/
def Wave.positions (w : Wave) : List (Nat × Entry) := ((upTo w.stack.length).zip w.stack.reverse).reverse

/-- Split k owns an entry (04 R67, R68). -/
def Wave.owns (w : Wave) (k pos : Nat) (e : Entry) : Bool :=
  decide (e.kind < 2) && e.owner == k && !e.orphan && decide (w.frameDepth ≤ pos)

/-- The governing entry of split k: the topmost kind 0 or 1 entry that it owns or that its JOIN names (04 R71). -/
def Wave.governing (w : Wave) (k : Nat) : Option (Nat × Entry) :=
  let j := (w.split? k).bind (·.join)
  w.positions.find? fun pe => decide (pe.2.kind < 2) && (w.owns k pe.1 pe.2 || j == some pe.1)

/-- The lanes that lie in some split's LIVE, as an entry at a bottom position sees them: below a trap frame, those of the
stopped splits (04 R421, log 13). -/
def Wave.liveSeen (w : Wave) (pos : Nat) : Word :=
  if w.frameDepth ≤ pos then w.splits.foldl (fun m x => m ||| x.live) 0
  else (w.stack.filter fun e => decide (2 ≤ e.kind)).foldl (fun m e => m ||| e.mask) 0

/-- The held lanes of the kind 0 entry at a bottom position (04 R421). -/
def Wave.held (w : Wave) (pos : Nat) (e : Entry) : Word :=
  let above := (w.positions.filter fun pe => decide (pos < pe.1) && pe.2.kind == 0).foldl (fun m pe => m ||| pe.2.mask) 0
  e.mask &&& w.alive &&& ~~~(w.liveSeen pos) &&& ~~~above

/-- Change the entry at a bottom position. -/
def Wave.modEntry (w : Wave) (pos : Nat) (f : Entry → Entry) : Wave :=
  { w with stack := (w.stack.reverse.modify pos f).reverse }

/-- Entries of split k pass to split j. -/
def Wave.passEntries (w : Wave) (k j : Nat) : Wave :=
  { w with stack := (w.positions.map fun pe => if w.owns k pe.1 pe.2 then { pe.2 with owner := j } else pe.2) }

/-- A split number is freed (04 R67): the split's monitor is disarmed, and the entries it owned pass to the lowest-numbered split
whose JOIN names one, or are popped, but for kind 0 entries that hold lanes. -/
def Wave.freeEntries (w : Wave) (k : Nat) : Wave :=
  let ps := w.positions.filter fun pe => w.owns k pe.1 pe.2
  match w.splits.find? fun x => ps.any fun pe => x.join == some pe.1 with
  | some h => (w.passEntries k h.num).modSplit h.num fun x => { x with join := none }
  | none => ps.foldl (fun w pe =>
      if pe.2.kind = 0 ∧ w.held pe.1 pe.2 ≠ 0 then w.modEntry pe.1 fun e => { e with orphan := true } else w.popAt pe.1) w

/-- Numbers that a return from a trap leaves free: what they owned is freed as at an exit (04 R67, 18 R248). -/
def Wave.freeUnused (w : Wave) : Wave :=
  ([0, 1, 2, 3].filter fun k => !(w.numsInUse.contains k)).foldl (fun w k => { w with mons := w.mons.drop k }.freeEntries k) w

/-- Remove split k and free its number. -/
def Wave.freeSplit (w : Wave) (k : Nat) : Wave :=
  ({ w with splits := w.splits.filter fun x => x.num != k, mons := w.mons.drop k }).freeEntries k

/-- Split j takes in split k: entries, pending results and lanes' membership pass to it (04 R73, R74). DESIGN CHOICE (log 78): an
arrival at a rejoin does not wait for the scoreboard, so the merged split's pending results pass to the survivor. -/
def Wave.absorb (w : Wave) (j k : Nat) : Wave :=
  let acq := ((w.split? k).elim 0 (·.acq))
  let w1 := (w.passEntries k j).modSplit j fun x => { x with acq := max x.acq acq }
  { w1 with
    splits := w1.splits.filter fun x => x.num != k
    mons := w1.mons.drop k
    pend := w1.pend.map fun p => if p.split = k then { p with split := j } else p }

/-- Lanes exit (04 R67): they leave LIVE, EXEC and the mask of every stack entry. -/
def Wave.exitLanes (w : Wave) (k : Nat) (m : Word) : Wave :=
  let w1 : Wave := { w with alive := w.alive &&& ~~~m, stack := w.stack.map fun e => { e with mask := e.mask &&& ~~~m } }
  let w2 := w1.modSplit k fun x => { x with live := x.live &&& ~~~m, exec := x.exec &&& ~~~m }
  if (w2.split? k).any fun x => x.live == 0 then w2.freeSplit k else w2

/-- The result of looking for a condition of 04 R73 or R74 that holds. -/
inductive Settled where
  | none
  | merged (w : Wave)
  /-- the completion needs a fifth split: this split raises ILLCONV at this PC -/
  | illConv (split pc : Nat)

/-- A split goes on at slot 1 of a bundle. -/
def Split.enter (x : Split) (bundle at_ : Nat) : Split :=
  { x with pc := bundle + 4, park := .none, prog := 0, entered := none, readyAt := at_ }

/-- Pop the entry and set the splits that go on. -/
def Wave.finishOwned (w : Wave) (pos : Nat) (e : Entry) (sv : Nat) (apart : List Split) (lanes : Word) (fresh : Option Nat)
    (held : Word) (at_ : Nat) : Wave :=
  let w2 := (w.modSplit sv fun x => { x.enter e.rejoin at_ with live := lanes, exec := lanes }).popAt pos
  let j := (w2.governing sv).map (·.1)
  let w3 := apart.foldl (fun w x => w.modSplit x.num fun y => { y.enter e.rejoin at_ with join := j }) w2
  match fresh with
  | none => w3
  | some n => { w3 with splits := insertSplit (newSplit n (e.rejoin + 4) held held e.mode j at_) w3.splits }

/-- The kind 0 entry at a bottom position completes with its participants (04 R73). -/
def Wave.completeOwned (w : Wave) (pos : Nat) (e : Entry) (parts : List Split) (at_ : Nat) : Settled :=
  match (parts.find? fun x => w.owns x.num pos e).or parts.head? with
  | none => .none
  | some sv =>
    let held := w.held pos e
    let same := parts.filter fun x => x.mode == sv.mode && x.num != sv.num
    let apart := parts.filter fun x => x.mode != sv.mode
    let joins := held ≠ 0 ∧ e.mode = sv.mode
    let fresh := held ≠ 0 ∧ e.mode ≠ sv.mode
    let lanes := same.foldl (fun m x => m ||| x.live) (sv.live ||| (if joins then held else 0))
    let w1 := same.foldl (fun w x => w.absorb sv.num x.num) w
    match w1.freeNum with
    | none => if fresh then .illConv sv.num e.rejoin else .merged (w1.finishOwned pos e sv.num apart lanes none held at_)
    | some n => .merged (w1.finishOwned pos e sv.num apart lanes (if fresh then some n else none) held at_)
/-- A kind 0 entry that no split owns completes once all its lanes are held and a number is free (04 R73). -/
def Wave.completeOrphan (w : Wave) (pos : Nat) (e : Entry) (at_ : Nat) : Settled :=
  let held := w.held pos e
  if e.mask ≠ held then .none
  else if held = 0 then .merged (w.popAt pos)
  else
    match w.freeNum with
    | none => .none
    | some n =>
      let j := (w.positions.find? fun pe => decide (pe.1 < pos) && pe.2.kind == 0 && pe.2.mask &&& held == held).map (·.1)
      let w1 := w.popAt pos
      .merged { w1 with splits := insertSplit (newSplit n (e.rejoin + 4) held held e.mode j at_) w1.splits }

/-- A kind 0 entry whose condition of 04 R73 holds. -/
def Wave.settleEntry (w : Wave) (at_ : Nat) (pe : Nat × Entry) : Settled :=
  if pe.2.kind ≠ 0 ∨ pe.1 < w.frameDepth then .none
  else if pe.2.orphan then w.completeOrphan pe.1 pe.2 at_
  else
    let parts := w.splits.filter fun x => x.park == .rejoin pe.1
    let lanes := parts.foldl (fun m x => m ||| x.live) (w.held pe.1 pe.2)
    if parts.isEmpty ∨ pe.2.mask &&& ~~~lanes ≠ 0 then .none else w.completeOwned pe.1 pe.2 parts at_

/-- The condition of a split parked at a JOINW (04 R74). -/
def Split.joinWord (x : Split) : Option Word := match x.park with | .joinw m => some m | _ => none

/-- The splits parked at one JOINW merge when all their conditions hold (04 R74). -/
def Wave.settleJoinw (w : Wave) (at_ : Nat) (x0 : Split) : Settled :=
  match x0.joinWord with
  | none => .none
  | some _ =>
    let ps := w.splits.filter fun x => x.joinWord.isSome && x.pc == x0.pc
    let lanes := ps.foldl (fun m x => m ||| x.live) 0
    if ps.any fun x => ((x.joinWord.getD 0) &&& w.alive &&& ~~~lanes) != 0 then .none
    else
      let leads := ps.filter fun x => !(ps.any fun y => y.mode == x.mode && decide (y.num < x.num))
      let step (w : Wave) (l : Split) : Wave :=
        let ms := ps.filter fun y => y.mode == l.mode && y.num != l.num
        let live := ms.foldl (fun m y => m ||| y.live) l.live
        let exec := ms.foldl (fun m y => m ||| y.exec) l.exec
        (ms.foldl (fun w y => w.absorb l.num y.num) w).modSplit l.num fun y =>
          { y with pc := l.pc + (if l.pc % 32 = 28 then 8 else 4), park := .none, prog := 0, live := live, exec := exec, readyAt := at_ }
      .merged (leads.foldl step w)

/-- The first condition that holds, topmost entry first. -/
def Wave.settleOnce (w : Wave) (at_ : Nat) : Settled :=
  match (w.positions.map (w.settleEntry at_)).find? (fun r => match r with | .none => false | _ => true) with
  | some r => r
  | none =>
    match (w.splits.map (w.settleJoinw at_)).find? (fun r => match r with | .none => false | _ => true) with
    | some r => r
    | none => .none

/-! ## Acquires (08 Table 8.4) -/

/-- Flash-invalidate the L1 copies of an owner in a core (06 R116). -/
def State.flashL1 (s : State) (p core : Nat) : State :=
  { s with cores := s.cores.modify core fun c =>
      { c with l1 := c.l1.filter fun l => !((s.block? l.block).any fun b => b.part == p) } }

/-- Consume messages: the copies they name are dropped, which the home records, and sector-scope releases that wait for them go on (08
Table 8.2). -/
def State.consumeWhere (s : State) (f : Inval → Bool) : State :=
  let ms := s.invals.filter f
  let left := s.invals.filter fun m => !(f m)
  { s with
    copies := s.copies.filter fun c => !(ms.any fun m => m.sec == c.sec && m.asid == c.asid && m.line == c.line)
    lines := ms.foldl (fun t m => t.modify (lkey m.asid m.line) fun l => { l with copies := l.copies.filter (· ≠ m.sec) }) s.lines
    invals := left
    waves := s.waves.map fun e => (e.1, { e.2 with releases := e.2.releases.map fun r =>
      { r with invs := r.invs.filter fun q => left.any fun m => m.seq == q && m.sec == sectorOf e.2.core } }) }

/-- Clean sectors of the home lines of an ASID are taken from PT again (08 Table 8.4, system scope). -/
def State.dropClean (s : State) (asid : Nat) : State :=
  { s with lines := s.lines.map fun e =>
      if e.1 / 281474976710656 = asid then (e.1, { e.2 with valid := e.2.valid &&& e.2.dirty }) else e }

/-- A copy that an acquire of a scope drops besides those that messages name (08 Table 8.4): a peer line's, and at system scope every one
of the ASID that serves the wave's sector, which is as old as the acquire (01 R15). -/
def Copy.droppedBy (c : Copy) (asid scope sec : Nat) (sc : Bool) : Bool :=
  c.peer || (scope == 5 && c.asid == asid && (sc || c.sec == sec))

/-- The acquire actions of a scope for a wave (08 Table 8.4); `sc` is the sc form's addition (08 R152). -/
def State.acquireAt (s : State) (wi scope : Nat) (sc : Bool) : State :=
  match s.wave? wi with
  | none => s
  | some w =>
    let sec := sectorOf w.core
    if scope = 1 ∨ scope = 2 then s
    else
      let s1 := s.flashL1 w.part w.core
      let s2 := if scope = 3 then (if sc then s1.consumeWhere fun m => m.sec == sec else s1)
        else s1.consumeWhere fun m => sc || m.sec == sec
      let asid := s.asidOf w.part
      let s3 := if scope = 4 ∨ scope = 5 then { s2 with copies := s2.copies.filter fun c => !(c.droppedBy asid scope sec sc) } else s2
      if scope = 5 then s3.dropClean asid else s3

/-- An acquire of split k of a wave: loads that it issued before are satisfied before those it issues after (08 R149). -/
def State.acquireBy (s : State) (wi k scope : Nat) : State :=
  (s.acquireAt wi scope false).modSplit wi k fun x => { x with acq := s.seq }

/-! ## Waits (18 R419) -/

/-- How a wait stands. -/
inductive WaitRes where
  | stay
  /-- its condition is met: the instruction issues again and has its effect -/
  | issue
  /-- its condition is met: the state with its result written; the split goes on at the next PC -/
  | met (s : State)
  /-- it raises this cause with this FADDR -/
  | trap (cause faddr : Nat)

/-- A launch's predecessor has completed, or counts as complete (05 R96). -/
def State.predDone (s : State) (l : Nat) : Bool :=
  match s.launch? l with
  | none => true
  | some x => match x.pred with
    | none => true
    | some p => match s.launch? p with
      | none => true
      | some y => y.complete

/-- The wave's copies of a batch that have not been performed (06 R139); batches up to A and not more than 2^31 older. -/
def covered (a b : Nat) : Bool :=
  let d := (a + 4294967295 - b) % 4294967295
  decide (d ≤ 2147483648)

/-- The monitor status of a parked MWAIT (05 Table 5.7): none while nothing has woken it. -/
def State.monitorStatus (s : State) (w : Wave) (k t0 timeout : Nat) : Option Nat :=
  match w.mons.find k with
  | none => some 0
  | some m => match m.st with
    | .fired => some 1
    | .evicted => some 3
    | .saved => some 4
    | .armed => if timeout ≠ 0 ∧ timeout ≤ ((s.core w.core).clk.toNat + two64 - t0) % two64 then some 2 else none

/-- The bound stage of an id; a KBIND whose write of H is not performed has bound nothing yet (14 R197). -/
def Part.binding? (p : Part) (stage : Nat) : Option Binding := p.bindings.find? fun b => b.stage == stage && b.waiting.isNone

/-- The bound stage of an id of a partition. -/
def State.binding? (s : State) (p stage : Nat) : Option Binding := (s.part p).binding? stage

/-- The binding of a delivery's source has ended (06 R137, 21 R280). -/
def State.orphaned (s : State) (d : Delivery) : Bool :=
  !((s.block? d.src).any fun b => b.mirrors.any fun m => m.id == d.id && m.at_ == d.bind && !m.ended)

/-- MWBIND must wait (21 R280, 06 R135): another launch of the partition holds a binding of the id in the sector, a delivery of an ended
binding of it is in flight there, or the owner's windows are all in use. An ended binding holds its window until its deliveries are
performed (06 R137). -/
def State.mirrorBusy (s : State) (w : Wave) (id : Nat) : Bool :=
  let sec := sectorOf w.core
  let share := ((s.part w.part).shareIn w.core).elim 0 (·.mwin)
  let inUse := (s.blocks.filter fun e => e.2.part == w.part && e.2.core == w.core).flatMap fun e =>
    e.2.mirrors.filter fun m => !(e.1 == w.block && m.id == id)
  (s.blocks.any fun e => e.2.part == w.part && sectorOf e.2.core == sec && e.2.launch != w.launch &&
    e.2.mirrors.any fun m => m.id == id && !m.ended) ||
  (s.deliveries.any fun d => d.id == id && d.part == w.part && d.sec == sec && s.orphaned d) ||
  decide (share ≤ inUse.length)

/-- A wait of split k of wave wi, evaluated now. -/
def State.waitRes (s : State) (wi : Nat) (w : Wave) (k : Nat) : WaitFor → WaitRes
  | .handle r dst =>
    match vget w.h r .empty with
    | .pending _ => .stay
    | .failed => .trap Cause.engFail (0xC8 + r)
    | st =>
      let v := if st = .cancelled then 2 else 1
      let s1 := match dst with
        | none => s
        | some d => s.setWave wi (w.writeS d (word v))
      .met (s1.acquireBy wi k 0)
  | .copies a =>
    if ((s.core w.core).copyQ.any fun c => c.wave == wi && (match c.batch with | some b => covered a b | none => false)) then .stay
    else
      match w.failedBatches.find? fun b => covered a b with
      | some b => .trap Cause.engFail b
      | none => .met (s.acquireBy wi k 0)
  | .pred => if s.predDone w.launch then .met (s.acquireBy wi k 0) else .stay
  | .barrier b =>
    match w.barPhase.find b, (s.block? w.block).bind fun x => x.bars[b]? with
    | some ph, some bar => if bar.phase = ph then .stay else .met (s.acquireBy wi k 2)
    | _, _ => .met (s.acquireBy wi k 2)
  | .racq _ _ | .rget _ _ | .regroup _ => .stay
  | .monitor t0 t d =>
    match s.monitorStatus w k t0 t with
    | none => .stay
    | some v => .met (s.setWave wi { w.writeS d (word v) with mons := w.mons.drop k })
  | .free r => if (vget w.h r .empty).isPending then .stay else .issue
  | .mirror id _ _ => if s.mirrorBusy w id then .stay else .issue
  | .stage id _ _ => if (s.binding? w.part id).any fun b => b.launch != w.launch then .stay else .issue
  | .room _ args => if 4096 < (s.part w.part).children.length + args.length then .stay else .issue

/-- MWBIND's, KBIND's and SPAWN's waits, which trap entry lets complete once their condition is met (18 R419). -/
def WaitFor.completes : WaitFor → Bool
  | .mirror _ _ _ | .stage _ _ _ | .room _ _ => true
  | _ => false

/-- A split whose wait is over goes on at the next PC; a marked slot waits for the split's results (04 R79). -/
def State.endWait (s : State) (wi k next : Nat) (marked : Bool) : State :=
  s.modWave wi fun w => w.modSplit k fun x =>
    { x.goTo next with park := if marked && !(w.sbOf k).isEmpty then .marker else .none, readyAt := s.seq }

/-- Waits whose condition was met before trap entry have completed (18 R419). -/
def State.meetWaits (s : State) (wi : Nat) (ks : List Nat) : State :=
  ks.foldl (fun s k =>
    match s.wave? wi with
    | none => s
    | some w =>
      match (w.split? k).map (fun x : Split => x.park) with
      | some (.wait f next marked) =>
        (match s.waitRes wi w k f with
         | .met s1 => s1.endWait wi k next marked
         | _ => s)
      | _ => s) s

/-- A split's wait is one that completes before trap entry: its condition is met (18 R419). -/
def State.mustComplete (s : State) (wi : Nat) (w : Wave) (x : Split) : Bool :=
  match x.park with
  | .wait f _ _ => f.completes && (match s.waitRes wi w x.num f with | .issue => true | _ => false)
  | _ => false

/-- The waits of a wave are withdrawn (18 R419): a parked RACQ or RGET leaves its ring's waiting order. -/
def State.withdraw (s : State) (wi : Nat) : State :=
  match s.wave? wi with
  | none => s
  | some w => s.modBlock w.block fun b => { b with rings := b.rings.map fun r =>
      { r with acqs := r.acqs.filter fun x => x.1 != wi, gets := r.gets.filter fun x => x.1 != wi } }

/-- An issue slot holds a split only while it is live (04 R77): slots of a wave whose split is gone are freed. -/
def State.tidySlots (s : State) (wi : Nat) : State :=
  match s.wave? wi with
  | none => s
  | some w =>
    if (s.quads.find w.quad).isNone then s
    else s.modQuad w.quad fun q => { q with slots := q.slots.map fun o =>
      match o with
      | some (v, k) => if v = wi ∧ !(w.splitNums.contains k) then none else some (v, k)
      | none => none }

/-! ## Taking a trap (18 R245, R246, R251) -/

/-- A split is parked in an instruction of the second kind of 18 R419, which trap entry waits for. -/
def Split.isCompleting (x : Split) : Bool := match x.park with | .completing _ _ _ => true | _ => false

/-- Trap entry may happen: every scoreboard is clear and no split waits for an instruction's completion (18 R246, R419). -/
def Wave.trapReady (w : Wave) : Bool := w.sbClear && !(w.splits.any Split.isCompleting)

/-- The wave's token in fault records and stop reports (18 Table 18.3). -/
def Wave.tokenOf (w : Wave) (split : Nat) : Nat := w.token * 4 + split

/-- The handler's split: number t, the wave's live lanes, t's former LIVE, MODE 0, no JOIN, at TBASE + 4 (18 R246). -/
def handlerSplit (w : Wave) (t : Nat) (exec : Word) (at_ : Nat) : Split :=
  newSplit t (w.tbase.toNat + 4) w.alive exec 0 none at_

/-- The registers trap entry writes, in every mode (18 R246): KS0-KS3, CAUSE, FADDR, FMASK, PROG; the rewindable flag clears, while
the mark stays on record (18 R262). -/
def Wave.trapRegs (w : Wave) (t : TrapReq) (prog : Word) : Wave :=
  { w with
    ks := #v[w.readS 60, w.readS 61, w.readS 62, w.readS 63]
    cause := t.cause, faddr := BitVec.ofNat 64 t.faddr, fmask := t.fmask, prog := prog
    trap := none, rewindable := false
    preempt := match w.preempt with | .saving t => .window t | x => x }

/-- Trap entry of 18 R246: kind 2 entries for the other splits in ascending number, the frame on top, the handler's split. -/
def Wave.enterTrap (w : Wave) (t : TrapReq) (x : Split) (at_ : Nat) : Wave :=
  let others := w.splits.filter fun y => y.num ≠ t.split
  let pushed := others.foldl (fun (st : List Entry) y => splitEntry y y.pc 2 0 :: st) w.stack
  { w.trapRegs t x.prog with
    stack := splitEntry x t.pc 3 t.cause :: pushed
    splits := [handlerSplit w t.split x.live at_] }

/-- A split as it is held over a trap: its wait is withdrawn, and the instruction issues again (18 R419). -/
def Split.withdrawn (x : Split) : Split := { x with park := .none, entered := none }

/-- Trap entry in start-up, test and recovery mode (18 R251): nothing is pushed, Bruin holds the stack and the splits; s62:s63
receive the frame PC and s61 the trapping split's LIVE, which is the handler's EXEC. A trap of the handler leaves the block that Bruin
already holds beneath its own. -/
def Wave.enterTrapSpecial (w : Wave) (t : TrapReq) (x : Split) (at_ : Nat) : Wave :=
  let w1 := ((w.trapRegs t x.prog).writeS 62 (word t.pc)).writeS 63 (word (t.pc / 4294967296))
  let w2 := w1.writeS 61 x.live
  { w2 with
    bruin := { stack := w.stack, splits := w.splits.map Split.withdrawn, trapping := t.split, prog := x.prog, cause := t.cause } :: w.bruin
    stack := []
    splits := [handlerSplit w t.split x.live at_] }

/-- The PC that the frame holds (18 R246): the trapping instruction's; for PREEMPT the split's next PC, or that of the wait that it is
parked in when trap entry begins. -/
def TrapReq.framePc (t : TrapReq) (x : Split) : Nat := if t.cause = Cause.preempt then x.pc else t.pc

/-- Take the wave's pending trap if trap entry may happen now; else it stays pending for TRAP_ENTRY (18 R245, R246). A wait whose condition
is met has completed, the trapping split's too (18 R419). Without room on the stack no handler runs and the partition is stopped with
REASON 7. -/
def State.tryTrapEntry (s : State) (wi : Nat) : State :=
  match s.wave? wi with
  | none => s
  | some w0 =>
    match w0.trap with
    | none => s
    | some t =>
      if !w0.trapReady ∨ (w0.splits.any fun x => s.mustComplete wi w0 x) then s
      else
        let s1 := (s.meetWaits wi (w0.splits.map (·.num))).withdraw wi
        match s1.wave? wi with
        | none => s
        | some w =>
          match w.split? t.split with
          | none => s
          | some x =>
            let t1 := { t with pc := t.framePc x }
            if (s1.part w.part).special then (s1.setWave wi (w.enterTrapSpecial t1 x s.seq)).tidySlots wi
            else if 32 < w.stack.length + w.splits.length then s.beginStop w.part 7 (w.tokenOf t.split)
            else (s1.setWave wi (w.enterTrap t1 x s.seq)).tidySlots wi

/-- A split whose instruction has raised a cause waits no longer in it (18 R245). -/
def Split.endsWait (x : Split) : Split := match x.park with | .wait _ _ _ => { x with park := .none } | _ => x

/-- An instruction of a split raises a cause: the split traps there (18 R245). A trap that another split's earlier instruction
raised stays the one taken; then the instruction has not issued, and it raises its cause again after RETT. -/
def State.raise (s : State) (wi sp cause faddr : Nat) (fmask : Word) (pc : Nat) : State :=
  match s.wave? wi with
  | none => s
  | some w =>
    let t : TrapReq := { split := sp, cause := cause, faddr := faddr, fmask := fmask, pc := pc }
    (s.setWave wi { w.modSplit sp Split.endsWait with trap := some (w.trap.getD t) }).tryTrapEntry wi

/-- PREEMPT reaches a split between instructions or in a wait (18 R264): its wait goes on until trap entry. -/
def State.preempt (s : State) (wi : Nat) (x : Split) (faddr : Nat) : State :=
  (s.modWave wi fun w => { w with
    trap := some { split := x.num, cause := Cause.preempt, faddr := faddr, fmask := x.exec, pc := x.pc } }).tryTrapEntry wi

/-- Apply the completions of 04 R73 and R74 until none holds. -/
def State.settle (s : State) (wi : Nat) : Nat → State
  | 0 => s
  | n + 1 =>
    match s.wave? wi with
    | none => s
    | some w =>
      if w.trap.isSome then s
      else
        match w.settleOnce s.seq with
        | .none => s.tidySlots wi
        | .merged w' => State.settle (s.setWave wi w') wi n
        | .illConv k pc => s.raise wi k Cause.illConv 0 ((w.split? k).elim 0 (·.exec)) pc

/-- A split has arrived at its governing entry (04 R73). -/
def State.arrive (s : State) (wi k : Nat) : Nat → State
  | 0 => s
  | n + 1 =>
    match s.wave? wi with
    | none => s
    | some w =>
      match w.split? k, w.governing k with
      | some x, some (pos, g) =>
        if g.kind = 0 then
          State.settle (s.setWave wi (w.modSplit k fun y => { y.parkAs (.rejoin pos) s.seq with pc := g.rejoin })) wi 64
        else
          match w.positions.find? fun pe => decide (pe.1 < pos) && pe.2.kind == 0 && w.owns k pe.1 pe.2 with
          | none => s.raise wi k Cause.illConv 0 x.exec g.rejoin
          | some (q, e) =>
            if x.live &&& ~~~e.mask ≠ 0 then s.raise wi k Cause.illConv 0 x.exec g.rejoin
            else
              let w1 := (w.modEntry q fun y => { y with mode := x.mode }).popAt pos
              let s1 := s.setWave wi (w1.modSplit k fun y =>
                { y.enter g.pc s.seq with live := g.mask, exec := g.mask, mode := g.mode })
              if g.mask = 0 then State.arrive s1 wi k n else s1
      | _, _ => s

/-! ## Returning from a trap (18 R248, 03 R44, 18 R251) -/

/-- What RETT must know of the code at a PC: the slot holds a literal (03 R44), the word there has progress of 18 Table 18.2. -/
structure CodeAt where
  literal : Bool
  progress : Bool

/-- The cause of a resume PC that RETT refuses (03 R44), by rank: ILLEGAL, BADTARGET, APERTURE. -/
def pcCause (code : Nat → CodeAt) (pc : Nat) : Option Nat :=
  if (code pc).literal then some Cause.illegal
  else if pc % 4 ≠ 0 then some Cause.badTarget
  else if Config.vaEnd ≤ pc then some Cause.aperture
  else none

/-- How RETT ends. -/
inductive Return where
  | refuse (cause faddr : Nat)
  | back (w : Wave)

/-- A resume PC that names slot 0 resumes at slot 1 (03 R44). -/
def resumePc (pc : Nat) : Nat := if pc % 32 = 0 then pc + 4 else pc

/-- The split a popped entry becomes (18 R248). -/
def entrySplit (e : Entry) (alive : Word) (at_ : Nat) : Split :=
  { num := e.owner, pc := e.pc, live := e.mask &&& alive, exec := e.exec &&& e.mask &&& alive, mode := e.mode, join := e.join,
    prog := e.prog, park := .none, entered := none, ready := false, acq := 0, readyAt := at_, parkedAt := at_ }

/-- RETT (18 R248): pop the frame and the kind 2 entries beneath it, restore s60 to s63 and rebuild the splits. -/
def Wave.returnTrap (w : Wave) (code : Nat → CodeAt) (at_ : Nat) : Return :=
  match w.stack with
  | [] => .refuse Cause.illegal 0
  | f :: rest =>
    let popped := f :: rest.takeWhile fun e => e.kind == 2
    let below := rest.dropWhile fun e => e.kind == 2
    let dup := popped.any fun e => decide (1 < (popped.filter fun g => g.owner == e.owner).length)
    let overlap := decide (popped.foldl (fun n e => n + popcount e.mask) 0 ≠ popcount (popped.foldl (fun m e => m ||| e.mask) 0))
    let lives := popped.foldl (fun m e => m ||| (e.mask &&& w.alive)) 0
    let splits := (popped.filter fun e => e.mask &&& w.alive != 0).foldl (fun xs e => insertSplit (entrySplit e w.alive at_) xs) []
    let w1 := { w with
      stack := below, splits := splits
      s := (((w.s.setIfInBounds 60 (vget w.ks 0 0)).setIfInBounds 61 (vget w.ks 1 0)).setIfInBounds 62 (vget w.ks 2 0)).setIfInBounds
        63 (vget w.ks 3 0) }
    let heldAll := w1.positions.foldl (fun m pe => if pe.2.kind = 0 then m ||| (pe.2.mask &&& w.alive) else m) lives
    if f.kind ≠ 3 ∨ popped.any (fun e => !(modeOk e.mode.toNat)) ∨ dup ∨ overlap ∨
        popped.any (fun e => e.prog != 0 && !((code (resumePc e.pc)).progress)) ∨
        (w.alive &&& ~~~heldAll) ≠ 0 ∨
        (splits.isEmpty ∧ w.alive ≠ 0) then .refuse Cause.illegal 0
    else
      match popped.filterMap (fun e => (pcCause code e.pc).map fun c => (c, e.pc)) with
      | [] =>
        .back (Wave.freeUnused { w1 with splits := w1.splits.map fun x => { x with pc := resumePc x.pc } })
      | p :: ps =>
        let rank (c : Nat) : Nat := if c = Cause.illegal then 1 else if c = Cause.badTarget then 2 else 6
        let best := ps.foldl (fun b q => if rank q.1 < rank b.1 then q else b) p
        .refuse best.1 (if best.1 = Cause.illegal then 0 else best.2)

/-- RETT in start-up, test and recovery mode (18 R251): Bruin's block is restored; the trapping split resumes at the PC in
s62:s63 with EXEC s61 within its LIVE. -/
def Wave.returnSpecial (w : Wave) (code : Nat → CodeAt) (at_ : Nat) : Return :=
  match w.bruin with
  | [] => .refuse Cause.illegal 0
  | b :: outer =>
    let pc := w.readS2 62
    match pcCause code pc with
    | some c => .refuse c (if c = Cause.illegal then 0 else pc)
    | none =>
      let e := w.readS 61
      let clip (x : Split) : Split := { x with live := x.live &&& w.alive, exec := x.exec &&& w.alive, readyAt := at_ }
      .back (Wave.freeUnused { w with
        stack := b.stack.map fun g => { g with mask := g.mask &&& w.alive }
        splits := (b.splits.map fun x =>
          if x.num = b.trapping then
            { clip x with pc := resumePc pc, exec := e &&& x.live &&& w.alive, prog := b.prog, park := .none, entered := none }
          else clip x).filter fun x => x.live != 0
        bruin := outer
        s := (((w.s.setIfInBounds 60 (vget w.ks 0 0)).setIfInBounds 61 (vget w.ks 1 0)).setIfInBounds 62 (vget w.ks 2 0)).setIfInBounds
          63 (vget w.ks 3 0) })

/-! ## The mould of an instruction word -/

/-- What a meaning reads: the issuing split, its wave and block, and ACT (03 R58). -/
structure Ctx where
  wi : Nat
  w : Wave
  sp : Split
  pc : Nat
  next : Nat
  marked : Bool
  act : Word

/-- Registers of an instruction hold their values: no result of the wave is pending in them. -/
def Ctx.known (c : Ctx) (codes : List Nat) : Bool := codes.all fun r => !((c.w.pend.flatMap (·.codes)).contains r)

/-- How an instruction ends. -/
inductive Effect where
  /-- performed; the split goes on at the next PC (03 R41) -/
  | ok (s : State)
  /-- performed; the split goes on at slot 1 of a bundle -/
  | jump (s : State) (pc : Nat)
  /-- nothing is performed; the cause is raised with this FADDR and FMASK -/
  | trap (cause faddr : Nat) (fmask : Word)
  /-- nothing is performed; the instruction issues again (a structural stall, 04 R76) -/
  | stall (s : State)
  /-- the split parks at this instruction in a wait of 18 R419 -/
  | park (s : State) (f : WaitFor)
  /-- the split parks at this JOINW with a condition (04 R74) -/
  | parkJoin (s : State) (m : Word)
  /-- performed; the split goes on at the next PC once the instruction's work is complete (18 R419) -/
  | completing (s : State) (w : Waiting)
  /-- performed; the meaning has set the splits itself -/
  | done (s : State)
  /-- a translation or permission fault parks the split with these records (18 R257) -/
  | fault (s : State) (recs : List FaultRec) (prog : Word)
  /-- stage 2 refuses a guest-physical granule: the split parks until Bruin resumes it (18 R256) -/
  | stage2 (s : State) (granule : Nat) (prog : Word)

/-- The issuing split's context. -/
def State.ctx? (s : State) : Option Ctx :=
  match s.issue with
  | none => none
  | some i =>
    match s.wave? i.wave with
    | none => none
    | some w =>
      match w.split? i.split with
      | none => none
      | some sp => some { wi := i.wave, w := w, sp := sp, pc := i.pc, next := i.next, marked := i.marked, act := actOf w sp }

/-- After a marked slot the split parks until its pending results are written (04 R79). -/
def Wave.marker (w : Wave) (marked : Bool) (k : Nat) : Park := if marked && !(w.sbOf k).isEmpty then .marker else .none

/-- The split goes on at a PC, or parks at the switch marker. -/
def State.goOn (s : State) (c : Ctx) (pc : Nat) (branch : Bool) : State :=
  s.modWave c.wi fun w => w.modSplit c.sp.num fun x =>
    { x.goTo pc with park := w.marker c.marked c.sp.num, parkedAt := s.seq, entered := if branch then none else x.entered }

/-- Carry an effect out on the machine. -/
def Effect.finish (c : Ctx) (s0 : State) : Effect → State
  | .ok s => s.goOn c c.next false
  | .jump s pc => s.goOn c (pc + 4) true
  | .trap cause faddr fmask => s0.raise c.wi c.sp.num cause faddr fmask c.pc
  | .stall s => s
  | .park s f => s.modSplit c.wi c.sp.num fun x => { x.parkAs (.wait f c.next c.marked) s.seq with pc := c.pc }
  | .parkJoin s m => (s.modSplit c.wi c.sp.num fun x => { x.parkAs (.joinw m) s.seq with pc := c.pc }).settle c.wi 64
  | .completing s w => s.modSplit c.wi c.sp.num fun x =>
      { x.goTo c.next with park := .completing c.pc w c.marked, parkedAt := s.seq }
  | .done s => s
  | .stage2 s g prog => s.modSplit c.wi c.sp.num fun x => { x.parkAs (.stage2 g) s.seq with pc := c.pc, prog := prog }
  | .fault s recs prog =>
    let s1 := s.modSplit c.wi c.sp.num fun x => { x.parkAs .fault s.seq with pc := c.pc, prog := prog }
    s1.modPart c.w.part fun p => { p with faults := p.faults ++ recs }

/-- A core frees room for blocks (05 R92). -/
def State.freeRoom (s : State) (core : Nat) : State := s.modCore core fun k => { k with freedAt := s.seq }

/-- The checks an entry makes besides decoding, in rank order (18 Table 18.1). -/
structure Checks where
  /-- ILLEGAL for this TYPE, RND or SAT (03 R56) -/
  typeOk : Nat → Bool := fun _ => true
  /-- other ILLEGAL conditions of the issuing wave or form -/
  illegal : Ctx → Bool := fun _ => false
  /-- convergence checks that read no operand -/
  illConv : Ctx → Bool := fun _ => false
  /-- roles that may issue the word (05 Table 5.5) -/
  roleOk : Nat → Bool := fun _ => true

/-- Run a word of the issuing split: decode and footprint checks given as `decoded`, the entry's own checks, HAZARD by the first
pending code in field order, then the effect. `codes` are the operand codes of the registers it reads or writes (04 R79). -/
def runWord (s : State) (decoded : Ctx → Bool) (k : Checks) (codes : Ctx → List Nat) (body : Ctx → State → Effect) :
    Host.Outcome State Fault Refusal :=
  match s.ctx? with
  | none => .fault .noIssuer
  | some c =>
    let eff : Effect :=
      if !(decoded c) || !(k.typeOk (mType c.sp.mode)) || k.illegal c then .trap Cause.illegal 0 c.sp.exec
      else if k.illConv c then .trap Cause.illConv 0 c.sp.exec
      else if !(k.roleOk c.w.role) then .trap Cause.role 0 c.sp.exec
      else match (codes c).find? fun r => (c.w.sbOf c.sp.num).contains r with
        | some r => .trap Cause.hazard r c.sp.exec
        | none =>
          if (codes c).any fun r => (c.w.pend.flatMap (·.codes)).contains r then .stall s
          else body c s
    .next (eff.finish c s)

end Sys2Proof.Machine
end

