-- ==== Sys2Proof/Machine/Flags.lean ====
section
/-! DEFINITION. The exception flags of 11 Table 11.4 and how an operation's lanes set them. -/

namespace Sys2Proof.Machine

/-- Exception flags as a number: the bits of 11 Table 11.4. -/
abbrev Flags := BitVec 5

namespace Flag
def none : Flags := 0
def iv : Flags := 1
def dz : Flags := 2
def of : Flags := 4
def uf : Flags := 8
def ix : Flags := 16
end Flag

/-- The flags of several lanes or elements together (11 R165). -/
def orFlags (fs : List Flags) : Flags := fs.foldl (· ||| ·) 0

/-- An operation ORs its flags into the wave's FPFLAGS (11 R165). -/
def Wave.addFlags (w : Wave) (f : Flags) : Wave := { w with fpflags := w.fpflags ||| f }

/-- IV when any of the operands is a signalling NaN (11 R166). -/
def ivIf (b : Bool) : Flags := if b then Flag.iv else Flag.none

end Sys2Proof.Machine
end

