-- ==== Sys2Proof/Machine/Num.lean ====
section
/-! DEFINITION. Number formats and exact arithmetic (11 R162 to R176): values are formed exactly, as dyadic or rational
numbers, and rounded once. -/

namespace Sys2Proof.Machine

/-! ## Element types (11 Table 11.1) -/

/-! TYPE codes. -/
namespace Ty
def i32 : Nat := 0
def n32 : Nat := 1
def f32 : Nat := 2
def f16x2 : Nat := 3
def bf16x2 : Nat := 4
def f8ax4 : Nat := 9
def f8bx4 : Nat := 10
def f4x8 : Nat := 13
def n64 : Nat := 14
end Ty

/-- Bits of one element. -/
def elemWidth (ty : Nat) : Nat :=
  match ty with
  | 3 | 4 | 5 | 6 => 16
  | 7 | 8 | 9 | 10 => 8
  | 11 | 12 | 13 => 4
  | 14 => 64
  | _ => 32

/-- Elements of one register (of one pair under n64). -/
def elemCount (ty : Nat) : Nat :=
  match ty with
  | 3 | 4 | 5 | 6 => 2
  | 7 | 8 | 9 | 10 => 4
  | 11 | 12 | 13 => 8
  | _ => 1

/-- The float types. -/
def isFloat (ty : Nat) : Bool := ty == 2 || ty == 3 || ty == 4 || ty == 9 || ty == 10 || ty == 13

/-- The signed integer types. -/
def isSigned (ty : Nat) : Bool := ty == 0 || ty == 5 || ty == 7 || ty == 11

/-- The packed integer types. -/
def isPackedInt (ty : Nat) : Bool := ty == 5 || ty == 6 || ty == 7 || ty == 8 || ty == 11 || ty == 12

/-- Element k of a value of w-bit elements (11 R162). -/
def elem (w k x : Nat) : Nat := x / 2 ^ (w * k) % 2 ^ w

/-- The value whose elements are listed, element 0 first. -/
def packElems (w : Nat) : List Nat → Nat
  | [] => 0
  | x :: xs => x % 2 ^ w + 2 ^ w * packElems w xs

/-- One element in every position. -/
def replicateElem (w n x : Nat) : Nat := packElems w (List.replicate n x)

/-- The two's complement value of a w-bit pattern. -/
def toSigned (w x : Nat) : Int := if 2 ^ (w - 1) ≤ x % 2 ^ w then (x % 2 ^ w : Nat) - (2 ^ w : Nat) else (x % 2 ^ w : Nat)

/-- The w-bit pattern of an integer, wrapped (11 R167). -/
def wrap (w : Nat) (x : Int) : Nat := (x % (2 ^ w : Nat)).toNat

/-- The integer a w-bit pattern stands for. -/
def intVal (signed : Bool) (w x : Nat) : Int := if signed then toSigned w x else (x % 2 ^ w : Nat)

/-- The bounds of an integer type. -/
def intMin (signed : Bool) (w : Nat) : Int := if signed then -(2 ^ (w - 1) : Nat) else 0
def intMax (signed : Bool) (w : Nat) : Int := if signed then (2 ^ (w - 1) : Nat) - 1 else (2 ^ w : Nat) - 1

/-- The nearest value of an integer type. -/
def clamp (signed : Bool) (w : Nat) (x : Int) : Int := max (intMin signed w) (min (intMax signed w) x)

/-- An exact integer result wrapped, or clamped once under SAT (11 R167). -/
def intResult (sat signed : Bool) (w : Nat) (x : Int) : Nat := wrap w (if sat then clamp signed w x else x)

/-! ## Float formats (11 Table 11.2) -/

/-- How a format encodes infinities and NaN. -/
inductive Special where
  /-- exponent all ones: infinity and NaN -/
  | ieee
  /-- F8A: no infinity, one NaN pattern for each sign -/
  | f8a
  /-- F4: neither -/
  | none
deriving DecidableEq, Repr

/-- A float format. -/
structure Fmt where
  ebits : Nat
  mbits : Nat
  bias : Nat
  special : Special
deriving DecidableEq, Repr

def fmtF32 : Fmt := { ebits := 8, mbits := 23, bias := 127, special := .ieee }
def fmtF16 : Fmt := { ebits := 5, mbits := 10, bias := 15, special := .ieee }
def fmtBf16 : Fmt := { ebits := 8, mbits := 7, bias := 127, special := .ieee }
def fmtF8A : Fmt := { ebits := 4, mbits := 3, bias := 7, special := .f8a }
def fmtF8B : Fmt := { ebits := 5, mbits := 2, bias := 15, special := .ieee }
def fmtF4 : Fmt := { ebits := 2, mbits := 1, bias := 1, special := .none }

/-- The format of a float TYPE. -/
def fmtOf (ty : Nat) : Fmt :=
  match ty with
  | 3 => fmtF16
  | 4 => fmtBf16
  | 9 => fmtF8A
  | 10 => fmtF8B
  | 13 => fmtF4
  | _ => fmtF32

/-- Bits of a format. -/
def Fmt.width (f : Fmt) : Nat := 1 + f.ebits + f.mbits

/-- The sign bit of a format. -/
def Fmt.signBit (f : Fmt) : Nat := 2 ^ (f.ebits + f.mbits)

/-- The magnitude code of the largest finite value. -/
def Fmt.maxCode (f : Fmt) : Nat :=
  match f.special with
  | .ieee => (2 ^ f.ebits - 1) * 2 ^ f.mbits - 1
  | .f8a => 2 ^ (f.ebits + f.mbits) - 2
  | .none => 2 ^ (f.ebits + f.mbits) - 1

/-- The magnitude code of infinity, in a format that has one. -/
def Fmt.infCode (f : Fmt) : Nat := (2 ^ f.ebits - 1) * 2 ^ f.mbits

/-- The canonical NaN (11 Table 11.2); F4 has none and gives +0 (11 Table 11.6). -/
def Fmt.nan (f : Fmt) : Nat :=
  match f.special with
  | .ieee => f.infCode + 2 ^ (f.mbits - 1)
  | .f8a => 2 ^ (f.ebits + f.mbits) - 1
  | .none => 0

/-- The exponent of the smallest normal value. -/
def Fmt.emin (f : Fmt) : Int := 1 - (f.bias : Int)

/-- A float value taken apart; a finite one is (−1)^neg · m · 2^e. -/
inductive FVal where
  | nan (signalling : Bool)
  | inf (neg : Bool)
  | fin (neg : Bool) (m : Nat) (e : Int)
deriving DecidableEq, Repr

/-- Take a bit pattern apart (11 R163). -/
def unpack (f : Fmt) (bits : Nat) : FVal :=
  let x := bits % (2 * f.signBit)
  let neg := decide (f.signBit ≤ x)
  let mag := x % f.signBit
  let ex := mag / 2 ^ f.mbits
  let fr := mag % 2 ^ f.mbits
  if f.special = .ieee ∧ ex = 2 ^ f.ebits - 1 then
    (if fr = 0 then .inf neg else .nan (decide (fr < 2 ^ (f.mbits - 1))))
  else if f.special = .f8a ∧ mag = f.signBit - 1 then .nan false
  else if ex = 0 then .fin neg fr (f.emin - f.mbits)
  else .fin neg (2 ^ f.mbits + fr) ((ex : Int) - f.bias - f.mbits)

/-- A magnitude code with its sign. -/
def Fmt.signed (f : Fmt) (neg : Bool) (code : Nat) : Nat := if neg then f.signBit + code else code

/-- Whether an inexact or exact quotient rounds away from zero: floor q, and how the rest compares with half (11 R164). -/
def roundsUp (rnd : Nat) (neg : Bool) (q : Nat) (twiceRest den : Nat) : Bool :=
  if twiceRest = 0 then false
  else match rnd with
    | 1 => false
    | 2 => !neg
    | 3 => neg
    | 4 => decide (den ≤ twiceRest)
    | _ => decide (den < twiceRest) || (twiceRest == den && q % 2 == 1)

/-- n / d · 2^e rounded to a multiple of 2^q: the multiple, and whether it is inexact. -/
def roundAt (rnd : Nat) (neg : Bool) (n d : Nat) (e q : Int) : Nat × Bool :=
  let k := e - q
  let num := if 0 ≤ k then n * 2 ^ k.toNat else n
  let den := if 0 ≤ k then d else d * 2 ^ (-k).toNat
  let fl := num / den
  let rest := 2 * (num % den)
  (if roundsUp rnd neg fl rest den then fl + 1 else fl, rest != 0)

/-- ⌊log₂(n / d)⌋ for positive n and d. -/
def log2Ratio (n d : Nat) : Int :=
  let k : Int := (Nat.log2 n : Int) - Nat.log2 d
  let ge := if 0 ≤ k then decide (d * 2 ^ k.toNat ≤ n) else decide (d ≤ n * 2 ^ (-k).toNat)
  if ge then k else k - 1

/-- An overflowed result (11 Table 11.3). -/
def overflowed (f : Fmt) (rnd : Nat) (sat neg : Bool) : Nat :=
  match f.special with
  | .none => f.signed neg f.maxCode
  | .f8a => if sat then f.signed neg f.maxCode else f.nan
  | .ieee =>
    if sat then f.signed neg f.maxCode
    else match rnd with
      | 1 => f.signed neg f.maxCode
      | 2 => f.signed neg (if neg then f.maxCode else f.infCode)
      | 3 => f.signed neg (if neg then f.infCode else f.maxCode)
      | _ => f.signed neg f.infCode

/-- The magnitude code of r · 2^q, where r has at most mbits + 1 bits and q is at least the smallest quantum. -/
def codeOf (f : Fmt) (r : Nat) (q : Int) : Nat :=
  let r' := if r = 2 ^ (f.mbits + 1) then r / 2 else r
  let q' := if r = 2 ^ (f.mbits + 1) then q + 1 else q
  if r' < 2 ^ f.mbits then r' else ((q' + f.mbits + f.bias).toNat) * 2 ^ f.mbits + (r' - 2 ^ f.mbits)

/-- The positive value n / d · 2^e with a sign, rounded once to a format, with its flags (11 R164, R165). -/
def roundRat (f : Fmt) (rnd : Nat) (sat neg : Bool) (n d : Nat) (e : Int) : Nat × Flags :=
  let top := log2Ratio n d + e
  let q := max top f.emin - f.mbits
  let r := roundAt rnd neg n d e q
  let code := codeOf f r.1 q
  let qu := top - f.mbits
  let ru := (roundAt rnd neg n d e qu).1
  let tiny := decide (top < f.emin) && !(decide (top = f.emin - 1) && ru == 2 ^ (f.mbits + 1))
  if f.maxCode < code then (overflowed f rnd sat neg, Flag.of ||| Flag.ix)
  else (f.signed neg code, (if r.2 then Flag.ix else 0) ||| (if tiny && r.2 then Flag.uf else 0))

/-- A signed dyadic number m · 2^e. -/
structure Dy where
  m : Int
  e : Int
deriving DecidableEq, Repr

/-- The exact sum. -/
def Dy.add (x y : Dy) : Dy :=
  let e := min x.e y.e
  { m := x.m * 2 ^ (x.e - e).toNat + y.m * 2 ^ (y.e - e).toNat, e := e }

/-- The exact product. -/
def Dy.mul (x y : Dy) : Dy := { m := x.m * y.m, e := x.e + y.e }

/-- Zero. -/
def Dy.zero : Dy := { m := 0, e := 0 }

/-- The exact value of a finite float. -/
def finDy (neg : Bool) (m : Nat) (e : Int) : Dy := { m := if neg then -(m : Int) else m, e := e }

/-- An exact value rounded once; `zneg` is the sign of an exact zero. -/
def roundDy (f : Fmt) (rnd : Nat) (sat zneg : Bool) (x : Dy) : Nat × Flags :=
  if x.m = 0 then (f.signed zneg 0, 0) else roundRat f rnd sat (decide (x.m < 0)) x.m.natAbs 1 x.e

/-- The sign of an exact zero sum of x and y, both zero or cancelling (11 R164). -/
def zeroSumSign (rnd : Nat) (negX zeroX negY zeroY : Bool) : Bool :=
  if zeroX && zeroY && negX == negY then negX else rnd == 3

/-- The sum of two floats, rounded once (11 R164, R166). -/
def faddV (f : Fmt) (rnd : Nat) (x y : FVal) : Nat × Flags :=
  match x, y with
  | .nan sx, .nan sy => (f.nan, ivIf (sx || sy))
  | .nan sx, _ => (f.nan, ivIf sx)
  | _, .nan sy => (f.nan, ivIf sy)
  | .inf nx, .inf ny => if nx = ny then (f.signed nx f.infCode, 0) else (f.nan, Flag.iv)
  | .inf nx, _ => (f.signed nx f.infCode, 0)
  | _, .inf ny => (f.signed ny f.infCode, 0)
  | .fin nx mx ex, .fin ny my ey =>
    roundDy f rnd false (zeroSumSign rnd nx (mx == 0) ny (my == 0)) ((finDy nx mx ex).add (finDy ny my ey))

/-- The negation of a float value. -/
def FVal.negate : FVal → FVal
  | .nan s => .nan s
  | .inf n => .inf !n
  | .fin n m e => .fin (!n) m e

/-- The sign of a value that is not NaN. -/
def FVal.neg : FVal → Bool
  | .nan _ => false
  | .inf n => n
  | .fin n _ _ => n

/-- NaN. -/
def FVal.isNan : FVal → Bool
  | .nan _ => true
  | _ => false

/-- A signalling NaN (11 R166). -/
def FVal.isSnan : FVal → Bool
  | .nan s => s
  | _ => false

/-- Zero. -/
def FVal.isZero : FVal → Bool
  | .fin _ 0 _ => true
  | _ => false

/-- Infinity. -/
def FVal.isInf : FVal → Bool
  | .inf _ => true
  | _ => false

/-- The product of two floats, rounded once (23 R360). -/
def fmulV (f : Fmt) (rnd : Nat) (x y : FVal) : Nat × Flags :=
  if x.isNan || y.isNan then (f.nan, ivIf (x.isSnan || y.isSnan))
  else
    let neg := x.neg != y.neg
    match x, y with
    | .fin _ mx ex, .fin _ my ey => roundDy f rnd false neg ((finDy x.neg mx ex).mul (finDy y.neg my ey))
    | _, _ => if x.isZero || y.isZero then (f.nan, Flag.iv) else (f.signed neg f.infCode, 0)

/-- A · B + D rounded once (23 R349): infinity times 0 sets IV, whatever D is. -/
def fmadV (f : Fmt) (rnd : Nat) (x y z : FVal) : Nat × Flags :=
  if x.isNan || y.isNan || z.isNan then
    (f.nan, ivIf (x.isSnan || y.isSnan || z.isSnan || (x.isInf && y.isZero) || (x.isZero && y.isInf)))
  else
    let neg := x.neg != y.neg
    match x, y with
    | .fin _ mx ex, .fin _ my ey =>
      (match z with
       | .fin nz mz ez =>
         roundDy f rnd false (zeroSumSign rnd neg (mx == 0 || my == 0) nz (mz == 0))
           (((finDy x.neg mx ex).mul (finDy y.neg my ey)).add (finDy nz mz ez))
       | _ => (f.signed z.neg f.infCode, 0))
    | _, _ =>
      if x.isZero || y.isZero then (f.nan, Flag.iv)
      else match z with
        | .inf nz => if nz = neg then (f.signed neg f.infCode, 0) else (f.nan, Flag.iv)
        | _ => (f.signed neg f.infCode, 0)

/-- x < y as exact values, neither being NaN; −0 equals +0. -/
def fltV (x y : FVal) : Bool :=
  match x, y with
  | .inf nx, .inf ny => nx && !ny
  | .inf nx, _ => nx
  | _, .inf ny => !ny
  | .fin nx mx ex, .fin ny my ey => decide (((finDy nx mx ex).add (finDy (!ny) my ey)).m < 0)
  | _, _ => false

/-- x = y as exact values, neither being NaN. -/
def feqV (x y : FVal) : Bool := !(x.isNan) && !(y.isNan) && !(fltV x y) && !(fltV y x)

/-- IEEE 754 minimumNumber or maximumNumber, −0 below +0 (23 R352): the chosen bits and flags. -/
def fminmax (f : Fmt) (isMax : Bool) (a b : Nat) : Nat × Flags :=
  let x := unpack f a
  let y := unpack f b
  let fl := ivIf (x.isSnan || y.isSnan)
  if x.isNan && y.isNan then (f.nan, fl)
  else if x.isNan then (b, fl)
  else if y.isNan then (a, fl)
  else
    let xLess := fltV x y || (feqV x y && x.neg && !(y.neg))
    ((if xLess != isMax then a else b), 0)

/-! ## Conversions (11 Table 11.6) -/

/-- A finite value rounded to an integer under RND: the integer and whether it is inexact. -/
def roundInt (rnd : Nat) (neg : Bool) (m : Nat) (e : Int) : Int × Bool :=
  let r := roundAt rnd neg m 1 e 0
  (if neg then -(r.1 : Int) else r.1, r.2)

/-- A float value converted to a float format (11 R170). -/
def cvtToFloat (f : Fmt) (rnd : Nat) (sat : Bool) (x : FVal) : Nat × Flags :=
  match x with
  | .nan s => if f.special = .none then (0, Flag.iv) else (f.nan, ivIf s)
  | .inf n =>
    (match f.special with
     | .ieee => (f.signed n f.infCode, 0)
     | .f8a => if sat then (f.signed n f.maxCode, 0) else (f.nan, Flag.iv)
     | .none => (f.signed n f.maxCode, Flag.iv))
  | .fin n m e =>
    let r := roundDy f rnd sat n (finDy n m e)
    if f.special = .f8a ∧ r.1 = f.nan then (r.1, r.2 ||| Flag.iv) else r

/-- A float value converted to an integer type (11 R170): out of range gives the nearest bound whatever SAT holds. -/
def cvtToInt (signed : Bool) (w rnd : Nat) (x : FVal) : Nat × Flags :=
  match x with
  | .nan _ => (0, Flag.iv)
  | .inf n => (wrap w (if n then intMin signed w else intMax signed w), Flag.iv)
  | .fin n m e =>
    let r := roundInt rnd n m e
    if r.1 < intMin signed w ∨ intMax signed w < r.1 then (wrap w (clamp signed w r.1), Flag.iv)
    else (wrap w r.1, if r.2 then Flag.ix else 0)

/-- One element converted from one TYPE to another (11 Table 11.6). -/
def cvtElem (src dst rnd : Nat) (sat : Bool) (x : Nat) : Nat × Flags :=
  let v : FVal :=
    if isFloat src then unpack (fmtOf src) x
    else
      let i := intVal (isSigned src) (elemWidth src) x
      .fin (decide (i < 0)) i.natAbs 0
  if isFloat dst then cvtToFloat (fmtOf dst) rnd sat v
  else if isFloat src then cvtToInt (isSigned dst) (elemWidth dst) rnd v
  else (intResult sat (isSigned dst) (elemWidth dst) (intVal (isSigned src) (elemWidth src) x), 0)

/-! ## Sums of products (11 R173, R175, R176) -/

/-- A sum of exact terms with NaN and infinities, as DOT and the matrix engine judge it. -/
structure Acc where
  nan : Bool
  iv : Bool
  pinf : Bool
  ninf : Bool
  sum : Dy
deriving DecidableEq, Repr

def Acc.zero : Acc := { nan := false, iv := false, pinf := false, ninf := false, sum := Dy.zero }

/-- Add a value. -/
def Acc.addV (a : Acc) : FVal → Acc
  | .nan s => { a with nan := true, iv := a.iv || s }
  | .inf n => if n then { a with ninf := true } else { a with pinf := true }
  | .fin n m e => { a with sum := a.sum.add (finDy n m e) }

/-- The exact product of two values; ∞ × 0 is a NaN that was produced. -/
def mulV (x y : FVal) : FVal :=
  match x, y with
  | .nan s, .nan t => .nan (s || t)
  | .nan s, _ => .nan s
  | _, .nan t => .nan t
  | .fin nx mx ex, .fin ny my ey => .fin (nx != ny) (mx * my) (ex + ey)
  | _, _ => if x.isZero || y.isZero then .nan true else .inf (x.neg != y.neg)

/-- Some infinity or NaN among the terms decides the result (11 R173, R176): the special result, if any. -/
def Acc.special (a : Acc) (f : Fmt) : Option (Nat × Flags) :=
  if a.nan then some (f.nan, ivIf a.iv)
  else if a.pinf && a.ninf then some (f.nan, Flag.iv)
  else if a.pinf then some (f.infCode, 0)
  else if a.ninf then some (f.signed true f.infCode, 0)
  else none

/-- The value of an E8 scale byte (11 R171). -/
def e8Scale (b : Nat) : FVal := if b % 256 = 255 then .nan false else .fin false 1 ((b % 256 : Nat) - 127)

/-- The value of an F8A scale byte (11 R171). -/
def f8aScale (b : Nat) : FVal := if 127 ≤ b % 256 then .nan false else unpack fmtF8A (b % 256)

end Sys2Proof.Machine
end

