-- ==== Sys2Proof/Machine/Operands.lean ====
section
/-! DEFINITION. Every operand form (03 R51 to R54, 11 R162): the registers an operand names under a TYPE, the checks on them,
and the value it supplies in a value position and in a raw position. -/

namespace Sys2Proof.Machine

/-! ## Register spans -/

/-- CVT's e / es and e / et (11 R169): registers read and written when TYPE src converts to TYPE dst. -/
def cvtRegs (src dst : Nat) : Nat × Nat :=
  let es := elemCount src
  let et := elemCount dst
  let e := max es et
  (e / es, e / et)

/-- The target TYPE of CVT's B. -/
def cvtTarget : Operand → Nat
  | .int k => k.val
  | _ => 15

/-- How many registers an operand names under a TYPE. -/
def spanLen (ty : Nat) : Span → Nat
  | .one => 1
  | .two => 2
  | .four => 4
  | .six => 6
  | .eight => 8
  | .val | .raw => if ty = Ty.n64 then 2 else 1
  | .atom (.lit _) => if ty = Ty.n64 then 2 else 1
  | .atom _ => if ty = Ty.n64 then 4 else 2
  | .cvtD b => (cvtRegs ty (cvtTarget b)).2
  | .cvtA b => (cvtRegs ty (cvtTarget b)).1

/-- A span must start at an even register because of its TYPE (11 R162, 22 R291). -/
def spanEven (ty : Nat) : Span → Bool
  | .val | .raw | .atom _ => ty == Ty.n64
  | _ => false

/-- The operand codes of the registers an operand names: what HAZARD and the scoreboard compare (04 R79). -/
def codesOf (ty : Nat) : Operand × Span → List Nat
  | (.v r, sp) => (upTo (spanLen ty sp)).map fun i => r.val + i
  | (.s r, sp) => (upTo (spanLen ty sp)).map fun i => 0x80 + r.val + i
  | (.p r, _) => [0xC0 + r.val]
  | _ => []

/-- The codes of all operands of an instruction, in the field order A, B, D. -/
def instrCodes (i : Instr) (ty : Nat) : List Nat := i.uses.flatMap (codesOf ty)

/-- The register checks of 03 R53 and 11 R162 that depend on the wave or on MODE: the footprint, the end of the scalar file, an
even start under n64; no LANEID, EXEC or WAVEID where a value position takes a pair (03 R51); no float constant in a value
position of an integer TYPE, and no constant where CVT reads more than one register (22 R318). -/
def spanOk (footprint ty : Nat) : Operand × Span → Bool
  | (.v r, sp) => decide (r.val + spanLen ty sp ≤ footprint) && (!(spanEven ty sp) || r.val % 2 == 0)
  | (.s r, sp) => decide (r.val + spanLen ty sp ≤ 64) && (!(spanEven ty sp) || r.val % 2 == 0)
  | (.laneid, sp) | (.exec, sp) | (.waveid, sp) => !(spanEven ty sp) && spanLen ty sp == 1
  | (.flt _, sp) =>
    (match sp with
     | .val => isFloat ty
     | .cvtA _ => isFloat ty && spanLen ty sp == 1
     | _ => true)
  | (.int _, .cvtA b) | (.lit _, .cvtA b) => spanLen ty (.cvtA b) == 1
  | _ => true

/-- The word decodes for this wave: well formed, and every register of every operand is there (03 R50, R53). -/
def decodesFor (i : Instr) (c : Ctx) : Bool :=
  i.wellFormed && i.uses.all (spanOk c.w.footprint (mType c.sp.mode))

/-! ## Values -/

/-- Code of |x| for the float constants 0.5, 1, 2, 4 in a format (03 R54). -/
def fltCode (f : Fmt) (k : Nat) : Nat :=
  (roundRat f 0 false (decide (4 ≤ k)) 1 1 ((k % 4 : Nat) - 1)).1

/-- The value an operand supplies to lane l in a raw position: 32 bits (03 R54). -/
def rawLane (c : Ctx) (o : Operand) (l : Nat) : Word :=
  match o with
  | .v r => c.w.readV r.val l
  | .s r => c.w.readS r.val
  | .p r => c.w.readP r.val
  | .h _ => 0
  | .laneid => word l
  | .exec => c.sp.exec
  | .waveid => word c.w.waveId
  | .int k => word k.val
  | .flt k => word (fltCode fmtF32 k.val)
  | .lit w => w

/-- The value of a uniform operand: lane 0's. -/
def rawU (c : Ctx) (o : Operand) : Word := rawLane c o 0

/-- A uniform operand as a number. -/
def rawN (c : Ctx) (o : Operand) : Nat := (rawU c o).toNat

/-- The 64-bit value of an even scalar pair; 0 for any other operand. -/
def pairN (c : Ctx) (o : Operand) : Nat :=
  match o with
  | .s r => c.w.readS2 r.val
  | _ => 0

/-- The word of member i of a register group. -/
def groupLane (c : Ctx) (o : Operand) (i l : Nat) : Word :=
  match o with
  | .v r => c.w.readV (r.val + i) l
  | .s r => c.w.readS (r.val + i)
  | _ => if i = 0 then rawLane c o l else 0

/-- The value an operand supplies to lane l in a value position under a TYPE: the register or pair, a replicated integer
constant, a float constant in every element, or the literal (03 R54). -/
def valLane (c : Ctx) (ty : Nat) (o : Operand) (l : Nat) : Nat :=
  match o with
  | .int k => replicateElem (elemWidth ty) (elemCount ty) k.val
  | .flt k =>
    if isFloat ty then replicateElem (elemWidth ty) (elemCount ty) (fltCode (fmtOf ty) k.val) else fltCode fmtF32 k.val
  | .lit w => w.toNat
  | .v _ | .s _ =>
    (groupLane c o 0 l).toNat + (if ty = Ty.n64 then 4294967296 * (groupLane c o 1 l).toNat else 0)
  | _ => (rawLane c o l).toNat

/-- Whether a source is per lane (03 R52). -/
def isVecSrc (o : Operand) : Bool := isVX o

/-- An address from A and the offset B of lane l: (A + ext(B)) mod 2^64, B sign-extended under i32 (06 R108). -/
def laneAddr (c : Ctx) (a b : Operand) (l : Nat) : Nat :=
  let x := (rawLane c b l).toNat
  let ext := if mType c.sp.mode = Ty.i32 ∧ 0x80000000 ≤ x then x + 18446744069414584320 else x
  (pairN c a + ext) % two64

/-- The lanes a form acts on: each lane of ACT, or lane 0 once for a uniform form when ACT is not empty (22 R289). -/
def actLanes (uniform : Bool) (act : Word) : List Nat :=
  if uniform then (if act = 0 then [] else [0]) else lanesOf act

/-- Write a register group of a lane: vector registers in that lane, or scalar registers. -/
def Wave.writeGroup (w : Wave) (o : Operand) (mask : Word) (n : Nat) (f : Nat → Nat → Word) : Wave :=
  (upTo n).foldl (fun w i =>
    match o with
    | .v r => w.writeV (r.val + i) mask (f i)
    | .s r => w.writeS (r.val + i) (f i 0)
    | _ => w) w

/-- The register writes of a result for later (04 R78). -/
def groupWrites (o : Operand) (mask : Word) (n : Nat) (f : Nat → Nat → Word) : List RegWrite :=
  (upTo n).filterMap fun i =>
    match o with
    | .v r => some (.v (r.val + i) mask (Vector.ofFn fun l => f i l.val))
    | .s r => some (.s (r.val + i) (f i 0))
    | .p r => some (.p r.val (f i 0))
    | _ => none

end Sys2Proof.Machine
end

