-- ==== Sys2Proof/Machine/Sfu.lean ====
section
/-! DEFINITION. The special-function unit (11 R174, Table 11.8). RCP and SQRT are rounded exactly. RSQ, EXP2, LOG2, SIN and COS
deliver a free value (`Config.sfuResult`), which is taken if it lies within the bound R174 states and else replaced by one that
does; the bound is judged on a fixed-point approximation of 256 fractional bits (log 9). -/

namespace Sys2Proof.Machine

/-- The special functions. -/
inductive SfuOp where
  | rcp | rsq | sqrt | exp2 | log2 | sin | cos
deriving DecidableEq, Repr

/-- ⌊√n⌋ for n < 4^k, one bit at a time. -/
def isqrtFrom : Nat → Nat → Nat → Nat
  | 0, _, r => r
  | k + 1, n, r => if (r + 2 ^ k) * (r + 2 ^ k) ≤ n then isqrtFrom k n (r + 2 ^ k) else isqrtFrom k n r

/-- ⌊√n⌋. -/
def isqrt (n : Nat) : Nat := isqrtFrom (Nat.log2 n / 2 + 1) n 0

/-- √(n / d · 2^e) as (2r + sticky) · 2^k with at least `bits` significant bits: mantissa and exponent. -/
def sqrtParts (bits n d : Nat) (e : Int) : Nat × Int :=
  let e2 := if e % 2 = 0 then e else e - 1
  let n2 := if e % 2 = 0 then n else 2 * n
  let sh := 2 * (bits + Nat.log2 d)
  let q := n2 * 2 ^ sh / d
  let r := isqrt q
  let exact := decide (r * r * d = n2 * 2 ^ sh)
  (2 * r + (if exact then 0 else 1), (e2 - sh) / 2 - 1)

/-- Fractional bits of the fixed-point approximations: every f32, f16 and bf16 value has an exact fraction in them. -/
def fxBits : Nat := 256

/-- ln 2 in fixed point. -/
def ln2 : Nat := 80260960185991308862233904206310070533990667611589946606122867505419956976171

/-- The series Σ y^k / k! in fixed point, from the term t of index n - 1. -/
def expSeries : Nat → Nat → Nat → Nat → Nat → Nat
  | 0, _, _, _, acc => acc
  | k + 1, n, y, t, acc =>
    let t' := t * y / 2 ^ fxBits / n
    expSeries k (n + 1) y t' (acc + t')

/-- 2^x for x = i / 2^fxBits with 0 ≤ i < 2^fxBits, in fixed point. -/
def exp2Fixed (i : Nat) : Nat := expSeries 64 1 (i * ln2 / 2 ^ fxBits) (2 ^ fxBits) (2 ^ fxBits)

/-- Bits of log₂ y for y in [1, 2) in fixed point, by repeated squaring. -/
def log2Bits : Nat → Nat → Nat → Nat
  | 0, _, acc => acc
  | k + 1, y, acc =>
    let y2 := y * y / 2 ^ (2 * fxBits)
    if 2 ^ (2 * fxBits + 1) ≤ y2 then log2Bits k (y2 / 2) (2 * acc + 1) else log2Bits k y2 (2 * acc)

/-- log₂ of m / 2^t, 2^t ≤ m < 2^(t+1), in fixed point. -/
def log2Fixed (m t : Nat) : Nat := log2Bits fxBits (m * 2 ^ (2 * fxBits) / 2 ^ t) 0

/-- 2π in fixed point. -/
def twoPi : Nat := 727543153783532648560469885555459725306786754656784859917544302235877788932370

/-- The Taylor sum Σ (−1)^k a^(2k+s) / (2k+s)! in fixed point, from the term t of index n. -/
def taylor : Nat → Nat → Int → Int → Int → Int
  | 0, _, _, _, acc => acc
  | k + 1, n, a2, t, acc =>
    let t' := -(t * a2 / (2 ^ fxBits : Nat)) / ((n + 1) * (n + 2) : Nat)
    taylor k (n + 2) a2 t' (acc + t')

/-- sin(2π · r / 2^fxBits) in fixed point for r up to an eighth of a turn. -/
def sinEighth (r : Nat) : Int :=
  let a : Int := ((r * twoPi / 2 ^ fxBits : Nat) : Int)
  taylor 32 1 (a * a / (2 ^ fxBits : Nat)) a a

/-- cos(2π · r / 2^fxBits) in fixed point for r up to an eighth of a turn. -/
def cosEighth (r : Nat) : Int :=
  let a : Int := ((r * twoPi / 2 ^ fxBits : Nat) : Int)
  taylor 32 0 (a * a / (2 ^ fxBits : Nat)) (2 ^ fxBits : Nat) (2 ^ fxBits : Nat)

/-- sin(2π · r / 2^fxBits) in fixed point for r in a whole turn (log 56). -/
def sinTurn (r : Nat) : Int :=
  let eighth := 2 ^ (fxBits - 3)
  let q := r / (2 * eighth)
  let f := r % (2 * eighth)
  let s := if f ≤ eighth then sinEighth f else cosEighth (2 * eighth - f)
  let c := if f ≤ eighth then cosEighth f else sinEighth (2 * eighth - f)
  match q with
  | 0 => s
  | 1 => c
  | 2 => -s
  | _ => -c

/-- An approximation of an exact nonzero result: value num · 2^(exp − fxBits) and the bound of 11 R174 on the f32 result, in units
of 2^(exp − fxBits). -/
structure Approx where
  num : Int
  exp : Int
  bound : Nat
deriving DecidableEq, Repr

/-- One f32 ulp of a value of magnitude num · 2^(exp − fxBits), in units of 2^(exp − fxBits), at least 1. -/
def ulpUnits (num : Nat) (exp : Int) : Nat :=
  let top : Int := (Nat.log2 num : Int) + exp - fxBits
  let q := max top (-126) - 23 - (exp - fxBits)
  if 0 ≤ q then 2 ^ q.toNat else 1

/-- x mod 1 of a finite value, in units of 2^-fxBits. -/
def turnFraction (neg : Bool) (m : Nat) (e : Int) : Nat :=
  let u := if 0 ≤ e + fxBits then m * 2 ^ (e + fxBits).toNat else m / 2 ^ (-(e + fxBits)).toNat
  if neg then (2 ^ fxBits - u % 2 ^ fxBits) % 2 ^ fxBits else u % 2 ^ fxBits

/-- The approximation of a function at a finite operand where its result is neither exact nor special. -/
def approxOf (op : SfuOp) (neg : Bool) (m : Nat) (e : Int) : Approx :=
  match op with
  | .exp2 =>
    let u := if 0 ≤ e + fxBits then m * 2 ^ (e + fxBits).toNat else m / 2 ^ (-(e + fxBits)).toNat
    let i : Int := if neg then -(u : Int) else u
    let whole := i / (2 ^ fxBits : Nat)
    let num := exp2Fixed (i % (2 ^ fxBits : Nat)).toNat
    { num := num, exp := whole, bound := 2 * ulpUnits num whole }
  | .log2 =>
    let t := Nat.log2 m
    let num := ((t : Int) + e) * (2 ^ fxBits : Nat) + (log2Fixed m t : Nat)
    { num := num, exp := 0, bound := 2 * ulpUnits num.natAbs 0 }
  | .sin => { num := sinTurn (turnFraction neg m e), exp := 0, bound := 2 ^ (fxBits - 21) }
  | .cos =>
    { num := sinTurn ((turnFraction neg m e + 2 ^ (fxBits - 2)) % 2 ^ fxBits), exp := 0, bound := 2 ^ (fxBits - 21) }
  | _ =>
    let p := sqrtParts fxBits 1 m (-e)
    let num := if 0 ≤ p.2 + fxBits then p.1 * 2 ^ (p.2 + fxBits).toNat else p.1 / 2 ^ (-(p.2 + fxBits)).toNat
    { num := num, exp := 0, bound := ulpUnits num 0 }

/-- A finite f32 value in units of 2^(exp − fxBits), rounded towards −∞. -/
def inUnits (exp : Int) : FVal → Option Int
  | .fin n m e =>
    let k := e - exp + fxBits
    some (if 0 ≤ k then (if n then -(m * 2 ^ k.toNat : Nat) else (m * 2 ^ k.toNat : Nat))
      else (if n then -((m + 2 ^ (-k).toNat - 1) / 2 ^ (-k).toNat : Nat) else (m / 2 ^ (-k).toNat : Nat)))
  | _ => none

/-- Round num · 2^(exp − fxBits) to a format. -/
def roundUnits (f : Fmt) (rnd : Nat) (num exp : Int) : Nat × Flags :=
  roundDy f rnd false false { m := num, e := exp - fxBits }

/-- The sign of b² · x − 1 for the f32 code b and x = m · 2^e: b lies above, at or below 1 / √x. -/
def rsqExcess (m : Nat) (e : Int) (b : Nat) : Int :=
  match unpack fmtF32 b with
  | .fin _ bm be =>
    let y : Dy := { m := bm, e := be }
    (((y.mul y).mul { m := m, e := e }).add { m := -1, e := 0 }).m
  | _ => 1

/-- RSQ's faithful results for x = m · 2^e: y is one of the two f32 values next to the exact one, or the exact one (11 R174). -/
def faithfulRsq (m : Nat) (e : Int) (y : Nat) : Bool :=
  let le (b : Nat) : Bool := decide (rsqExcess m e b ≤ 0)
  let ge (b : Nat) : Bool := decide (0 ≤ rsqExcess m e b)
  decide (0 < y) && decide (y ≤ fmtF32.maxCode) && ((le y && !(le (y + 1))) || (ge y && !(ge (y - 1))))

/-- The flags of a delivered value of a function whose exact result is none. -/
def deliveredFlags (f : Fmt) (y : Nat) : Flags :=
  Flag.ix ||| (if y % f.signBit < 2 ^ f.mbits then Flag.uf else 0) ||| (if y % f.signBit = f.infCode then Flag.of else 0)

/-- The delivered result of a bounded function for one element: the free value if its bound allows it (log 9); a packed element rounds an
intermediate within that bound. An EXP2 whose exact result underflows in f32 is that result rounded, for every format (11 R164, R174, 22
R323). The flags are judged against the exact result, which no delivered value is. -/
def boundedResult (op : SfuOp) (f : Fmt) (rnd : Nat) (neg : Bool) (m : Nat) (e : Int) (free : Nat) : Nat × Flags :=
  let ap := approxOf op neg m e
  let near := roundUnits fmtF32 (if op = .rsq then 1 else 0) ap.num ap.exp
  let under := decide (op = .exp2) && decide (near.1 < 2 ^ 23)
  if f = fmtF32 then
    let cand := free % 2 ^ 32
    let ok := match op with
      | .rsq => faithfulRsq m e cand
      | _ => match inUnits ap.exp (unpack fmtF32 cand) with
        | some u => decide ((u - ap.num).natAbs ≤ ap.bound)
        | none => false
    if under then (near.1, near.2 ||| Flag.ix)
    else
      let y := if ok then cand else near.1
      (y, deliveredFlags fmtF32 y)
  else
    let r := roundUnits f rnd (if under then ap.num else ap.num - ap.bound + (free % (2 * ap.bound + 1) : Nat)) ap.exp
    (r.1, r.2 ||| deliveredFlags f r.1)

/-- One element of a special function (11 R174, Table 11.8); `free` is the value the unit delivers where the manual bounds it. -/
def sfuElem (op : SfuOp) (f : Fmt) (rnd : Nat) (bits free : Nat) : Nat × Flags :=
  let x := unpack f bits
  let one := f.bias * 2 ^ f.mbits
  match x with
  | .nan s => (f.nan, ivIf s)
  | .inf neg =>
    (match op with
     | .rcp => (f.signed neg 0, 0)
     | .rsq => if neg then (f.nan, Flag.iv) else (0, 0)
     | .sqrt => if neg then (f.nan, Flag.iv) else (f.infCode, 0)
     | .exp2 => if neg then (0, 0) else (f.infCode, 0)
     | .log2 => if neg then (f.nan, Flag.iv) else (f.infCode, 0)
     | .sin => (f.nan, Flag.iv)
     | .cos => (f.nan, Flag.iv))
  | .fin neg m e =>
    if m = 0 then
      (match op with
       | .rcp => (f.signed neg f.infCode, Flag.dz)
       | .rsq => (f.signed neg f.infCode, Flag.dz)
       | .sqrt => (f.signed neg 0, 0)
       | .exp2 => (one, 0)
       | .log2 => (f.signed true f.infCode, Flag.dz)
       | .sin => (f.signed neg 0, 0)
       | .cos => (one, 0))
    else
      match op with
      | .rcp => roundRat f rnd false neg 1 m (-e)
      | .sqrt =>
        if neg then (f.nan, Flag.iv)
        else let p := sqrtParts 60 m 1 e; roundRat f rnd false false p.1 1 p.2
      | .rsq =>
        if neg then (f.nan, Flag.iv)
        else
          let p := sqrtParts 60 1 m (-e)
          -- x = 4^n gives exactly 2^-n
          if m = 2 ^ Nat.log2 m ∧ p.1 % 2 = 0 ∧ p.1 = 2 ^ Nat.log2 p.1 then roundRat f rnd false false p.1 1 p.2
          else boundedResult .rsq f rnd false m e free
      | .exp2 =>
        let top := (Nat.log2 m : Int) + e
        if 12 ≤ top then
          (if neg then roundRat f (if f = fmtF32 then 0 else rnd) false false 1 1 (-2000)
            else roundRat f (if f = fmtF32 then 0 else rnd) false false 1 1 2000)
        else
          let isInt := if 0 ≤ e then true else decide (m % 2 ^ (-e).toNat = 0)
          let i : Int := if 0 ≤ e then m * 2 ^ e.toNat else m / 2 ^ (-e).toNat
          let n := if neg then -i else i
          if isInt then roundRat f (if f = fmtF32 then 0 else rnd) false false 1 1 n
          else
            let whole := if neg then -i - 1 else i
            if f = fmtF32 ∧ whole < -151 then roundRat f 0 false false 3 2 whole
            else if f = fmtF32 ∧ 128 ≤ whole then roundRat f 0 false false 3 2 whole
            else boundedResult .exp2 f rnd neg m e free
      | .log2 =>
        if neg then (f.nan, Flag.iv)
        else if m = 2 ^ Nat.log2 m then
          let k := (Nat.log2 m : Int) + e
          roundDy f rnd false false { m := k, e := 0 }
        else boundedResult .log2 f rnd neg m e free
      | .sin | .cos =>
        let fr := turnFraction neg m e
        let big := decide (16 ≤ (Nat.log2 m : Int) + e)
        if fr % 2 ^ (fxBits - 2) = 0 then
          let q := (fr / 2 ^ (fxBits - 2) + (if op = .cos then 1 else 0)) % 4
          (match q with
           | 1 => (one, 0)
           | 3 => (f.signed true one, 0)
           | _ => (0, 0))
        else if big then
          let cand := free % (2 * f.signBit)
          let y := if cand % f.signBit ≤ one then cand else 0
          (y, deliveredFlags f y)
        else boundedResult op f rnd neg m e free

end Sys2Proof.Machine
end

