-- ==== Sys2Proof/Machine/Alu.lean ====
section
/-! DEFINITION. The arithmetic, bit, compare and special-function words: the ALU mould of 22 R290, the compare mould of 22 R313
and the special-function mould of 22 R314, and one meaning per instruction. -/

namespace Sys2Proof.Machine

/-! ## Valid types (11 Table 11.5) -/

def tyInt32 (ty : Nat) : Bool := ty == 0 || ty == 1
def tyF (ty : Nat) : Bool := ty == 2 || ty == 3 || ty == 4
def tyAdd (ty : Nat) : Bool := !(ty == 9 || ty == 10 || ty == 13)
def tyMul (ty : Nat) : Bool := tyInt32 ty || isPackedInt ty || tyF ty
def tyMulhi (ty : Nat) : Bool := tyInt32 ty || isPackedInt ty
def tyAbs (ty : Nat) : Bool := isSigned ty || tyF ty
def tyLogic (ty : Nat) : Bool := tyInt32 ty || isPackedInt ty || ty == 14
def tyDot (ty : Nat) : Bool := isPackedInt ty || ty == 3 || ty == 4 || ty == 9 || ty == 10 || ty == 13

/-! ## The ALU mould -/

/-- The register operands an ALU instruction reads under n64 and its result are pairs. -/
def resultRegs (ty : Nat) (sp : Span) : Nat := spanLen ty sp

/-- R52: a vector source with an s destination. -/
def vectorToScalar (d : Operand) (srcs : List Operand) : Bool := isS d && srcs.any isVecSrc

/-- A value as the words of a register group. -/
def groupWord (x i : Nat) : Word := word (x / 2 ^ (32 * i))

/-- The ALU mould (22 R290): `f` gives lane l's result and flags. One result per lane of ACT, or one for the split when every
source is scalar; an empty ACT changes nothing. `n` registers are written. -/
def aluWrite (c : Ctx) (s : State) (d : Operand) (n : Nat) (f : Nat → Nat × Flags) : Effect :=
  if c.act = 0 then .ok s
  else
    let ls := if isV d then lanesOf c.act else [0]
    let w := (c.w.writeGroup d c.act n fun i l => groupWord (f l).1 i).addFlags (orFlags (ls.map fun l => (f l).2))
    .ok (s.setWave c.wi w)

/-- Lanes whose flags count when the result is discarded: each lane of ACT for a vector source, once otherwise. -/
def aluDiscard (c : Ctx) (s : State) (srcs : List Operand) (f : Nat → Nat × Flags) : Effect :=
  let ls := actLanes (!(srcs.any isVecSrc)) c.act
  .ok (s.setWave c.wi (c.w.addFlags (orFlags (ls.map fun l => (f l).2))))

/-- An ALU word: the type check, R52, and the mould. `f ty rnd sat` is the function on the sources' and D's old values of a lane. -/
def aluWord (i : Instr) (d : Operand) (srcs : List Operand) (typeOk : Nat → Bool) (regs : Nat → Nat)
    (f : Ctx → Nat → Nat × Flags) (s : State) : Host.Outcome State Fault Refusal :=
  runWord s (decodesFor i) { typeOk := typeOk, illegal := fun _ => vectorToScalar d srcs } (fun c => instrCodes i (mType c.sp.mode))
    fun c s => if isDiscard d then aluDiscard c s srcs (f c) else aluWrite c s d (regs (mType c.sp.mode)) (f c)

/-- Apply an element function to every element of the lane values (11 R162). -/
def perElem (ty : Nat) (f : Nat → Nat × Flags) : Nat × Flags :=
  let rs := (upTo (elemCount ty)).map f
  (packElems (elemWidth ty) (rs.map (·.1)), orFlags (rs.map (·.2)))

/-- A unary element operation of an ALU word. -/
def alu1 (i : Instr) (d a : Operand) (typeOk : Nat → Bool) (f : Nat → Nat → Bool → Nat → Nat × Flags) (s : State) :
    Host.Outcome State Fault Refusal :=
  aluWord i d [a] typeOk (fun ty => spanLen ty .val) (fun c l =>
    let ty := mType c.sp.mode
    let x := valLane c ty a l
    perElem ty fun k => f ty (mRnd c.sp.mode) (mSat c.sp.mode) (elem (elemWidth ty) k x)) s

/-- A binary element operation of an ALU word. -/
def alu2 (i : Instr) (d a b : Operand) (typeOk : Nat → Bool) (f : Nat → Nat → Bool → Nat → Nat → Nat × Flags) (s : State) :
    Host.Outcome State Fault Refusal :=
  aluWord i d [a, b] typeOk (fun ty => spanLen ty .val) (fun c l =>
    let ty := mType c.sp.mode
    let x := valLane c ty a l
    let y := valLane c ty b l
    perElem ty fun k => f ty (mRnd c.sp.mode) (mSat c.sp.mode) (elem (elemWidth ty) k x) (elem (elemWidth ty) k y)) s

/-- An element operation that also reads D. -/
def alu3 (i : Instr) (d a b : Operand) (typeOk : Nat → Bool) (f : Nat → Nat → Bool → Nat → Nat → Nat → Nat × Flags) (s : State) :
    Host.Outcome State Fault Refusal :=
  aluWord i d [a, b] typeOk (fun ty => spanLen ty .val) (fun c l =>
    let ty := mType c.sp.mode
    let x := valLane c ty a l
    let y := valLane c ty b l
    let z := valLane c ty d l
    perElem ty fun k => f ty (mRnd c.sp.mode) (mSat c.sp.mode) (elem (elemWidth ty) k x) (elem (elemWidth ty) k y)
      (elem (elemWidth ty) k z)) s

/-- An operation on whole 32-bit registers under i32 and n32. -/
def alu32 (i : Instr) (d : Operand) (srcs : List Operand) (typeOk : Nat → Bool) (f : Ctx → Nat → Nat) (s : State) :
    Host.Outcome State Fault Refusal :=
  aluWord i d srcs typeOk (fun _ => 1) (fun c l => (f c l, 0)) s

/-! ## Element functions -/

/-- ADD (22 R297). -/
def addElem (ty rnd : Nat) (sat : Bool) (x y : Nat) : Nat × Flags :=
  if isFloat ty then faddV (fmtOf ty) rnd (unpack (fmtOf ty) x) (unpack (fmtOf ty) y)
  else
    let w := elemWidth ty
    (intResult sat (isSigned ty) w (intVal (isSigned ty) w x + intVal (isSigned ty) w y), 0)

/-- Under n64 the sum wraps modulo 2^64 (22 R297) or clamps under SAT (11 R167). -/
def subElem (ty rnd : Nat) (sat : Bool) (x y : Nat) : Nat × Flags :=
  if isFloat ty then faddV (fmtOf ty) rnd (unpack (fmtOf ty) x) (unpack (fmtOf ty) y).negate
  else
    let w := elemWidth ty
    (intResult sat (isSigned ty) w (intVal (isSigned ty) w x - intVal (isSigned ty) w y), 0)

/-- MUL (23 R360). -/
def mulElem (ty rnd : Nat) (sat : Bool) (x y : Nat) : Nat × Flags :=
  if isFloat ty then fmulV (fmtOf ty) rnd (unpack (fmtOf ty) x) (unpack (fmtOf ty) y)
  else
    let w := elemWidth ty
    (intResult sat (isSigned ty) w (intVal (isSigned ty) w x * intVal (isSigned ty) w y), 0)

/-- MULHI (23 R361). -/
def mulhiElem (ty _rnd : Nat) (_sat : Bool) (x y : Nat) : Nat × Flags :=
  let w := elemWidth ty
  (wrap w (intVal (isSigned ty) w x * intVal (isSigned ty) w y / (2 ^ w : Nat)), 0)

/-- MAD (23 R349). -/
def madElem (ty rnd : Nat) (sat : Bool) (x y z : Nat) : Nat × Flags :=
  if isFloat ty then fmadV (fmtOf ty) rnd (unpack (fmtOf ty) x) (unpack (fmtOf ty) y) (unpack (fmtOf ty) z)
  else
    let w := elemWidth ty
    (intResult sat (isSigned ty) w (intVal (isSigned ty) w x * intVal (isSigned ty) w y + intVal (isSigned ty) w z), 0)

/-- MIN and MAX (23 R352). -/
def minmaxElem (isMax : Bool) (ty : Nat) (x y : Nat) : Nat × Flags :=
  if isFloat ty then fminmax (fmtOf ty) isMax x y
  else
    let w := elemWidth ty
    let less := decide (intVal (isSigned ty) w x < intVal (isSigned ty) w y)
    (if less != isMax then x else y, 0)

/-- An element as the result of float arithmetic that leaves its value: a NaN is the canonical one (11 R166). -/
def quietElem (ty x : Nat) : Nat × Flags :=
  if isFloat ty then
    let v := unpack (fmtOf ty) x
    if v.isNan then ((fmtOf ty).nan, ivIf v.isSnan) else (x, 0)
  else (x, 0)

/-- ABS (22 R295). -/
def absElem (ty _rnd : Nat) (sat : Bool) (x : Nat) : Nat × Flags :=
  if isFloat ty then
    let f := fmtOf ty
    let v := unpack f x
    if v.isNan then (f.nan, ivIf v.isSnan) else (x % f.signBit, 0)
  else
    let w := elemWidth ty
    (intResult sat true w (intVal true w x).natAbs, 0)

/-- NEG (23 R365). -/
def negElem (ty _rnd : Nat) (sat : Bool) (x : Nat) : Nat × Flags :=
  if isFloat ty then
    let f := fmtOf ty
    let v := unpack f x
    if v.isNan then (f.nan, ivIf v.isSnan) else ((x + f.signBit) % (2 * f.signBit), 0)
  else
    let w := elemWidth ty
    (intResult sat true w (-(intVal true w x)), 0)

/-- SHL and SHR of one element by a raw count (24 R399). -/
def shiftElem (left signed : Bool) (w x n : Nat) : Nat :=
  if left then x * 2 ^ n % 2 ^ w
  else wrap w (intVal signed w x / (2 ^ n : Nat))

/-- log₂ of an element width. -/
def log2Width (w : Nat) : Nat := Nat.log2 w

/-- ROUNDI (24 R391). -/
def roundiElem (ty rnd : Nat) (_sat : Bool) (x : Nat) : Nat × Flags :=
  let f := fmtOf ty
  match unpack f x with
  | .nan s => (f.nan, ivIf s)
  | .inf n => (f.signed n f.infCode, 0)
  | .fin n m e =>
    let r := (roundAt rnd n m 1 e 0).1
    if 0 ≤ e then (x, 0) else ((roundDy f 0 false n (finDy n r 0)).1, 0)

/-- FRACT (22 R326): x − ⌊x⌋ rounded once. -/
def fractElem (ty rnd : Nat) (_sat : Bool) (x : Nat) : Nat × Flags :=
  let f := fmtOf ty
  match unpack f x with
  | .nan s => (f.nan, ivIf s)
  | .inf _ => (f.nan, Flag.iv)
  | .fin n m e =>
    let v := finDy n m e
    let fl : Int := if 0 ≤ e then v.m * 2 ^ e.toNat else v.m / (2 ^ (-e).toNat : Nat)
    roundDy f rnd false (rnd == 3) (v.add { m := -fl, e := 0 })

/-- LDEXP (23 R346). -/
def ldexpElem (ty rnd : Nat) (n : Int) (x : Nat) : Nat × Flags :=
  let f := fmtOf ty
  match unpack f x with
  | .nan s => (f.nan, ivIf s)
  | .inf ng => (f.signed ng f.infCode, 0)
  | .fin ng m e => if m = 0 then (f.signed ng 0, 0) else roundRat f rnd false ng m 1 (max (-4000) (min 4000 (e + n)))

/-! ## Meanings: arithmetic -/

/-- MOV copies bits (23 R359). -/
def execMov (d a : Operand) (s : State) : Host.Outcome State Fault Refusal :=
  aluWord (.mov d a) d [a] (fun _ => true) (fun ty => spanLen ty .val) (fun c l => (valLane c (mType c.sp.mode) a l, 0)) s

def execAdd (d a b : Operand) (s : State) : Host.Outcome State Fault Refusal := alu2 (.add d a b) d a b tyAdd addElem s
/-- SUB (24 R410). -/
def execSub (d a b : Operand) (s : State) : Host.Outcome State Fault Refusal := alu2 (.sub d a b) d a b tyAdd subElem s
def execMul (d a b : Operand) (s : State) : Host.Outcome State Fault Refusal := alu2 (.mul d a b) d a b tyMul mulElem s
def execMulhi (d a b : Operand) (s : State) : Host.Outcome State Fault Refusal := alu2 (.mulhi d a b) d a b tyMulhi mulhiElem s
def execMad (d a b : Operand) (s : State) : Host.Outcome State Fault Refusal := alu3 (.mad d a b) d a b tyMul madElem s
def execMin (d a b : Operand) (s : State) : Host.Outcome State Fault Refusal :=
  alu2 (.min d a b) d a b tyAdd (fun ty _ _ x y => minmaxElem false ty x y) s
def execMax (d a b : Operand) (s : State) : Host.Outcome State Fault Refusal :=
  alu2 (.max d a b) d a b tyAdd (fun ty _ _ x y => minmaxElem true ty x y) s
def execAbs (d a : Operand) (s : State) : Host.Outcome State Fault Refusal := alu1 (.abs d a) d a tyAbs absElem s
def execNeg (d a : Operand) (s : State) : Host.Outcome State Fault Refusal := alu1 (.neg d a) d a tyAbs negElem s

/-- A bitwise operation on the words of the register or pair (22 R299, 23 R367, R368, 24 R417). -/
def logicWord (i : Instr) (d : Operand) (srcs : List Operand) (f : Ctx → Nat → Nat) (s : State) :
    Host.Outcome State Fault Refusal :=
  aluWord i d srcs tyLogic (fun ty => spanLen ty .val) (fun c l => (f c l, 0)) s

def execAndB (d a b : Operand) (s : State) : Host.Outcome State Fault Refusal :=
  logicWord (.andB d a b) d [a, b] (fun c l => valLane c (mType c.sp.mode) a l &&& valLane c (mType c.sp.mode) b l) s
def execOrB (d a b : Operand) (s : State) : Host.Outcome State Fault Refusal :=
  logicWord (.orB d a b) d [a, b] (fun c l => valLane c (mType c.sp.mode) a l ||| valLane c (mType c.sp.mode) b l) s
def execXorB (d a b : Operand) (s : State) : Host.Outcome State Fault Refusal :=
  logicWord (.xorB d a b) d [a, b] (fun c l => valLane c (mType c.sp.mode) a l ^^^ valLane c (mType c.sp.mode) b l) s
def execNotB (d a : Operand) (s : State) : Host.Outcome State Fault Refusal :=
  logicWord (.notB d a) d [a] (fun c l => 18446744073709551615 - valLane c (mType c.sp.mode) a l) s

/-- A shift: element k by the low log₂ w bits of element k of B; under n64 by the low 6 bits of B's first register. B is raw, but an
integer constant is replicated into every element (24 R399, 03 R54). -/
def shiftLane (left : Bool) (a b : Operand) (c : Ctx) (l : Nat) : Nat × Flags :=
  let ty := mType c.sp.mode
  let w := elemWidth ty
  let x := valLane c ty a l
  let y := match b with
    | .int _ => valLane c ty b l
    | _ => (rawLane c b l).toNat
  perElem ty fun k => (shiftElem left (isSigned ty) w (elem w k x) (elem w k y % 2 ^ log2Width w), 0)

def execShl (d a b : Operand) (s : State) : Host.Outcome State Fault Refusal :=
  aluWord (.shl d a b) d [a, b] tyLogic (fun ty => spanLen ty .val) (shiftLane true a b) s
def execShr (d a b : Operand) (s : State) : Host.Outcome State Fault Refusal :=
  aluWord (.shr d a b) d [a, b] tyLogic (fun ty => spanLen ty .val) (shiftLane false a b) s

/-- Position and length of a bit field (22 R303). -/
def bitField (b : Nat) : Nat × Nat := (b % 32, min (b / 256 % 32) (32 - b % 32))

def execBfx (d a b : Operand) (s : State) : Host.Outcome State Fault Refusal :=
  alu32 (.bfx d a b) d [a, b] tyInt32 (fun c l =>
    let p := bitField (rawLane c b l).toNat
    let f := valLane c (mType c.sp.mode) a l / 2 ^ p.1 % 2 ^ p.2
    if p.2 = 0 then 0 else if mType c.sp.mode = Ty.i32 then wrap 32 (toSigned p.2 f) else f) s

def execBfi (d a b : Operand) (s : State) : Host.Outcome State Fault Refusal :=
  alu32 (.bfi d a b) d [a, b] tyInt32 (fun c l =>
    let p := bitField (rawLane c b l).toNat
    let old := valLane c (mType c.sp.mode) d l
    let x := valLane c (mType c.sp.mode) a l % 2 ^ p.2
    old % 2 ^ p.1 + 2 ^ p.1 * x + 2 ^ (p.1 + p.2) * (old / 2 ^ (p.1 + p.2))) s

def execPopc (d a : Operand) (s : State) : Host.Outcome State Fault Refusal :=
  alu32 (.popc d a) d [a] tyInt32 (fun c l => popcount (word (valLane c (mType c.sp.mode) a l))) s

/-- CLZ (22 R312). -/
def execClz (d a : Operand) (s : State) : Host.Outcome State Fault Refusal :=
  alu32 (.clz d a) d [a] tyInt32 (fun c l =>
    let x := valLane c (mType c.sp.mode) a l
    if x = 0 then 32 else 31 - Nat.log2 x) s

/-- BREV (22 R304). -/
def execBrev (d a : Operand) (s : State) : Host.Outcome State Fault Refusal :=
  alu32 (.brev d a) d [a] tyInt32 (fun c l =>
    (maskOf fun k => bit (word (valLane c (mType c.sp.mode) a l)) (31 - k)).toNat) s

/-- CSEL is per lane whatever its sources: D := B in the lanes of ACT whose bit of A is set (22 R317). -/
def execCsel (d a b : Operand) (s : State) : Host.Outcome State Fault Refusal :=
  runWord s (decodesFor (.csel d a b)) {} (fun c => instrCodes (.csel d a b) (mType c.sp.mode)) fun c s =>
    let ty := mType c.sp.mode
    let m := c.act &&& rawU c a
    .ok (s.setWave c.wi (c.w.writeGroup d m (spanLen ty .val) fun i l => groupWord (valLane c ty b l) i))

/-- ADDW (22 R298): a 64-bit pair plus a value extended from 32 bits. -/
def execAddw (d a b : Operand) (s : State) : Host.Outcome State Fault Refusal :=
  aluWord (.addw d a b) d [a, b] tyInt32 (fun _ => 2) (fun c l =>
    let ty := mType c.sp.mode
    let x := (groupLane c a 0 l).toNat + 4294967296 * (groupLane c a 1 l).toNat
    let y := valLane c ty b l
    let ext := if ty = Ty.i32 ∧ 0x80000000 ≤ y then y + 18446744069414584320 else y
    ((x + ext) % two64, 0)) s

/-- The sum of products of DOT with D (11 R173). -/
def dotLane (ty rnd : Nat) (sat : Bool) (x y z : Nat) : Nat × Flags :=
  let w := elemWidth ty
  let ks := upTo (elemCount ty)
  if isFloat ty then
    let f := fmtOf ty
    let zv := unpack fmtF32 z
    let ps := ks.map fun k => mulV (unpack f (elem w k x)) (unpack f (elem w k y))
    let acc := (ps.foldl Acc.addV Acc.zero).addV zv
    match acc.special fmtF32 with
    | some r => r
    | none =>
      let allNeg := zv.isZero && zv.neg && ps.all fun p => p.isZero && p.neg
      let allPos := zv.isZero && !(zv.neg) && ps.all fun p => p.isZero && !(p.neg)
      roundDy fmtF32 rnd false (if allNeg then true else if allPos then false else rnd == 3) acc.sum
  else
    let sum := ks.foldl (fun (t : Int) k =>
      t + intVal (isSigned ty) w (elem w k x) * intVal (isSigned ty) w (elem w k y)) (intVal (isSigned ty) 32 z)
    (intResult sat (isSigned ty) 32 sum, 0)

def execDot (d a b : Operand) (s : State) : Host.Outcome State Fault Refusal :=
  aluWord (.dot d a b) d [a, b] tyDot (fun _ => 1) (fun c l =>
    let ty := mType c.sp.mode
    dotLane ty (mRnd c.sp.mode) (mSat c.sp.mode) (valLane c ty a l) (valLane c ty b l) (rawLane c d l).toNat) s

/-- CVT (11 R169): element j from element j mod es of register A + j / es to element j mod et of register D + j / et. -/
def cvtLane (src dst rnd : Nat) (sat : Bool) (reg : Nat → Nat) : Nat × Flags :=
  let es := elemCount src
  let et := elemCount dst
  let rs := (upTo (max es et)).map fun j => cvtElem src dst rnd sat (elem (elemWidth src) (j % es) (reg (j / es)))
  (packElems (elemWidth dst) (rs.map (·.1)), orFlags (rs.map (·.2)))

/-- CVT converts the elements of A (22 R318). DESIGN CHOICE (log 82): a source type n64 raises ILLEGAL, as R318 and 11 R169 have it,
though 11 Table 11.5 marks the source of CVT valid under n64. -/
def execCvt (d a b : Operand) (s : State) : Host.Outcome State Fault Refusal :=
  aluWord (.cvt d a b) d [a] (fun ty => ty != 14) (fun ty => (cvtRegs ty (cvtTarget b)).2) (fun c l =>
    let ty := mType c.sp.mode
    cvtLane ty (cvtTarget b) (mRnd c.sp.mode) (mSat c.sp.mode) fun i =>
      match a with
      | .v _ | .s _ => (groupLane c a i l).toNat
      | _ => valLane c ty a l) s

def execRoundi (d a : Operand) (s : State) : Host.Outcome State Fault Refusal := alu1 (.roundi d a) d a tyF roundiElem s
def execFract (d a : Operand) (s : State) : Host.Outcome State Fault Refusal := alu1 (.fract d a) d a tyF fractElem s

def execLdexp (d a b : Operand) (s : State) : Host.Outcome State Fault Refusal :=
  aluWord (.ldexp d a b) d [a, b] tyF (fun _ => 1) (fun c l =>
    let ty := mType c.sp.mode
    let x := valLane c ty a l
    let n := toSigned 32 (rawLane c b l).toNat
    perElem ty fun k => ldexpElem ty (mRnd c.sp.mode) n (elem (elemWidth ty) k x)) s

/-- SCALEX (11 R172): an E8 scale byte as an f32 power of two. -/
def scalexWord (e : Nat) : Nat := if e = 255 then 0x7FC00000 else if e = 0 then 0x00400000 else e * 8388608

def execScalex (d a b : Operand) (s : State) : Host.Outcome State Fault Refusal :=
  aluWord (.scalex d a b) d [a, b] (fun _ => true) (fun _ => 1) (fun c l =>
    (scalexWord ((rawLane c a l).toNat / 2 ^ (8 * ((rawLane c b l).toNat % 4)) % 256), 0)) s

/-! ## Compares (22 R313, R310) -/

/-- One of the seven relations of 22 Table 22.6. -/
inductive Rel where
  | eq | ne | lt | le | gt | ge | un
deriving DecidableEq, Repr

/-- A relation on integers. -/
def Rel.onInt (r : Rel) (x y : Int) : Bool :=
  match r with
  | .eq => x == y
  | .ne => x != y
  | .lt => decide (x < y)
  | .le => decide (x ≤ y)
  | .gt => decide (y < x)
  | .ge => decide (y ≤ x)
  | .un => false

/-- A relation on floats and the IV it sets. -/
def Rel.onFloat (r : Rel) (x y : FVal) : Bool × Flags :=
  let anyNan := x.isNan || y.isNan
  let sig := ivIf (x.isSnan || y.isSnan)
  match r with
  | .eq => (feqV x y, sig)
  | .ne => (!(feqV x y), sig)
  | .lt => (!anyNan && fltV x y, ivIf anyNan)
  | .le => (!anyNan && !(fltV y x), ivIf anyNan)
  | .gt => (!anyNan && fltV y x, ivIf anyNan)
  | .ge => (!anyNan && !(fltV x y), ivIf anyNan)
  | .un => (anyNan, sig)

/-- The relation over all elements of two lane values. -/
def Rel.onLane (r : Rel) (ty x y : Nat) : Bool × Flags :=
  let w := elemWidth ty
  let rs := (upTo (elemCount ty)).map fun k =>
    if isFloat ty then r.onFloat (unpack (fmtOf ty) (elem w k x)) (unpack (fmtOf ty) (elem w k y))
    else (r.onInt (intVal (isSigned ty) w (elem w k x)) (intVal (isSigned ty) w (elem w k y)), 0)
  (rs.all (·.1), orFlags (rs.map (·.2)))

/-- Write a predicate's bits in the lanes of ACT; the other bits keep (22 R313). -/
def predWrite (c : Ctx) (s : State) (d : Operand) (srcs : List Operand) (f : Nat → Bool × Flags) : Effect :=
  if c.act = 0 then .ok s
  else
    let ls := if srcs.any isVecSrc then lanesOf c.act else [0]
    let g (l : Nat) : Bool := if srcs.any isVecSrc then (f l).1 else (f 0).1
    match d with
    | .p r =>
      let m := maskOf fun l => if bit c.act l then g l else bit (c.w.readP r.val) l
      .ok (s.setWave c.wi ((c.w.writeP r.val m).addFlags (orFlags (ls.map fun l => (f l).2))))
    | _ => .ok s

/-- A compare word. -/
def cmpWord (i : Instr) (r : Rel) (typeOk : Nat → Bool) (d a b : Operand) (s : State) : Host.Outcome State Fault Refusal :=
  runWord s (decodesFor i) { typeOk := typeOk } (fun c => instrCodes i (mType c.sp.mode)) fun c s =>
    predWrite c s d [a, b] fun l => r.onLane (mType c.sp.mode) (valLane c (mType c.sp.mode) a l) (valLane c (mType c.sp.mode) b l)

def execCmpeq (d a b : Operand) (s : State) : Host.Outcome State Fault Refusal := cmpWord (.cmpeq d a b) .eq (fun _ => true) d a b s
def execCmpne (d a b : Operand) (s : State) : Host.Outcome State Fault Refusal := cmpWord (.cmpne d a b) .ne (fun _ => true) d a b s
def execCmplt (d a b : Operand) (s : State) : Host.Outcome State Fault Refusal := cmpWord (.cmplt d a b) .lt (fun _ => true) d a b s
def execCmple (d a b : Operand) (s : State) : Host.Outcome State Fault Refusal := cmpWord (.cmple d a b) .le (fun _ => true) d a b s
def execCmpgt (d a b : Operand) (s : State) : Host.Outcome State Fault Refusal := cmpWord (.cmpgt d a b) .gt (fun _ => true) d a b s
def execCmpge (d a b : Operand) (s : State) : Host.Outcome State Fault Refusal := cmpWord (.cmpge d a b) .ge (fun _ => true) d a b s
def execCmpun (d a b : Operand) (s : State) : Host.Outcome State Fault Refusal := cmpWord (.cmpun d a b) .un isFloat d a b s

/-- The class of a float element (22 Table 22.5). -/
def classOf (f : Fmt) (x : Nat) : Nat :=
  match unpack f x with
  | .nan s => if s then 0 else 1
  | .inf n => if n then 2 else 9
  | .fin n m _ =>
    if m = 0 then (if n then 5 else 6)
    else if x % f.signBit < 2 ^ f.mbits then (if n then 4 else 7)
    else if n then 3 else 8

def execClassF (d a b : Operand) (s : State) : Host.Outcome State Fault Refusal :=
  runWord s (decodesFor (.classF d a b)) { typeOk := isFloat } (fun c => instrCodes (.classF d a b) (mType c.sp.mode)) fun c s =>
    predWrite c s d [a] fun l =>
      let ty := mType c.sp.mode
      let x := valLane c ty a l
      ((upTo (elemCount ty)).all fun k => bit (rawU c b) (classOf (fmtOf ty) (elem (elemWidth ty) k x)), 0)

/-! ## Special functions (22 R314, 24 R384) -/

/-- A special-function word: its result travels back (04 R78); the free values are drawn at issue, one per element (log 9). -/
def sfuWord (i : Instr) (op : SfuOp) (d a : Operand) (s : State) : Host.Outcome State Fault Refusal :=
  runWord s (decodesFor i) { typeOk := tyF, illegal := fun _ => vectorToScalar d [a] } (fun c => instrCodes i (mType c.sp.mode)) fun c s =>
    let ty := mType c.sp.mode
    let w := elemWidth ty
    let f (l : Nat) : Nat × Flags := perElem ty fun k =>
      sfuElem op (fmtOf ty) (mRnd c.sp.mode) (elem w k (valLane c ty a l)) (Config.sfuResult (s.free * 64 + l * 2 + k))
    let ls := actLanes (!(isVecSrc a)) c.act
    if c.act = 0 then .ok s
    else
      let wv := c.w.addFlags (orFlags (ls.map fun l => (f l).2))
      let r := s.stamp
      let codes := codesOf ty (d, .one)
      let ws := groupWrites d c.act 1 fun _ l => word (f (if isVecSrc a then l else 0)).1
      let p : Pend := { n := r.1, split := c.sp.num, codes := codes, op := .ready ws }
      .ok (r.2.drawn.setWave c.wi (if ws.isEmpty then wv else { wv with pend := wv.pend ++ [p] }))

def execRcp (d a : Operand) (s : State) : Host.Outcome State Fault Refusal := sfuWord (.rcp d a) .rcp d a s
def execRsq (d a : Operand) (s : State) : Host.Outcome State Fault Refusal := sfuWord (.rsq d a) .rsq d a s
def execSqrt (d a : Operand) (s : State) : Host.Outcome State Fault Refusal := sfuWord (.sqrt d a) .sqrt d a s
def execExp2 (d a : Operand) (s : State) : Host.Outcome State Fault Refusal := sfuWord (.exp2 d a) .exp2 d a s
def execLog2 (d a : Operand) (s : State) : Host.Outcome State Fault Refusal := sfuWord (.log2 d a) .log2 d a s
def execSin (d a : Operand) (s : State) : Host.Outcome State Fault Refusal := sfuWord (.sin d a) .sin d a s
def execCos (d a : Operand) (s : State) : Host.Outcome State Fault Refusal := sfuWord (.cos d a) .cos d a s

end Sys2Proof.Machine
end

