-- ==== Sys2Proof/Machine/Trans.lean ====
section
/-! DEFINITION. Translation: the five-level tables of both stages (21 R273, R274), what a walk finds, the rights a core and a
translation home hold (18 R253, R254), and reading and writing behind them. -/

namespace Sys2Proof.Machine

/-! ## Kick pages as they read (05 R83) -/

/-- Queue q of a partition. -/
def Part.queue (p : Part) (q : Nat) : Queue := (p.queues.find q).getD Queue.reset

/-- Insert a number into a rising list. -/
def insertNat (x : Nat) : List Nat → List Nat
  | [] => [x]
  | y :: ys => if x < y then x :: y :: ys else if x = y then y :: ys else y :: insertNat x ys

/-- Pool lines that hold shadows, ascending (17 Table 17.3). -/
def Part.poolLines (p : Part) : List Nat :=
  (p.regions.flatMap fun r => r.shadows.filterMap (·.pool)).foldl (fun xs j => insertNat j xs) []

/-- USED. -/
def Part.poolUsed (p : Part) : Nat := p.poolLines.length

/-- The 4 bytes at an offset of a kick page as a read returns them (05 Tables 5.1 to 5.3, 17 Table 17.3). -/
def State.kickRead (s : State) (p a : Nat) : Nat :=
  let x := s.part p
  let q := x.queue ((a - 0x400) / 32)
  if 0x400 ≤ a ∧ a < 0xC00 then
    (match a % 32 with
     | 0 => q.base % 4294967296
     | 4 => q.base / 4294967296
     | 8 => q.logn + (if q.en then 256 else 0) + 512 * q.prio + 2048 * q.cls
     | 12 => q.err
     | 16 => q.head
     | 20 => q.fetched
     | _ => 0)
  else if a = 0x1000 then x.state + 256 * x.reason
  else if a = 0x2000 then x.poolBase % 4294967296
  else if a = 0x2004 then x.poolBase / 4294967296
  else if a = 0x2008 then x.poolSize
  else if a = 0x200C then x.poolUsed
  else 0

/-- The kick page that the host reaches at an address of its own: partition and offset (21 Table 21.7, log 76). -/
def State.barAt (s : State) (a : Nat) : Option (Nat × Nat) :=
  (s.bars.find? fun e => decide (e.2 ≤ a) && decide (a < e.2 + 65536)).map fun e => (e.1, a - e.2)

/-- A byte that the host holds at an address, or a byte of a kick page there. -/
def State.hostByte (s : State) (a : Nat) : Byte :=
  match s.barAt a with
  | some (p, off) => BitVec.ofNat 8 (s.kickRead p (off / 4 * 4) / 256 ^ (off % 4))
  | none => s.host.get a

/-! ## The physical tiers and what lies behind the ports -/

/-- The peer of a stage-2 leaf of partition p: the module PEER, whose window of p's number it reaches (21 R283). -/
def leafPeer (p e : Nat) : Nat := e / 512 % 64 + 64 * p

/-- The key of a byte in a peer's window: window and offset. -/
def peerKey (peer a : Nat) : Nat := peer * two64 + a

/-- The last byte in transit to a target through a port (08 Table 8.1): a device sees its own earlier writes to it. -/
def State.inTransit (s : State) (tgt peer a : Nat) : Option Byte :=
  s.portWrites.foldl (fun r w =>
    if w.tgt = tgt ∧ w.peer = peer ∧ w.addr ≤ a ∧ a < w.addr + w.bytes.length then (w.bytes[a - w.addr]?).or r else r) none

/-- A write to the kick page at a host address is in transit: a read follows it there. -/
def State.kickBusy (s : State) (a : Nat) : Bool :=
  match s.barAt a with
  | none => false
  | some (p, _) => s.portWrites.any fun w => w.tgt == 1 && (s.barAt w.addr).any fun x => x.1 == p

/-- A port of PZ link: up and without replays until an error says otherwise (21 start-up step 4). -/
def State.pzPort (s : State) (i : Nat) : PzPort := (s.module.ports.find i).getD { up := true, replays := 0 }

/-- Some port that is up reaches a peer (21 R283); which ports reach which peer is the fabric's, not the manual's (log 26). -/
def State.reaches (s : State) (peer : Nat) : Bool := (upTo 8).any fun i => (s.pzPort i).up && Config.portReaches i (peer % 64)

/-- A byte of the physical tiers: the SRAM cache's, else GDDR7's (06 R119). -/
def State.ptByte (s : State) (a : Nat) : Byte :=
  match s.sram.find (a / 256) with
  | some l => nth l.bytes (a % 256) Memory.blank
  | none => s.pt.get a

/-- n bytes of the physical tiers. -/
def State.ptRead (s : State) (a : Nat) : Nat → List Byte
  | 0 => []
  | n + 1 => s.ptByte a :: s.ptRead (a + 1) n

/-- A little-endian number in the physical tiers. -/
def State.ptLe (s : State) (a n : Nat) : Nat := leValue (s.ptRead a n)

/-- A byte reaches the physical tiers: a line that the SRAM cache holds takes it and its sector is dirty, else GDDR7 (06 R119). -/
def State.ptPut (s : State) (a : Nat) (x : Byte) : State :=
  match s.sram.find (a / 256) with
  | some l => { s with sram := s.sram.put (a / 256) { bytes := setAt l.bytes (a % 256) x, dirty := l.dirty ||| (1#4 <<< (a / 64 % 4)) } }
  | none => { s with pt := s.pt.set a x }

/-- Bytes reach the physical tiers. -/
def State.ptWrite (s : State) (a : Nat) : List Byte → State
  | [] => s
  | x :: xs => State.ptWrite (s.ptPut a x) (a + 1) xs

/-- The SRAM cache gives up a line: its dirty sectors go to GDDR7 (06 R119). -/
def State.ptEvict (s : State) (line : Nat) : State :=
  match s.sram.find line with
  | none => s
  | some l =>
    let m := ([0, 1, 2, 3].filter fun k => l.dirty.getLsbD k).foldl (fun (m : Memory) k =>
      m.write (256 * line + 64 * k) ((l.bytes.drop (64 * k)).take 64)) s.pt
    { s with pt := m, sram := s.sram.drop line }

/-- The set group of a physical line: the die of its channel, and PA[23:16], which the stage-2 leaf chooses (01 R11, 21 R274). -/
def sramGroup (line : Nat) : Nat × Nat := (line * 256 / 274877906944 / 12, line / 256 % 256)

/-- The lines that the SRAM cache holds in a line's set group, which has room for 4 MiB of them (21 R274). -/
def State.sramLines (s : State) (line : Nat) : List Nat := (s.sram.map (·.1)).filter fun l => sramGroup l == sramGroup line
def sramCap : Nat := 16384

/-- The SRAM cache takes in a line; when its set group is full one of the group leaves, which the manual does not say (log 15). -/
def State.ptAlloc (s : State) (line : Nat) : State :=
  match s.sram.find line with
  | some _ => s
  | none =>
    let mine := s.sramLines line
    let s1 := if mine.length < sramCap then s else (s.ptEvict (nth mine (Config.freeNat s.free % mine.length) 0)).drawn
    { s1 with sram := s1.sram.put line { bytes := s1.pt.read (256 * line) 256, dirty := 0 } }

/-- A byte of module memory, of the host or of a peer (21 R273: TGT 0, 1, 2). -/
def State.physByte (s : State) (tgt peer a : Nat) : Byte :=
  if tgt = 0 then s.ptByte a
  else (s.inTransit tgt peer a).getD (if tgt = 1 then s.hostByte a else s.peers.get (peerKey peer a))

/-- The key of a location of the host (TGT 1) or of a peer (TGT 2) among those that commute f32 additions go to. -/
def portKey (tgt peer a : Nat) : Nat := 2 ^ 128 * tgt + (if tgt = 1 then a else peerKey peer a)

/-- Commute f32 additions to locations that n bytes from a key on meet are over (08 R158). -/
def State.endSumsAt (s : State) (key n : Nat) : State :=
  { s with sums := s.sums.filter fun e => !(decide (e.1 < key + n) && decide (key < e.1 + 4)) }

/-- Write bytes at a target. A write that meets a kick page leaves the host's memory alone. -/
def State.physWrite (s : State) (tgt peer a : Nat) (bs : List Byte) : State :=
  if tgt = 0 then s.ptWrite a bs
  else if tgt = 1 then (if (s.barAt a).isSome then s else ({ s with host := s.host.write a bs } : State).endSumsAt (portKey 1 0 a) bs.length)
  else ({ s with peers := s.peers.write (peerKey peer a) bs } : State).endSumsAt (portKey 2 peer a) bs.length

/-- Read n bytes from a target. -/
def State.physRead (s : State) (tgt peer a : Nat) : Nat → List Byte
  | 0 => []
  | n + 1 => s.physByte tgt peer a :: s.physRead tgt peer (a + 1) n

/-! ## Table walks (21 R273) -/

/-- A level of the tables: shift of its index, bits of its index, level number. -/
structure LevelShape where
  shift : Nat
  bits : Nat
  level : Nat

/-- The five levels. -/
def tableLevels : List LevelShape := [⟨48, 8, 0⟩, ⟨39, 9, 1⟩, ⟨30, 9, 2⟩, ⟨21, 9, 3⟩, ⟨16, 5, 4⟩]

/-- What a walk of one stage finds. -/
inductive WalkRes where
  /-- a leaf and the shift of its page size -/
  | leaf (e shift : Nat)
  /-- a fault of this stage -/
  | bad
  /-- stage 2 refuses the read of this table address (stage-1 walks) -/
  | refused (ipa : Nat)

/-- A leaf's reserved fields are 0 and its codes are in range; TGT is stage 2's only (21 R273). -/
def leafOk (stage2 : Bool) (l : LevelShape) (e : Nat) : Bool :=
  decide (2 ≤ l.level) && decide (e / 32 % 4 ≠ 3) && decide (e / 32768 % 2 = 0) && decide (e / 65536 * 65536 % 2 ^ l.shift = 0) &&
    (if stage2 then decide (e / 128 % 4 ≠ 3) else decide (e / 128 % 4 = 0))

/-- A table entry's reserved bits are 0 and the next table is aligned to its size (21 R273). -/
def tableOk (next : Option LevelShape) (e : Nat) : Bool :=
  match next with
  | none => false
  | some l => decide (e / 4 % 64 = 0) && decide (e / 256 * 256 % (8 * 2 ^ l.bits) = 0)

/-- Walk the levels from a table, reading entries with `read`. -/
def walkLevels (stage2 : Bool) (read : Nat → Option Nat) (va : Nat) : List LevelShape → Nat → WalkRes
  | [], _ => .bad
  | l :: ls, table =>
    let a := table + 8 * (va / 2 ^ l.shift % 2 ^ l.bits)
    match read a with
    | none => .refused a
    | some e =>
      if e % 2 = 0 then .bad
      else if e / 2 % 2 = 1 then (if leafOk stage2 l e then .leaf e l.shift else .bad)
      else if tableOk ls.head? e then walkLevels stage2 read va ls (e / 256 * 256)
      else .bad

/-- A module physical address names a byte that exists (21 R274). -/
def modulePaOk (pa : Nat) : Bool :=
  decide (pa < 8796093022208) && decide (pa / 274877906944 < Config.channels) &&
    decide (pa % 274877906944 / 16777216 * 16777216 < Config.channelBytes)

/-- The address a leaf gives an input address. -/
def leafAddr (e shift a : Nat) : Nat := e / 65536 * 65536 + a % 2 ^ shift

/-- Stage 2 of a guest-physical address: the leaf and the address; none is a stage-2 fault. A page of a peer that no port reaches
waits as one (21 R283). -/
def State.stage2 (s : State) (p ipa : Nat) : Option (Nat × Nat) :=
  match walkLevels true (fun a => some (s.ptLe a 8)) ipa tableLevels (s.part p).entry.s2root with
  | .leaf e sh =>
    let pa := leafAddr e sh ipa
    if e / 128 % 4 = 0 ∧ modulePaOk pa = false then none
    else if e / 128 % 4 = 2 ∧ s.reaches (leafPeer p e) = false then none
    else some (e, pa)
  | _ => none

/-- What a two-stage walk finds for a granule. -/
inductive Walked where
  | ok (r : Right)
  /-- stage 1 gives no mapping (18 R257) -/
  | unmapped
  /-- a stage-2 fault at a guest-physical address (18 R256) -/
  | stage2 (ipa : Nat)

/-- Walk both stages for the granule of a virtual address (18 R254). -/
def State.walk (s : State) (p asid va : Nat) : Walked :=
  let g := va / 65536 * 65536
  match s.roots.find asid with
  | none => .unmapped
  | some root =>
    let read (a : Nat) : Option Nat :=
      match s.stage2 p a with
      | some (e, pa) => if e / 4 % 2 = 1 then some (leValue (s.physRead (e / 128 % 4) (leafPeer p e) pa 8)) else none
      | none => none
    match walkLevels false read g tableLevels root with
    | .bad => .unmapped
    | .refused a => .stage2 a
    | .leaf e sh =>
      let ipa := leafAddr e sh g
      match s.stage2 p ipa with
      | none => .stage2 ipa
      | some (e2, pa) => .ok
        { ok := true, ipa := ipa, pa := pa, tgt := e2 / 128 % 4, peer := leafPeer p e2, attr := max (e / 32 % 4) (e2 / 32 % 4)
          r := e / 4 % 2 == 1 && e2 / 4 % 2 == 1, w := e / 8 % 2 == 1 && e2 / 8 % 2 == 1, x := e / 16 % 2 == 1 && e2 / 16 % 2 == 1
          r1 := e / 4 % 2 == 1, w1 := e / 8 % 2 == 1, x1 := e / 16 % 2 == 1 }

/-- The right that says stage 1 has no mapping: kept until the access that asked has faulted. -/
def Right.unmapped : Right :=
  { ok := false, ipa := 0, pa := 0, tgt := 0, peer := 0, attr := 0, r := false, w := false, x := false, r1 := false, w1 := false,
    x1 := false }

/-- What a core is told of a granule that stage 2 refuses at a guest-physical address: stage 1 permits, and the access goes to Bruin (18
R256). -/
def Right.refused (ipa : Nat) : Right :=
  { ok := true, ipa := ipa, pa := 0, tgt := 0, peer := 0, attr := 0, r := false, w := false, x := false, r1 := true, w1 := true, x1 := true }

/-- An entry's range of ASIDs holds one (21 Table 21.3). -/
def PartEntry.hasAsid (e : PartEntry) (a : Nat) : Bool := decide (e.asidBase ≤ a) && decide (a < e.asidBase + 256)

/-- The partition whose contexts use an ASID (21 Table 21.3): one that is not stopped, else one whose stopped entry still names it. -/
def State.partOfAsid (s : State) (asid : Nat) : Option Nat :=
  ((s.parts.find? fun e => e.2.state != 2 && e.2.entry.hasAsid asid).or
    (s.parts.find? fun e => e.2.entry != PartEntry.zero && e.2.entry.hasAsid asid)).map (·.1)

/-- The key of a granule's rights: ASID and granule number. -/
def rkey (asid va : Nat) : Nat := asid * 1099511627776 + va / 65536

/-- The translation home of an address: VA[55:16] mod 24 (01 R10). -/
def transHome (va : Nat) : Nat := va % Config.vaEnd / 65536 % Config.channels

/-- Entries of a core's rights cache, and of each home's TLB (18 R253, R254). -/
def rightsCap : Nat := 2048
def tlbCap : Nat := 16384

/-- Put a record at a key of a table that holds at most n of the records that `mine` picks: one of those leaves, which the manual does not
say, so that the choice k is free (logs 2, 39). -/
def Table.putCapped {α : Type} (t : Table α) (mine : Nat → Bool) (n i : Nat) (x : α) (k : Nat) : Table α :=
  let own := (t.map (·.1)).filter mine
  if (t.find i).isSome ∨ own.length < n then t.put i x else (t.drop (nth own (k % own.length) 0)).put i x

/-- The right the core holds for the granule of an address (18 R253). -/
def State.right? (s : State) (core asid va : Nat) : Option Right := (s.core core).rights.find (rkey asid va)

/-- A right leads somewhere: a page of a peer, through a port that is up (21 R283). -/
def State.open? (s : State) (r : Right) : Bool := r.tgt != 2 || s.reaches r.peer

/-- The translation at the granule's home: its TLB, else a walk now (18 R254). -/
def State.trans (s : State) (asid va : Nat) : Option Right :=
  match s.tlb.find (rkey asid va) with
  | some r => if r.ok && s.open? r then some r else none
  | none =>
    match s.partOfAsid asid with
    | none => none
    | some p => match s.walk p asid va with
      | .ok r => some r
      | _ => none

/-- Forget a core's entry for a granule, so that the next access walks again. -/
def State.dropRight (s : State) (core asid va : Nat) : State :=
  { s with cores := s.cores.modify core fun c => { c with rights := c.rights.drop (rkey asid va) }, tlb := s.tlb.drop (rkey asid va) }

/-- The kinds of access of 18 Table 18.3 by the permission they need. -/
inductive Need where
  | read | write | both | fetch
deriving DecidableEq, Repr

/-- The TYPE of 18 Table 18.3 with which stage 1 refuses an access; none when it grants it. -/
def Need.deny (n : Need) (r w x : Bool) : Option Nat :=
  match n with
  | .read => if r then none else some 1
  | .write => if w then none else some 2
  | .both => if !r then some 1 else if !w then some 2 else none
  | .fetch => if x then none else some 3

/-- What the rights check of one granule finds (18 R253, R256, R257). -/
inductive Access where
  | granted (r : Right)
  /-- no entry: a walk is needed; the access is held -/
  | miss
  /-- a stage-1 fault with this TYPE -/
  | denied (type : Nat)
  /-- stage 2 refuses: Bruin's -/
  | held (ipa : Nat)

/-- Check an access of a core against its rights cache. -/
def State.access (s : State) (core asid va : Nat) (n : Need) : Access :=
  match s.right? core asid va with
  | none => .miss
  | some r =>
    if !r.ok then .denied 0
    else
      match n.deny r.r1 r.w1 r.x1 with
      | some t => .denied t
      | none => if (n.deny r.r r.w r.x).isNone && s.open? r then .granted r else .held r.ipa

/-- Tell Bruin of a stage-2 fault; one entry per granule (18 R256). -/
def State.tellBruin (s : State) (p core asid ipa : Nat) : State :=
  s.modPart p fun x =>
    let f : S2Fault := { core := core, asid := asid, granule := ipa / 65536 }
    if x.s2faults.contains f then x else { x with s2faults := x.s2faults ++ [f] }

end Sys2Proof.Machine
end

