-- ==== Sys2Proof/Machine/Home.lean ====
section
/-! DEFINITION. The homes (08 Table 8.1 H, 06 R117 to R123): the sets of L2, what a byte at its home reads as, performing a write or an
atomic there, and what follows from a performed write: invalidations, monitors, dirty reports, and the releases that wait for it. -/

namespace Sys2Proof.Machine

/-- The 256-byte line of an address and the 64-byte sector in it (06 R117). -/
def lineOf (va : Nat) : Nat := va / 256
def sectorIn (va : Nat) : Nat := va / 64 % 4

/-- The ASID and the line of a home line's key. -/
def keyAsid (k : Nat) : Nat := k / 281474976710656
def keyLine (k : Nat) : Nat := k % 281474976710656

/-- What the home holds or records of a line. -/
def State.line? (s : State) (asid line : Nat) : Option L2Line := s.lines.find (lkey asid line)

/-- Change a home line. -/
def State.modLine (s : State) (asid line : Nat) (f : L2Line → L2Line) : State := { s with lines := s.lines.modify (lkey asid line) f }

/-- L2 holds the line. -/
def State.inL2 (s : State) (asid line : Nat) : Bool := (s.line? asid line).any fun l => l.way.isSome

/-- A line that L2 does not hold and of which nothing is recorded. -/
def L2Line.blank : L2Line :=
  { valid := 0, dirty := 0, prio := 0, pinned := false, lt := none, owner := none, copies := [], way := none, used := 0, pa := 0, writers := [] }

/-- The home records something of a line, whether or not L2 holds it and wherever its page lies (06 R118, R131, 08 R155). -/
def State.record (s : State) (asid line : Nat) (f : L2Line → L2Line) : State :=
  { s with lines := s.lines.put (lkey asid line) (f ((s.line? asid line).getD L2Line.blank)) }

/-- A record that says nothing goes. -/
def State.tidyLine (s : State) (asid line : Nat) : State :=
  match s.line? asid line with
  | none => s
  | some l =>
    if l.way.isNone ∧ l.lt.isNone ∧ l.owner.isNone ∧ l.copies = [] then { s with lines := s.lines.drop (lkey asid line) } else s

/-- Window i of a block. -/
def Block.window? (b : Block) (i : Nat) : Option Window := b.windows.find? fun w => w.id == i

/-- Change window i of a block. -/
def Block.modWindow (b : Block) (i : Nat) (f : Window → Window) : Block :=
  { b with windows := b.windows.map fun w => if w.id = i then f w else w }

/-- A window line that is ABSENT (06 Table 6.6). -/
def StashLine.absent : StashLine := { present := false, dirty := 0, faulted := false, dirtyAt := 0, writers := [], parked := none, filled := [], own := [], read := [] }

/-- Line k of a window. -/
def Window.line (w : Window) (k : Nat) : StashLine := nth w.lines k StashLine.absent

/-- Change line k of a window. -/
def Window.modLine (w : Window) (k : Nat) (f : StashLine → StashLine) : Window := { w with lines := setAt w.lines k (f (w.line k)) }

/-- The window line that holds a global line, if its range covers it. -/
def Window.covers (w : Window) (line : Nat) : Option Nat :=
  if w.base / 256 ≤ line ∧ line < (w.base + w.len) / 256 then some (line - w.base / 256) else none

/-- The owner of a home line whose scratch copy is filled: block, window, window line, scratch offset of the line (06 R131). -/
def State.ownerOf (s : State) (asid line : Nat) : Option (Nat × Nat × Nat × Nat) :=
  match (s.line? asid line).bind (·.owner) with
  | none => none
  | some (b, i) =>
    match (s.block? b).bind (·.window? i) with
    | none => none
    | some w =>
      match w.covers line with
      | none => none
      | some k => if (w.line k).present then some (b, i, k, w.off + 256 * k) else none

/-- Dirty window lines of an owner in a core: block, window, line, and when each became dirty (06 R132 capacity). -/
def State.dirtyLines (s : State) (p core : Nat) : List (Nat × Nat × Nat × StashLine) :=
  (s.blocks.filter fun e => e.2.part == p && e.2.core == core).flatMap fun e =>
    e.2.windows.flatMap fun w => ((upTo w.lines.length).filter fun k => (w.line k).dirty != 0).map fun k => (e.1, w.id, k, w.line k)

/-- The dirty window lines that an owner's share of a core's 512 allows: in proportion to its scratch banks (06 R132). -/
def State.dirtyShare (s : State) (p core : Nat) : Nat :=
  let bank (x : Part) : Nat := (x.shareIn core).elim 0 (·.nbank)
  let all := s.parts.foldl (fun n e => n + bank e.2) 0
  if all = 0 then 512 else 512 * bank (s.part p) / all

/-- A store to line k of a window needs no write-back first: the line is dirty, or its owner's share has room, or nothing there can be
written back (06 R132, 18 R260). -/
def State.hasRoom (s : State) (b i k : Nat) : Bool :=
  match s.block? b with
  | none => true
  | some x =>
    let ds := s.dirtyLines x.part x.core
    (ds.any fun d => d.1 == b && d.2.1 == i && d.2.2.1 == k) || decide (ds.length < s.dirtyShare x.part x.core) ||
      ds.all fun d => d.2.2.2.faulted

/-! ## What a byte at its home reads as -/

/-- The stamp of the last write performed to a byte (08 R146). -/
def State.stampOf (s : State) (asid va : Nat) : Nat := (s.stamps.find (gkey asid va)).getD 0

/-- A byte at its home with its stamp: the owner's scratch (06 R131), a valid sector, else the target of the translation
(06 R117, 18 R254, R255); what the host or a peer holds counts as of now. None: the translation is missing and the access waits. -/
def State.homeByte (s : State) (asid va : Nat) : Option (Byte × Nat) :=
  let st := s.stampOf asid va
  match s.ownerOf asid (lineOf va) with
  | some (b, _, _, o) => (s.block? b).map fun x => (x.scratch.get (o + va % 256), st)
  | none =>
    if (s.line? asid (lineOf va)).any fun l => l.valid.getLsbD (sectorIn va) then some (s.home.get (gkey asid va), st)
    else (s.trans asid va).bind fun r =>
      if r.tgt = 1 ∧ s.kickBusy (r.pa + va % 65536) then none
      else some (s.physByte r.tgt r.peer (r.pa + va % 65536), if r.tgt = 0 then st else s.seq)

/-- n bytes at their home. -/
def State.homeRead (s : State) (asid va : Nat) : Nat → Option (List (Byte × Nat))
  | 0 => some []
  | n + 1 =>
    match s.homeByte asid va, s.homeRead asid (va + 1) n with
    | some b, some bs => some (b :: bs)
    | _, _ => none

/-- Read n bytes at their home as an engine does at H. -/
def State.engineRead (s : State) (asid va n : Nat) : Option (List Byte) := (s.homeRead asid va n).map fun xs => xs.map (·.1)

/-! ## Slices, sets and ways (01 R6, R9, 06 R118, R122, R123) -/

/-- The sector that takes a slice of a die: the one it prefers if that one has room, else the next. A die has 64 slices, at least 21 in each
sector (01 Table 1.1), so that one sector takes 22 of them. -/
def pickSector (n : Nat × Nat × Nat) (k : Nat) : Nat :=
  let full := n.1 == 22 || n.2.1 == 22 || n.2.2 == 22
  let room (x : Nat) : Bool := decide (x < 21) || (x == 21 && !full)
  let has : List Bool := [room n.1, room n.2.1, room n.2.2]
  if nth has (k % 3) false then k % 3 else if nth has ((k + 1) % 3) false then (k + 1) % 3 else (k + 2) % 3

/-- One slice more in sector k. -/
def bumpSector (n : Nat × Nat × Nat) (k : Nat) : Nat × Nat × Nat :=
  if k = 0 then (n.1 + 1, n.2.1, n.2.2) else if k = 1 then (n.1, n.2.1 + 1, n.2.2) else (n.1, n.2.1, n.2.2 + 1)

/-- The local sectors of the first n slices of a die, in order, and how many each sector has; which slices a sector has is free (log 14). -/
def fillSectors (die : Nat) : Nat → (Nat × Nat × Nat) × List Nat
  | 0 => ((0, 0, 0), [])
  | n + 1 =>
    let r := fillSectors die n
    let k := pickSector r.1 (Config.sliceSector (64 * die + n))
    (bumpSector r.1 k, r.2 ++ [k])

/-- The local sectors of the 64 slices of a die. -/
def dieSectors (die : Nat) : List Nat := (fillSectors die 64).2

/-- The sector of a slice (01 Table 1.1). -/
def sectorOfSlice (sl : Nat) : Nat := sl / 64 * 3 + nth (dieSectors (sl / 64)) (sl % 64) 0

/-- The slice number of a line (01 R9) of a partition. -/
def State.sliceOf (s : State) (p line : Nat) : Nat :=
  let xs := (s.part p).slices
  if xs.isEmpty then 0 else nth xs (line % xs.length) 0

/-- The sector in which a line of a partition has its home. -/
def State.homeSector (s : State) (p line : Nat) : Nat := sectorOfSlice (s.sliceOf p line)

/-- The slices in a sector that a partition's colour lists, in list order (06 R118). -/
def State.copySlices (s : State) (p sec : Nat) : List Nat :=
  let ks := dieSectors (sec / 3)
  (s.part p).slices.filter fun x => x / 64 == sec / 3 && nth ks (x % 64) 3 == sec % 3

/-- The copy slice of a line in a sector, if the colour lists a slice there (06 R118). -/
def State.copySlice (s : State) (p sec line : Nat) : Option Nat :=
  let xs := s.copySlices p sec
  if xs.isEmpty then none else xs[line % xs.length]?

/-- The home slice of a line, by its key. -/
def State.keySlice (s : State) (k : Nat) : Nat := s.sliceOf ((s.partOfAsid (keyAsid k)).getD 0) (keyLine k)

/-- DESIGN CHOICE (log 15): the set of a line in its slice, one of the 512 that 2 MiB in 16 ways of 256 bytes make. -/
def setOf (k : Nat) : Nat := Config.l2Set k % 512

/-- What fills a way of a set: a home line, or the copy of a sector. -/
structure Occupant where
  way : Nat
  prio : Nat
  used : Nat
  pinned : Bool
  copy : Option Nat
  key : Nat
deriving DecidableEq, Repr, Inhabited

/-- What the ways of a set of a slice hold. -/
def State.occupants (s : State) (sl set : Nat) : List Occupant :=
  (s.lines.filterMap fun e =>
    match e.2.way with
    | none => none
    | some w =>
      if s.keySlice e.1 = sl ∧ setOf e.1 = set then
        some { way := w, prio := e.2.prio, used := e.2.used, pinned := e.2.pinned, copy := none, key := e.1 }
      else none) ++
  s.copies.filterMap fun c =>
    let k := lkey c.asid c.line
    if s.copySlice ((s.partOfAsid c.asid).getD 0) c.sec c.line = some sl ∧ setOf k = set then
      some { way := c.way, prio := c.prio, used := c.used, pinned := false, copy := some c.sec, key := k }
    else none

/-- The 16 ways of a set. -/
def allWays : List Nat := [0, 1, 2, 3, 4, 5, 6, 7, 8, 9, 10, 11, 12, 13, 14, 15]

/-- The ways that one more copy may use: any while copies hold fewer than 4 of the set's ways, else those that they hold (06 R118). -/
def State.copyWays (s : State) (sl set : Nat) : List Nat :=
  let held := ((s.occupants sl set).filter (·.copy.isSome)).map (·.way)
  if held.length < 4 then allWays else held

/-- Every way of the set of a line in a slice is pinned (06 R123). -/
def State.setPinned (s : State) (sl k : Nat) : Bool := decide (16 ≤ ((s.occupants sl (setOf k)).filter (·.pinned)).length)

/-- The victim among occupants (06 R122): unpinned, of the lowest priority, then the least recently used. -/
def victimOf (xs : List Occupant) : Option Occupant :=
  match xs.filter fun x => !x.pinned with
  | [] => none
  | x :: rest => some (rest.foldl (fun m e => if e.prio < m.prio ∨ (e.prio = m.prio ∧ e.used < m.used) then e else m) x)

/-- The priority of a policy, CPOL and page attribute combined (06 Table 6.3): none where the access does not allocate in L2;
0 evict-first, 1 normal, 2 evict-last. -/
def l2Prio (cpol attr : Nat) : Option Nat :=
  if attr = 2 ∨ cpol = 3 then none
  else if attr = 1 ∨ cpol = 1 ∨ cpol = 4 then some 0
  else if cpol = 2 then some 2
  else some 1

/-- Whether a policy allocates in L1 (06 Table 6.3). -/
def l1Alloc (cpol attr : Nat) : Bool := attr == 0 && decide (cpol < 3)

/-- Whether a policy allocates in the memory-side SRAM cache (06 Table 6.3). -/
def sramAlloc (cpol attr : Nat) : Bool := attr == 0 && decide (cpol < 4)

/-! ## Writing back and evicting -/

/-- Write a dirty sector of a home line to the physical tiers (08 Table 8.2 write back; 06 R117). -/
def State.sectorBack (s : State) (asid line k : Nat) : State :=
  match s.line? asid line with
  | none => s
  | some l =>
    if !(l.dirty.getLsbD k) then s
    else
      let s1 := s.ptWrite (l.pa + 64 * k) (s.home.read (gkey asid (line * 256 + 64 * k)) 64)
      s1.modLine asid line fun l => { l with dirty := l.dirty &&& ~~~(1#4 <<< k), writers := l.writers.filter fun x => x.1 != k }

/-! ## Releases (08 R150) -/

/-- Change every release in progress. -/
def State.modReleases (s : State) (f : Release → Release) : State :=
  { s with waves := s.waves.map fun e => (e.1, { e.2 with releases := e.2.releases.map f }) }

/-- Nothing is left to wait for. -/
def Release.complete (r : Release) : Bool := r.seqs.isEmpty && r.invs.isEmpty && r.stash.isEmpty && r.l2.isEmpty && r.ports.isEmpty

/-- Release n of a wave is still in progress. -/
def Wave.releasing (w : Wave) (n : Nat) : Bool := w.releases.any fun r => r.n == n && !r.complete

/-- An L2 sector has reached the physical tiers: releases that wait for it go on. -/
def State.sectorDone (s : State) (asid line k : Nat) : State :=
  (s.sectorBack asid line k).modReleases fun r => { r with l2 := r.l2.filter (· ≠ (lkey asid line, k)) }

/-- Evict a home line (06 R117): its dirty sectors go to the physical tiers; what the home records of the line besides its data stays. -/
def State.evictHome (s : State) (asid line : Nat) : State :=
  let s1 := [0, 1, 2, 3].foldl (fun s k => s.sectorDone asid line k) s
  let s2 := { s1 with home := s1.home.clear (gkey asid (line * 256)) 256 }
  (s2.modLine asid line fun x => { x with valid := 0, dirty := 0, prio := 0, pinned := false, way := none, writers := [] }).tidyLine asid line

/-- A sector's copy of a line is dropped, and the home no longer counts it (06 R118). -/
def State.dropCopy (s : State) (sec k : Nat) : State :=
  let s1 := { s with copies := s.copies.filter fun c => !(c.sec == sec && lkey c.asid c.line == k) }
  (s1.modLine (keyAsid k) (keyLine k) fun l => { l with copies := l.copies.filter (· ≠ sec) }).tidyLine (keyAsid k) (keyLine k)

/-- A free way of a set of a slice among those that an allocation may use, and the state in which it is free: an invalid one, else the
victim's (06 R122). None: they are all pinned. -/
def State.freeWay (s : State) (sl set : Nat) (ways : List Nat) : Option (Nat × State) :=
  let xs := (s.occupants sl set).filter fun x => ways.contains x.way
  match ways.filter fun w => !(xs.any fun x => x.way == w) with
  | w :: ws => some (nth (w :: ws) (Config.freeNat s.free % (ws.length + 1)) w, s.drawn)
  | [] =>
    (victimOf xs).map fun v => (v.way, match v.copy with
      | some sec => s.dropCopy sec v.key
      | none => s.evictHome (keyAsid v.key) (keyLine v.key))

/-- L2 takes in a line of module memory at an address, with a priority (06 R122); none when its set is all pinned. Its sectors are not yet
valid. -/
def State.takeWay (s : State) (asid line pa prio : Nat) : Option State :=
  let k := lkey asid line
  (s.freeWay (s.keySlice k) (setOf k) allWays).map fun r =>
    r.2.record asid line fun l => { l with way := some r.1, prio := prio, used := s.seq, pa := pa }

/-- Fetch a sector of a line in L2 from the physical tiers unless it is valid. -/
def State.fetchSector (s : State) (asid line k : Nat) : State :=
  match s.line? asid line with
  | none => s
  | some l =>
    if l.valid.getLsbD k ∨ l.way.isNone then s
    else
      { s with
        home := s.home.write (gkey asid (line * 256 + 64 * k)) (s.ptRead (l.pa + 64 * k) 64)
        lines := s.lines.put (lkey asid line) { l with valid := l.valid ||| (1#4 <<< k) } }

/-- Fetch the sectors of a line that f names. -/
def State.fetchSectors (s : State) (asid line : Nat) (f : Nat → Bool) : State :=
  [0, 1, 2, 3].foldl (fun s k => if f k then s.fetchSector asid line k else s) s

/-- An access that L2 serves or fills: with an allocating policy it raises the line's priority (06 R121, R122). -/
def State.useLine (s : State) (asid line : Nat) (prio : Option Nat) : State :=
  s.modLine asid line fun l => { l with prio := match prio with | some p => max l.prio p | none => l.prio
                                        used := s.seq }

/-- The physical line in which a granule's translation places a line. -/
def Right.linePa (r : Right) (line : Nat) : Nat := r.pa + line * 256 % 65536

/-- The physical tiers serve an access: the SRAM cache takes the line in where the policy allocates there (06 Table 6.3). -/
def State.ptTouch (s : State) (r : Right) (line cpol : Nat) : State :=
  if sramAlloc cpol r.attr then s.ptAlloc (r.linePa line / 256) else s

/-- The slice's counter of bypasses for the partition counts one (06 R123). -/
def State.countBypass (s : State) (p : Nat) : State := s.modPart p fun x => { x with bypass := x.bypass + 1 }

/-! ## Snapshots' claim on a write (17 R238) -/

/-- The innermost open level of a region that covers a line. -/
def Region.levelOf (r : Region) (line : Nat) : Option Nat :=
  ((upTo r.levels.length).reverse).find? fun k =>
    match r.levels[k]? with
    | none => false
    | some l => decide (l.base / 256 ≤ line) && decide (line < (l.base + l.len) / 256)

/-- A region whose innermost covering level holds no shadow of the line: partition, region number and level. A page that is not resident
is not covered (17 R239). -/
def State.shadowDue (s : State) (asid line : Nat) : Option (Nat × Nat × Nat) :=
  match s.partOfAsid asid with
  | none => none
  | some p =>
    match (upTo 16).findSome? fun g =>
      let r := nth (s.part p).regions g Region.free
      if r.asid ≠ asid then none
      else
        match r.levelOf line with
        | none => none
        | some k =>
          if r.shadows.any fun x => x.line == line && x.asid == asid && x.level == k && !x.copyBack then none else some (p, g, k) with
    | none => none
    | some x => if (s.trans asid (line * 256)).any fun r => r.tgt != 0 then none else some x

/-! ## What follows from a performed write -/

/-- A write performed at a line's home fires every monitor armed on the 64-byte lines it meets (05 R104). -/
def State.fire (s : State) (asid va n : Nat) : State :=
  { s with waves := s.waves.map fun e => (e.1, { e.2 with mons := e.2.mons.map fun m =>
      if m.2.st = .armed ∧ m.2.asid = asid ∧ va / 64 ≤ m.2.line ∧ m.2.line ≤ (va + n - 1) / 64
      then (m.1, { m.2 with st := .fired }) else m }) }

/-- A write to the partition's module memory sets its granule's dirty bit (21 R279). -/
def State.markDirty (s : State) (asid va : Nat) : State :=
  match s.partOfAsid asid, s.trans asid va with
  | some p, some r =>
    if r.tgt ≠ 0 then s
    else s.modPart p fun x =>
      { x with dirty := insertNat (r.ipa / 65536) x.dirty
               dirtyOvf := x.dirtyOvf || decide (8 * x.entry.dirtySize ≤ r.ipa / 65536) }
  | _, _ => s

/-- Give bytes a stamp in the coherence order (08 R146). -/
def State.stampBytes (s : State) (asid va q : Nat) : Nat → State
  | 0 => s
  | n + 1 => State.stampBytes { s with stamps := s.stamps.put (gkey asid va) q } asid (va + 1) q n

/-- Sectors of a line that bytes [a, a + n) of it meet, as a mask. -/
def sectorMask (a n : Nat) : BitVec 4 :=
  [0, 1, 2, 3].foldl (fun m k => if a % 256 < 64 * (k + 1) ∧ 64 * k < a % 256 + n then m ||| (1#4 <<< k) else m) 0

/-- H appends an invalidation to IQ(S) for every sector that holds a copy (06 R118, 08 Table 8.2), stamped with the write; the record of a
copy stays until the copy is dropped. -/
def State.sendInvals (s : State) (asid line q : Nat) (waves : List Nat) : State :=
  match s.line? asid line with
  | none => s
  | some l => { s with invals := s.invals ++ l.copies.map fun c => { waves := waves, sec := c, asid := asid, line := line, seq := q } }

/-- Commute f32 additions to bytes that a write meets are over (08 R158). -/
def State.endSums (s : State) (asid va n : Nat) : State :=
  s.endSumsAt (gkey asid va) n

/-- A write of n bytes has been performed at its home as write q: the invalidations, its place in the coherence order, the monitors. -/
def State.wroteHome (s : State) (asid va n q : Nat) (waves : List Nat) : State :=
  (((s.sendInvals asid (lineOf va) q waves).stampBytes asid va q n).fire asid va n).endSums asid va n

/-- Mark sectors of a stash line dirty, with their writers (06 Table 6.6). -/
def StashLine.soil (l : StashLine) (m : BitVec 4) (q : Nat) (waves : List Nat) : StashLine :=
  let ws := ([0, 1, 2, 3].filter fun k => m.getLsbD k).flatMap fun k => waves.map fun w => (k, w)
  { l with dirty := l.dirty ||| m, dirtyAt := if l.dirty = 0 then q else l.dirtyAt
           writers := l.writers.filter (fun x => !(ws.contains x)) ++ ws }

/-- A home line's bytes are written in L2: the sectors are valid and dirty, with their writers. -/
def State.putLine (s : State) (asid va : Nat) (bs : List Byte) (waves : List Nat) : State :=
  let m := sectorMask va bs.length
  let ws := ([0, 1, 2, 3].filter fun k => m.getLsbD k).flatMap fun k => waves.map fun w => (k, w)
  ({ s with home := s.home.write (gkey asid va) bs } : State).modLine asid (lineOf va) fun l =>
    { l with valid := l.valid ||| m, dirty := l.dirty ||| m, writers := l.writers.filter (fun x => !(ws.contains x)) ++ ws }

/-- Store bytes of a line of module memory at its home (06 R117, R121 to R123): into L2, where a store that misses allocates the line and
has every sector that it does not cover fetched; past L2 into the physical tiers where its policy does not allocate, or where its set
is all pinned, which the slice counts. -/
def State.storeLine (s : State) (p : Nat) (r : Right) (asid va : Nat) (bs : List Byte) (waves : List Nat) (cpol : Nat) : State :=
  let line := lineOf va
  let prio := l2Prio cpol r.attr
  let part (k : Nat) : Bool := !(decide (va % 256 ≤ 64 * k) && decide (64 * (k + 1) ≤ va % 256 + bs.length))
  let past (s : State) : State := (s.ptTouch r line cpol).ptWrite (r.pa + va % 65536) bs
  if s.inL2 asid line then
    ((s.useLine asid line prio).fetchSectors asid line fun k => (sectorMask va bs.length).getLsbD k && part k).putLine asid va bs waves
  else
    match prio with
    | none => past s
    | some pr =>
      match s.takeWay asid line (r.linePa line) pr with
      | none => (past s).countBypass p
      | some s1 => ((s1.ptTouch r line cpol).fetchSectors asid line part).putLine asid va bs waves

/-- The tag LT of a line after a write (08 R155): the block of a block-scope STREL, else none. -/
def State.setTag (s : State) (asid line : Nat) (tag : Option Nat) : State :=
  match tag with
  | some b => s.record asid line fun l => { l with lt := some b }
  | none => (s.modLine asid line fun l => { l with lt := none }).tidyLine asid line

/-- A write leaves through a port for the host or a peer (08 Table 8.1). -/
def State.sendPort (s : State) (r : Right) (asid va : Nat) (bs : List Byte) (q born : Nat) (waves : List Nat) : State :=
  { s with portWrites := s.portWrites ++ [{ seq := q, waves := waves, born := born, asid := asid, va := va, tgt := r.tgt, peer := r.peer
                                            addr := r.pa + va % 65536, bytes := bs }] }

/-- An atomic of this device on host bytes that these meet has read them and not yet written them (18 R255). -/
def State.halfWay (s : State) (tgt pa n : Nat) : Bool :=
  tgt == 1 && s.blocks.any fun e => e.2.oq.any fun x => match x.half, x.payload with
    | some h, .atomic a => decide (h.addr < pa + n) && decide (pa < h.addr + a.width)
    | _, _ => false

/-- The translation by which an access leaves through a port (18 R255); none where a home or a stash window serves it. -/
def State.viaPort (s : State) (asid va : Nat) : Option Right :=
  if (s.ownerOf asid (lineOf va)).isSome then none else (s.trans asid va).filter fun r => r.tgt != 0

/-- Perform a write of bytes within one line at its home (08 Table 8.2), or forward it: to the stash window that owns the line (06 R131), or
through a port to the host or the peer in whose memory its page lies (18 R255). None: a shadow is due before it (17 R238), it has no
translation, or an atomic of the host's line is between its read and its write. `q` is its stamp, `born` that of its check, `waves` the
writers, `tag` the block of a block-scope STREL (08 R155). Room for a line that it makes dirty is the caller's to make (06 R132). -/
def State.homeWrite (s : State) (asid va : Nat) (bs : List Byte) (q born : Nat) (waves : List Nat) (tag : Option Nat) (cpol : Nat) :
    Option State :=
  let line := lineOf va
  if bs.isEmpty then some s
  else if (s.shadowDue asid line).isSome then none
  else
    match s.ownerOf asid line with
    | some (b, i, k, o) =>
      let s1 := s.modBlock b fun x =>
        ({ x with scratch := x.scratch.write (o + va % 256) bs } : Block).modWindow i fun w =>
          w.modLine k fun l => l.soil (sectorMask va bs.length) q waves
      some ((s1.wroteHome asid va bs.length q waves).markDirty asid va)
    | none =>
      match s.partOfAsid asid, s.trans asid va with
      | some p, some r =>
        if r.tgt = 0 then
          some ((((s.storeLine p r asid va bs waves cpol).setTag asid line tag).wroteHome asid va bs.length q waves).markDirty asid va)
        else if s.halfWay r.tgt (r.pa + va % 65536) bs.length then none
        else some ((s.sendPort r asid va bs q born waves).setTag asid line tag)
      | _, _ => none

/-- Split bytes at line boundaries. -/
def chunks (va : Nat) (bs : List Byte) : Nat → List (Nat × List Byte)
  | 0 => []
  | n + 1 =>
    if bs.isEmpty then []
    else
      let k := 256 - va % 256
      (va, bs.take k) :: chunks (va + k) (bs.drop k) n

/-- Count a forwarded access in its granule's 8-bit saturating counter (18 R255). -/
def State.countAccess (s : State) (asid va : Nat) : State :=
  let k := rkey asid va
  { s with module := { s.module with counters := s.module.counters.put k (min 255 (((s.module.counters.find k).getD 0) + 1)) } }

/-- A read served at H (06 R117, R121 to R123): a load that misses L2 fetches the whole line where its policy allocates there, unless the
set is all pinned, when it bypasses L2 and the slice counts it; a hit raises the line's priority. A line that a stash window owns is
read there, and reads of a page that is not resident count at its granule (18 R255). -/
def State.homeTouch (s : State) (p asid va cpol : Nat) : State :=
  let line := lineOf va
  match s.trans asid va with
  | none => s
  | some r =>
    if r.tgt ≠ 0 then s.countAccess asid va
    else if (s.ownerOf asid line).isSome then s
    else
      let prio := l2Prio cpol r.attr
      if s.inL2 asid line then
        let s1 := s.useLine asid line prio
        if (s.line? asid line).any fun l => l.valid.getLsbD (sectorIn va) then s1
        else if prio.isSome then (s1.ptTouch r line cpol).fetchSectors asid line fun _ => true
        else s1.ptTouch r line cpol
      else
        match prio with
        | none => s.ptTouch r line cpol
        | some pr =>
          match s.takeWay asid line (r.linePa line) pr with
          | none => s.countBypass p
          | some s1 => (s1.ptTouch r line cpol).fetchSectors asid line fun _ => true

/-! ## Releases go on (08 R150) -/

/-- The dirty sectors of a stash window that bytes of a line it owns lie in. -/
def State.ownerSectors (s : State) (asid va n : Nat) : List (Nat × Nat × Nat × Nat) :=
  match s.ownerOf asid (lineOf va) with
  | none => []
  | some (b, i, k, _) => ([0, 1, 2, 3].filter fun j => (sectorMask va n).getLsbD j).map fun j => (b, i, k, j)

/-- Covered write q has been performed at H as write p of the home order (08 Table 8.3): device scope has its condition; sector
scope waits for the invalidations sent to the wave's sector; system scope for the sectors to reach PT, by way of the owning window's
write-back where there is one (01 R15, log 71). -/
def State.performed (s : State) (q p asid va n : Nat) : State :=
  { s with waves := s.waves.map fun e =>
      let sec := sectorOf e.2.core
      let sent := s.invals.any fun i => i.seq == p && i.sec == sec
      (e.1, { e.2 with releases := e.2.releases.map fun r =>
        if r.seqs.contains q then
          { r with
            seqs := r.seqs.filter (· ≠ q)
            invs := if r.scope = 3 ∧ sent then p :: r.invs else r.invs
            l2 := if r.scope = 5 then
                r.l2 ++ ([0, 1, 2, 3].filter fun k => (sectorMask va n).getLsbD k &&
                  (s.line? asid (lineOf va)).any fun l => l.dirty.getLsbD k).map fun k => (lkey asid (lineOf va), k)
              else r.l2
            stash := if r.scope = 5 then r.stash ++ (s.ownerSectors asid va n).filter fun x => !(r.stash.contains x) else r.stash }
        else r }) }

/-- Covered write q has left for the host or a peer as port write p: fabric scope waits for peers', system scope for both (08
Table 8.3). -/
def State.forwarded (s : State) (q p tgt : Nat) : State :=
  s.modReleases fun r =>
    if r.seqs.contains q then
      { r with seqs := r.seqs.filter (· ≠ q), ports := if (r.scope = 4 ∧ tgt = 2) ∨ r.scope = 5 then p :: r.ports else r.ports }
    else r

/-- A covered write has left WSB(w) into the block view: block scope has its condition (08 Table 8.3). -/
def State.leftWsb (s : State) (q : Nat) : State :=
  s.modReleases fun r => if r.scope = 2 then { r with seqs := r.seqs.filter (· ≠ q) } else r

/-- A covered write has been performed in scratch: nothing wider waits for it. -/
def State.inScratch (s : State) (q : Nat) : State := s.modReleases fun r => { r with seqs := r.seqs.filter (· ≠ q) }

/-- A covered write has reached a stash line: releases at device scope and wider wait for that sector's write-back. DESIGN CHOICE (log 80): at
sector scope it counts as performed there, since 06 R132 has no write-back for a sector-scope release. -/
def State.inStash (s : State) (q : Nat) (secs : List (Nat × Nat × Nat × Nat)) : State :=
  s.modReleases fun r =>
    if r.seqs.contains q then
      { r with
        seqs := r.seqs.filter (· ≠ q)
        stash := if r.scope = 2 ∨ r.scope = 3 then r.stash else r.stash ++ secs.filter fun x => !(r.stash.contains x) }
    else r

/-- A quantum reservation that a completed release covers ends with it (08 R157). -/
def State.endReservations (s : State) : State :=
  let busy (n : Nat) : Bool := s.waves.any fun e => e.2.releasing n
  { s with blocks := s.blocks.map fun e => if e.2.resv.isEmpty then e else
      (e.1, { e.2 with resv := e.2.resv.filter fun r => r.rels.all busy }) }

/-- Drop the releases that are complete. -/
def State.dropReleases (s0 : State) : State :=
  let s := s0.endReservations
  { s with waves := s.waves.map fun e => (e.1, { e.2 with
      releases := e.2.releases.filter fun r => !(r.complete && r.fault.isNone)
      relHolds := e.2.relHolds.filter fun n => e.2.releasing n }) }

end Sys2Proof.Machine
end

