-- ==== Sys2Proof/Machine/Fetch.lean ====
section
/-! DEFINITION. Fetching instructions (03 R37 to R45, R420): bundles through a core's instruction cache, the whole-bundle check,
the next PC, and what stands at a PC. -/

namespace Sys2Proof.Machine

/-- The key of a bundle in an instruction cache: ASID and bundle number. -/
def ckey (asid pc : Nat) : Nat := asid * 2251799813685248 + pc / 32

/-- The 8 words of 32 bytes, little-endian (00 R2). -/
def wordsOf (bs : List Byte) : List Word := [0, 1, 2, 3, 4, 5, 6, 7].map fun k => word (leValue ((bs.drop (4 * k)).take 4))

/-- Word k of a bundle. -/
def slotWord (ws : List Word) (k : Nat) : Word := nth ws k 0

/-- The LIT bit of a slot 1 to 7 (03 Table 3.1). -/
def isLit (ws : List Word) (k : Nat) : Bool := (slotWord ws 0).getLsbD (6 + k)

/-- The SW bit of a slot 1 to 7 (03 Table 3.1). -/
def isMarked (ws : List Word) (k : Nat) : Bool := (slotWord ws 0).getLsbD (k - 1)

/-- The slot of a PC; a PC that names the bundle begins at slot 1 (03 R41). -/
def slotOf (pc : Nat) : Nat := if pc / 4 % 8 = 0 then 1 else pc / 4 % 8

/-- A slot meets the conditions of 03 R39. -/
def slotOk (ws : List Word) (k : Nat) : Bool :=
  if isLit ws k then
    decide (k ≠ 1) && !(isLit ws (k - 1)) && consumesLiteral (slotWord ws (k - 1)) && !(isMarked ws k)
  else !(consumesLiteral (slotWord ws k)) || (decide (k ≠ 7) && isLit ws (k + 1))

/-- The bundle is not malformed (03 R39). -/
def bundleOk (ws : List Word) : Bool :=
  decide ((slotWord ws 0).toNat / 16384 = 0) && [1, 2, 3, 4, 5, 6, 7].all (slotOk ws)

/-- The next PC after an instruction that does not transfer control (03 R41): the next non-literal slot, else slot 1 of the next
bundle. -/
def nextPc (ws : List Word) (pc : Nat) : Nat :=
  let k := slotOf pc
  match [2, 3, 4, 5, 6, 7].find? fun j => decide (k < j) && !(isLit ws j) with
  | some j => pc / 32 * 32 + 4 * j
  | none => pc / 32 * 32 + 36

/-- The bundle of a PC as the core would fetch it now, without a rights check: its instruction cache, else the home. -/
def State.peekBundle (s : State) (core asid pc : Nat) : Option (List Word) :=
  match (s.core core).icache.find (ckey asid pc) with
  | some ws => some ws
  | none => (s.engineRead asid (pc / 32 * 32) 32).map wordsOf

/-- What RETT asks of the code at a PC (18 R248, Table 18.2): an opcode with progress is GATH, SCAT, LD128, ST128, REGROUP or
BAR. No code stands at an address with bits [63:56] set. -/
def State.codeAt (s : State) (core asid pc : Nat) : CodeAt :=
  match if Config.vaEnd ≤ pc then none else s.peekBundle core asid pc with
  | none => { literal := false, progress := false }
  | some ws =>
    { literal := decide (pc / 4 % 8 ≠ 0) && isLit ws (slotOf pc)
      progress := [0x99, 0x9A, 0x6C, 0x71, 0x63, 0xA0].contains (opOf (slotWord ws (slotOf pc))) }

/-- How a fetch ends. -/
inductive Fetched where
  /-- the bundle, and the state with it in the instruction cache -/
  | code (ws : List Word) (s : State)
  /-- held: a walk is needed -/
  | held (s : State)
  /-- stage 2 refuses this guest-physical granule: Bruin's (18 R256) -/
  | stage2 (s : State) (granule : Nat)
  /-- a fetch fault of this TYPE (03 R42, 18 R257) -/
  | fault (type : Nat)

/-- Fetch the bundle of a PC: the rights check (18 R253), the instruction cache, else the home; a bundle is fetched whole
(03 R45). -/
def State.fetch (s : State) (core asid pc : Nat) : Fetched :=
  match s.access core asid pc .fetch with
  | .miss => .held s
  | .denied t => .fault t
  | .held ipa =>
    match s.partOfAsid asid with
    | none => .held s
    | some p => .stage2 ((s.tellBruin p core asid ipa).dropRight core asid pc) (ipa / 65536)
  | .granted _ =>
    match (s.core core).icache.find (ckey asid pc) with
    | some ws => .code ws s
    | none =>
      match s.engineRead asid (pc / 32 * 32) 32 with
      | none => .held s
      | some bs =>
        let ws := wordsOf bs
        .code ws (s.modCore core fun c => { c with icache := c.icache.put (ckey asid pc) ws })

/-- The check of a PC that nothing has checked (03 R420), before its bundle is fetched: bits [1:0], by rank after a literal slot, and
bits [63:56]. A literal slot of an aligned PC is looked at once the bundle is there (`entryFault`). DESIGN CHOICE (log 36): a PC with
bits [1:0] set is judged here, before the whole bundle is checked for R39, also where the bundle is malformed: BADTARGET, or ILLEGAL with
FADDR the PC where its bits [4:2] name a literal slot. -/
def pcFault (code : CodeAt) (pc : Nat) : Option Nat :=
  if pc % 4 ≠ 0 then some (if code.literal then Cause.illegal else Cause.badTarget)
  else if Config.vaEnd ≤ pc then some Cause.aperture
  else none

/-- The check of a bundle that a split begins issuing from: the FADDR of the ILLEGAL it raises. A malformed bundle gives 0 (03 R39), a
PC that names a literal slot gives the PC (03 R420). DESIGN CHOICE (log 36): a PC that names a literal slot of a malformed bundle gives
0, since R39 has the whole bundle checked first. -/
def entryFault (ws : List Word) (pc : Nat) : Option Nat :=
  if !(bundleOk ws) then some 0 else if isLit ws (slotOf pc) then some pc else none

/-- The literal of the instruction in slot k: the next slot, if its LIT bit is set (03 R38). -/
def literalOf (ws : List Word) (k : Nat) : Word := if k < 7 ∧ isLit ws (k + 1) then slotWord ws (k + 1) else 0

/-- The instruction in slot k; a word that decodes to none is one that raises ILLEGAL (03 R50, R59). -/
def instrAt (ws : List Word) (k : Nat) : Instr :=
  match decode (slotWord ws k) (literalOf ws k) with
  | .ok i => i
  | .error _ => .reservedOpcode (slotWord ws k)

end Sys2Proof.Machine
end

