-- ==== Sys2Proof/Machine/Sched.lean ====
section
/-! DEFINITION. The quadrant's barrel (04 R76, R77): which splits may issue, the swap of a pending split into the active set, and
the end of a long-latency result's wait (04 R78, R79). -/

namespace Sys2Proof.Machine

/-- A wave is here and its partition lets it issue (05 Table 5.3, 18 R264, 21 R278). -/
def State.waveRuns (s : State) (w : Wave) : Bool :=
  (s.part w.part).running && w.res == .resident && !w.exited && !(s.core w.core).gated &&
    !(w.rewindable && (match w.preempt with | .window _ => true | _ => false))

/-- The split's triangle waits for a partial flush, which holds the split (15 R219). -/
def State.flushHolds (s : State) (wi : Nat) (w : Wave) (k : Nat) : Bool :=
  ((s.launch? w.launch).bind (·.bind)).any fun b => b.flushing.any fun e => e.wave == wi && e.split == k

/-- The wave is being saved whole: none of its splits issues (18 R264). -/
def Wave.frozen (w : Wave) : Bool := match w.preempt with | .saving _ => true | _ => false

/-- Something outside the split keeps it from issuing: its wave is being saved whole, or a partial flush holds it. -/
def State.heldBack (s : State) (wi : Nat) (w : Wave) (k : Nat) : Bool := w.frozen || s.flushHolds wi w k

/-- A split is not parked, or its wait is over (04 R76); whether a completion has come is looked at in the slot (log 16). What else R76
and R79 ask of a ready split is `State.splitReady`. -/
def State.mayIssue (s : State) (wi : Nat) (w : Wave) (x : Split) : Bool :=
  match x.park with
  | .none => w.trap.isNone && !(s.heldBack wi w x.num)
  | .wait f _ _ => !(s.heldBack wi w x.num) && (w.trap.isNone || f.completes) && (match s.waitRes wi w x.num f with | .stay => false | _ => true)
  | .marker => w.trap.isNone && !(s.heldBack wi w x.num) && (w.sbOf x.num).isEmpty
  | .completing _ _ _ => true
  | .rejoin _ | .joinw _ | .fault | .stage2 _ => false

/-- The splits of a quadrant's resident waves, by wave number and split number. -/
def State.quadSplits (s : State) (q : Nat) : List (Nat × Wave × Split) :=
  (s.waves.filter fun e => e.2.quad == q && s.waveRuns e.2).flatMap fun e => e.2.splits.map fun x => (e.1, e.2, x)

/-- The pending split that became ready earliest; ties go to the lower wave and then the lower split (04 R77). DEDUCED (log 94): the
wave number of a tie is the wave's place in the order in which waves were placed. -/
def State.nextPending (s : State) (q : Nat) : Option (Nat × Nat) :=
  let slots := (s.quad q).slots
  let cs := (s.quadSplits q).filter fun e => e.2.2.ready && !(slots.contains (some (e.1, e.2.2.num)))
  match cs with
  | [] => none
  | c :: cs =>
    let best := cs.foldl (fun b e => if e.2.2.readyAt < b.2.2.readyAt then e else b) c
    some (best.1, best.2.2.num)

/-- The slot to take: an empty one first, else that of the split parked longest (04 R77); lower slots win ties. A split whose wait is
over is no longer parked: it issues in place. -/
def State.slotToTake (s : State) (q : Nat) : Option Nat :=
  let slots := (s.quad q).slots
  match slots.findIdx? (·.isNone) with
  | some i => some i
  | none =>
    let aged := ((upTo slots.length).zip slots).filterMap fun e =>
      match e.2 with
      | none => none
      | some (wi, k) =>
        match (s.wave? wi).bind (·.split? k) with
        | none => some (e.1, 0)
        | some x => if x.park = .none ∨ x.ready then none else some (e.1, x.parkedAt)
    match aged with
    | [] => none
    | a :: as => some (as.foldl (fun b e => if e.2 < b.2 then e else b) a).1

/-- Put a split into a slot of its quadrant. -/
def State.fillSlot (s : State) (q i : Nat) (e : Nat × Nat) : State :=
  s.modQuad q fun x => { x with slots := setAt x.slots i (some e) }

/-- SPLIT_SWAP (04 R77): the earliest-ready pending split enters the slot. -/
def execSplitSwap (q : Nat) (s : State) : Host.Outcome State Fault Refusal :=
  match s.nextPending q, s.slotToTake q with
  | some e, some i => .next (s.fillSlot q i e)
  | _, _ => .next s

/-- YIELD (24 R418): the issuing split leaves its slot to a pending split that is ready, and is itself ready. -/
def execYield (s : State) : Host.Outcome State Fault Refusal :=
  runWord s (fun _ => true) {} (fun _ => []) fun c s =>
    match s.nextPending c.w.quad, (s.quad c.w.quad).slots.findIdx? (· == some (c.wi, c.sp.num)) with
    | some e, some i => .ok ((s.fillSlot c.w.quad i e).modSplit c.wi c.sp.num fun x => { x with readyAt := s.seq })
    | _, _ => .ok s

/-- A record of the pend list is ready to be written. -/
def Wave.ready? (w : Wave) (n : Nat) : Option Pend :=
  w.pend.find? fun p => p.n == n && match p.op with | .ready _ => true | _ => false

/-- RESULT_WRITE (04 R78): the result is written, its pending-write bits clear; a split at a switch marker goes on once its bits
are clear (04 R79), and a trap that waited for the scoreboards is taken (18 R246). -/
def execResultWrite (wi n : Nat) (s : State) : Host.Outcome State Fault Refusal :=
  match s.wave? wi with
  | none => .next s
  | some w =>
    match w.ready? n with
    | none => .next s
    | some p =>
      let ws := match p.op with | .ready ws => ws | _ => []
      let w1 := ws.foldl Wave.apply w
      let w2 := { w1 with pend := w1.pend.filter fun q => q.n != n }
      let w3 := if (w2.sbOf p.split).isEmpty
        then w2.modSplit p.split fun x => if x.park = .marker then { x with park := .none, readyAt := s.seq } else x
        else w2
      .next ((s.setWave wi w3).tryTrapEntry wi)

/-- REJOIN_ARRIVAL (04 R73): a split about to issue slot 1 of its governing entry's rejoin bundle arrives there (04 R71); one parked at a
switch marker is about to issue once its results are written (04 R79). -/
def Wave.arriving (w : Wave) (k : Nat) : Bool :=
  match w.split? k, w.governing k with
  | some x, some (_, g) =>
    (x.park == .none || (x.park == .marker && (w.sbOf k).isEmpty)) && decide (x.pc % 4 = 0) && decide (x.pc / 4 % 8 ≤ 1) && x.pc / 32 == g.rejoin / 32 && w.trap.isNone
  | _, _ => false

def execRejoinArrival (wi k : Nat) (s : State) : Host.Outcome State Fault Refusal :=
  match s.wave? wi with
  | none => .next s
  | some w => if w.arriving k && s.waveRuns w && !(s.heldBack wi w k) then .next (s.arrive wi k 8) else .next s

/-- CONVDEAD (04 R75): every live split is parked at a kind 0 entry or a JOINW and no condition holds. The split that holds the
wave's lowest live lane takes the trap; FADDR is the PC where it is parked. DESIGN CHOICE (log 93): a live lane that an entry holds is in
no split, so it is the lowest lane of any split's LIVE that counts. -/
def execConvdead (wi : Nat) (s : State) : Host.Outcome State Fault Refusal :=
  match s.wave? wi with
  | none => .next s
  | some w =>
    let stuck (x : Split) : Bool := (match x.park with | .rejoin _ => true | _ => false) || x.joinWord.isSome
    if w.exited || w.splits.isEmpty || w.trap.isSome || !(w.splits.all stuck) then .next s
    else
      match w.settleOnce s.seq with
      | .merged _ | .illConv _ _ => .next (s.settle wi 64)
      | .none =>
        match lanes.findSome? fun l => w.splits.find? fun x => bit x.live l with
        | none => .next s
        | some x => .next (s.raise wi x.num Cause.convDead x.pc x.exec x.pc)

/-- TRAP_ENTRY (18 R246): a trap that waited is taken once every scoreboard is clear and no completion is awaited. -/
def execTrapEntry (wi : Nat) (s : State) : Host.Outcome State Fault Refusal := .next ((s.tryTrapEntry wi).tidySlots wi)

end Sys2Proof.Machine
end

