-- ==== Sys2Proof/Machine/Control.lean ====
section
/-! DEFINITION. No operation, control transfer, traps and returns, and the predicate words. -/

namespace Sys2Proof.Machine

/-- A word whose checks are its decoding, its entry's own, and HAZARD on the registers it names (22 R289). -/
def wordOf (i : Instr) (k : Checks) (body : Ctx → State → Effect) (s : State) : Host.Outcome State Fault Refusal :=
  runWord s (decodesFor i) k (fun c => instrCodes i (mType c.sp.mode)) body

/-- A uniform word: it acts once when ACT is not empty and does nothing otherwise (22 R289). -/
def uniformWord (i : Instr) (k : Checks) (body : Ctx → State → Effect) (s : State) : Host.Outcome State Fault Refusal :=
  wordOf i k (fun c s => if c.act = 0 then .ok s else body c s) s

/-- NOP (23 R366). -/
def execNop (s : State) : Host.Outcome State Fault Refusal := wordOf .nop {} (fun _ s => .ok s) s

/-- A word that raises ILLEGAL when a split issues it: a reserved opcode, a bad field, a register beyond the footprint (03 R50,
R59). FADDR is 0, FMASK the split's EXEC. -/
def execReservedOpcode (_w : Word) (s : State) : Host.Outcome State Fault Refusal :=
  runWord s (fun _ => false) {} (fun _ => []) fun _ s => .ok s

/-! ## Branches (03 R42, R43) -/

/-- The bundle OFF16 bundles from the branch's own, modulo 2^64 (03 R42). -/
def branchTarget (pc : Nat) (off : BitVec 16) : Nat :=
  let k := off.toNat
  (32 * (pc / 32) + (if k < 32768 then 32 * k else 32 * k + two64 - 2097152)) % two64

/-- Go to a bundle, or raise APERTURE if its [63:56] are not zero (03 R42). -/
def takeBranch (c : Ctx) (s : State) (target : Nat) : Effect :=
  if Config.vaEnd ≤ target then .trap Cause.aperture target c.sp.exec else .jump s target

/-- JMP (23 R335). -/
def execJmp (off : BitVec 16) (s : State) : Host.Outcome State Fault Refusal :=
  wordOf (.jmp off) {} (fun c s => takeBranch c s (branchTarget c.pc off)) s

/-- A conditional uniform branch (22 R300, R306). -/
def branchIf (i : Instr) (off : BitVec 16) (taken : Ctx → Bool) (s : State) : Host.Outcome State Fault Refusal :=
  wordOf i {} (fun c s => if taken c then takeBranch c s (branchTarget c.pc off) else .ok s) s

def execBrz (r : Operand) (off : BitVec 16) (s : State) : Host.Outcome State Fault Refusal :=
  branchIf (.brz r off) off (fun c => rawU c r == 0) s
def execBrnz (r : Operand) (off : BitVec 16) (s : State) : Host.Outcome State Fault Refusal :=
  branchIf (.brnz r off) off (fun c => rawU c r != 0) s
def execBany (r : Operand) (off : BitVec 16) (s : State) : Host.Outcome State Fault Refusal :=
  branchIf (.bany r off) off (fun c => rawU c r &&& c.sp.exec != 0) s
def execBall (r : Operand) (off : BitVec 16) (s : State) : Host.Outcome State Fault Refusal :=
  branchIf (.ball r off) off (fun c => rawU c r &&& c.sp.exec == c.sp.exec) s

/-- The wave after BRX has divided its split (04 R72): E is pushed; a new split takes the lanes T, or, when no number is free, a
deferred arm is pushed for them. -/
def Wave.diverge (w : Wave) (c : Ctx) (t : Word) (target x : Nat) (fresh : Option Nat) (at_ : Nat) : Wave :=
  let e : Entry := { pc := c.pc, rejoin := x, mask := c.sp.live, mode := c.sp.mode, kind := 0, owner := c.sp.num, cause := 0, prog := 0,
                     orphan := false }
  let pos := w.stack.length
  let w1 := (w.push e).modSplit c.sp.num fun y => { y with live := y.live &&& ~~~t, exec := y.exec &&& ~~~t }
  match fresh with
  | some n => { w1 with splits := insertSplit (newSplit n (target + 4) t t c.sp.mode (some pos) at_) w1.splits }
  | none => w1.push { pc := target, rejoin := x, mask := t, mode := c.sp.mode, kind := 1, owner := c.sp.num, cause := 0, prog := 0,
                      orphan := false }

/-- BRX (04 R72, 22 R307). It waits for its split's scoreboard. DESIGN CHOICE (log 36): where both its target and its rejoin PC have bits
[63:56] set, FADDR is the target. -/
def execBrx (r : Operand) (off : BitVec 16) (rejoin : Word) (s : State) : Host.Outcome State Fault Refusal :=
  wordOf (.brx r off rejoin) {} (fun c s =>
    let t := c.sp.exec &&& rawU c r
    let n := c.sp.exec &&& ~~~(rawU c r)
    let target := branchTarget c.pc off
    let x := branchTarget c.pc (rejoin.setWidth 16)
    let fresh := if c.w.splits.length < 4 then c.w.freeNum else none
    if !(c.w.sbOf c.sp.num).isEmpty then .stall s
    else if t = 0 then .ok s
    else if n = 0 then takeBranch c s target
    else if Config.vaEnd ≤ target then .trap Cause.aperture target c.sp.exec
    else if Config.vaEnd ≤ x then .trap Cause.aperture x c.sp.exec
    else if 28 < c.w.stack.length + (if fresh.isSome then 1 else 2) then .trap Cause.stackOvf 0 c.sp.exec
    else .ok (s.setWave c.wi (c.w.diverge c t target x fresh s.seq))) s

/-- JOINW (04 R74, 23 R337). It waits for its split's scoreboard; a condition within its own lanes completes at once. -/
def execJoinw (a : Operand) (s : State) : Host.Outcome State Fault Refusal :=
  wordOf (.joinw a) {} (fun c s =>
    if !(c.w.sbOf c.sp.num).isEmpty then .stall s
    else if rawU c a &&& c.w.alive &&& ~~~c.sp.live = 0 then .ok s
    else .parkJoin s (rawU c a)) s

/-- The address of the bundle after a PC's own (22 R308). -/
def linkPc (pc : Nat) : Nat := (32 * (pc / 32) + 32) % two64

/-- CALL (22 R308). -/
def execCall (r : Operand) (off : BitVec 16) (s : State) : Host.Outcome State Fault Refusal :=
  wordOf (.call r off) {} (fun c s =>
    let l := linkPc c.pc
    takeBranch c (s.setWave c.wi (c.w.writeGroup r c.act 2 fun i _ => if i = 0 then word l else word (l / 4294967296)))
      (branchTarget c.pc off)) s

/-- JMPR and RET (23 R336, 24 R389): BADTARGET for a target off its multiple of 32, then APERTURE. -/
def branchPair (i : Instr) (a : Operand) (s : State) : Host.Outcome State Fault Refusal :=
  wordOf i {} (fun c s =>
    let t := pairN c a
    if t % 32 ≠ 0 then .trap Cause.badTarget t c.sp.exec else takeBranch c s t) s

def execJmpr (a : Operand) (s : State) : Host.Outcome State Fault Refusal := branchPair (.jmpr a) a s
def execRet (a : Operand) (s : State) : Host.Outcome State Fault Refusal := branchPair (.ret a) a s

/-! ## Traps (18 R250, R248) -/

/-- TRAP (24 R412): cause 0x10 + k, the frame PC at TRAP itself. -/
def execTrap (imm : BitVec 16) (s : State) : Host.Outcome State Fault Refusal :=
  wordOf (.trap imm) {} (fun c _ => .trap (0x10 + imm.toNat) 0 c.sp.exec) s

/-- BRK (22 R305). -/
def execBrk (s : State) : Host.Outcome State Fault Refusal :=
  wordOf .brk {} (fun c _ => .trap Cause.brk 0 c.sp.exec) s

/-- RETT (18 R248, R251, 24 R390). The handler's split ceases; results it still awaits belong to no split. -/
def execRett (s : State) : Host.Outcome State Fault Refusal :=
  wordOf .rett {} (fun c s =>
    let code (pc : Nat) : CodeAt := s.codeAt c.w.core (s.asidOf c.w.part) pc
    let r := if (s.part c.w.part).special then c.w.returnSpecial code s.seq else c.w.returnTrap code s.seq
    match r with
    | .refuse cause faddr => .trap cause faddr c.sp.exec
    | .back w =>
      let w1 := { w with pend := w.pend.map fun p => if p.split = c.sp.num then { p with split := 4 } else p }
      .done ((s.setWave c.wi w1).settle c.wi 64)) s

/-! ## Predicates (23 R369, R370, R372) -/

/-- Predicate logic: all 32 bits, whatever EXEC and the guard. -/
def predLogic (i : Instr) (d : Operand) (f : Ctx → Word) (s : State) : Host.Outcome State Fault Refusal :=
  wordOf i {} (fun c s =>
    match d with
    | .p r => .ok (s.setWave c.wi (c.w.writeP r.val (f c)))
    | .s r => .ok (s.setWave c.wi (c.w.writeS r.val (f c)))
    | _ => .ok s) s

def execPand (d a b : Operand) (s : State) : Host.Outcome State Fault Refusal :=
  predLogic (.pand d a b) d (fun c => rawU c a &&& rawU c b) s
def execPor (d a b : Operand) (s : State) : Host.Outcome State Fault Refusal :=
  predLogic (.por d a b) d (fun c => rawU c a ||| rawU c b) s
def execPxor (d a b : Operand) (s : State) : Host.Outcome State Fault Refusal :=
  predLogic (.pxor d a b) d (fun c => rawU c a ^^^ rawU c b) s
def execPnot (d a : Operand) (s : State) : Host.Outcome State Fault Refusal :=
  predLogic (.pnot d a) d (fun c => ~~~(rawU c a)) s
/-- PCNT reads EXEC and not ACT (23 R370). -/
def execPcnt (d a : Operand) (s : State) : Host.Outcome State Fault Refusal :=
  predLogic (.pcnt d a) d (fun c => word (popcount (rawU c a &&& c.sp.exec))) s
def execPmov (d a : Operand) (s : State) : Host.Outcome State Fault Refusal :=
  predLogic (.pmov d a) d (fun c => rawU c a) s

end Sys2Proof.Machine
end

