-- ==== Sys2Proof/Machine/System.lean ====
section
/-! DEFINITION. MODE, the special registers, the mask instructions, flashback marks, and the words that read and write the
reconvergence stack. -/

namespace Sys2Proof.Machine

/-! ## MODE (23 R357, R358) -/

/-- Write the issuing split's MODE. -/
def setMode (c : Ctx) (s : State) (m : Word) : State := s.modSplit c.wi c.sp.num fun x => { x with mode := m }

def execModea (imm : BitVec 16) (s : State) : Host.Outcome State Fault Refusal :=
  wordOf (.modea imm) {} (fun c s => .ok (setMode c s ((c.sp.mode &&& 0xFFFFF000#32) ||| imm.setWidth 32))) s
def execModem (imm : BitVec 16) (s : State) : Host.Outcome State Fault Refusal :=
  wordOf (.modem imm) {} (fun c s => .ok (setMode c s ((c.sp.mode &&& 0xFFE00FFF#32) ||| (imm.setWidth 32 <<< 12)))) s
def execModesv (d : Operand) (s : State) : Host.Outcome State Fault Refusal :=
  wordOf (.modesv d) {} (fun c s => .ok (s.setWave c.wi (c.w.writeGroup d c.act 1 fun _ _ => c.sp.mode))) s
/-- MODELD of a reserved value raises ILLEGAL and leaves MODE unchanged (03 R56). -/
def execModeld (a : Operand) (s : State) : Host.Outcome State Fault Refusal :=
  wordOf (.modeld a) {} (fun c s =>
    if modeOk (rawN c a) then .ok (setMode c s (rawU c a)) else .trap Cause.illegal 0 c.sp.exec) s

/-! ## Masks (23 R350) -/

/-- Write the issuing split's EXEC. -/
def setExec (c : Ctx) (s : State) (m : Word) : State := s.modSplit c.wi c.sp.num fun x => { x with exec := m }

def execMsave (d : Operand) (s : State) : Host.Outcome State Fault Refusal := predLogic (.msave d) d (fun c => c.sp.exec) s
def execMset (a : Operand) (s : State) : Host.Outcome State Fault Refusal :=
  wordOf (.mset a) {} (fun c s => .ok (setExec c s (rawU c a &&& c.sp.live))) s
def execMand (a : Operand) (s : State) : Host.Outcome State Fault Refusal :=
  wordOf (.mand a) {} (fun c s => .ok (setExec c s (c.sp.exec &&& rawU c a))) s
def execMandn (a : Operand) (s : State) : Host.Outcome State Fault Refusal :=
  wordOf (.mandn a) {} (fun c s => .ok (setExec c s (c.sp.exec &&& ~~~(rawU c a)))) s

/-! ## Special registers (04 R64, Table 4.2) -/

/-- The index of a special register in B. -/
def indexOf (b : Operand) : Nat := (specialIndex b).getD 0

/-- SPLITS: live splits in [2:0], their numbers as a mask in [7:4], the issuing split in [9:8]. -/
def splitsWord (c : Ctx) : Nat :=
  c.w.splits.length + c.w.splitNums.foldl (fun n k => n + 16 * 2 ^ k) 0 + 256 * c.sp.num

/-- BARSTATE of a barrier (05 R101). -/
def barState (s : State) (c : Ctx) (k : Nat) : Nat :=
  match (s.block? c.w.block).bind fun b => b.bars[k]? with
  | none => 0
  | some b => b.arrivals + 256 * b.expected + 65536 * (b.phase % 256) + (if b.who.contains c.wi then 16777216 else 0)

/-- PREDSTATE (05 R97). -/
def predState (s : State) (c : Ctx) : Nat :=
  match s.launch? c.w.launch with
  | none => 0
  | some l => if !l.hasPred then 0 else if s.predDone c.w.launch then 2 else 1

/-- What SRD reads (04 Table 4.2). -/
def specialValue (s : State) (c : Ctx) (a : Operand) (i l : Nat) : Word :=
  let b := s.block? c.w.block
  let kbase := c.w.kbase.toNat
  match i with
  | 0x00 => word l
  | 0x01 => word c.w.waveId
  | 0x02 => word (b.elim 0 (·.blockId))
  | 0x03 => word (b.elim 0 (·.record.blocks))
  | 0x04 => word (b.elim 0 (·.size))
  | 0x05 => word c.w.core
  | 0x06 => word (sectorOf c.w.core)
  | 0x07 => word (dieOf c.w.core)
  | 0x08 => word c.w.role
  | 0x09 => c.sp.exec
  | 0x0A => word (splitsWord c)
  | 0x0B => word c.w.stack.length
  | 0x0C => word c.w.cause
  | 0x0D => word c.w.faddr.toNat
  | 0x0E => word (c.w.faddr.toNat / 4294967296)
  | 0x0F => c.w.fmask
  | 0x10 => word c.w.tbase.toNat
  | 0x11 => word (c.w.tbase.toNat / 4294967296)
  | 0x12 => vget c.w.ks 0 0
  | 0x13 => vget c.w.ks 1 0
  | 0x14 => vget c.w.ks 2 0
  | 0x15 => vget c.w.ks 3 0
  | 0x16 => c.w.prog
  | 0x17 => c.w.fpflags.setWidth 32
  | 0x18 => word (barState s c (rawN c a))
  | 0x19 => word (s.quad c.w.quad).mxprog
  | 0x1A => word c.w.qsize
  | 0x1B => word kbase
  | 0x1C => word (kbase / 4294967296)
  | 0x1D => word (predState s c)
  | 0x1E => word c.w.part
  | _ => word (s.asidOf c.w.part)

/-- SRD (24 R401): once per issue with an s D, the lanes of ACT with a vector D. -/
def execSrd (d a b : Operand) (s : State) : Host.Outcome State Fault Refusal :=
  wordOf (.srd d a b) {} (fun c s =>
    .ok (s.setWave c.wi (c.w.writeGroup d c.act 1 fun _ l => specialValue s c a (indexOf b) l))) s

/-- A 64-bit register with its low or high word replaced. -/
def setHalf (x : BitVec 64) (high : Bool) (v : Word) : BitVec 64 :=
  if high then v ++ x.setWidth 32 else x.extractLsb' 32 32 ++ v

/-- The write of PROG (24 Table 24.8): the top trap frame's, or the saved block's in recovery mode; none without one. -/
def Wave.writeProg (w : Wave) (v : Word) : Option Wave :=
  match w.bruin with
  | b :: outer => some { w with prog := v, bruin := { b with prog := v } :: outer }
  | [] =>
    match w.stack with
    | [] => none
    | e :: es => if e.kind = 3 then some { w with prog := v, stack := { e with prog := v } :: es } else none

/-- SWR's effect on the wave (24 Table 24.8); none for a value outside its limits. -/
def Wave.writeSpecial (w : Wave) (i : Nat) (v : Word) : Option Wave :=
  match i with
  | 0x10 => if v.toNat % 32 = 0 then some { w with tbase := setHalf w.tbase false v } else none
  | 0x11 => some { w with tbase := setHalf w.tbase true v }
  | 0x12 => some { w with ks := vset w.ks 0 v }
  | 0x13 => some { w with ks := vset w.ks 1 v }
  | 0x14 => some { w with ks := vset w.ks 2 v }
  | 0x15 => some { w with ks := vset w.ks 3 v }
  | 0x16 => w.writeProg v
  | 0x17 => if v.toNat < 32 then some { w with fpflags := v.setWidth 5 } else none
  | 0x1A => if 1 ≤ v.toNat ∧ v.toNat ≤ 4096 then some { w with qsize := v.toNat } else none
  | _ => none

/-- SWR (24 R402). -/
def execSwr (a b : Operand) (s : State) : Host.Outcome State Fault Refusal :=
  wordOf (.swr a b) {} (fun c s =>
    if indexOf b = 0x09 then .ok (setExec c s (rawU c a &&& c.sp.live))
    else
      match c.w.writeSpecial (indexOf b) (rawU c a) with
      | none => .trap Cause.illegal 0 c.sp.exec
      | some w => .ok (s.setWave c.wi w)) s

/-- CLK (22 R311). -/
def execClk (d : Operand) (s : State) : Host.Outcome State Fault Refusal :=
  uniformWord (.clk d) {} (fun c s =>
    let t := (s.core c.w.core).clk.toNat
    .ok (s.setWave c.wi (c.w.writeGroup d c.act 2 fun i _ => if i = 0 then word t else word (t / 4294967296)))) s

/-- The hottest sensor of a die: cores that no reading has reached are at the reset value (21 Table 21.8). -/
def State.hottest (s : State) (die : Nat) : Int :=
  let ts := (s.cores.filter fun e => dieOf e.1 == die).map fun e => e.2.temp
  let all := if ts.length < 72 then (0 : Int) :: ts else ts
  match all with
  | [] => 0
  | t :: rest => rest.foldl (fun a b => if a < b then b else a) t

/-- A 32-bit word of a signed number. -/
def wordInt (x : Int) : Word := BitVec.ofInt 32 x

/-- SENSE (21 R284, Table 21.8): long-latency; the value is the one at issue. -/
def execSense (d b : Operand) (s : State) : Host.Outcome State Fault Refusal :=
  uniformWord (.sense d b) {} (fun c s =>
    let core := s.core c.w.core
    let sel := rawN c b
    let last := (core.droopSeen.find c.w.part).getD 0
    let v : Word :=
      if sel = 0 then wordInt core.temp
      else if sel = 1 then word (core.droop - last)
      else if sel = 2 then wordInt (vget s.module.procmon (dieOf c.w.core) 0)
      else wordInt (s.hottest (dieOf c.w.core))
    let s1 := if sel = 1 then s.modCore c.w.core fun x => { x with droopSeen := x.droopSeen.put c.w.part x.droop } else s
    let r := s1.stamp
    let p : Pend := { n := r.1, split := c.sp.num, codes := codesOf 0 (d, .one), op := .ready (groupWrites d c.act 1 fun _ _ => v) }
    .ok (r.2.setWave c.wi { c.w with pend := c.w.pend ++ [p] })) s

/-- FMARK (18 R261): acts regardless of the guard; nothing when the wave has more than one split or a stack. -/
def execFmark (offset : Word) (s : State) : Host.Outcome State Fault Refusal :=
  wordOf (.fmark offset) {} (fun c s =>
    if 1 < c.w.splits.length ∨ c.w.stack ≠ [] then .ok s
    else
      let m : Mark := { desc := (c.w.kbase.toNat + offset.toNat) % two64, pc := c.next, exec := c.sp.exec, mode := c.sp.mode }
      .ok (s.setWave c.wi { c.w with mark := some m, rewindable := true })) s

/-! ## The stack's words (04 R69, 24 R407) -/

/-- STKRD. -/
def execStkrd (d a : Operand) (s : State) : Host.Outcome State Fault Refusal :=
  wordOf (.stkrd d a) {} (fun c s =>
    if (s.part c.w.part).special then .trap Cause.illegal 0 c.sp.exec
    else
      match c.w.stack[rawN c a]? with
      | none => .trap Cause.illegal 0 c.sp.exec
      | some e => .ok (s.setWave c.wi (c.w.writeGroup d c.act 8 fun i _ => nth e.words i 0))) s

/-- STKWR: an index below the depth overwrites, an index equal to it pushes; ILLEGAL for a bad entry or a greater index, STACKOVF
for a push beyond 32 (04 R69, R70). -/
def execStkwr (a b : Operand) (s : State) : Host.Outcome State Fault Refusal :=
  wordOf (.stkwr a b) {} (fun c s =>
    let i := rawN c b
    if (s.part c.w.part).special ∨ c.w.stack.length < i then .trap Cause.illegal 0 c.sp.exec
    else
      match Entry.ofWords ((upTo 8).map fun k => groupLane c a k 0) with
      | none => .trap Cause.illegal 0 c.sp.exec
      | some e =>
        if i < c.w.stack.length then .ok (s.setWave c.wi { c.w with stack := setAt c.w.stack i e })
        else if 32 ≤ c.w.stack.length then .trap Cause.stackOvf 0 c.sp.exec
        else .ok (s.setWave c.wi (c.w.push e))) s

end Sys2Proof.Machine
end

