-- ==== Sys2Proof/Machine/Lane.lean ====
section
/-! DEFINITION. The cross-lane words (04 R80 to R81, Table 4.6): they see only the lanes of ACT of the issuing split. -/

namespace Sys2Proof.Machine

/-- Types of the SCAN and REDUCE rows of 11 Table 11.5. -/
def tyScan (ty : Nat) : Bool := tyInt32 ty || isPackedInt ty || tyF ty
def tyBits (ty : Nat) : Bool := tyInt32 ty || isPackedInt ty
/-- Every TYPE but n64. -/
def tyNot64 (ty : Nat) : Bool := ty != 14

/-- A result that travels back (04 R78): its registers are pending until RESULT_WRITE. -/
def longResult (c : Ctx) (s : State) (w : Wave) (codes : List Nat) (ws : List RegWrite) : State :=
  let r := s.stamp
  let p : Pend := { n := r.1, split := c.sp.num, codes := codes, op := .ready ws }
  r.2.setWave c.wi { w with pend := w.pend ++ [p] }

/-- A long-latency word that writes n registers of D in the lanes of ACT; an empty ACT writes nothing. -/
def longLane (i : Instr) (typeOk : Nat → Bool) (d : Operand) (n : Nat) (f : Ctx → Nat → Nat → Word) (s : State) :
    Host.Outcome State Fault Refusal :=
  wordOf i { typeOk := typeOk } (fun c s =>
    if c.act = 0 then .ok s
    else .ok (longResult c s c.w ((upTo n).flatMap fun k => (codesOf 0 (d, .one)).map (· + k)) (groupWrites d c.act n (f c)))) s

/-- A lane of A if it is in ACT, else 0 (24 R398). -/
def pickLane (c : Ctx) (a : Operand) (k : Nat) : Word := if bit c.act k then rawLane c a k else 0

def execShfl (d a b : Operand) (s : State) : Host.Outcome State Fault Refusal :=
  longLane (.shfl d a b) tyNot64 d 1 (fun c _ l => pickLane c a ((rawLane c b l).toNat % 32)) s
def execShflx (d a b : Operand) (s : State) : Host.Outcome State Fault Refusal :=
  longLane (.shflx d a b) tyNot64 d 1 (fun c _ l => pickLane c a (Nat.xor l ((rawLane c b l).toNat % 32))) s

/-- RDLANE (24 R385): the lane need not be in ACT, but in LIVE. -/
def execRdlane (d a b : Operand) (s : State) : Host.Outcome State Fault Refusal :=
  uniformWord (.rdlane d a b) { typeOk := tyNot64 } (fun c s =>
    let k := rawN c b % 32
    .ok (s.setWave c.wi (c.w.writeGroup d c.act 1 fun _ _ => if bit c.sp.live k then rawLane c a k else 0))) s

/-- WRLANE (24 R416): regardless of EXEC and the guard. -/
def execWrlane (d a b : Operand) (s : State) : Host.Outcome State Fault Refusal :=
  wordOf (.wrlane d a b) { typeOk := tyNot64 } (fun c s =>
    let m := laneBit (rawN c b % 32) &&& c.sp.live
    .ok (s.setWave c.wi (c.w.writeGroup d m 1 fun _ _ => rawU c a))) s

/-- BALLOT (22 R301): an empty ACT writes 0. -/
def execBallot (d a : Operand) (s : State) : Host.Outcome State Fault Refusal :=
  predLogic (.ballot d a) d (fun c => maskOf fun l => bit c.act l && rawLane c a l != 0) s

/-- VANY and VALL (24 R415). -/
def execVany (d a : Operand) (s : State) : Host.Outcome State Fault Refusal :=
  predLogic (.vany d a) d (fun c => if rawU c a &&& c.act = 0 then 0 else 1) s
def execVall (d a : Operand) (s : State) : Host.Outcome State Fault Refusal :=
  predLogic (.vall d a) d (fun c => if rawU c a &&& c.act = c.act then 1 else 0) s

/-- MATCH (23 R351). -/
def execMatchLanes (d a : Operand) (s : State) : Host.Outcome State Fault Refusal :=
  longLane (.matchLanes d a) tyNot64 d 1 (fun c _ l => maskOf fun m => bit c.act m && rawLane c a m == rawLane c a l) s

/-- RANK (24 R383). -/
def execRank (d : Operand) (s : State) : Host.Outcome State Fault Refusal :=
  wordOf (.rank d) {} (fun c s =>
    .ok (s.setWave c.wi (c.w.writeGroup d c.act 1 fun _ l => word (popcount (maskOf fun m => bit c.act m && decide (m < l)))))) s

/-- The running values of an inclusive scan over lanes in ascending order. -/
def scanLanes (first : Nat → Nat × Flags) (step : Nat → Nat → Nat × Flags) (a : Nat → Nat) :
    Option Nat → List Nat → List (Nat × Nat × Flags)
  | _, [] => []
  | none, l :: ls =>
    let r := first (a l)
    (l, r.1, r.2) :: scanLanes first step a (some r.1) ls
  | some acc, l :: ls =>
    let r := step acc (a l)
    (l, r.1, r.2) :: scanLanes first step a (some r.1) ls

/-- SCAN (24 R395): an inclusive sum per element, rounded, wrapped or clamped at each step. -/
def execScan (d a : Operand) (s : State) : Host.Outcome State Fault Refusal :=
  wordOf (.scan d a) { typeOk := tyScan } (fun c s =>
    if c.act = 0 then .ok s
    else
      let ty := mType c.sp.mode
      let step (x y : Nat) : Nat × Flags := perElem ty fun k =>
        addElem ty (mRnd c.sp.mode) (mSat c.sp.mode) (elem (elemWidth ty) k x) (elem (elemWidth ty) k y)
      let first (x : Nat) : Nat × Flags := perElem ty fun k => quietElem ty (elem (elemWidth ty) k x)
      let rs := scanLanes first step (valLane c ty a) none (lanesOf c.act)
      let get (l : Nat) : Word := word (((rs.find? fun r => r.1 == l).map (·.2.1)).getD 0)
      let w := c.w.addFlags (orFlags (rs.map (·.2.2)))
      .ok (longResult c s w (codesOf 0 (d, .one)) (groupWrites d c.act 1 fun _ l => get l))) s

/-- One level of the float tree of 24 R387: neighbouring slots combine. -/
def treeLevel (step : Nat → Nat → Nat × Flags) : List (Option Nat) → List (Option Nat) × Flags
  | x :: y :: rest =>
    let r := treeLevel step rest
    match x, y with
    | some a, some b => let z := step a b; (some z.1 :: r.1, z.2 ||| r.2)
    | some a, none => (some a :: r.1, r.2)
    | none, b => (b :: r.1, r.2)
  | xs => (xs, 0)

/-- The five levels. -/
def treeSum (step : Nat → Nat → Nat × Flags) (xs : List (Option Nat)) : Nat × Flags :=
  let r := [0, 1, 2, 3, 4].foldl (fun (acc : List (Option Nat) × Flags) _ =>
    let t := treeLevel step acc.1
    (t.1, acc.2 ||| t.2)) (xs, 0)
  ((r.1.headD none).getD 0, r.2)

/-- The reduction of one element over the lanes of ACT (24 R387, log 84). -/
def reduceElem (op ty rnd : Nat) (sat : Bool) (act : Word) (a : Nat → Nat) : Nat × Flags :=
  let w := elemWidth ty
  let xs := (lanesOf act).map a
  match xs with
  | [] => (0, 0)
  | [x] => if op < 3 then quietElem ty x else (x, 0)
  | x :: rest =>
    match op with
    | 0 =>
      if isFloat ty then treeSum (addElem ty rnd sat) (lanes.map fun l => if bit act l then some (a l) else none)
      else (intResult sat (isSigned ty) w (xs.foldl (fun (t : Int) y => t + intVal (isSigned ty) w y) 0), 0)
    | 1 | 2 => rest.foldl (fun (acc : Nat × Flags) y =>
        let r := minmaxElem (op == 2) ty acc.1 y
        (r.1, acc.2 ||| r.2)) (x, 0)
    | 3 => (rest.foldl Nat.land x, 0)
    | 4 => (rest.foldl Nat.lor x, 0)
    | _ => (rest.foldl Nat.xor x, 0)

/-- REDUCE (24 R387). -/
def execReduce (d a b : Operand) (s : State) : Host.Outcome State Fault Refusal :=
  wordOf (.reduce d a b) { typeOk := fun ty => match b with
      | .int k => if k.val < 3 then tyScan ty else tyBits ty
      | _ => true } (fun c s =>
    if c.act = 0 then .ok s
    else
      let ty := mType c.sp.mode
      let r := perElem ty fun k => reduceElem (rawN c b) ty (mRnd c.sp.mode) (mSat c.sp.mode) c.act fun l =>
        elem (elemWidth ty) k (rawLane c a l).toNat
      .ok (longResult c s (c.w.addFlags r.2) (codesOf 0 (d, .one)) (groupWrites d c.act 1 fun _ _ => word r.1))) s

/-- REBAL's item of a lane (04 R81): the lane in ACT whose run of lengths holds item t, and the offset in it. -/
def rebalItem (act : Word) (a : Nat → Nat) (t : Nat) : Option (Nat × Nat) :=
  let p (k : Nat) : Nat := (lanesOf act).foldl (fun n l => if l < k then n + a l else n) 0
  match (lanesOf act).find? fun r => decide (0 < a r) && decide (p r ≤ t) && decide (t < p r + a r) with
  | some r => some (r, t - p r)
  | none => none

/-- REBAL (04 R81, 24 R386): lengths and cursor are n32, sums exact. -/
def execRebal (d a b : Operand) (s : State) : Host.Outcome State Fault Refusal :=
  longLane (.rebal d a b) tyInt32 d 2 (fun c i l =>
    match rebalItem c.act (fun m => (rawLane c a m).toNat) (rawN c b + l) with
    | some (r, o) => if i = 0 then word r else word o
    | none => if i = 0 then 0xFFFFFFFF#32 else 0) s

end Sys2Proof.Machine
end

