-- ==== Sys2Proof/Machine/Access.lean ====
section
/-! DEFINITION. What every memory word does at issue: forming and checking the addresses of its lanes (06 R107 to R112, 18 R249,
R257), starting releases and acquires (08 R150 to R153), and entering writes into a store buffer. -/

namespace Sys2Proof.Machine

/-! ## Addresses -/

/-- An address lies in the scratch aperture (06 Table 6.1). -/
def inAperture (va : Nat) : Bool := decide (Config.aperture ≤ va) && decide (va < Config.reservedRegion)

/-- An address lies in the global region (06 Table 6.1). -/
def isGlobal (va : Nat) : Bool := decide (va < Config.aperture)

/-- The scratch size a block has declared. -/
def State.scratchOf (s : State) (w : Wave) : Nat := (s.block? w.block).elim 0 (·.record.scratch)

/-- n bytes from a global base stay in the global region. -/
def globalRange (va n : Nat) : Bool := decide (va + n ≤ Config.aperture)

/-- Each of n bytes from an address lies in the global region or in the declared scratch, which begins where that region ends
(06 Table 6.1, R138). -/
def State.rangeOk (s : State) (w : Wave) (va n : Nat) : Bool := decide (va + n ≤ Config.aperture + s.scratchOf w) || n == 0

/-- An open range of an EXHAUSTED region of the partition meets the bytes (17 R243). -/
def State.snapFull (s : State) (p asid va n : Nat) : Bool :=
  (s.part p).regions.any fun r => r.exhausted && r.asid == asid &&
    r.levels.any fun l => decide (va < l.base + l.len) && decide (l.base < va + n)

/-- The cause of rank 6 to 8 that an address has (18 Table 18.1); none when it has none. -/
def addrCause (s : State) (w : Wave) (width : Nat) (stores : Bool) (va : Nat) : Option Nat :=
  if !(isGlobal va) && !(inAperture va && decide (va + 1 ≤ Config.aperture + s.scratchOf w)) then some Cause.aperture
  else if va % width ≠ 0 then some Cause.misalign
  else if stores && isGlobal va && s.snapFull w.part (s.asidOf w.part) va width then some Cause.snapFull
  else none

/-- The lowest-rank cause present among lanes wins; no lane performs, FMASK holds the lanes with it (ACT for a uniform access),
FADDR the lowest one's address (18 R249). -/
def lanesTrap (c : Ctx) (uniform : Bool) (causes : List (Nat × Nat × Option Nat)) : Option Effect :=
  [Cause.aperture, Cause.misalign, Cause.snapFull].findSome? fun k =>
    match causes.filter fun e => e.2.2 == some k with
    | [] => none
    | e :: es => some (.trap k e.2.1 (if uniform then c.act else (e :: es).foldl (fun m x => m ||| laneBit x.1) 0))

/-- The granules that lanes touch in the global region, rising. -/
def granulesOf (ls : List (Nat × Nat)) : List Nat :=
  (ls.filter fun e => isGlobal e.2).foldl (fun gs e => insertNat (e.2 / 65536) gs) []

/-- What the rights check of an instruction's lanes finds. -/
inductive Granted where
  | ok
  /-- held as a structural stall while a home walks (18 R253) -/
  | miss
  /-- stage 2 refuses granules: each with its guest-physical granule, rising, and the state in which Bruin is told (18 R256) -/
  | stage2 (gs : List (Nat × Nat)) (s : State)
  /-- stage-1 faults: granule and TYPE, rising, and the state without the core's entries for them -/
  | faults (gs : List (Nat × Nat)) (s : State)

/-- Check the granules of an access against the core's rights cache (18 R253). -/
def State.grant (s : State) (c : Ctx) (need : Need) (gs : List Nat) : Granted :=
  let asid := s.asidOf c.w.part
  let rs := gs.map fun g => (g, s.access c.w.core asid (g * 65536) need)
  let faults := rs.filterMap fun r => match r.2 with | .denied t => some (r.1, t) | _ => none
  let held := rs.filterMap fun r => match r.2 with | .held ipa => some (r.1, ipa) | _ => none
  let miss := rs.any fun r => match r.2 with | .miss => true | _ => false
  if miss then .miss
  else if !held.isEmpty then
    .stage2 (held.map fun r => (r.1, r.2 / 65536)) (held.foldl (fun s r => (s.tellBruin c.w.part c.w.core asid r.2).dropRight c.w.core asid (r.1 * 65536)) s)
  else if faults.isEmpty then .ok
  else .faults faults (faults.foldl (fun s r => s.dropRight c.w.core asid (r.1 * 65536)) s)

/-- The guest-physical granule of the first refused one. -/
def firstHeld (gs : List (Nat × Nat)) : Nat := (gs.head?).elim 0 (·.2)

/-- The fault record of a wave's access (18 Table 18.3). -/
def waveFault (s : State) (c : Ctx) (kind type va : Nat) (ls : Word) : FaultRec :=
  { va := va, pc := c.pc, lanes := ls, token := c.w.tokenOf c.sp.num, asid := s.asidOf c.w.part, type := type, kind := kind
    engine := c.w.core }

/-- One record per faulting granule, for the lanes in it (18 R257); ACT for a uniform access (18 R249). -/
def faultRecs (s : State) (c : Ctx) (uniform : Bool) (kind : Nat) (ls : List (Nat × Nat)) (gs : List (Nat × Nat)) : List FaultRec :=
  gs.map fun g =>
    let inG := ls.filter fun e => isGlobal e.2 && e.2 / 65536 == g.1
    let va := (inG.head?).elim (g.1 * 65536) (·.2)
    waveFault s c kind g.2 va (if uniform then c.act else inG.foldl (fun m e => m ||| laneBit e.1) 0)

/-- Check the lanes of an access and go on with them all (18 R249, R257): `kind` is the KIND of its fault records. -/
def withLanes (c : Ctx) (s : State) (uniform : Bool) (width : Nat) (stores : Bool) (need : Need) (kind : Nat)
    (ls : List (Nat × Nat)) (k : State → Effect) : Effect :=
  match lanesTrap c uniform (ls.map fun e => (e.1, e.2, addrCause s c.w width stores e.2)) with
  | some e => e
  | none =>
    match s.grant c need (granulesOf ls) with
    | .ok => k s
    | .miss => .stall s
    | .stage2 gs s1 => .stage2 s1 (firstHeld gs) 0
    | .faults gs s1 => .fault s1 (faultRecs s c uniform kind ls gs) 0

/-- The lanes in the granules before the first that faults are performed, and join those held in PROG, when the lanes touch several
granules (18 Table 18.2). -/
def beforeFault (c : Ctx) (ls0 ls gs : List (Nat × Nat)) (s : State) (k : State → List (Nat × Nat) → State) : State × Word :=
  if (granulesOf ls0).length < 2 then (s, c.sp.prog)
  else
    let first := (gs.map (·.1)).headD 0
    let done := ls.filter fun e => isGlobal e.2 && decide (e.2 / 65536 < first)
    (if done.isEmpty then s else k s done, done.foldl (fun m e => m ||| laneBit e.1) c.sp.prog)

/-- As `State.grant` for granules taken in ascending order (18 Table 18.2): where stage 1 refuses one below the first that stage 2 refuses,
the access stops there. -/
def State.grantInOrder (s : State) (c : Ctx) (need : Need) (gs : List Nat) : Granted :=
  match s.grant c need gs with
  | .stage2 hs s1 =>
    (match s.grant c need (gs.filter fun g => !(hs.any fun h => h.1 == g)) with
     | .faults fs s2 => if (fs.map (·.1)).headD 0 < (hs.map (·.1)).headD 0 then .faults fs s2 else .stage2 hs s1
     | _ => .stage2 hs s1)
  | r => r

/-- As `withLanes` for LD128 and ST128 (18 Table 18.2): granules are taken in ascending order; lanes in the granules before the
first that faults are performed and held in PROG, and a resumed instruction takes only the rest. -/
def withProgress (c : Ctx) (s : State) (width : Nat) (stores : Bool) (need : Need) (kind : Nat) (ls0 : List (Nat × Nat))
    (k : State → List (Nat × Nat) → State) : Effect :=
  let ls := ls0.filter fun e => !(bit c.sp.prog e.1)
  match lanesTrap c false (ls.map fun e => (e.1, e.2, addrCause s c.w width stores e.2)) with
  | some e => e
  | none =>
    match s.grantInOrder c need (granulesOf ls) with
    | .ok => .ok (k s ls)
    | .miss => .stall s
    | .stage2 gs s1 =>
      let r := beforeFault c ls0 ls gs s1 k
      .stage2 r.1 (firstHeld gs) r.2
    | .faults gs s1 =>
      let r := beforeFault c ls0 ls gs s1 k
      .fault r.1 (faultRecs s c false kind ls gs) r.2

/-- The lanes of an access with their addresses: each lane of ACT, or once (06 R111). -/
def accessLanes (c : Ctx) (uniform : Bool) (a b : Operand) : List (Nat × Nat) :=
  (actLanes uniform c.act).map fun l => (l, laneAddr c a b l)

/-- The registers a resumed LD128 or ST128 names are not checked against its own pending lanes. -/
def progCodes (i : Instr) (c : Ctx) : List Nat := if c.sp.prog = 0 then instrCodes i (mType c.sp.mode) else []

/-- The rewindable flag clears (18 R262). -/
def Wave.unmark (w : Wave) : Wave := { w with rewindable := false }
def State.unmark (s : State) (wi : Nat) : State := s.modWave wi Wave.unmark

/-! ## Releases and acquires -/

/-- Dirty stash sectors of a block: block, window, line, sector (06 R132). -/
def Block.dirtyStash (b : Block) (bi : Nat) : List (Nat × Nat × Nat × Nat) :=
  b.windows.flatMap fun w => (upTo w.lines.length).flatMap fun k =>
    ([0, 1, 2, 3].filter fun j => (w.line k).dirty.getLsbD j).map fun j => (bi, w.id, k, j)

/-- Dirty stash sectors of other blocks' windows that writes of a wave have reached: at system scope they are to reach PT too (01 R15, log
90). -/
def State.stashWritten (s : State) (wi own : Nat) : List (Nat × Nat × Nat × Nat) :=
  (s.blocks.filter fun e => e.1 != own).flatMap fun e => (e.2.dirtyStash e.1).filter fun x =>
    (e.2.window? x.2.1).any fun w => (w.line x.2.2.1).writers.contains (x.2.2.2, wi)

/-- A store-buffer entry counts for releases, unless it is an unpaired atomic (08 Table 8.7); in scratch every use acts as nonord (08
R156). -/
def WEntry.counts (e : WEntry) : Bool := match e.payload with | .atomic a => a.use != 1 || inAperture e.addr | .store _ => true

/-- Start a release at a scope (08 R150): what it covers, and what of that has still to happen (08 Table 8.3). A block's release at
device scope or wider abandons its reservations (08 R157). -/
def State.startRelease (s : State) (wi scope : Nat) : Nat × State :=
  match s.wave? wi with
  | none => (0, s)
  | some w =>
    let r := s.stamp
    let wide := scope = 0 ∨ scope = 4 ∨ scope = 5
    let wsb := (w.wsb.filter WEntry.counts).map (·.seq)
    let oq := (s.block? w.block).elim [] fun b => (b.oq.filter WEntry.counts).map (·.seq)
    let rec_ : Release :=
      { n := r.1, scope := scope, wave := wi, block := w.block
        seqs := if scope = 1 then [] else if scope = 2 then wsb else wsb ++ oq
        invs := if scope = 3 then (s.invals.filter fun m => m.waves.contains wi && m.sec == sectorOf w.core).map (·.seq) else []
        stash := (if wide then (s.block? w.block).elim [] fun b => b.dirtyStash w.block else []) ++
          (if scope = 5 then s.stashWritten wi w.block else [])
        l2 := if scope = 5 then s.lines.flatMap fun e =>
            ([0, 1, 2, 3].filter fun k => e.2.dirty.getLsbD k && e.2.writers.contains (k, wi)).map fun k => (e.1, k)
          else []
        ports := (s.portWrites.filter fun p => p.waves.contains wi && ((scope = 4 ∧ p.tgt = 2) ∨ scope = 5)).map (·.seq)
        fault := none }
    let s1 := if wide then r.2.modBlock w.block fun b => { b with resv := [] } else r.2
    (r.1, if rec_.complete then s1 else s1.modWave wi fun w => { w with releases := w.releases ++ [rec_] })

/-- An issued load of the wave has not been satisfied. -/
def Pend.unsatisfied (p : Pend) : Bool := match p.op with | .load _ => true | _ => false

/-- Acquires that have become effective act (08 R151, R152): every load issued before has been satisfied and, for sc, the release
part has completed. -/
def State.settleAcquires (s : State) (wi : Nat) : State :=
  match s.wave? wi with
  | none => s
  | some w =>
    let ready (a : Acquire) : Bool :=
      !(w.pend.any fun p => p.unsatisfied && decide (p.n < a.seq)) && (match a.sc with | none => true | some n => !(w.releasing n))
    let s1 := s.setWave wi { w with acquires := w.acquires.filter fun a => !(ready a) }
    (w.acquires.filter ready).foldl (fun s a => s.acquireAt wi a.scope a.isSc) s1

/-- Release n of some wave is in progress. -/
def State.releasing (s : State) (n : Nat) : Bool := s.waves.any fun e => e.2.releasing n

/-- After a step that may complete releases: drop them, let sc acquires act, and end the fences whose issuer's release is over. -/
def State.settleReleases (s : State) : State :=
  let s1 := s.dropReleases
  let s2 := (s1.waves.filter fun e => !e.2.acquires.isEmpty).foldl (fun s e => s.settleAcquires e.1) s1
  s2.endWaits fun t => decide (8589934592 ≤ t) && !(s2.releasing (t - 8589934592))

/-- A covered write could still reach a stash line: it is in WSB(w) for a scratch address or a mapped line (18 R260). -/
def State.stashPending (s : State) (wi n : Nat) : Bool :=
  match s.wave? wi with
  | none => false
  | some w => w.releases.any fun r => r.n == n && (!r.stash.isEmpty || w.wsb.any fun e => r.seqs.contains e.seq &&
      (match s.block? w.block with
       | none => false
       | some b => b.windows.any fun x =>
          (inAperture e.addr && decide (x.off ≤ e.addr - Config.aperture) && decide (e.addr - Config.aperture < x.off + x.len)) ||
          (isGlobal e.addr && (x.covers (lineOf e.addr)).isSome)))

/-! ## Store buffers -/

/-- Enter a store-buffer entry (08 R147): it is held by the releases that fences have ordered before it (08 R152). -/
def State.enter (s : State) (c : Ctx) (addr : Nat) (p : Payload) (tag : Bool) (holds : List Nat) : Nat × State :=
  let r := s.stamp
  let e (w : Wave) : WEntry :=
    { seq := r.1, wave := c.wi, addr := addr, payload := p, tag := tag, holds := holds ++ w.relHolds, cpol := mCpol c.sp.mode
      read := false, at_ := (s.core c.w.core).clk.toNat, half := none }
  (r.1, r.2.modWave c.wi fun w => { w with wsb := w.wsb ++ [e w] })

/-- The deliveries a scratch store makes to the other members of the mirrored windows it falls in (06 R136). -/
def State.mirror (s : State) (w : Wave) (q addr : Nat) (bs : List Byte) : State :=
  match s.block? w.block with
  | none => s
  | some b =>
    if !(inAperture addr) then s
    else
      let o := addr - Config.aperture
      let ds := (b.mirrors.filter fun m => !m.ended && decide (m.off ≤ o) && decide (o < m.off + m.len)).flatMap fun m =>
        (s.blocks.filter fun e => e.1 != w.block && e.2.launch == b.launch && sectorOf e.2.core == sectorOf b.core).flatMap fun e =>
          (e.2.mirrors.filter fun x => x.id == m.id && x.use == m.use && !x.ended && decide (o - m.off + bs.length ≤ x.len)).map fun _ =>
            ({ seq := q, part := w.part, sec := sectorOf w.core, src := w.block, bind := m.at_, dst := e.1, id := m.id, use := m.use,
               off := o - m.off, bytes := bs } : Delivery)
      { s with deliveries := s.deliveries ++ ds }

/-- Enter a store of a lane. -/
def enterStore (c : Ctx) (mirrors tag : Bool) (holds : List Nat) (s : State) (e : Nat × List Byte) : State :=
  let r := s.enter c e.1 (.store e.2) tag holds
  if mirrors then r.2.mirror c.w r.1 e.1 e.2 else r.2

/-- Of several lanes that store to one address the highest-numbered one counts (06 R111). -/
def lastLanes (ls : List (Nat × Nat)) : List (Nat × Nat) := ls.filter fun e => !(ls.any fun f => f.2 == e.2 && decide (e.1 < f.1))

end Sys2Proof.Machine
end

