-- ==== Sys2Proof/Machine/Perform.lean ====
section
/-! DEFINITION. Writes on their way from a store buffer to their homes (08 R147 to R158): scratch and stash writes, write-backs of
stash lines, performing stores and atomics at H or forwarding them, and the steps DRAIN, PERFORM, FORWARDED_ACCESS, WRITE_BACK,
STASH_FILL, CONSUME, PORT and MW_DELIVERY. -/

namespace Sys2Proof.Machine

/-! ## Pending registers -/

/-- After a pending-write bit cleared: a split at a switch marker goes on once its bits are clear (04 R79), and a trap that waited
for the scoreboards is taken (18 R246). -/
def State.pendDone (s : State) (wi k : Nat) : State :=
  (s.modWave wi fun w =>
    if (w.sbOf k).isEmpty
    then w.modSplit k fun x => if x.park = .marker then { x with park := .none, readyAt := s.seq } else x
    else w).tryTrapEntry wi

/-! ## Write-backs of stash lines (06 R132, R133, 18 R260) -/

/-- The stamps of the newest values a block has read (08 R146). -/
def State.sawAt (s : State) (b asid va q : Nat) : Nat → State
  | 0 => s
  | n + 1 => State.sawAt (s.modBlock b fun x =>
      { x with seen := if (x.seen.find (gkey asid va)).getD 0 < q then x.seen.put (gkey asid va) q else x.seen }) b asid (va + 1) q n

/-- How a write-back of a stash sector ends. -/
inductive Backed where
  | done (s : State)
  /-- the granule is not writable: the line is FAULTED -/
  | refused (s : State)
  /-- held: a walk, Bruin or a shadow comes first -/
  | wait (s : State)

/-- A stash window is the owner of a home line (06 R131). -/
def State.isOwner (s : State) (asid line b i : Nat) : Bool := (s.line? asid line).any fun l => l.owner == some (b, i)

/-- An instruction is parked for release n of a wave and takes its write-back faults (18 R260). -/
def Wave.awaits (w : Wave) (n : Nat) : Bool :=
  w.splits.any fun x : Split => match x.park with
    | .completing _ (.release m .proceed) _ | .completing _ (.release m (.unmap _)) _ | .completing _ (.stash m) _ => m == n
    | _ => false

/-- A stash line's granule is not writable (18 R260): the line is FAULTED; an instruction that waits for it raises WBFAULT, and
every other release counts it as written. -/
def State.refuseLine (s : State) (b i k va : Nat) : State :=
  let hit (r : Release) : Bool := r.stash.any fun x => x.1 == b && x.2.1 == i && x.2.2.1 == k
  let taken := s.waves.any fun e => e.2.releases.any fun r => hit r && e.2.awaits r.n
  let s1 : State := { s with waves := s.waves.map fun e => (e.1, { e.2 with releases := e.2.releases.map fun r =>
    if (hit r) then
      { r with
        stash := r.stash.filter fun x => !(x.1 == b && x.2.1 == i && x.2.2.1 == k)
        fault := if e.2.awaits r.n then r.fault.or (some va) else r.fault }
    else r }) }
  s1.modBlock b fun x =>
    { x.modWindow i (fun w => w.modLine k fun l => { l with faulted := true }) with
      wbFaults := if taken ∨ x.wbFaults.contains va then x.wbFaults else x.wbFaults ++ [va] }

/-- A stash sector has been written back: it is clean, and the releases that wait for it go on; at system scope, and for CWB, the
sector of L2, or the write that has left through a port, comes next (06 R127, 08 Table 8.3). -/
def State.cleanSector (s : State) (asid b i k j line : Nat) (port : Option (Nat × Nat)) : State :=
  let key := (b, i, k, j)
  let inL2 := (s.line? asid line).any fun l => l.dirty.getLsbD j
  let s1 := s.modReleases fun r =>
    if r.stash.contains key then
      { r with
        stash := r.stash.filter (· ≠ key)
        l2 := if 5 ≤ r.scope ∧ inL2 ∧ !(r.l2.contains (lkey asid line, j)) then r.l2 ++ [(lkey asid line, j)] else r.l2
        ports := match port with
          | some (q, tgt) => if (r.scope = 4 ∧ tgt = 2) ∨ 5 ≤ r.scope then q :: r.ports else r.ports
          | none => r.ports }
    else r
  s1.modBlock b fun x =>
    let y := x.modWindow i fun w => w.modLine k fun l =>
      let d := l.dirty &&& ~~~(1#4 <<< j)
      { l with dirty := d, faulted := l.faulted && d != 0, writers := l.writers.filter fun x => x.1 != j }
    let clean := (y.window? i).any fun w => (w.line k).dirty == 0
    { y with wbFaults := if clean then y.wbFaults.filter (· ≠ line * 256) else y.wbFaults }

/-- A sector of a stash line whose home another window or nothing owns has been performed at H as write q: the block has now read its own
stores there at that place of the coherence order (08 R146). -/
def State.stashStamped (s : State) (b asid i k j q : Nat) : State :=
  match (s.block? b).bind fun x => (x.window? i).map fun w => (w.base + 256 * k, w.line k) with
  | none => s
  | some (va, l) =>
    let inSector (o : Nat) : Bool := o / 64 == j
    ((l.read.filter inSector).foldl (fun s o => s.sawAt b asid (va + o) q 1) s).modBlock b fun x => x.modWindow i fun w => w.modLine k fun l =>
      { l with
        filled := (upTo 256).map fun o => if inSector o then q else nth l.filled o 0
        own := l.own.filter fun o => !(inSector o), read := l.read.filter fun o => !(inSector o) }

/-- Write dirty sector j of line k of a window to its home: the owner's own bytes are the home's; another window's are forwarded to
the owner (06 R133). -/
def State.stashBack (s : State) (b i k j : Nat) : Backed :=
  match s.block? b with
  | none => .wait s
  | some x =>
    match x.window? i with
    | none => .wait s
    | some w =>
      if !((w.line k).present && (w.line k).dirty.getLsbD j) then .wait s
      else
        let asid := s.asidOf x.part
        let va := w.base + 256 * k + 64 * j
        match s.access x.core asid va .write with
        | .miss => .wait s
        | .held ipa => .wait ((s.tellBruin x.part x.core asid ipa).dropRight x.core asid va)
        | .denied _ => .refused ((s.dropRight x.core asid va).refuseLine b i k (lineOf va * 256))
        | .granted _ =>
          let line := lineOf va
          let bs := x.scratch.read (w.off + 256 * k + 64 * j) 64
          let ws := ((w.line k).writers.filter fun e => e.1 == j).map (·.2)
          let r := s.stamp
          let done (s1 : State) (port : Option (Nat × Nat)) : Backed := .done (s1.cleanSector asid b i k j line port)
          if (s.shadowDue asid line).isSome then .wait s
          else if s.isOwner asid line b i then
            match s.trans asid va with
            | none => .wait s
            | some t =>
              if t.tgt ≠ 0 then done (r.2.sendPort t asid va bs r.1 r.1 ws) (some (r.1, t.tgt))
              else done ((((r.2.storeLine x.part t asid va bs ws 0).setTag asid line none).sendInvals asid line r.1 ws).markDirty asid va) none
          else if (s.ownerOf asid line).any fun o => !(s.hasRoom o.1 o.2.1 o.2.2.1) then .wait s
          else
            match r.2.homeWrite asid va bs r.1 r.1 ws none 0 with
            | none => .wait s
            | some s1 => done (s1.stashStamped b asid i k j r.1) ((s.viaPort asid va).map fun t => (r.1, t.tgt))

/-- A store that would exceed the owner's share first writes back the owner's oldest dirty line (06 R132); none while that waits. -/
def State.makeRoom (s : State) (b i k : Nat) : Option State :=
  match s.block? b with
  | none => none
  | some x =>
    if s.hasRoom b i k then some s
    else
      match (s.dirtyLines x.part x.core).filter fun d => !d.2.2.2.faulted with
      | [] => some s
      | d :: rest =>
        let o := rest.foldl (fun m e => if e.2.2.2.dirtyAt < m.2.2.2.dirtyAt then e else m) d
        [0, 1, 2, 3].foldl (fun r j => r.bind fun s =>
          if !(o.2.2.2.dirty.getLsbD j) then some s
          else match s.stashBack o.1 o.2.1 o.2.2.1 j with
            | .done s1 => some s1
            | .refused s1 => some s1
            | .wait _ => none) (some s)

/-- Room is made for a write that the home forwards to the stash window that owns its line (06 R131, R132). -/
def State.lineRoom (s : State) (asid va : Nat) : Option State :=
  match s.ownerOf asid (lineOf va) with
  | none => some s
  | some (b, i, k, _) => s.makeRoom b i k

/-- Perform a write at its home, wherever that is, having made room for it. -/
def State.writeHome (s : State) (asid va : Nat) (bs : List Byte) (q born : Nat) (waves : List Nat) (tag : Option Nat) (cpol : Nat) :
    Option State :=
  (s.lineRoom asid va).bind fun s => s.homeWrite asid va bs q born waves tag cpol

/-- Perform an engine's write of any length, line by line; none if some line holds it. -/
def State.engineWrite (s : State) (asid va : Nat) (bs : List Byte) (q : Nat) : Option State :=
  (chunks va bs (bs.length / 256 + 2)).foldl (fun r c => r.bind fun s => s.writeHome asid c.1 c.2 q q [] none 0) (some s)

/-! ## Scratch (06 R112, R131) -/

/-- The window and line that scratch offset o falls in. -/
def Block.stashAt (b : Block) (o : Nat) : Option (Window × Nat) :=
  (b.windows.find? fun w => decide (w.off ≤ o) && decide (o < w.off + w.len)).map fun w => (w, (o - w.off) / 256)

/-- Write bytes that lie in one 256-byte unit of scratch: the stash sectors it dirties; none while the line is ABSENT. A write to
the owner's copy of a home line takes its place in the home order and fires monitors (06 R131, 23 R354). -/
def State.scratchPut (s : State) (b o : Nat) (bs : List Byte) (waves : List Nat) : Option (State × List (Nat × Nat × Nat × Nat)) :=
  match s.block? b with
  | none => none
  | some x =>
    match x.stashAt o with
    | none => some (s.modBlock b fun y => { y with scratch := y.scratch.write o bs }, [])
    | some (w, k) =>
      if !(w.line k).present then none
      else
        match s.makeRoom b w.id k with
        | none => none
        | some s0 =>
          let r := s0.stamp
          let off := (o - w.off) % 256
          let m := sectorMask off bs.length
          let asid := s.asidOf x.part
          let va := w.base + 256 * k + off
          let s1 := r.2.modBlock b fun y => ({ y with scratch := y.scratch.write o bs } : Block).modWindow w.id fun z =>
            z.modLine k fun l => l.soil m r.1 waves
          let s2 := if s.isOwner asid (lineOf va) b w.id then
              ((s1.stampBytes asid va r.1 bs.length).fire asid va bs.length).endSums asid va bs.length
            else s1.modBlock b fun y => y.modWindow w.id fun z => z.modLine k fun l =>
              let bytes := (upTo bs.length).map (off + ·)
              { l with own := bytes.foldl (fun xs o => insertNat o xs) l.own, read := l.read.filter fun o => !(bytes.contains o) }
          some (s2, ([0, 1, 2, 3].filter fun j => m.getLsbD j).map fun j => (b, w.id, k, j))

/-- Write scratch bytes of any length; none while a line is ABSENT. -/
def State.scratchWrite (s : State) (b o : Nat) (bs : List Byte) : Option State :=
  (chunks o bs (bs.length / 256 + 2)).foldl (fun r c => r.bind fun s => (s.scratchPut b c.1 c.2 []).map (·.1)) (some s)

/-- Scratch offset o may be read: it lies in no ABSENT line of a window. -/
def Block.readable (b : Block) (o : Nat) : Bool :=
  match b.stashAt o with
  | none => true
  | some (w, k) => (w.line k).present

/-- Read n scratch bytes; none while a line is ABSENT. -/
def Block.scratchRead (b : Block) (o n : Nat) : Option (List Byte) :=
  if ((upTo (n / 256 + 2)).map fun i => min (o + 256 * i) (o + n - 1)).all b.readable || n == 0 then some (b.scratch.read o n) else none

/-! ## Filling stash lines (06 R131) -/

/-- How a fill ends. -/
inductive Filled where
  | done (s : State)
  /-- stage 1 refuses the read of the line at this address, with this TYPE -/
  | refused (s : State) (va type : Nat)
  | wait (s : State)

/-- Fill line k of a window from its home: the first window to do so owns the line (06 R131, R133). -/
def State.fillStash (s : State) (b i k : Nat) : Filled :=
  match s.block? b with
  | none => .wait s
  | some x =>
    match x.window? i with
    | none => .wait s
    | some w =>
      if (w.line k).present ∨ w.lines.length ≤ k then .wait s
      else
        let asid := s.asidOf x.part
        let va := w.base + 256 * k
        match s.access x.core asid va .read with
        | .miss => .wait s
        | .held ipa => .wait ((s.tellBruin x.part x.core asid ipa).dropRight x.core asid va)
        | .denied t => .refused (s.dropRight x.core asid va) va t
        | .granted _ =>
          match s.homeRead asid va 256 with
          | none => .wait s
          | some bs =>
            let s1 := s.modBlock b fun y =>
              ({ y with scratch := y.scratch.write (w.off + 256 * k) (bs.map (·.1)) } : Block).modWindow i fun z =>
                z.modLine k fun l =>
                  { l with present := true, dirty := 0, faulted := false, parked := none, filled := bs.map (·.2), own := [], read := [] }
            .done ((s1.homeTouch x.part asid va 0).record asid (lineOf va) fun l => if l.owner.isSome then l else { l with owner := some (b, i) })

/-- Fill every ABSENT line that n scratch bytes meet, as an engine's access does; the first refusal or wait ends it. -/
def State.fillRange (s : State) (b o n : Nat) : Filled :=
  ((upTo (n / 256 + 2)).map fun i => min (o + 256 * i) (o + n - 1)).foldl (fun (r : Filled) a =>
    match r with
    | .done s =>
      (match (s.block? b).bind (·.stashAt a) with
       | none => .done s
       | some (w, k) => if (w.line k).present || n == 0 then .done s else s.fillStash b w.id k)
    | r => r) (.done s)

/-! ## Atomics (22 Table 22.3, 08 R156 to R158) -/

/-- f(old, x, e). -/
def atomicValue (a : AtomicReq) (old : Nat) : Nat :=
  let x := a.data.toNat
  let m := 2 ^ (8 * a.width)
  match a.op with
  | .add => if a.type = Ty.f32 then (addElem a.type a.rnd false old x).1 else (old + x) % m
  | .min => (minmaxElem false a.type old x).1
  | .max => (minmaxElem true a.type old x).1
  | .and => Nat.land old x
  | .or => Nat.lor old x
  | .xor => Nat.xor old x
  | .xchg => x
  | .cas => if old = a.expect.toNat then x else old
  | .inc => if x ≤ old then 0 else old + 1

/-- An atomic's old value is returned: its lane is written and its pending-write bit clears (08 R156, 22 R293). -/
def State.atomicReturn (s : State) (wi : Nat) (a : AtomicReq) (old : Nat) : State :=
  match a.ret with
  | none => s
  | some (n, dst) =>
    let put (w : Wave) : Wave := (upTo (a.width / 4)).foldl (fun w i =>
      let x := word (old / 2 ^ (32 * i))
      if dst < 0x80 then w.writeV (dst + i) (laneBit a.lane) fun _ => x else w.writeS (dst - 0x80 + i) x) w
    match (s.wave? wi).bind fun w => w.pend.find? fun p => p.n == n with
    | none => s
    | some p =>
      let left := match p.op with | .atomic ls => ls.filter (· ≠ a.lane) | _ => []
      let s1 := s.modWave wi fun w =>
        { put w with pend := if left.isEmpty then w.pend.filter fun q => q.n != n
            else w.pend.map fun q => if q.n = n then { q with op := .atomic left } else q }
      if left.isEmpty then s1.pendDone wi p.split else s1

/-- The bytes of a block's L1 copies that a performed write reached carry its stamp (08 R146). -/
def State.stampL1 (s : State) (b core asid va n q : Nat) : State :=
  { s with cores := s.cores.modify core fun c => { c with l1 := c.l1.map fun l =>
      if l.block = b ∧ l.asid = asid ∧ l.line = va / 64 then
        { l with bytes := (l.bytes.zip (upTo 64)).map fun e => if va % 64 ≤ e.2 ∧ e.2 < va % 64 + n then (e.1.1, q) else e.1 }
      else l } }

/-- Store a value at a home unless it equals the old one: such an atomic is performed as a read (22 R292), with the effect on L2 that a read
served at H has (06 R121 to R123). -/
def State.homeStore (s : State) (asid : Nat) (e : WEntry) (q width old new : Nat) (waves : List Nat) : Option State :=
  if old = new then some (s.homeTouch ((s.partOfAsid asid).getD 0) asid e.addr e.cpol)
  else s.writeHome asid e.addr (leBytes new width) q e.seq waves none e.cpol

/-- A quantum atomic (08 R157): the increments of its lane, or none when it is not served from a reservation. -/
def quantumStep (a : AtomicReq) : Option Nat :=
  if a.use ≠ 3 then none
  else match a.op with
    | .add => some a.data.toNat
    | .inc => some 1
    | _ => none

/-- A reservation is for an atomic's location and width. -/
def Reservation.isFor (r : Reservation) (key : Nat) (a : AtomicReq) : Bool := r.addr == key && r.wide == (a.width == 8)

/-- The reservation of a block from which an atomic is served (08 R157). -/
def State.reserved (s : State) (b key : Nat) (a : AtomicReq) : Option Reservation :=
  match quantumStep a with
  | none => none
  | some d => ((s.block? b).elim [] (·.resv)).find? fun r => r.isFor key a && decide (d ≤ r.remaining)

/-- The releases of a block at device scope or wider that cover a write (08 R157). -/
def State.coveredBy (s : State) (b q : Nat) : List Nat :=
  s.waves.flatMap fun e => (e.2.releases.filter fun r =>
    r.block == b && (r.scope == 0 || r.scope == 4 || r.scope == 5) && r.seqs.contains q).map (·.n)

/-- Perform an atomic in one step (08 R156, R157), its location holding `old` and `store` replacing that: the returned value and the state;
none while it must wait. -/
def State.serveAtomic (s : State) (b key : Nat) (e : WEntry) (a : AtomicReq) (old : Option Nat) (store : State → Nat → Nat → Option State) :
    Option (Nat × State) :=
  let m := 2 ^ (8 * a.width)
  let gone (s : State) : State := s.modBlock b fun x => { x with resv := x.resv.filter fun r => !(r.isFor key a) }
  match s.reserved b key a, quantumStep a with
  | some r, some d => some (r.next, s.modBlock b fun x => { x with resv := x.resv.map fun y =>
      if (y.isFor key a) then { y with next := (y.next + d) % m, remaining := y.remaining - d } else y })
  | none, some d =>
    old.bind fun o =>
      let grow := a.qsize * ((d + a.qsize - 1) / a.qsize)
      if a.op = .inc ∧ a.data.toNat < o + grow then (store (gone s) o (atomicValue a o)).map fun s1 => (o, s1)
      else (store (gone s) o ((o + grow) % m)).map fun s1 =>
        (o, s1.modBlock b fun x => { x with resv := x.resv ++
          [{ addr := key, next := (o + d) % m, remaining := grow - d, wide := a.width == 8, rels := s.coveredBy b e.seq }] })
  | _, none => old.bind fun o => (store s o (atomicValue a o)).map fun s1 => (o, s1)

/-- Perform an atomic at H. What an unpaired one leaves to be done holds no release up (08 Table 8.7). -/
def State.performAtomic (s : State) (b asid : Nat) (e : WEntry) (a : AtomicReq) (q : Nat) : Option (Nat × State) :=
  s.serveAtomic b (gkey asid e.addr) e a ((s.homeRead asid e.addr a.width).map fun xs => leValue (xs.map (·.1)))
    fun s old new => s.homeStore asid e q a.width old new (if e.counts then [e.wave] else [])

/-! ## Performing at H (08 Table 8.2) -/

/-- An entry's width in bytes. -/
def WEntry.width (e : WEntry) : Nat := match e.payload with | .store bs => bs.length | .atomic a => a.width

/-- What remains to be done for an entry performed at H as write q: the releases that cover it, what the block has read, its L1
stamps, and its place in OQ(b). -/
def State.afterPerform (s : State) (b core asid : Nat) (e : WEntry) (q : Nat) : State :=
  let isRead := e.read || (match e.payload with | .atomic _ => true | .store _ => false)
  let s1 := s.performed e.seq q asid e.addr e.width
  let s2 := if isRead then s1.sawAt b asid e.addr (s.stampOf asid e.addr) e.width else s1
  let s3 := match e.payload with
    | .store _ => s2.stampL1 b core asid e.addr e.width q
    | .atomic _ => s2
  s3.modBlock b fun x => { x with oq := x.oq.filter fun y => y.seq != e.seq }

/-- Perform one entry at H. -/
def State.performEntry (s : State) (b core asid q : Nat) (e : WEntry) : Option State :=
  match e.payload with
  | .store bs =>
    (s.writeHome asid e.addr bs q e.seq [e.wave] (if e.tag then some b else none) e.cpol).map fun s1 => s1.afterPerform b core asid e q
  | .atomic a =>
    (s.performAtomic b asid e a q).map fun r => (r.2.afterPerform b core asid e q).atomicReturn e.wave a r.1

/-- A term of a sum of f32 values: its value, and the RND of its wave unless it is the value before the addends. -/
abbrev Term := Nat × Option Nat

/-- Two terms added, rounded under the RND of one of their waves (08 R158). -/
def Term.add (k : Nat) (x y : Term) : Term :=
  let rnd := match x.2, y.2 with
    | some a, some b => if Config.freeBool k then a else b
    | some a, none | none, some a => a
    | none, none => 0
  ((addElem Ty.f32 rnd false x.1 y.1).1, some rnd)

/-- The sum of terms under an association that the device does not specify (08 R158): from the free value k on, any two are added, until one
is left. -/
def freeSum (k : Nat) : Nat → List Term → Nat
  | 0, ts => (ts.head?).elim 0 (·.1)
  | n + 1, ts =>
    match ts with
    | [] => 0
    | [x] => x.1
    | [x, y] => (Term.add k x y).1
    | _ =>
      let i := Config.freeNat k % ts.length
      let rest := ts.eraseIdx i
      let j := Config.freeNat (k + 1) % rest.length
      freeSum (k + 2) n (Term.add k (nth ts i (0, none)) (nth rest j (0, none)) :: rest.eraseIdx j)

/-- The terms of a record of commute f32 additions. -/
def SumRec.terms (r : SumRec) : List Term := (r.base, none) :: r.adds.map fun a => (a.1, some a.2)

/-- The sum of a record under a free association, and the state that has drawn it. -/
def State.freeSum (s : State) (r : SumRec) : Nat × State :=
  (Machine.freeSum s.free r.adds.length r.terms, { s with free := s.free + 2 * r.adds.length })

/-- Commute f32 additions to one location are performed (08 R158): each returned value, and the value that is left, are those of some
association of the addends since another write to the location (log 10). -/
def State.performSum (s : State) (b core asid q : Nat) (es : List (WEntry × AtomicReq)) : Option State :=
  match es with
  | [] => some s
  | (e0, _) :: _ =>
    let key := gkey asid e0.addr
    (s.homeRead asid e0.addr 4).bind fun xs =>
      let old := leValue (xs.map (·.1))
      let r0 : SumRec := (s.sums.find key |>.filter fun r => r.now == old).getD { base := old, adds := [], now := old }
      let acc := es.foldl (fun (t : State × SumRec × List (WEntry × AtomicReq × Nat)) ea =>
        let v := t.1.freeSum t.2.1
        (v.2, { t.2.1 with adds := t.2.1.adds ++ [(ea.2.data.toNat, ea.2.rnd)] },
          t.2.2 ++ [(ea.1, ea.2, if t.2.2.isEmpty then old else v.1)])) (s, r0, [])
      let v := acc.1.freeSum acc.2.1
      (v.2.homeStore asid e0 q 4 old v.1 (es.map (·.1.wave))).map fun s1 =>
        let s2 : State := { s1 with sums := s1.sums.put key { acc.2.1 with now := v.1 } }
        acc.2.2.foldl (fun s r => (s.afterPerform b core asid r.1 q).atomicReturn r.1.wave r.2.1 r.2.2) s2

/-- Commute f32 additions. -/
def sumOf (es : List WEntry) : Option (List (WEntry × AtomicReq)) :=
  es.foldr (fun e r =>
    match r, e.payload with
    | some xs, .atomic a => if a.use = 2 ∧ a.op = .add ∧ a.type = Ty.f32 then some ((e, a) :: xs) else none
    | _, _ => none) (some [])

/-- Perform entries of a line of OQ(b) together. -/
def State.performAll (s : State) (b core asid : Nat) (es : List WEntry) : Option State :=
  let r := s.stamp
  match es, sumOf es with
  | _ :: _, some xs => r.2.performSum b core asid r.1 xs
  | _, _ => es.foldl (fun t e => t.bind fun s => s.performEntry b core asid r.1 e) (some r.2)

/-! ## Which entries are performed next (06 R115, 08 Table 8.7) -/

/-- Two entries meet in a byte. -/
def WEntry.meets (e f : WEntry) : Bool := decide (e.addr < f.addr + f.width) && decide (f.addr < e.addr + e.width)

/-- A store joins the write that begins with another (06 R115): of the same wave and 64-byte line, issued within 32 cycles of it. DESIGN
CHOICE (log 79): one that a release holds back longer, and STREL's own write, join none. -/
def WEntry.joins (f e : WEntry) : Bool :=
  match f.payload, e.payload with
  | .store _, .store _ => e.wave == f.wave && e.addr / 64 == f.addr / 64 && decide (e.at_ ≤ f.at_ + 32) && !f.tag && !e.tag &&
      e.holds.all f.holds.contains
  | _, _ => false

/-- The stores that merge into one write with those in ms, the first of which is f, among the later entries for the line, and whether the
write is complete: an entry that is not of it and meets its bytes ends it (log 79), so that no byte changes its order. -/
def mergedWith (f : WEntry) : List WEntry → List WEntry → List WEntry × Bool
  | ms, [] => (ms, false)
  | ms, e :: es => if f.joins e then mergedWith f (ms ++ [e]) es else if ms.any e.meets then (ms, true) else mergedWith f ms es

/-- A write or an atomic of a line: its entries, whether all of them have left the store buffer, and whether it may be performed. -/
structure LineWrite where
  entries : List WEntry
  left : Bool
  ready : Bool
deriving DecidableEq, Repr

/-- The writes and atomics of a line, each with its entries: a merged write is performed with the last store that joins it, once no other
can (06 R115). `clk` is the core's CLK, `wsb` the entries of a wave for the line that have not left its store buffer; the entries in
`skip` belong to writes already met. -/
def dueIn (clk : Nat) (wsb : Nat → List WEntry) : List Nat → List WEntry → List LineWrite
  | _, [] => []
  | skip, f :: rest =>
    if skip.contains f.seq then dueIn clk wsb skip rest
    else
      match f.payload with
      | .atomic _ => { entries := [f], left := true, ready := true } :: dueIn clk wsb skip rest
      | .store _ =>
        let g := mergedWith f [f] (rest ++ wsb f.wave)
        let left := g.1.all fun e => e.seq == f.seq || rest.any fun x => x.seq == e.seq
        { entries := g.1, left := left, ready := left && (g.2 || f.tag || decide (f.at_ + 32 < clk)) } ::
          dueIn clk wsb (skip ++ g.1.map (·.seq)) rest

/-- Atomics that may be combined into one perform with the one before them (08 Table 8.7): unpaired ones of one wave, or commute ones of one
operation, on one address. -/
def combines (e0 e : WEntry) : Bool :=
  match e0.payload, e.payload with
  | .atomic a, .atomic c =>
    e.addr == e0.addr && a.width == c.width && a.use == c.use &&
      ((a.use == 1 && e.wave == e0.wave) || (a.use == 2 && a.op == c.op && a.type == c.type))
  | _, _ => false

/-- Where a write stands in a queue: with its last entry, and behind them all while a store that joins it is still in the store buffer. -/
def LineWrite.place (q : List WEntry) (g : LineWrite) : Nat :=
  if g.left then (q.findIdx? fun e => (g.entries.getLast?).any fun x => x.seq == e.seq).getD q.length else q.length

/-- The entries for a line of OQ(b) that are performed next (08 R147: the oldest): a merged write, or an atomic with up to n − 1 that follow
it and combine with it. None while the oldest is a write that another store may still join. -/
def State.due (s : State) (b : Block) (line n : Nat) : List WEntry :=
  let q := b.oq.filter fun e => lineOf e.addr == line
  let wsb (wi : Nat) : List WEntry := ((s.wave? wi).elim [] (·.wsb)).filter fun e => lineOf e.addr == line
  match dueIn (s.core b.core).clk.toNat wsb [] q with
  | [] => []
  | g :: gs =>
    let first := gs.foldl (fun m x => if x.place q < m.place q then x else m) g
    match if first.ready then first.entries else [] with
    | [e] =>
      let more := ((q.dropWhile fun x => x.seq != e.seq).drop 1).take (n - 1)
      if more.all (combines e) then e :: more else [e]
    | es => es

/-! ## Accesses that leave through a port (18 R255) -/

/-- An atomic is performed at its target in one step: a PCIe AtomicOp of the host's, or the peer's own. -/
def AtomicReq.oneStep (a : AtomicReq) (tgt : Nat) : Bool := tgt != 1 || a.op == .add || a.op == .xchg || a.op == .cas

/-- A commute f32 addition to a location of the host or a peer that holds `old`: the location takes the sum, under some association, of the
addends since another write to it (08 R158, log 10). -/
def State.addSum (s : State) (key old : Nat) (a : AtomicReq) (store : State → Nat → Nat → State) : State :=
  let r0 : SumRec := (s.sums.find key |>.filter fun r => r.now == old).getD { base := old, adds := [], now := old }
  let r1 : SumRec := { r0 with adds := r0.adds ++ [(a.data.toNat, a.rnd)] }
  let v := s.freeSum r1
  let s1 := store v.2 old v.1
  { s1 with sums := s1.sums.put key { r1 with now := v.1 } }

/-- Forward one entry to the host or a peer (18 R255): a store joins the port; an atomic waits for the port's writes to its bytes and is then
performed there, in one step or as a read and a write of the line, between which only this device's agents keep away (log 86). -/
def State.forwardEntry (s : State) (b core asid : Nat) (e : WEntry) (r : Right) : Option State :=
  let pa := r.pa + e.addr % 65536
  let gone (s : State) : State := s.modBlock b fun x => { x with oq := x.oq.filter fun y => y.seq != e.seq }
  match e.payload with
  | .store bs =>
    let t := (s.countAccess asid e.addr).stamp
    (t.2.homeWrite asid e.addr bs t.1 e.seq [e.wave] (if e.tag then some b else none) e.cpol).map fun s1 =>
      gone (((s1.forwarded e.seq t.1 r.tgt).sawAt b asid e.addr t.1 (if e.read then bs.length else 0)).stampL1 b core asid e.addr bs.length
        t.1)
  | .atomic a =>
    let inPort := s.portWrites.any fun p => p.tgt == r.tgt && p.peer == r.peer && decide (p.addr < pa + a.width) &&
      decide (pa < p.addr + p.bytes.length)
    let key := gkey asid e.addr
    let old := match e.half with | some h => h.old | none => leValue (s.physRead r.tgt r.peer pa a.width)
    if e.half.isNone ∧ (inPort ∨ s.halfWay r.tgt pa a.width) then none
    else if e.half.isNone ∧ !(a.oneStep r.tgt) ∧ (s.reserved b key a).isNone then
      some ((s.countAccess asid e.addr).modBlock b fun x => { x with oq := x.oq.map fun y =>
        if y.seq = e.seq then { y with half := some { addr := pa, old := old } } else y })
    else
      let s0 := if e.half.isSome then s else s.countAccess asid e.addr
      let store (s : State) (old new : Nat) : State :=
        if old = new then s else (s.physWrite r.tgt r.peer pa (leBytes new a.width)).fire asid e.addr a.width
      let served : Option (Nat × State) := match sumOf [e] with
        | some _ => some (old, s0.addSum (portKey r.tgt r.peer pa) old a store)
        | none => s0.serveAtomic b key e a (some old) fun s old new => some (store s old new)
      served.map fun v => (gone ((v.2.inScratch e.seq).sawAt b asid e.addr v.2.seq a.width)).atomicReturn e.wave a v.1

/-- Perform entries together, or forward each of them. -/
def State.serveEntries (s : State) (b core asid : Nat) (es : List WEntry) : Option State :=
  match (es.head?).bind fun e => s.viaPort asid e.addr with
  | none => s.performAll b core asid es
  | some r => es.foldl (fun t e => t.bind fun s => s.forwardEntry b core asid e r) (some s)

/-- Perform or forward everything in a block's outbound queue, oldest first (08 R155). -/
def State.flushOq (s : State) (b : Nat) : Nat → Option State
  | 0 => some s
  | n + 1 =>
    match s.block? b with
    | none => some s
    | some x =>
      match x.oq with
      | [] => some s
      | e :: _ => (s.serveEntries b x.core (s.asidOf x.part) [e]).bind fun s => State.flushOq s b n

/-- Write back every dirty sector of a block's windows; FAULTED lines count as written (18 R260). None while one waits. -/
def State.flushStash (s : State) (b : Nat) : Option State :=
  ((s.block? b).elim [] fun x => x.dirtyStash b).foldl (fun r x => r.bind fun s =>
    match s.stashBack b x.2.1 x.2.2.1 x.2.2.2 with
    | .done s1 | .refused s1 => some s1
    | .wait _ => none) (some s)

/-- Remote-scope promotion of a block (08 R155): its outbound queue is performed and its stash written back. -/
def State.promote (s : State) (b : Nat) : Option State :=
  (s.flushOq b (2 * (s.block? b).elim 0 (·.oq.length))).bind fun s => s.flushStash b

/-! ## DRAIN (08 R147 to R149) -/

/-- An entry may leave WSB(w): its releases are complete, and every load issued before it has been satisfied (08 R149, R152). -/
def Wave.mayDrain (w : Wave) (e : WEntry) : Bool :=
  e.holds.all (fun n => !(w.releasing n)) && !(w.pend.any fun p => p.unsatisfied && decide (p.n < e.seq))

/-- An entry leaves the store buffer for the scratch: none while a stash line is ABSENT. -/
def State.drainScratch (s : State) (w : Wave) (e : WEntry) (o : Nat) : Option State :=
  match e.payload with
  | .store bs =>
    (s.scratchPut w.block o bs [e.wave]).map fun r => if r.2.isEmpty then r.1.inScratch e.seq else r.1.inStash e.seq r.2
  | .atomic a =>
    match (s.block? w.block).bind fun b => b.scratchRead o a.width with
    | none => none
    | some xs =>
      let old := leValue xs
      let new := atomicValue a old
      if old = new then some ((s.inScratch e.seq).atomicReturn e.wave a old)
      else (s.scratchPut w.block o (leBytes new a.width) [e.wave]).map fun r =>
        (if r.2.isEmpty then r.1.inScratch e.seq else r.1.inStash e.seq r.2).atomicReturn e.wave a old

/-- The filled stash line of a block that covers a global address: window, line, scratch offset of the byte (08 R145 source 2). -/
def Block.stashOf (b : Block) (va : Nat) : Option (Window × Nat × Nat) :=
  b.windows.findSome? fun w =>
    match w.covers (lineOf va) with
    | none => none
    | some k => if (w.line k).present then some (w, k, w.off + 256 * k + va % 256) else none

/-- The block's L1 copy of a line is updated by a store that leaves WSB(w) (06 R114). -/
def State.updateL1 (s : State) (b core asid va : Nat) (bs : List Byte) : State :=
  { s with cores := s.cores.modify core fun c => { c with l1 := c.l1.map fun l =>
      if l.block = b ∧ l.asid = asid ∧ l.line = va / 64 then
        { l with bytes := (l.bytes.zip (upTo 64)).map fun e =>
            if va % 64 ≤ e.2 ∧ e.2 < va % 64 + bs.length then ((bs[e.2 - va % 64]?).getD e.1.1, e.1.2) else e.1 }
      else l } }

/-- An entry for a global line leaves the store buffer: into the block's own stash line, or into OQ(b). -/
def State.drainGlobal (s : State) (w : Wave) (b : Block) (e : WEntry) : Option State :=
  match e.payload, b.stashOf e.addr with
  | .store bs, some (_, _, o) => (s.scratchPut w.block o bs [e.wave]).map fun r => r.1.inStash e.seq r.2
  | p, _ =>
    let s1 := match p with
      | .store bs => s.updateL1 w.block w.core (s.asidOf w.part) e.addr bs
      | .atomic _ => s
    some ((s1.modBlock w.block fun x => { x with oq := x.oq ++ [e] }).leftWsb e.seq)

/-- DRAIN: the oldest entry for a line leaves WSB(w). -/
def execDrain (wi line : Nat) (s : State) : Host.Outcome State Fault Refusal :=
  match s.wave? wi with
  | none => .next s
  | some w =>
    match w.wsb.find? fun e => lineOf e.addr == line, s.block? w.block with
    | some e, some b =>
      if !(w.mayDrain e) then .next s
      else
        let s0 := s.modWave wi fun x => { x with wsb := x.wsb.filter fun y => y.seq != e.seq }
        let r := if inAperture e.addr then s0.drainScratch w e (e.addr - Config.aperture) else s0.drainGlobal w b e
        .next ((r.map State.settleReleases).getD s)
    | _, _ => .next s

/-! ## PERFORM and FORWARDED_ACCESS -/

/-- PERFORM: the write of a line of OQ(b) that comes next is performed at H, or up to n atomics combined where that is allowed. -/
def execPerform (b line n : Nat) (s : State) : Host.Outcome State Fault Refusal :=
  match s.block? b with
  | none => .next s
  | some x =>
    let asid := s.asidOf x.part
    match s.due x line n with
    | [] => .next s
    | e :: es =>
      if (s.viaPort asid e.addr).isSome then .next s
      else .next (((s.performAll b x.core asid (e :: es)).map State.settleReleases).getD s)

/-- FORWARDED_ACCESS (18 R255): the write of a line of OQ(b) that comes next goes to the host or to the owning peer. -/
def execForwardedAccess (b line _n : Nat) (s : State) : Host.Outcome State Fault Refusal :=
  match s.block? b with
  | none => .next s
  | some x =>
    let asid := s.asidOf x.part
    match s.due x line 1 with
    | [] => .next s
    | e :: es =>
      if (s.viaPort asid e.addr).isNone then .next s
      else .next (((s.serveEntries b x.core asid (e :: es)).map State.settleReleases).getD s)

/-! ## The other steps of 08 Table 8.2 -/

/-- CONSUME: the head of IQ(S) is consumed, and the copy it names is dropped. -/
def execConsume (sec : Nat) (s : State) : Host.Outcome State Fault Refusal :=
  match s.invals.find? fun m => m.sec == sec with
  | none => .next s
  | some m => .next ((s.consumeWhere fun x => x == m).tidyLine m.asid m.line).settleReleases

/-- The fault record of a stash window's fill or write-back: ENGINE 8 (18 Table 18.3). -/
def stashFault (s : State) (x : Block) (va type kind tag : Nat) : FaultRec :=
  { va := va, pc := 0, lanes := 0, token := tag, asid := s.asidOf x.part, type := type, kind := kind, engine := 8 * 4096 + x.core }

/-- At the end of its block a write-back that meets a fault is an engine write of its own: it parks with a record (18 R260, log 72). -/
def State.parkBack (s : State) (b i k : Nat) : State :=
  match s.block? b with
  | none => s
  | some x =>
    match x.window? i with
    | none => s
    | some w =>
      let r := s.takeTag x.part
      let s1 := r.2.modBlock b fun y => y.modWindow i fun z => z.modLine k fun l => { l with parked := some r.1 }
      s1.modPart x.part fun p => { p with faults := p.faults ++ [stashFault s x (w.base + 256 * k) 4 7 r.1] }

/-- Every wave of a block has exited. -/
def State.wavesGone (s : State) (b : Block) : Bool := b.waves.all fun wi => (s.wave? wi).all fun w => w.exited

/-- Release the ownership that a window has at the homes (06 R131). -/
def State.disown (s : State) (b i : Nat) : State :=
  { s with lines := s.lines.map fun e => if e.2.owner = some (b, i) then (e.1, { e.2 with owner := none }) else e }

/-- Unmap a window: its lines are written back, its ownership ends, its scratch bytes stay (06 R134). -/
def State.unmapWindow (s : State) (b i : Nat) : State :=
  (s.disown b i).modBlock b fun x => { x with windows := x.windows.filter fun w => w.id != i }

/-- The deliveries that a block's ended bindings have sent are performed: those bindings are gone (06 R137). -/
def State.freeMirrors (s : State) (b : Nat) : State :=
  let held (m : MirrorBind) : Bool := !m.ended || s.deliveries.any fun d => d.src == b && d.bind == m.at_
  s.modBlock b fun x => { x with mirrors := x.mirrors.filter held }

/-- The end of a block (06 R132, R134, R137): once its waves have exited, windows with nothing dirty are unmapped, and with the last
one the block has exited; its bindings end. -/
def State.tryEndBlock (s : State) (b : Nat) : State :=
  match s.block? b with
  | none => s
  | some x =>
    if x.exited ∨ !(s.wavesGone x) then s
    else
      let clean := x.windows.filter fun w => w.lines.all fun l => l.dirty == 0
      let s0 := clean.foldl (fun s w => s.unmapWindow b w.id) s
      let s1 := if (s0.block? b).any fun y => y.windows.isEmpty then s0.freeRoom x.core else s0
      (s1.modBlock b fun y => { y with exited := y.windows.isEmpty, mirrors := y.mirrors.map fun m => { m with ended := true } }).freeMirrors
        b

/-- WRITE_BACK: a dirty stash sector to its home (06 R132), or a dirty L2 sector to PT; a pinned line's only for a release or CWB
(06 R123). -/
def execWriteBack (place : WritePlace) (s : State) : Host.Outcome State Fault Refusal :=
  match place with
  | .stash b i k j =>
    (match s.block? b with
     | none => .next s
     | some x =>
       if (x.window? i).any fun w => (w.line k).parked.isSome then .next s
       else match s.stashBack b i k j with
         | .done s1 => .next (s1.settleReleases.tryEndBlock b)
         | .refused s1 => .next (if s1.wavesGone x then (s1.parkBack b i k).settleReleases else s1.settleReleases)
         | .wait s1 => .next s1)
  | .home asid line k =>
    match s.line? asid line with
    | none => .next s
    | some l =>
      let asked := s.waves.any fun e => e.2.releases.any fun r => r.l2.contains (lkey asid line, k)
      if 4 ≤ k ∨ !(l.dirty.getLsbD k) ∨ (l.pinned ∧ !asked) then .next s else .next (s.sectorDone asid line k).settleReleases

/-- An access of the block waits for line k of a window: a store-buffer entry or an issued load for its scratch bytes. -/
def State.wantsLine (s : State) (b : Nat) (w : Window) (k : Nat) : Bool :=
  let lo := Config.aperture + w.off + 256 * k
  let hit (a : Nat) : Bool := decide (lo ≤ a) && decide (a < lo + 256)
  (s.waves.any fun e => e.2.block == b && (e.2.wsb.any (fun x => hit x.addr) || e.2.pend.any fun p => match p.op with
    | .load l => l.lanes.any fun x => x.got.isNone && hit x.addr
    | _ => false)) ||
  s.deliveries.any fun d => d.dst == b &&
    (((s.block? b).elim [] (·.mirrors)).any fun m => m.id == d.id && m.use == d.use && hit (Config.aperture + m.off + d.off))

/-- Fill an ABSENT line for an access of its block's waves; a fault parks the fill with a record of ENGINE 8 (18 R257). -/
def State.fillFor (s : State) (b i k : Nat) : State :=
  match s.block? b with
  | none => s
  | some x =>
    match x.window? i with
    | none => s
    | some w =>
      if (w.line k).parked.isSome then s
      else
        match s.fillStash b i k with
        | .done s1 | .wait s1 => s1
        | .refused s1 va t =>
          let r := s1.takeTag x.part
          let s2 := r.2.modBlock b fun y => y.modWindow i fun z => z.modLine k fun l => { l with parked := some r.1 }
          s2.modPart x.part fun p => { p with faults := p.faults ++ [stashFault s x va t 5 r.1] }

/-- STASH_FILL: the first scratch access to an ABSENT line fetches it from its home; a fault parks the fill with a record. -/
def execStashFill (b i k : Nat) (s : State) : Host.Outcome State Fault Refusal :=
  match (s.block? b).bind (·.window? i) with
  | none => .next s
  | some w => if s.wantsLine b w k then .next (s.fillFor b i k) else .next s

/-- The first ABSENT line of a block's windows that n scratch bytes meet: window and line. -/
def Block.absentIn (b : Block) (o n : Nat) : Option (Nat × Nat) :=
  if n = 0 then none
  else ((upTo (n / 256 + 2)).map fun i => min (o + 256 * i) (o + n - 1)).findSome? fun a =>
    match b.stashAt a with
    | none => none
    | some (w, k) => if (w.line k).present then none else some (w.id, k)

/-- The store of a delivery has left its wave's store buffer: the issuer's own scratch has it. -/
def State.storeLeft (s : State) (d : Delivery) : Bool := !(s.waves.any fun e => e.2.wsb.any fun x => x.seq == d.seq)

/-- MW_DELIVERY (06 R136): the oldest delivery from one block to another is written to the member's scratch, if its binding is
still of that use (21 R280). -/
def execMwDelivery (src dst : Nat) (s : State) : Host.Outcome State Fault Refusal :=
  match s.deliveries.find? fun d => d.src == src && d.dst == dst with
  | none => .next s
  | some d =>
    if !(s.storeLeft d) then .next s
    else
      let s0 := ({ s with deliveries := s.deliveries.erase d } : State).freeMirrors src
      match ((s.block? dst).elim [] (·.mirrors)).find? fun m => m.id == d.id && m.use == d.use && decide (m.at_ < d.seq) with
      | none => .next s0
      | some m => if m.len < d.off + d.bytes.length then .next s0 else .next ((s0.scratchWrite dst (m.off + d.off) d.bytes).getD s)

end Sys2Proof.Machine
end

