-- ==== Sys2Proof/Machine/Read.lean ====
section
/-! DEFINITION. Where a load takes its value from (08 R145, R146, R149), and the steps SATISFY, FILL_L1, FILL_COPY and EVICT. -/

namespace Sys2Proof.Machine

/-! ## Sources (08 R145) -/

/-- Which source a byte comes from. -/
inductive Src where
  /-- a store-buffer entry of the wave, by stamp -/
  | wsb (seq : Nat)
  /-- scratch -/
  | scratch
  /-- a filled stash line of the block, with the byte's home stamp; none for the block's own store that has not been written back -/
  | stash (stamp : Option Nat)
  /-- an entry of OQ(b), by stamp -/
  | oq (seq : Nat)
  /-- an L1 copy, with the byte's home stamp -/
  | l1 (stamp : Nat)
  /-- a sector copy, with the byte's home stamp -/
  | copy (stamp : Nat)
  /-- H, with the byte's home stamp -/
  | home (stamp : Nat)
deriving DecidableEq, Repr

/-- The newest entry of a buffer that holds a byte. -/
def newestFor (es : List WEntry) (va : Nat) : Option WEntry :=
  es.foldl (fun r e => if e.addr ≤ va ∧ va < e.addr + e.width then some e else r) none

/-- A byte of an entry: none while it is an atomic's (08 R145). -/
def WEntry.byteAt (e : WEntry) (va : Nat) : Option Byte :=
  match e.payload with
  | .store bs => bs[va - e.addr]?
  | .atomic _ => none

/-- The newest home stamp the block has read for a byte (08 R146). -/
def Block.seenAt (b : Block) (asid va : Nat) : Nat := (b.seen.find (gkey asid va)).getD 0

/-- The block's L1 copy of a 64-byte line. -/
def Core.l1Of (c : Core) (b asid line : Nat) : Option L1Line :=
  c.l1.find? fun l => l.block == b && l.asid == asid && l.line == line

/-- A sector's copy of a 256-byte line. -/
def State.copyOf (s : State) (sec asid line : Nat) : Option Copy :=
  s.copies.find? fun c => c.sec == sec && c.asid == asid && c.line == line

/-- A byte of a copy, unless it is older than what the block has read (08 R146). -/
def freshByte (bs : List (Byte × Nat)) (i seen : Nat) : Option (Byte × Nat) :=
  match bs[i]? with
  | none => none
  | some x => if seen ≤ x.2 then some x else none

/-- The home of a line lies outside a sector (06 R118): peers' lines do. -/
def State.homedOutside (s : State) (p asid line sec : Nat) : Bool :=
  s.homeSector p line != sec || (s.trans asid (line * 256)).any fun r => r.tgt == 2

/-- Sources 4 to 6 of 08 R145 for a byte. -/
def State.sharedSource (s : State) (w : Wave) (b : Block) (va : Nat) : Option (Byte × Src) :=
  let asid := s.asidOf w.part
  let seen := b.seenAt asid va
  let sec := sectorOf w.core
  match ((s.core w.core).l1Of w.block asid (va / 64)).bind fun l => freshByte l.bytes (va % 64) seen with
  | some x => some (x.1, .l1 x.2)
  | none =>
    match (if s.homedOutside w.part asid (lineOf va) sec then (s.copyOf sec asid (lineOf va)).bind fun c => freshByte c.bytes (va % 256) seen
        else none) with
    | some x => some (x.1, .copy x.2)
    | none => (s.homeByte asid va).map fun x => (x.1, .home x.2)

/-- Where a load reads its bytes, besides the wave's own store buffer. -/
structure ReadAt where
  /-- stamp of the load -/
  n : Nat
  /-- ACQR reads at H (08 R155) -/
  home : Bool
  /-- bytes that an atomic of the wave preceded: after it they come from H (08 R145) -/
  bytes : List Nat

/-- Byte i of a load is the home's: for one that an atomic of the wave preceded, stash lines and OQ(b) do not count either. -/
def ReadAt.after (r : ReadAt) (i : Nat) : Bool := r.bytes.contains i

/-- A byte from H (log 28). -/
def State.fromHome (s : State) (w : Wave) (va : Nat) : Option (Byte × Src) :=
  (s.homeByte (s.asidOf w.part) va).map fun x => (x.1, .home x.2)

/-- An atomic of the wave on a byte is still in OQ(b). -/
def Block.atomicDue (b : Block) (wi va : Nat) : Bool :=
  b.oq.any fun e => e.wave == wi && decide (e.addr ≤ va) && decide (va < e.addr + e.width) &&
    (match e.payload with | .atomic _ => true | .store _ => false)

/-- The home stamp of a byte of a filled stash line (08 R146): H's, where the window owns the line; else that of the fill, and none for a
store of the block's since then (06 R133). -/
def State.stashStamp (s : State) (w : Wave) (x : Window) (k va : Nat) : Option Nat :=
  let asid := s.asidOf w.part
  if s.isOwner asid (lineOf va) w.block x.id then some (s.stampOf asid va)
  else if (x.line k).own.contains (va % 256) then none
  else some (nth (x.line k).filled (va % 256) 0)

/-- The value of byte i of a load (08 R145): entries the wave issued after the load do not count (log 18). None: the load waits. DESIGN
CHOICE (log 81): a load whose newest write in OQ(b) is an atomic waits until that is performed, as R145 says of one in WSB(w), and then has
its sources 4 to 6. -/
def State.source (s : State) (wi : Nat) (w : Wave) (b : Block) (r : ReadAt) (i va : Nat) : Option (Byte × Src) :=
  match newestFor (w.wsb.filter fun e => decide (e.seq < r.n)) va with
  | some e => (e.byteAt va).map fun x => (x, .wsb e.seq)
  | none =>
    if inAperture va then
      let o := va - Config.aperture
      if b.readable o then some (b.scratch.get o, .scratch) else none
    else if r.after i then (if b.atomicDue wi va then none else s.fromHome w va)
    else
      match b.stashOf va with
      | some (x, k, o) => some (b.scratch.get o, .stash (s.stashStamp w x k va))
      | none =>
        match newestFor b.oq va with
        | some e => (e.byteAt va).map fun x => (x, .oq e.seq)
        | none => if r.home then s.fromHome w va else s.sharedSource w b va

/-- The sources of n bytes from byte i of a load on. -/
def State.sources (s : State) (wi : Nat) (w : Wave) (b : Block) (r : ReadAt) (i va : Nat) : Nat → Option (List (Byte × Src))
  | 0 => some []
  | n + 1 =>
    match s.source wi w b r i va, s.sources wi w b r (i + 1) (va + 1) n with
    | some x, some xs => some (x :: xs)
    | _, _ => none

/-- How a lane of a load reads. -/
def LoadOp.readAt (l : LoadOp) (n : Nat) (x : LaneLoad) : ReadAt := { n := n, home := l.promote, bytes := x.atHome }

/-- A byte comes from H. -/
def Src.isHome : Src → Bool
  | .home _ => true
  | _ => false

/-- A byte comes from a sector's copy. -/
def Src.isCopy : Src → Bool
  | .copy _ => true
  | _ => false

/-! ## What a read leaves behind -/

/-- A sector copy that serves a load is used: an allocating policy raises its priority (06 R118, R122). -/
def State.useCopy (s : State) (sec asid line : Nat) (prio : Option Nat) : State :=
  { s with copies := s.copies.map fun c =>
      if c.sec = sec ∧ c.asid = asid ∧ c.line = line then
        { c with used := s.seq, prio := match prio with | some p => max c.prio p | none => c.prio }
      else c }

/-- A read-only copy of a line is made in its copy slice of a sector from H (06 R118): in at most 4 ways of its set, unless the set is
all pinned. The home records it; a peer's line has its home there. -/
def State.makeCopy (s : State) (p sec asid line prio : Nat) : State :=
  let k := lkey asid line
  match s.copySlice p sec line, s.trans asid (line * 256), s.homeRead asid (line * 256) 256 with
  | some sl, some r, some xs =>
    if r.tgt = 1 ∨ s.setPinned sl k then s
    else
      let s0 := s.dropCopy sec k
      match s0.freeWay sl (setOf k) (s0.copyWays sl (setOf k)) with
      | none => s
      | some (w, s1) =>
        let c : Copy := { sec := sec, asid := asid, line := line, bytes := xs, peer := r.tgt == 2, way := w, prio := prio, used := s.seq }
        let s2 : State := { s1 with copies := s1.copies ++ [c] }
        if r.tgt = 2 then s2 else s2.record asid line fun l => { l with copies := insertNat sec l.copies }
  | _, _, _ => s

/-- Remember what a load has read (08 R146): values not yet at H carry no stamp, so their entries are marked, as is a byte of a stash line
that the block has stored. A load at a scratch address reads no global byte (log 97). -/
def State.noteRead (s : State) (wi b asid va : Nat) (xs : List (Byte × Src)) : State :=
  (xs.zip (upTo xs.length)).foldl (fun s e =>
    match e.1.2 with
    | .wsb q => s.modWave wi fun w => { w with wsb := w.wsb.map fun y => if y.seq = q then { y with read := true } else y }
    | .oq q => s.modBlock b fun x => { x with oq := x.oq.map fun y => if y.seq = q then { y with read := true } else y }
    | .l1 q | .copy q | .home q => s.sawAt b asid (va + e.2) q 1
    | .stash (some q) => s.sawAt b asid (va + e.2) q 1
    | .stash none => s.modBlock b fun x =>
      match x.stashOf (va + e.2) with
      | some (w, k, _) => x.modWindow w.id fun z => z.modLine k fun l => { l with read := insertNat ((va + e.2) % 256) l.read }
      | none => x
    | .scratch => s) s

/-! ## Copies -/

/-- The bytes of a 64-byte line as a fill takes them: from a sector copy that is new enough for the block throughout, else from H,
with the block's outbound stores applied (08 Table 8.2, R146). -/
def State.fillBytes (s : State) (b : Block) (asid line : Nat) : Option (List (Byte × Nat)) :=
  let va := line * 64
  let sec := sectorOf b.core
  let fromCopy : Option (List (Byte × Nat)) :=
    if s.homedOutside b.part asid (lineOf va) sec then
      (s.copyOf sec asid (lineOf va)).bind fun c =>
        let xs := (c.bytes.drop (va % 256)).take 64
        if (xs.zip (upTo 64)).all fun e => decide (b.seenAt asid (va + e.2) ≤ e.1.2) then some xs else none
    else none
  (fromCopy.or (s.homeRead asid va 64)).map fun xs => (xs.zip (upTo 64)).map fun e =>
    match newestFor (b.oq.filter fun o => (match o.payload with | .store _ => true | .atomic _ => false)) (va + e.2) with
    | some o => ((o.byteAt (va + e.2)).getD e.1.1, e.1.2)
    | none => e.1

/-- The lines of an owner in the L1 of a core, each once. -/
def State.l1Lines (s : State) (p core : Nat) : List (Nat × Nat) :=
  (s.core core).l1.foldl (fun xs l =>
    if ((s.block? l.block).any fun b => b.part == p) && !(xs.contains (l.asid, l.line)) then xs ++ [(l.asid, l.line)] else xs) []

/-- DESIGN CHOICE (log 15): the set of a line in L1, one of the 256 that 256 KiB in 16 ways of 64 bytes make. -/
def l1SetOf (asid line : Nat) : Nat := Config.l1Set (asid * two64 + line) % 256

/-- A way of an owner for a line in the L1 of a core (01 R7, 06 R114): it has as many in each set as its share gives; when they are all in
use a line of its own leaves, which one the manual does not say. -/
def State.l1Room (s : State) (p core asid line ways : Nat) : State :=
  let xs := s.l1Lines p core
  let set := xs.filter fun x => l1SetOf x.1 x.2 == l1SetOf asid line
  if xs.contains (asid, line) ∨ set.length < ways then s
  else
    let v := nth set (Config.freeNat s.free % set.length) (0, 0)
    s.drawn.modCore core fun c => { c with l1 := c.l1.filter fun l =>
      !(l.asid == v.1 && l.line == v.2 && (s.block? l.block).any fun b => b.part == p) }

/-- Make the block's L1 copy of a line, in the ways its owner has in the core (06 R114). -/
def State.fillL1 (s : State) (bi line : Nat) : Option State :=
  match s.block? bi with
  | none => none
  | some b =>
    let asid := s.asidOf b.part
    let ways := ((s.part b.part).shareIn b.core).elim 0 (·.l1w)
    if ways = 0 then none
    else
      match s.access b.core asid (line * 64) .read with
      | .granted r =>
        if r.attr ≠ 0 then none
        else (s.fillBytes b asid line).map fun xs => (s.l1Room b.part b.core asid line ways).modCore b.core fun c =>
          { c with l1 := c.l1.filter (fun l => !(l.block == bi && l.asid == asid && l.line == line)) ++
              [{ block := bi, asid := asid, line := line, bytes := xs }] }
      | _ => none

/-- What serving a load from beyond L1 does (06 R114, R117, R118, R121): at H the line is fetched, and copied into the wave's sector where it
has its home outside; a sector copy is used; and L1 takes the line in; each where the load's policy allocates there. -/
def State.served (s : State) (w : Wave) (va cpol : Nat) (xs : List (Byte × Src)) : State :=
  let asid := s.asidOf w.part
  let line := lineOf va
  let sec := sectorOf w.core
  let attr := (s.right? w.core asid va).elim 0 (·.attr)
  let prio := l2Prio cpol attr
  let atHome := xs.any fun e => e.2.isHome
  let atCopy := xs.any fun e => e.2.isCopy
  let s1 := if atHome then s.homeTouch w.part asid va cpol else s
  let s2 := if atCopy then s1.useCopy sec asid line prio else s1
  let s3 := match prio with
    | some p => if atHome && s.homedOutside w.part asid line sec then s2.makeCopy w.part sec asid line p else s2
    | none => s2
  if (atHome || atCopy) && l1Alloc cpol attr then (s3.fillL1 w.block (va / 64)).getD s3 else s3

/-! ## SATISFY -/

/-- The register writes of a load whose lanes all have their values (06 R110). -/
def LoadOp.writes (l : LoadOp) : List RegWrite :=
  let raw (x : LaneLoad) : Nat := leValue (x.got.getD [])
  let ext (v : Nat) : Nat :=
    if l.signed ∧ l.width < 4 ∧ 2 ^ (8 * l.width - 1) ≤ v then v + 4294967296 - 2 ^ (8 * l.width) else v
  let val (k : Nat) (x : LaneLoad) : Word := word (ext (raw x) / 2 ^ (32 * k))
  let n := max 1 (l.width / 4)
  if l.dst < 0x80 then
    (upTo n).map fun k => .v (l.dst + k) (l.lanes.foldl (fun m x => m ||| laneBit x.lane) 0)
      (Vector.ofFn fun i => ((l.lanes.find? fun x => x.lane == i.val).map (val k)).getD 0)
  else (upTo n).map fun k => .s (l.dst - 0x80 + k) ((l.lanes.head?.map (val k)).getD 0)

/-- A load may be satisfied (08 R149, R151): no earlier acquire of the wave is outstanding, no load of the split from before its last acquire
is unsatisfied, and no earlier load of the split awaits the same bytes. -/
def Wave.maySatisfy (w : Wave) (p : Pend) (after width va : Nat) : Bool :=
  !(w.acquires.any fun a => decide (a.seq < p.n)) &&
  !(w.pend.any fun q => q.split == p.split && decide (q.n < after) && q.unsatisfied) &&
  !(w.pend.any fun q => decide (q.n < p.n) && match q.op with
    | .load l => l.acq.isSome || (q.split == p.split &&
        l.lanes.any fun x => x.got.isNone && decide (x.addr < va + width) && decide (va < x.addr + l.width))
    | _ => false)

/-- The block whose writes ACQR's read of a line promotes (08 R155): the tag's, or the owning window's, unless the issuer's. -/
def State.promotes (s : State) (b asid line : Nat) : Option Nat :=
  match s.line? asid line with
  | none => none
  | some l =>
    match (l.owner.map (·.1)).or l.lt with
    | some q => if q = b then none else some q
    | none => none

/-- A lane's value arrives: the load becomes a result once every lane has its value, and its acquire acts then (08 R151). -/
def State.laneGot (s : State) (wi n lane : Nat) (bs : List Byte) : State :=
  match s.wave? wi with
  | none => s
  | some w =>
    let put (l : LoadOp) : LoadOp := { l with lanes := l.lanes.map fun x => if x.lane = lane then { x with got := some bs } else x }
    let finished (l : LoadOp) : Bool := l.lanes.all fun x => x.got.isSome
    let s1 := s.setWave wi { w with pend := w.pend.map fun p =>
      if p.n ≠ n then p
      else match p.op with
        | .load l => { p with op := if finished (put l) then .ready (put l).writes else .load (put l) }
        | _ => p }
    match (w.pend.find? fun p => p.n == n).map (fun p : Pend => p.op) with
    | some (.load l) =>
      if finished (put l) then
        (match l.acq with | some sc => s1.acquireAt wi sc false | none => s1).settleAcquires wi
      else s1
    | _ => s1

/-- A lane of a load takes the values of its sources now. -/
def State.satisfyLane (s : State) (wi n : Nat) (l : LoadOp) (x : LaneLoad) : Option State :=
  match s.wave? wi with
  | none => none
  | some w =>
    match s.block? w.block with
    | none => none
    | some b =>
      (s.sources wi w b (l.readAt n x) 0 x.addr l.width).map fun xs =>
        let asid := s.asidOf w.part
        ((s.served w x.addr l.cpol xs).noteRead wi w.block asid x.addr xs).laneGot wi n x.lane (xs.map (·.1))

/-- The state in which a lane's value is taken: ACQR's read at a home tagged by another block promotes that block first (08 R155).
None: the load waits. -/
def State.beforeRead (s : State) (wi : Nat) (w : Wave) (b : Block) (n : Nat) (l : LoadOp) (x : LaneLoad) : Option State :=
  match s.sources wi w b (l.readAt n x) 0 x.addr l.width with
  | none => none
  | some xs =>
    match (if l.promote ∧ xs.any (fun e => e.2.isHome) then s.promotes w.block (s.asidOf w.part) (lineOf x.addr) else none) with
    | some q => (s.promote q).map State.settleReleases
    | none => some s

/-- SATISFY: a lane of an issued load takes its value. -/
def execSatisfy (wi n lane : Nat) (s : State) : Host.Outcome State Fault Refusal :=
  match s.wave? wi with
  | none => .next s
  | some w =>
    match w.pend.find? fun p => p.n == n, s.block? w.block with
    | some p, some b =>
      (match p.op with
       | .load l =>
         match l.lanes.find? fun x => x.lane == lane && x.got.isNone with
         | none => .next s
         | some x =>
           if !(w.maySatisfy p l.after l.width x.addr) then .next s
           else .next (((s.beforeRead wi w b n l x).bind fun s1 => s1.satisfyLane wi n l x).getD s)
       | _ => .next s)
    | _, _ => .next s

/-- FILL_L1. -/
def execFillL1 (b line : Nat) (s : State) : Host.Outcome State Fault Refusal := .next ((s.fillL1 b line).getD s)

/-- FILL_COPY (06 R118, 08 Table 8.2): a copy of a line is made in a sector that its home lies outside. -/
def execFillCopy (sec asid line : Nat) (s : State) : Host.Outcome State Fault Refusal :=
  match s.partOfAsid asid, s.trans asid (line * 256) with
  | some p, some r =>
    match l2Prio 0 r.attr with
    | some prio => if sec < Config.sectors ∧ s.homedOutside p asid line sec then .next (s.makeCopy p sec asid line prio) else .next s
    | none => .next s
  | _, _ => .next s

/-- A home line is the victim of its set, every way of which is in use (06 R122). -/
def State.isVictim (s : State) (k : Nat) : Bool :=
  let xs := s.occupants (s.keySlice k) (setOf k)
  decide (16 ≤ xs.length) && (victimOf xs).any fun v => v.copy.isNone && v.key == k

/-- EVICT: an L1 copy, a sector copy, the home line that is its set's victim, a line of the SRAM caches or a bundle of an instruction cache is
dropped. -/
def execEvict (place : CachePlace) (s : State) : Host.Outcome State Fault Refusal :=
  match place with
  | .l1 c p asid line => .next { s with cores := s.cores.modify c fun x =>
      { x with l1 := x.l1.filter fun l => !(l.asid == asid && l.line == line && (s.block? l.block).any fun b => b.part == p) } }
  | .copy sec asid line => .next (s.dropCopy sec (lkey asid line))
  | .home asid line => .next (if s.isVictim (lkey asid line) then (s.evictHome asid line).settleReleases else s)
  | .sram line => .next (s.ptEvict line)
  | .code c asid bundle =>
    .next { s with cores := s.cores.modify c fun x => { x with icache := x.icache.drop (ckey asid (bundle * 32)) } }

end Sys2Proof.Machine
end

