-- ==== Sys2Proof/Machine/Load.lean ====
section
/-! DEFINITION. The loads (06 R110, 22 to 24), the acquiring loads (08 R153, R155), and the cache-maintenance words (06 R124 to
R128). -/

namespace Sys2Proof.Machine

/-! ## Issuing a load -/

/-- The operand code of a register. -/
def regCode : Operand → Nat
  | .v r => r.val
  | .s r => 0x80 + r.val
  | .p r => 0xC0 + r.val
  | .h r => 0xC8 + r.val
  | _ => 0

/-- A register group's codes. -/
def groupCodes (d : Operand) (n : Nat) : List Nat := (upTo n).map (regCode d + ·)

/-- The bytes of a load whose newest entry in WSB(w) is an atomic: such a load waits for it and then takes them from H (08 R145). -/
def Wave.behindAtomic (w : Wave) (va width : Nat) : List Nat :=
  (upTo width).filter fun i => match newestFor w.wsb (va + i) with
    | some e => (match e.payload with | .atomic _ => true | .store _ => false)
    | none => false

/-- The load is issued: its registers are pending until its values have come and travelled back (04 R78, 08 R147). An acquiring one stands between the loads of
its split before and after it (08 R149). -/
def addLoad (c : Ctx) (d : Operand) (width : Nat) (acq : Option Nat) (promote : Bool) (s : State) (ls : List (Nat × Nat)) : State :=
  if ls.isEmpty then s
  else
    let r := s.stamp
    let l : LoadOp := { seq := r.1, after := c.sp.acq, width := width, dst := regCode d, signed := mType c.sp.mode == Ty.i32, cpol := mCpol c.sp.mode
                        lanes := ls.map fun e => { lane := e.1, addr := e.2, atHome := c.w.behindAtomic e.2 width, got := none }, acq := acq, promote := promote }
    let p : Pend := { n := r.1, split := c.sp.num, codes := groupCodes d (max 1 (width / 4)), op := .load l }
    let s1 := r.2.modWave c.wi fun w => { w with pend := w.pend ++ [p] }
    if acq.isSome then s1.modSplit c.wi c.sp.num fun x => { x with acq := r.1 } else s1

/-- A load: its lanes are checked together (18 R249), then issued. -/
def loadWord (i : Instr) (d a b : Operand) (width : Nat) (acq : Ctx → Option Nat) (promote : Bool) (s : State) :
    Host.Outcome State Fault Refusal :=
  wordOf i {} (fun c s =>
    let uniform := !(isV d)
    let ls := accessLanes c uniform a b
    withLanes c s uniform width false .read 0 ls fun s => .ok (addLoad c d width (acq c) promote s ls)) s

def execLd8 (d a b : Operand) (s : State) : Host.Outcome State Fault Refusal :=
  loadWord (.ld8 d a b) d a b 1 (fun _ => none) false s
def execLd16 (d a b : Operand) (s : State) : Host.Outcome State Fault Refusal :=
  loadWord (.ld16 d a b) d a b 2 (fun _ => none) false s
def execLd32 (d a b : Operand) (s : State) : Host.Outcome State Fault Refusal :=
  loadWord (.ld32 d a b) d a b 4 (fun _ => none) false s
def execLd64 (d a b : Operand) (s : State) : Host.Outcome State Fault Refusal :=
  loadWord (.ld64 d a b) d a b 8 (fun _ => none) false s

/-- LD128 keeps the lanes it has performed in PROG when its lanes touch several granules and one faults (18 Table 18.2). -/
def execLd128 (d a b : Operand) (s : State) : Host.Outcome State Fault Refusal :=
  runWord s (decodesFor (.ld128 d a b)) {} (progCodes (.ld128 d a b)) fun c s =>
    withProgress c s 16 false .read 0 (accessLanes c false a b) (addLoad c d 16 none false)

def execLds32 (d a b : Operand) (s : State) : Host.Outcome State Fault Refusal :=
  loadWord (.lds32 d a b) d a b 4 (fun _ => none) false s
def execLds64 (d a b : Operand) (s : State) : Host.Outcome State Fault Refusal :=
  loadWord (.lds64 d a b) d a b 8 (fun _ => none) false s
def execLds128 (d a b : Operand) (s : State) : Host.Outcome State Fault Refusal :=
  loadWord (.lds128 d a b) d a b 16 (fun _ => none) false s

/-- LDACQ (08 R153, 23 R345): an acquire at MODE.SCOPE once every lane's read is satisfied. -/
def execLdacq (d a b : Operand) (s : State) : Host.Outcome State Fault Refusal :=
  loadWord (.ldacq d a b) d a b 4 (fun c => some (mScope c.sp.mode)) false s
/-- ACQR (08 R155, 22 R296): a device-scope acquire that promotes. -/
def execAcqr (d a b : Operand) (s : State) : Host.Outcome State Fault Refusal :=
  loadWord (.acqr d a b) d a b 4 (fun _ => some 0) true s

/-! ## PREF, PIN, UNPIN (06 R125, R126) -/

/-- Prefetch the line of one address into its home and, where the policy allows, into L1. -/
def prefetchOne (c : Ctx) (s : State) (va : Nat) : State :=
  let asid := s.asidOf c.w.part
  match s.access c.w.core asid va .read with
  | .granted r =>
    let s1 := s.homeTouch c.w.part asid va (mCpol c.sp.mode)
    if l1Alloc (mCpol c.sp.mode) r.attr then (s1.fillL1 c.w.block (va / 64)).getD s1 else s1
  | .denied _ | .held _ => s.dropRight c.w.core asid va
  | .miss => s

/-- PREF (23 R375): a prefetch that would fault or that targets the scratch aperture is dropped. -/
def execPref (a b : Operand) (s : State) : Host.Outcome State Fault Refusal :=
  wordOf (.pref a b) {} (fun c s =>
    let asid := s.asidOf c.w.part
    let ls := (accessLanes c false a b).filter fun e => isGlobal e.2
    if ls.any fun e => (s.right? c.w.core asid e.2).isNone then .stall s
    else .ok (ls.foldl (fun s e => prefetchOne c s e.2) s)) s

/-- An address lies in the reserved region or beyond bit 56 (06 R126). -/
def pastGlobal (va : Nat) : Bool := decide (Config.reservedRegion ≤ va)

/-- What PIN writes, and the state after it (06 R126, R123): 0 for an uncached page or a set whose ways are all pinned, 1 for a line
that is pinned now. A line of a host or peer page has no home here: 0 (log 19). -/
def pinLine (s : State) (asid va : Nat) : Word × State :=
  let line := lineOf va
  if (s.line? asid line).any fun l => l.pinned then (1, s)
  else
    match s.trans asid va with
    | none => (0, s)
    | some r =>
      if r.attr = 2 ∨ r.tgt ≠ 0 then (0, s)
      else
        match if s.inL2 asid line then some s else s.takeWay asid line (r.linePa line) ((l2Prio 0 r.attr).getD 1) with
        | none => (0, s)
        | some s1 => (1, (s1.fetchSectors asid line fun _ => true).modLine asid line fun l => { l with pinned := true })

/-- PIN (23 R371). -/
def execPin (d a b : Operand) (s : State) : Host.Outcome State Fault Refusal :=
  uniformWord (.pin d a b) {} (fun c s =>
    let va := laneAddr c a b 0
    let put (s : State) (v : Word) : Effect := .ok ((s.unmark c.wi).modWave c.wi fun w => w.writeGroup d c.act 1 fun _ _ => v)
    if pastGlobal va then .trap Cause.aperture va c.act
    else if inAperture va then put s 0
    else withLanes c s true 1 false .read 0 [(0, va)] fun s =>
      let asid := s.asidOf c.w.part
      let r := pinLine s asid va
      put r.2 r.1) s

/-- UNPIN (24 R414): at the home, with no permission check. -/
def execUnpin (a b : Operand) (s : State) : Host.Outcome State Fault Refusal :=
  uniformWord (.unpin a b) {} (fun c s =>
    let va := laneAddr c a b 0
    if pastGlobal va then .trap Cause.aperture va c.act
    else if inAperture va then .ok s
    else .ok (s.modLine (s.asidOf c.w.part) (lineOf va) fun l => if l.pinned then { l with pinned := false, prio := 1 } else l)) s

/-! ## CWB and CINV (06 R127, R128) -/

/-- Lines of [a, a + n): the first and the line after the last. -/
def lineRange (a n : Nat) : Nat × Nat := (a / 256, (a + n + 255) / 256)

/-- Dirty stash sectors that a range of an address space meets, in every window of the device. -/
def State.dirtyStashIn (s : State) (asid a n : Nat) : List (Nat × Nat × Nat × Nat) :=
  let r := lineRange a n
  (s.blocks.filter fun e => s.asidOf e.2.part == asid).flatMap fun e =>
    (e.2.dirtyStash e.1).filter fun x =>
      (e.2.window? x.2.1).any fun w => decide (r.1 ≤ w.base / 256 + x.2.2.1) && decide (w.base / 256 + x.2.2.1 < r.2)

/-- Dirty L2 sectors of a range. -/
def State.dirtyL2In (s : State) (asid a n : Nat) : List (Nat × Nat) :=
  let r := lineRange a n
  s.lines.flatMap fun e =>
    let line := e.1 % 281474976710656
    if e.1 / 281474976710656 = asid ∧ r.1 ≤ line ∧ line < r.2 then
      ([0, 1, 2, 3].filter fun k => e.2.dirty.getLsbD k).map fun k => (e.1, k)
    else []

/-- FAULTED lines of a block that the next CWB, FENCE, STFLUSH or STUNMAP of one of its waves retries and reports (18 R260). -/
def Block.owed (b : Block) (bi : Nat) : List (Nat × Nat × Nat × Nat) :=
  (b.dirtyStash bi).filter fun x => (b.window? x.2.1).any fun w => b.wbFaults.contains (w.base + 256 * x.2.2.1)

/-- Sectors of two lists, each once. -/
def joinSectors (xs ys : List (Nat × Nat × Nat × Nat)) : List (Nat × Nat × Nat × Nat) := xs ++ ys.filter fun y => !(xs.contains y)

/-- Start write-backs that an instruction of the wave waits for: a release record without covered writes. Scope 6 is CWB's: the
stash sectors, and then those of L2. -/
def State.startWriteBack (s : State) (wi scope : Nat) (stash : List (Nat × Nat × Nat × Nat)) (l2 : List (Nat × Nat)) : Nat × State :=
  match s.wave? wi with
  | none => (0, s)
  | some w =>
    let r := s.stamp
    let owed := (s.block? w.block).elim [] fun b => b.owed w.block
    let x : Release := { n := r.1, scope := scope, wave := wi, block := w.block, seqs := [], invs := [], stash := joinSectors stash owed
                         l2 := l2, ports := [], fault := none }
    (r.1, if x.complete then r.2 else r.2.modWave wi fun w => { w with releases := w.releases ++ [x] })

/-- Release n of a wave is in progress now. -/
def State.isReleasing (s : State) (wi n : Nat) : Bool := (s.wave? wi).any fun w => w.releasing n

/-- The instruction's own work is started; it waits for the release, or goes on at once. -/
def waitRelease (c : Ctx) (r : Nat × State) (a : After) (now : State → State) : Effect :=
  if r.2.isReleasing c.wi r.1 then .completing r.2 (.release r.1 a) else .ok (now r.2)

/-- CWB (22 R319). -/
def execCwb (a b : Operand) (s : State) : Host.Outcome State Fault Refusal :=
  uniformWord (.cwb a b) {} (fun c s =>
    let base := pairN c a
    let n := rawN c b
    let asid := s.asidOf c.w.part
    if n = 0 then .ok (s.unmark c.wi)
    else if !(globalRange base n) then .trap Cause.aperture base c.act
    else waitRelease c ((s.unmark c.wi).startWriteBack c.wi 6 (s.dirtyStashIn asid base n) (s.dirtyL2In asid base n)) .proceed id) s

/-- CINV (22 R309): the owner's L1 lines of the range are invalidated. -/
def execCinv (a b : Operand) (s : State) : Host.Outcome State Fault Refusal :=
  uniformWord (.cinv a b) {} (fun c s =>
    let base := pairN c a
    let n := rawN c b
    let asid := s.asidOf c.w.part
    if n = 0 then .ok s
    else if !(globalRange base n) then .trap Cause.aperture base c.act
    else .ok { s with cores := s.cores.modify c.w.core fun x => { x with l1 := x.l1.filter fun l =>
      !(l.asid == asid && ((s.block? l.block).any fun b => b.part == c.w.part) &&
        decide (l.line * 64 < base + n) && decide (base < l.line * 64 + 64)) } }) s

end Sys2Proof.Machine
end

