-- ==== Sys2Proof/Machine/Store.lean ====
section
/-! DEFINITION. The stores (24 R404), STREL and FENCE (08 R152, R153), the atomics at issue (22 R291 to R294), and the monitor
words (23 R353 to R356). -/

namespace Sys2Proof.Machine

/-! ## Stores -/

/-- The bytes a lane stores: its data registers, low word first (24 R404). -/
def storeBytes (c : Ctx) (d : Operand) (width l : Nat) : List Byte :=
  ((upTo (max 1 (width / 4))).flatMap fun k => leBytes (groupLane c d k l).toNat 4).take width

/-- Enter the stores of an instruction: of lanes that store the same bytes the highest counts (06 R111). -/
def enterLanes (c : Ctx) (d : Operand) (width : Nat) (mirrors tag : Bool) (holds : List Nat) (s : State) (ls : List (Nat × Nat)) : State :=
  (lastLanes ls).foldl (fun s e => enterStore c mirrors tag holds s (e.2, storeBytes c d width e.1)) s

/-- A store: its lanes are checked together, then entered into WSB(w). -/
def storeWord (i : Instr) (d a b : Operand) (width : Nat) (s : State) : Host.Outcome State Fault Refusal :=
  wordOf i {} (fun c s =>
    let uniform := !(isV d)
    let ls := accessLanes c uniform a b
    withLanes c s uniform width true .write 1 ls fun s => .ok (enterLanes c d width true false [] s ls)) s

def execSt8 (d a b : Operand) (s : State) : Host.Outcome State Fault Refusal := storeWord (.st8 d a b) d a b 1 s
def execSt16 (d a b : Operand) (s : State) : Host.Outcome State Fault Refusal := storeWord (.st16 d a b) d a b 2 s
def execSt32 (d a b : Operand) (s : State) : Host.Outcome State Fault Refusal := storeWord (.st32 d a b) d a b 4 s
def execSt64 (d a b : Operand) (s : State) : Host.Outcome State Fault Refusal := storeWord (.st64 d a b) d a b 8 s
/-- STS32 (24 R409). -/
def execSts32 (d a b : Operand) (s : State) : Host.Outcome State Fault Refusal := storeWord (.sts32 d a b) d a b 4 s

/-- ST128 keeps the lanes it has performed in PROG when its lanes touch several granules and one faults (18 Table 18.2). -/
def execSt128 (d a b : Operand) (s : State) : Host.Outcome State Fault Refusal :=
  runWord s (decodesFor (.st128 d a b)) {} (progCodes (.st128 d a b)) fun c s =>
    withProgress c s 16 true .write 1 (accessLanes c false a b) (enterLanes c d 16 true false [])

/-- STREL (24 R408): a release at MODE.SCOPE holds its write in WSB(w); at block scope the write carries the tag (08 R155). -/
def execStrel (d a b : Operand) (s : State) : Host.Outcome State Fault Refusal :=
  wordOf (.strel d a b) {} (fun c s =>
    let uniform := !(isV d)
    let ls := accessLanes c uniform a b
    if c.act = 0 then .ok s
    else withLanes c s uniform 4 true .write 1 ls fun s =>
      let scope := mScope c.sp.mode
      let r := (s.unmark c.wi).startRelease c.wi scope
      .ok (enterLanes c d 4 false (scope == 2) [r.1] r.2 ls)) s

/-! ## FENCE -/

/-- A fence's acquire (08 R151, R152). -/
def State.fenceAcquire (s : State) (wi scope : Nat) (sc : Option Nat) (isSc : Bool) : State :=
  let r := s.stamp
  (r.2.modWave wi fun w => { w with acquires := w.acquires ++ [{ seq := r.1, scope := scope, sc := sc, isSc := isSc }] }).settleAcquires wi

/-- A scope of device or wider. -/
def wideScope (scope : Nat) : Bool := scope == 0 || scope == 4 || scope == 5

/-- A fence's release: later writes are held until it completes. -/
def State.fenceRelease (s : State) (wi scope : Nat) : Nat × State :=
  let r := s.startRelease wi scope
  let owed := if wideScope scope then
      (r.2.wave? wi).elim [] fun w => (r.2.block? w.block).elim [] fun b => b.owed w.block
    else []
  (r.1, r.2.modWave wi fun w =>
    { w with
      relHolds := if w.releasing r.1 then w.relHolds ++ [r.1] else w.relHolds
      releases := w.releases.map fun x => if x.n = r.1 then { x with stash := joinSectors x.stash owed } else x })

/-- FENCE (22 R324): acq, rel, ar or sc at MODE.SCOPE; at wave and block scope sc acts as ar (08 R152). With a release part at device scope or wider the split parks until the stash
write-backs it started are performed. -/
def execFence (b : Operand) (s : State) : Host.Outcome State Fault Refusal :=
  uniformWord (.fence b) {} (fun c s =>
    let scope := mScope c.sp.mode
    let form := rawN c b
    if form = 0 then .ok (s.fenceAcquire c.wi scope none false)
    else
      let r := (s.unmark c.wi).fenceRelease c.wi scope
      let s1 :=
        if form = 1 then r.2
        else if form = 2 ∨ scope = 1 ∨ scope = 2 then r.2.fenceAcquire c.wi scope none false
        else r.2.fenceAcquire c.wi scope (some r.1) true
      if wideScope scope && s1.stashPending c.wi r.1 then .completing s1 (.stash r.1) else .ok s1) s

/-! ## Atomics at issue -/

/-- Valid TYPEs (22 Table 22.3). -/
def atomicTypes (op : AtomicOp) (ty : Nat) : Bool :=
  match op with
  | .add | .min | .max | .xchg | .cas => ty == 0 || ty == 1 || ty == 2 || ty == 14
  | .and | .or | .xor => ty == 0 || ty == 1 || ty == 14
  | .inc => ty == 1 || ty == 14

/-- The declared use allows the operation and its TYPE (08 Table 8.7). -/
def useAllows (use ty : Nat) (op : AtomicOp) : Bool :=
  match use with
  | 0 | 1 => true
  | 2 => (match op with | .add | .min | .max | .and | .or | .xor => true | _ => false)
  | 3 => (match op with | .add | .inc => ty == 1 || ty == 14 | _ => false)
  | _ => (match op with | .or | .and | .min | .max | .xchg => true | _ => false)

/-- Insert a lane by its free key. -/
def insertKeyed (k : Nat) (e : Nat × Nat) : List (Nat × Nat × Nat) → List (Nat × Nat × Nat)
  | [] => [(k, e)]
  | x :: xs => if k < x.1 then (k, e) :: x :: xs else x :: insertKeyed k e xs

/-- Lanes in a free order (22 R293): by free keys drawn from the counter. -/
def shuffle (n : Nat) (ls : List (Nat × Nat)) : List (Nat × Nat) :=
  (((ls.zip (upTo ls.length)).foldl (fun xs e => insertKeyed (Config.freeNat (n + e.2)) e.1 xs) []).map fun x => x.2)

/-- Two lanes name one address. -/
def duplicated : List (Nat × Nat) → Bool
  | [] => false
  | e :: es => es.any (fun f => f.2 == e.2) || duplicated es

/-- The order in which an instruction's lanes enter the store buffer: any where lanes share an address (22 R293), but ascending for the
global ones under unpaired and quantum, which at a scratch address act as nonord (08 R156). -/
def atomicOrder (use n : Nat) (ls : List (Nat × Nat)) : List (Nat × Nat) :=
  if !(duplicated ls) then ls
  else if use = 1 ∨ use = 3 then
    (ls.filter fun e => !(inAperture e.2)) ++ (let xs := ls.filter fun e => inAperture e.2; if duplicated xs then shuffle n xs else xs)
  else shuffle n ls

/-- The data of a lane: the literal, or the register or pair after D (22 Table 22.2). -/
def atomicData (c : Ctx) (d b : Operand) (wide : Bool) (l : Nat) : BitVec 64 :=
  match b with
  | .lit w => w.setWidth 64
  | _ =>
    let k := if wide then 2 else 1
    BitVec.ofNat 64 ((groupLane c d k l).toNat + if wide then 4294967296 * (groupLane c d (k + 1) l).toNat else 0)

/-- The value of D on entry, which ACAS expects. -/
def atomicExpect (c : Ctx) (d : Operand) (wide : Bool) (l : Nat) : BitVec 64 :=
  BitVec.ofNat 64 ((groupLane c d 0 l).toNat + if wide then 4294967296 * (groupLane c d 1 l).toNat else 0)

/-- Enter the atomics of an instruction into WSB(w); with a result, its registers are pending until they are performed. -/
def enterAtomics (op : AtomicOp) (d b : Operand) (c : Ctx) (s : State) (ls : List (Nat × Nat)) : State :=
  let ty := mType c.sp.mode
  let use := mAuse c.sp.mode
  let wide := ty == Ty.n64
  let width := if wide then 8 else 4
  let order := atomicOrder use s.free ls
  let s0 := { s with free := if duplicated ls then s.free + ls.length else s.free }
  let r := s0.stamp
  let p : Pend := { n := r.1, split := c.sp.num, codes := groupCodes d (width / 4), op := .atomic (ls.map (·.1)) }
  let ret := !(isDiscard d)
  let s1 := if ret then r.2.modWave c.wi fun w => { w with pend := w.pend ++ [p] } else r.2
  order.foldl (fun s e =>
    let a : AtomicReq := { op := op, type := ty, rnd := mRnd c.sp.mode, use := use, width := width, data := atomicData c d b wide e.1
                           expect := atomicExpect c d wide e.1, lane := e.1, ret := if ret then some (r.1, regCode d) else none
                           qsize := c.w.qsize }
    (s.enter c e.2 (.atomic a) false []).2) s1

/-- The address of a lane: literal data leave no offset (22 R292). -/
def atomicAddr (c : Ctx) (a b : Operand) (l : Nat) : Nat :=
  match b with
  | .lit _ => pairN c a
  | _ => laneAddr c a b l

/-- An atomic (22 R291 to R294). -/
def atomicWord (i : Instr) (op : AtomicOp) (d a b : Operand) (s : State) : Host.Outcome State Fault Refusal :=
  wordOf i { typeOk := atomicTypes op, illegal := fun c => !(useAllows (mAuse c.sp.mode) (mType c.sp.mode) op) } (fun c s =>
    let uniform := !(isV d)
    let ls := (actLanes uniform c.act).map fun l => (l, atomicAddr c a b l)
    if c.act = 0 then .ok s
    else withLanes c s uniform (if mType c.sp.mode = Ty.n64 then 8 else 4) true .both 2 ls fun s =>
      .ok (enterAtomics op d b c (if mAuse c.sp.mode = 4 ∧ !(ls.any fun e => inAperture e.2) then s else s.unmark c.wi) ls)) s

def execAadd (d a b : Operand) (s : State) : Host.Outcome State Fault Refusal := atomicWord (.aadd d a b) .add d a b s
def execAmin (d a b : Operand) (s : State) : Host.Outcome State Fault Refusal := atomicWord (.amin d a b) .min d a b s
def execAmax (d a b : Operand) (s : State) : Host.Outcome State Fault Refusal := atomicWord (.amax d a b) .max d a b s
def execAand (d a b : Operand) (s : State) : Host.Outcome State Fault Refusal := atomicWord (.aand d a b) .and d a b s
def execAor (d a b : Operand) (s : State) : Host.Outcome State Fault Refusal := atomicWord (.aor d a b) .or d a b s
def execAxor (d a b : Operand) (s : State) : Host.Outcome State Fault Refusal := atomicWord (.axor d a b) .xor d a b s
def execAxchg (d a b : Operand) (s : State) : Host.Outcome State Fault Refusal := atomicWord (.axchg d a b) .xchg d a b s
def execAcas (d a b : Operand) (s : State) : Host.Outcome State Fault Refusal := atomicWord (.acas d a b) .cas d a b s
def execAinc (d a b : Operand) (s : State) : Host.Outcome State Fault Refusal := atomicWord (.ainc d a b) .inc d a b s

/-! ## Monitors -/

/-- The monitors that an owner has armed in a core: wave, split, monitor. DESIGN CHOICE (log 96): one that has fired, and that no MWAIT has
taken yet, is not counted in the quota of 16. -/
def State.monitorsOf (s : State) (p core : Nat) : List (Nat × Nat × Monitor) :=
  (s.waves.filter fun e => e.2.part == p && e.2.core == core && e.2.res == .resident).flatMap fun e =>
    (e.2.mons.filter fun m => m.2.st == .armed).map fun m => (e.1, m.1, m.2)

/-- Arming a 17th monitor evicts the owner's least recently armed one (05 R102). -/
def State.evictMonitor (s : State) (p core : Nat) : State :=
  match s.monitorsOf p core with
  | [] => s
  | m :: ms =>
    if ms.length < 16 then s
    else
      let o := ms.foldl (fun b e => if e.2.2.seq < b.2.2.seq then e else b) m
      s.modWave o.1 fun w => { w with mons := w.mons.modify o.2.1 fun x => { x with st := .evicted } }

/-- After a MON no load of the block takes a value of the line from before it (05 R102, R104): copies older than what the home has now do not
serve. -/
def State.sawLine (s : State) (b asid line : Nat) : State :=
  match s.homeRead asid (64 * line) 64 with
  | none => s
  | some xs => (xs.zip (upTo 64)).foldl (fun s e => s.sawAt b asid (64 * line + e.2) e.1.2 1) s

/-- MON (23 R354): armed at the line's home (log 91). -/
def execMon (a b : Operand) (s : State) : Host.Outcome State Fault Refusal :=
  uniformWord (.mon a b) {} (fun c s =>
    let va := laneAddr c a b 0
    if !(isGlobal va) then .trap Cause.aperture va c.act
    else withLanes c s true 1 false .read 4 [(0, va)] fun s =>
      let r := (s.unmark c.wi).stamp
      let m : Monitor := { asid := s.asidOf c.w.part, line := va / 64, seq := r.1, st := .armed }
      .ok (((r.2.modWave c.wi fun w => { w with mons := w.mons.put c.sp.num m }).evictMonitor c.w.part c.w.core).sawLine c.w.block m.asid
        m.line)) s

/-- MWAIT (23 R355). -/
def execMwait (d a : Operand) (s : State) : Host.Outcome State Fault Refusal :=
  uniformWord (.mwait d a) {} (fun c s =>
    let t0 := (s.core c.w.core).clk.toNat
    let s1 := s.unmark c.wi
    match s.monitorStatus c.w c.sp.num t0 0 with
    | some v => .ok (s1.modWave c.wi fun w =>
        let w1 := w.writeGroup d c.act 1 fun _ _ => word v
        { w1 with mons := w1.mons.drop c.sp.num })
    | none => .park s1 (.monitor t0 (rawN c a) (regCode d - 0x80))) s

/-- MCANCEL (23 R356). -/
def execMcancel (s : State) : Host.Outcome State Fault Refusal :=
  uniformWord .mcancel {} (fun c s => .ok ((s.unmark c.wi).modWave c.wi fun w => { w with mons := w.mons.drop c.sp.num })) s

/-- MWAIT_TIMEOUT: the timeout of a parked MWAIT has run out; it returns 2 and the monitor is disarmed. -/
def execMwaitTimeout (wi k : Nat) (s : State) : Host.Outcome State Fault Refusal :=
  match s.wave? wi with
  | none => .next s
  | some w =>
    match (w.split? k).map (fun x : Split => x.park) with
    | some (.wait (.monitor t0 t d) next marked) =>
      if w.trap.isSome ∨ s.monitorStatus w k t0 t ≠ some 2 then .next s
      else .next ((s.setWave wi { w.writeS d 2 with mons := w.mons.drop k }).endWait wi k next marked)
    | _ => .next s

end Sys2Proof.Machine
end

