-- ==== Sys2Proof/Machine/Sync.lean ====
section
/-! DEFINITION. Waiting and waking: rings, barriers, handles, predecessors (05 R96 to R101, 22 R328 to R332), regrouping (04 R82),
fences over engine queues (08 R160), creating children (05 R94, R95), and what follows when a wave ends (04 R67, 05 R100). -/

namespace Sys2Proof.Machine

/-! ## Waves of a block -/

/-- The waves of a block that have not exited, with their numbers. -/
def State.liveWaves (s : State) (b : Block) : List (Nat × Wave) :=
  b.waves.filterMap fun wi => (s.wave? wi).bind fun w => if w.exited then none else some (wi, w)

/-- Change barrier k of a block. -/
def Block.modBar (b : Block) (k : Nat) (f : Barrier → Barrier) : Block := { b with bars := b.bars.modify k f }

/-- Change ring k of a block. -/
def Block.modRing (b : Block) (k : Nat) (f : Ring → Ring) : Block := { b with rings := b.rings.modify k f }

/-- An open phase is complete (05 R100): its arrivals reach its count, or every non-exited wave's with count 0. -/
def Barrier.completes (x : Barrier) (live : Nat) : Bool :=
  x.fixed && (if x.expected = 0 then x.arrivals == live else decide (x.expected ≤ x.arrivals))

/-- The next phase opens. -/
def Barrier.open (x : Barrier) : Barrier := { arrivals := 0, expected := 0, fixed := false, phase := x.phase + 1, who := [] }

/-- Complete the phases of a block that are complete. -/
def State.settleBars (s : State) (b : Nat) : State :=
  match s.block? b with
  | none => s
  | some x =>
    let live := (s.liveWaves x).length
    s.modBlock b fun y => { y with bars := y.bars.map fun z => if z.completes live then z.open else z }

/-- A group is complete (04 R82): n waves have arrived, or every non-exited wave of the block. -/
def Group.completes (g : Group) (live : Nat) : Bool :=
  (decide (0 < g.n) && decide (g.n ≤ g.waves.length)) || g.waves.length == live

/-- A split waits in BAR, BARW or REGROUP and its wait is not over (05 R101). -/
def State.barWaits (s : State) (b : Block) (live wi : Nat) (w : Wave) (x : Split) : Bool :=
  match x.park with
  | .wait (.barrier k) _ _ => (match s.waitRes wi w x.num (.barrier k) with | .stay => true | _ => false)
  | .wait (.regroup t) _ _ => !(b.groups.any fun g => g.tag == t && g.waves.contains wi && g.completes live)
  | _ => false

/-- When every non-exited wave of a block is parked in BAR, BARW or REGROUP and nothing can complete, each of them raises ILLCONV
(05 R101, 04 R82). -/
def State.checkDeadlock (s : State) (bi : Nat) : State :=
  match s.block? bi with
  | none => s
  | some b =>
    let ws := s.liveWaves b
    let stuck := ws.all fun e => e.2.res == .resident && e.2.trap.isNone && !e.2.splits.isEmpty &&
      e.2.splits.all fun x => s.barWaits b ws.length e.1 e.2 x
    if ws.isEmpty ∨ !stuck then s
    else ws.foldl (fun s e =>
      match e.2.splits with
      | [] => s
      | x :: _ => s.raise e.1 x.num Cause.illConv 0 x.exec x.pc) s

/-- A wave ends (04 R67): it leaves its slots and its monitors, its block's barriers are looked at again (05 R100), and with its
block's last wave the block ends. -/
def State.waveEnd (s : State) (wi : Nat) : State :=
  match s.wave? wi with
  | none => s
  | some w =>
    let w1 : Wave := { w with
      exited := true, alive := 0, splits := [], stack := [], mons := [], trap := none, rewindable := false, mark := none }
    let s1 := ((s.setWave wi w1).tidySlots wi).freeRoom w.core
    ((s1.settleBars w.block).checkDeadlock w.block).tryEndBlock w.block

/-- Lanes of a split exit (04 R67); the conditions they bear on are looked at again (04 R73, R74), and the wave ends with its last
lane. -/
def State.exitLanes (s : State) (wi k : Nat) (m : Word) : State :=
  match s.wave? wi with
  | none => s
  | some w =>
    let w1 := w.exitLanes k m
    let s1 := s.setWave wi w1
    if w1.alive = 0 then s1.waveEnd wi else (s1.tidySlots wi).settle wi 64

/-- The split parks at once in a wait, and the block is looked at for a deadlock. -/
def parkChecked (c : Ctx) (s : State) (f : WaitFor) : Effect :=
  .done ((s.modSplit c.wi c.sp.num fun x => { x.parkAs (.wait f c.next c.marked) s.seq with pc := c.pc }).checkDeadlock c.w.block)

/-! ## Rings (05 R99, 24 R380 to R382) -/

/-- Slot k of a ring. -/
def Ring.slot (r : Ring) (k : Nat) : RingSlot := nth r.slots k { st := .empty, phase := false, lap := false }

/-- Change slot k of a ring. -/
def Ring.modSlot (r : Ring) (k : Nat) (f : RingSlot → RingSlot) : Ring := { r with slots := setAt r.slots k (f (r.slot k)) }

/-- RACQ's transition: the slot at the producer cursor is claimed with the cursor's lap parity. -/
def Ring.claim (r : Ring) : Ring :=
  let r1 := r.modSlot r.prod fun x => { x with st := .claimed, lap := r.prodLap }
  { r1 with prod := (r.prod + 1) % 8, prodLap := if r.prod = 7 then !r.prodLap else r.prodLap }

/-- RACQ's condition. -/
def Ring.canClaim (r : Ring) : Bool := (r.slot r.prod).st == .empty

/-- RGET's transition: the slot at the consumer cursor is taken. -/
def Ring.take (r : Ring) : Ring :=
  let r1 := r.modSlot r.cons fun x => { x with st := .taken }
  { r1 with cons := (r.cons + 1) % 8, consLap := if r.cons = 7 then !r.consLap else r.consLap }

/-- RGET's condition: FULL with the consumer's lap parity. -/
def Ring.canTake (r : Ring) : Bool := (r.slot r.cons).st == .full && (r.slot r.cons).phase == r.consLap

/-- A parked RACQ or RGET of a wave is served: its destination receives the slot and the split goes on (24 R381). -/
def State.grantSlot (s : State) (wi k slot : Nat) : State :=
  match s.wave? wi with
  | none => s
  | some w =>
    match (w.split? k).map (fun x : Split => x.park) with
    | some (.wait (.racq _ d) next marked) => (s.setWave wi (w.writeS d (word slot))).endWait wi k next marked
    | some (.wait (.rget _ d) next marked) =>
      ((s.setWave wi (w.writeS d (word slot))).endWait wi k next marked).acquireBy wi k 2
    | _ => s

/-- Serve the parked RACQs and RGETs of a ring in issue order, as far as its slots allow (24 R381). -/
def State.serveRing (s : State) (b k : Nat) : Nat → State
  | 0 => s
  | n + 1 =>
    match (s.block? b).bind fun x => x.rings[k]? with
    | none => s
    | some r =>
      match r.acqs, r.gets with
      | e :: es, gs =>
        if r.canClaim then
          State.serveRing ((s.modBlock b fun x => x.modRing k fun _ => { r.claim with acqs := es }).grantSlot e.1 e.2 r.prod) b k n
        else
          (match gs with
           | g :: gs' =>
             if r.canTake then
               State.serveRing ((s.modBlock b fun x => x.modRing k fun _ => { r.take with gets := gs' }).grantSlot g.1 g.2 r.cons) b k n
             else s
           | [] => s)
      | [], g :: gs' =>
        if r.canTake then
          State.serveRing ((s.modBlock b fun x => x.modRing k fun _ => { r.take with gets := gs' }).grantSlot g.1 g.2 r.cons) b k n
        else s
      | [], [] => s

/-- The block's writes that a block-scope release covers have left the wave's store buffer (08 Table 8.3, log 17). -/
def Wave.flushed (w : Wave) : Bool := !(w.wsb.any WEntry.counts)

/-- Ring k of the issuing block. -/
def ringOf (c : Ctx) (s : State) (k : Nat) : Option Ring := (s.block? c.w.block).bind fun x => x.rings[k]?

/-- RACQ. -/
def execRacq (d a : Operand) (s : State) : Host.Outcome State Fault Refusal :=
  uniformWord (.racq d a) {} (fun c s =>
    let k := rawN c a
    let s1 := s.unmark c.wi
    match ringOf c s k with
    | none => .trap Cause.illegal 0 c.sp.exec
    | some r =>
      if r.canClaim ∧ r.acqs.isEmpty then
        .ok ((s1.modBlock c.w.block fun x => x.modRing k fun _ => r.claim).modWave c.wi fun w =>
          w.writeGroup d c.act 1 fun _ _ => word r.prod)
      else .park (s1.modBlock c.w.block fun x => x.modRing k fun r => { r with acqs := r.acqs ++ [(c.wi, c.sp.num)] })
        (.racq k (regCode d - 0x80))) s

/-- RGET: the return is a block-scope acquire. -/
def execRget (d a : Operand) (s : State) : Host.Outcome State Fault Refusal :=
  uniformWord (.rget d a) {} (fun c s =>
    let k := rawN c a
    let s1 := s.unmark c.wi
    match ringOf c s k with
    | none => .trap Cause.illegal 0 c.sp.exec
    | some r =>
      if r.canTake ∧ r.gets.isEmpty then
        .ok (((s1.modBlock c.w.block fun x => x.modRing k fun _ => r.take).modWave c.wi fun w =>
          w.writeGroup d c.act 1 fun _ _ => word r.cons).acquireBy c.wi c.sp.num 2)
      else .park (s1.modBlock c.w.block fun x => x.modRing k fun r => { r with gets := r.gets ++ [(c.wi, c.sp.num)] })
        (.rget k (regCode d - 0x80))) s

/-- RPUB: a block-scope release; the slot becomes FULL with the phase of its claim. -/
def execRpub (a b : Operand) (s : State) : Host.Outcome State Fault Refusal :=
  uniformWord (.rpub a b) {} (fun c s =>
    let k := rawN c a
    let j := rawN c b
    match ringOf c s k with
    | none => .trap Cause.illegal 0 c.sp.exec
    | some r =>
      if 8 ≤ j then .trap Cause.illegal 0 c.sp.exec
      else if (r.slot j).st ≠ .claimed then .trap Cause.illegal j c.sp.exec
      else if !c.w.flushed then .stall s
      else .ok (((s.unmark c.wi).modBlock c.w.block fun x => x.modRing k fun r =>
        r.modSlot j fun y => { y with st := .full, phase := y.lap }).serveRing c.w.block k 16)) s

/-- RREL. -/
def execRrel (a b : Operand) (s : State) : Host.Outcome State Fault Refusal :=
  uniformWord (.rrel a b) {} (fun c s =>
    let k := rawN c a
    let j := rawN c b
    match ringOf c s k with
    | none => .trap Cause.illegal 0 c.sp.exec
    | some r =>
      if 8 ≤ j then .trap Cause.illegal 0 c.sp.exec
      else if (r.slot j).st ≠ .taken then .trap Cause.illegal j c.sp.exec
      else .ok (((s.unmark c.wi).modBlock c.w.block fun x => x.modRing k fun r =>
        r.modSlot j fun y => { y with st := .empty }).serveRing c.w.block k 16)) s

/-! ## Barriers (05 R100, R101, 22 R302) -/

/-- The wave may not arrive (05 R101). -/
def mayNotArrive (c : Ctx) (x : Barrier) (n : Nat) : Bool :=
  decide (1 < c.w.splits.length) || x.who.contains c.wi || (x.fixed && x.expected != n)

/-- Arrive at barrier k with a count. -/
def arriveBar (c : Ctx) (s : State) (k n : Nat) (x : Barrier) : State :=
  let s1 := (s.unmark c.wi).modBlock c.w.block fun b => b.modBar k fun y =>
    { y with arrivals := y.arrivals + 1, expected := n, fixed := true, who := y.who ++ [c.wi] }
  (s1.modWave c.wi fun w => { w with barPhase := w.barPhase.put k x.phase }).settleBars c.w.block

/-- Wait for the phase of the wave's last arrival; without one, or once it has completed, go on at once. -/
def waitBar (c : Ctx) (s : State) (k : Nat) : Effect :=
  match s.wave? c.wi with
  | none => .ok s
  | some w =>
    match s.waitRes c.wi w c.sp.num (.barrier k) with
    | .stay => parkChecked c s (.barrier k)
    | _ => .ok (s.acquireBy c.wi c.sp.num 2)

/-- An operand's registers hold their values. -/
def Ctx.knows (c : Ctx) (o : Operand) : Bool := c.known (codesOf 0 (o, .one))

/-- The barrier or the count is out of range (22 R302). -/
def barIllegal (a b : Operand) (c : Ctx) : Bool := (c.knows a && decide (16 ≤ rawN c a)) || (c.knows b && decide (128 < rawN c b))

/-- The wave may not arrive, as far as the operands are known: this outranks HAZARD (18 Table 18.1). A BAR that has arrived acts as BARW. -/
def barIllConv (s : State) (a b : Operand) (wait : Bool) (c : Ctx) : Bool :=
  !(wait && c.sp.prog == 1) && (decide (1 < c.w.splits.length) || (c.knows a && c.knows b &&
    ((s.block? c.w.block).bind fun x => x.bars[rawN c a]?).any fun x => mayNotArrive c x (rawN c b)))

/-- The checks of BAR and BARA. -/
def barChecks (s : State) (a b : Operand) (wait : Bool) : Checks := { illegal := barIllegal a b, illConv := barIllConv s a b wait }

/-- BAR and BARA: `wait` parks after the arrival. -/
def barWord (i : Instr) (a b : Operand) (wait : Bool) (s : State) : Host.Outcome State Fault Refusal :=
  wordOf i (barChecks s a b wait) (fun c s =>
    let k := rawN c a
    let n := rawN c b
    match (s.block? c.w.block).bind fun x => x.bars[k]? with
    | none => .trap Cause.illegal 0 c.sp.exec
    | some x =>
      if wait ∧ c.sp.prog = 1 then waitBar c (s.unmark c.wi) k
      else if !c.w.flushed then .stall s
      else
        let s1 := arriveBar c s k n x
        if wait then waitBar c (s1.modSplit c.wi c.sp.num fun y => { y with prog := 1 }) k
        else .ok s1) s

def execBar (a b : Operand) (s : State) : Host.Outcome State Fault Refusal := barWord (.bar a b) a b true s
def execBara (a b : Operand) (s : State) : Host.Outcome State Fault Refusal := barWord (.bara a b) a b false s
def execBarw (a : Operand) (s : State) : Host.Outcome State Fault Refusal :=
  wordOf (.barw a) {} (fun c s =>
    if 16 ≤ rawN c a then .trap Cause.illegal 0 c.sp.exec else waitBar c (s.unmark c.wi) (rawN c a)) s

/-! ## Handles (22 R328 to R332) -/

/-- The number of a handle operand. -/
def handleOf : Operand → Nat
  | .h r => r.val
  | _ => 0

/-- The state of a handle operand. -/
def handleState (w : Wave) (o : Operand) : HState := vget w.h (handleOf o) .empty

/-- Set a handle operand; 0xE0 names none. -/
def Wave.setHandle (w : Wave) (o : Operand) (x : HState) : Wave :=
  match o with
  | .h r => { w with h := vset w.h r.val x }
  | _ => w

/-- The handle an operation completes. -/
def hrefOf (c : Ctx) (o : Operand) : Option HRef :=
  match o with
  | .h r => some { wave := c.wi, reg := r.val }
  | _ => none

/-- A word that names a handle as its result (04 R63): it parks while the handle is pending; a uniform one with an empty ACT makes it
done (06 R129). DESIGN CHOICE (log 83): it parks before its operand values are checked. -/
def handleWord (i : Instr) (k : Checks) (d : Operand) (body : Ctx → State → Effect) (s : State) : Host.Outcome State Fault Refusal :=
  wordOf i k (fun c s =>
    if isH d ∧ (handleState c.w d).isPending then .park s (.free (handleOf d))
    else if c.act = 0 then .ok (s.modWave c.wi fun w => w.setHandle d .done)
    else body c s) s

/-- Set the result handle pending with a tag. -/
def State.pendHandle (s : State) (c : Ctx) (d : Operand) (tag : Nat) : State := s.modWave c.wi fun w => w.setHandle d (.pending tag)

/-- HTEST (22 R331). -/
def execHtest (d a : Operand) (s : State) : Host.Outcome State Fault Refusal :=
  uniformWord (.htest d a) {} (fun c s =>
    let v := match handleState c.w a with
      | .pending _ => 0
      | .empty | .done => 1
      | .cancelled => 2
      | .failed => 3
    .ok (s.modWave c.wi fun w => w.writeGroup d c.act 1 fun _ _ => word v)) s

/-- HWAIT (22 R332): a return is a device-scope acquire. -/
def execHwait (d a : Operand) (s : State) : Host.Outcome State Fault Refusal :=
  uniformWord (.hwait d a) {} (fun c s =>
    let f : WaitFor := .handle (handleOf a) (match d with | .s r => some r.val | _ => none)
    match s.waitRes c.wi c.w c.sp.num f with
    | .stay => .park s f
    | .met s1 => .ok s1
    | .issue => .ok s
    | .trap cause faddr => .trap cause faddr c.sp.exec) s

/-- The HMOV code and tag of a state (22 Table 22.7). -/
def HState.code : HState → Nat × Nat
  | .empty => (0, 0)
  | .pending t => (1, t)
  | .done => (2, 0)
  | .cancelled => (3, 0)
  | .failed => (4, 0)

/-- The state that a code HMOV may write names. -/
def HState.ofCode : Nat → Option HState
  | 0 => some .empty
  | 2 => some .done
  | 3 => some .cancelled
  | 4 => some .failed
  | _ => none

/-- HMOV (22 R330): reads a handle into a pair, or writes one from a code. -/
def execHmov (d a : Operand) (s : State) : Host.Outcome State Fault Refusal :=
  uniformWord (.hmov d a) {} (fun c s =>
    match d with
    | .h _ =>
      (match HState.ofCode (rawN c a) with
       | none => .trap Cause.illegal 0 c.sp.exec
       | some x => if (handleState c.w d).isPending then .park s (.free (handleOf d)) else .ok (s.modWave c.wi fun w => w.setHandle d x))
    | _ =>
      let x := (handleState c.w a).code
      .ok (s.modWave c.wi fun w => w.writeGroup d c.act 2 fun i _ => if i = 0 then word x.1 else word x.2)) s

/-! ## Predecessors (05 R97) -/

/-- SUCCGO (24 R411). -/
def execSuccgo (s : State) : Host.Outcome State Fault Refusal :=
  wordOf .succgo {} (fun c s => .ok ((s.unmark c.wi).modWave c.wi fun w => { w with succgo := true })) s

/-- PREDWAIT (23 R374). -/
def execPredwait (s : State) : Host.Outcome State Fault Refusal :=
  uniformWord .predwait {} (fun c s =>
    if s.predDone c.w.launch then .ok (s.acquireBy c.wi c.sp.num 0) else .park s .pred) s

/-! ## Regrouping (04 R82, 24 R388) -/

/-- The wave may not arrive in a group of this tag. -/
def mayNotRegroup (c : Ctx) (g : Option Group) (n : Nat) : Bool :=
  decide (1 < c.w.splits.length) || c.w.stack != [] || (lanes.any fun k => (vget c.w.h k .empty).isPending) ||
    g.any fun x => x.role != c.w.role || x.n != n

/-- The open group of a tag: one that is not complete. -/
def Block.openGroup (b : Block) (live tag : Nat) : Option Group := b.groups.find? fun g => g.tag == tag && !(g.completes live)

/-- The wave joins the open group of a tag, or opens one. -/
def Block.joinGroup (b : Block) (live tag n role wi : Nat) : Block :=
  match b.openGroup live tag with
  | none => { b with groups := b.groups ++ [{ tag := tag, n := n, role := role, waves := [wi] }] }
  | some g => { b with groups := b.groups.map fun x => if x = g then { x with waves := x.waves ++ [wi] } else x }

/-- REGROUP. It waits for its split's scoreboard; a wave stopped after arriving waits in its group without arriving again. -/
def execRegroup (a b : Operand) (s : State) : Host.Outcome State Fault Refusal :=
  wordOf (.regroup a b) { illegal := fun c => c.w.keyed.isSome } (fun c s =>
    let tag := rawN c a
    let n := rawN c b
    match s.block? c.w.block with
    | none => .ok s
    | some x =>
      let live := (s.liveWaves x).length
      if 128 < n then .trap Cause.illegal 0 c.sp.exec
      else if c.sp.prog = 1 then parkChecked c (s.unmark c.wi) (.regroup tag)
      else if !(c.w.sbOf c.sp.num).isEmpty then .stall s
      else if mayNotRegroup c (x.openGroup live tag) n then .trap Cause.illConv 0 c.sp.exec
      else
        let s1 := (s.unmark c.wi).modBlock c.w.block fun y => y.joinGroup live tag n c.w.role c.wi
        parkChecked c (s1.modSplit c.wi c.sp.num fun y => { y with prog := 1 }) (.regroup tag)) s

/-- The next PC of a wave parked in a group, if it is resident and still waits there. -/
def State.groupNext (s : State) (tag wi : Nat) : Option Nat :=
  match s.wave? wi with
  | none => none
  | some w =>
    match w.res == .resident && w.trap.isNone, w.splits with
    | true, [x] => (match x.park with | .wait (.regroup t) next _ => if t = tag then some next else none | _ => none)
    | _, _ => none

/-- Waves by ascending WAVEID. -/
def insertByWaveId (e : Nat × Wave) : List (Nat × Wave) → List (Nat × Wave)
  | [] => [e]
  | x :: xs => if e.2.waveId < x.2.waveId then e :: x :: xs else x :: insertByWaveId e xs

/-- A destination wave takes its lanes: vector registers, predicate bits, EXEC = LIVE = its low lanes. -/
def Wave.takeLanes (w : Wave) (src : List (Wave × Nat)) (next at_ : Nat) : Wave :=
  let n := src.length
  let low := maskOf fun l => decide (l < n)
  let from_ (l : Nat) (f : Wave → Nat → Word) (dflt : Word) : Word := match src[l]? with | some e => f e.1 e.2 | none => dflt
  let w1 := (upTo w.footprint).foldl (fun (x : Wave) r => x.writeV r low fun l => from_ l (fun y k => y.readV r k) 0) w
  let w2 := [1, 2, 3, 4, 5, 6, 7].foldl (fun (x : Wave) r =>
    x.writeP r ((w.readP r &&& ~~~low) ||| maskOf fun l => decide (l < n) &&
      (match src[l]? with | some e => bit (e.1.readP r) e.2 | none => false))) w1
  { w2 with
    alive := low
    splits := w2.splits.map fun x => { x.goTo next with live := low, exec := low, readyAt := at_ } }

/-- REGROUP_RESUME: the lanes of a complete group are packed into its lowest waves; the others exit. -/
def execRegroupResume (b tag : Nat) (s : State) : Host.Outcome State Fault Refusal :=
  match s.block? b with
  | none => .next s
  | some x =>
    let live := (s.liveWaves x).length
    match x.groups.find? fun g => g.tag == tag && g.completes live with
    | none => .next s
    | some g =>
      if g.waves.any fun wi => (s.groupNext tag wi).isNone then .next s
      else
        let ws := (g.waves.filterMap fun wi => (s.wave? wi).map fun w => (wi, w)).foldl (fun xs e => insertByWaveId e xs) []
        let all := ws.flatMap fun e => (lanesOf ((e.2.splits.head?).elim 0 (·.exec))).map fun l => (e.2, l)
        let s0 := s.modBlock b fun y => { y with groups := y.groups.erase g }
        let dests := (ws.zip (upTo ws.length)).filter fun e => decide (32 * e.2 < all.length)
        let rest := (ws.zip (upTo ws.length)).filter fun e => !(decide (32 * e.2 < all.length))
        let s1 := dests.foldl (fun s e =>
          s.setWave e.1.1 (e.1.2.takeLanes ((all.drop (32 * e.2)).take 32) ((s.groupNext tag e.1.1).getD 0) s.seq)) s0
        .next (rest.foldl (fun s e => s.waveEnd e.1.1) s1)

/-! ## Fences over engine queues (08 R160) -/

/-- The queues of a mask that an operation of a block, quadrant, launch and sector may enter (08 Table 8.8). -/
def QFenceRec.covers (f : QFenceRec) (queue part block core quad launch sector : Nat) : Bool :=
  f.mask.testBit queue && f.part == part &&
    (match queue with
     | 0 => f.core == core
     | 1 | 3 => f.block == block
     | 2 => f.quad == quad && f.launch == launch
     | _ => f.sector == sector)

/-- The fences in a queue, which an operation that enters it now waits for. -/
def State.fencesOn (s : State) (w : Wave) (queue : Nat) : List Nat :=
  (s.qfences.filter fun f => f.covers queue w.part w.block w.core w.quad w.launch (sectorOf w.core)).map (·.n)

/-- An operation may start: its issuer's block-scope release is complete (08 Table 8.6) and no fence holds it. -/
def State.opFree (s : State) (rel : Nat) (fences : List Nat) : Bool :=
  !(s.releasing rel) && !(fences.any fun n => s.qfences.any fun f => f.n == n)

/-- Issue of an engine operation: the block-scope release of the issuer's writes for it, and the fences of its queue. -/
def State.opStart (s : State) (wi : Nat) (w : Wave) (queue : Nat) : Nat × List Nat × State :=
  let r := (s.unmark wi).startRelease wi 2
  (r.1, s.fencesOn w queue, r.2)

/-- Entries in a quadrant's matrix queue, fences included (12 R180). -/
def State.mxFill (s : State) (q : Nat) : Nat :=
  ((s.quad q).mxq.filter fun x => !x.done).length + (s.qfences.filter fun f => f.mask.testBit 2 && f.quad == q).length

/-- The quadrant's matrix queue is full. -/
def State.mxFull (s : State) (q : Nat) : Bool := decide (64 ≤ s.mxFill q)

/-- What a QFENCE of a wave with this mask waits for: every operation in the named queues. -/
def State.opsIn (s : State) (w : Wave) (mask : Nat) : List Nat :=
  let on (k : Nat) (xs : List Nat) : List Nat := if mask.testBit k then xs else []
  on 0 (((s.core w.core).copyQ.filter fun o => o.part == w.part).map (·.tag)) ++
  on 1 ((s.sliceQ.filter fun o => o.block == w.block).map (·.tag)) ++
  on 2 (((s.quad w.quad).mxq.filter fun o => o.launch == w.launch && !o.done).map (·.tag)) ++
  on 3 ((s.part w.part).bindings.flatMap fun b =>
    (b.inFlight.filter fun r => r.block == some w.block).map (fun r => 4294967296 + r.n) ++
    (b.drains.filter fun d => d.block == some w.block).map (·.tag)) ++
  on 4 ((s.builds.filter fun o => o.sector == sectorOf w.core && o.part == w.part && !o.written).map (·.tag))

/-- QFENCE (24 R379). -/
def execQfence (d a : Operand) (s : State) : Host.Outcome State Fault Refusal :=
  handleWord (.qfence d a) {} d (fun c s =>
    let mask := rawN c a
    if 32 ≤ mask then .trap Cause.illegal 0 c.sp.exec
    else if mask = 0 then .ok ((s.unmark c.wi).modWave c.wi fun w => w.setHandle d .done)
    else if mask.testBit 2 && s.mxFull c.w.quad then .stall s
    else
      let o := s.opStart c.wi c.w 5
      let t := o.2.2.takeTag c.w.part
      let n := t.2.stamp
      let rel := if n.2.isReleasing c.wi o.1 then [8589934592 + o.1] else []
      let f : QFenceRec := { n := n.1, mask := mask, part := c.w.part, block := c.w.block, core := c.w.core, quad := c.w.quad
                             launch := c.w.launch, sector := sectorOf c.w.core, waits := s.opsIn c.w mask ++ rel, href := hrefOf c d
                             tag := t.1 }
      let s1 := n.2.pendHandle c d t.1
      .ok (({ s1 with qfences := s1.qfences ++ [f] } : State).endWaits fun _ => false)) s

/-! ## Children (05 R94, R95, 24 R400) -/

/-- A field of a record: n bytes at an offset, little-endian. -/
def field (bs : List Byte) (o n : Nat) : Nat := leValue ((bs.drop o).take n)

/-- A launch record within the limits of 05 Table 5.4. -/
def parseRecord (bs : List Byte) (cls : Nat) : Option LaunchRec :=
  let f := field bs
  let flags := f 0x17 1
  let pred := f 0x28 4
  let lease := f 0x2C 4
  let roles := f 0x1C 4
  let ok :=
    f 0 8 % 32 = 0 ∧ 1 ≤ f 0x14 2 ∧ f 0x14 2 ≤ 128 ∧ 8 ≤ f 0x16 1 ∧ f 0x16 1 ≤ 128 ∧ f 0x16 1 % 8 = 0 ∧ flags < 4 ∧
    flags % 2 = f 0x25 1 ∧ f 0x18 4 % 32 = 0 ∧ f 0x18 4 ≤ 524288 ∧ f 0x20 2 ≤ 192 ∧ f 0x22 2 ≤ 32 ∧ f 0x24 1 ≤ 3 ∧ f 0x25 1 = cls ∧
    f 0x26 2 = 0 ∧ (pred = 0 ∨ (1 ≤ pred / 16777216 ∧ pred / 16777216 ≤ 64)) ∧ (lease = 0 ∨ (16 ≤ lease ∧ lease ≤ 4096)) ∧
    f 0x30 8 % 32 = 0 ∧ f 0x38 8 % 65536 = 0
  if ok ∧ ([0, 1, 2, 3, 4, 5, 6, 7].all fun k => decide (roles / 16 ^ k % 16 < 4)) then
    some { entry := f 0 8, args := BitVec.ofNat 64 (f 8 8), blocks := f 0x10 4, waves := f 0x14 2, regs := f 0x16 1
           early := decide (2 ≤ flags), scratch := f 0x18 4, roles := roles, tiles := f 0x20 2, slots := f 0x22 2
           priority := f 0x24 1, cls := f 0x25 1, pred := pred, lease := if lease = 0 then 256 else lease
           tbase := f 0x30 8, kbase := f 0x38 8 }
  else none

/-- The bytes of an access that an instruction makes on its own behalf at issue, as a load of the wave (08 R145); none while it must
wait: an acquire is outstanding, or a byte has no value yet. -/
def State.readNow (s : State) (c : Ctx) (va n : Nat) : Option (List Byte × State) :=
  match s.block? c.w.block with
  | none => none
  | some b =>
    if !c.w.acquires.isEmpty ∨ (c.w.pend.any fun p => match p.op with | .load l => l.acq.isSome | _ => false) ∨
        (c.w.pend.any fun p => p.split == c.sp.num && decide (p.n < c.sp.acq) && p.unsatisfied) then none
    else
      (s.sources c.wi c.w b { n := s.seq, home := false, bytes := c.w.behindAtomic va n } 0 va n).map fun xs =>
        let asid := s.asidOf c.w.part
        (xs.map (·.1), (s.served c.w va (mCpol c.sp.mode) xs).noteRead c.wi c.w.block asid va xs)

/-- Check and make an access of n bytes at an aligned address that an instruction makes on its own behalf (18 R249); the causes
are those of a uniform load. -/
def withRead (c : Ctx) (s : State) (va align n : Nat) (k : List Byte → State → Effect) : Effect :=
  if !(s.rangeOk c.w va n) then .trap Cause.aperture va c.act
  else if va % align ≠ 0 then .trap Cause.misalign va c.act
  else match if inAperture va then (s.block? c.w.block).bind (·.absentIn (va - Config.aperture) n) else none with
  | some x => .stall (s.fillFor c.w.block x.1 x.2)
  | none =>
    let gs := if inAperture va then [] else
      (upTo ((va + n - 1) / 65536 - va / 65536 + 1)).map fun i => va / 65536 + i
    match s.grant c .read gs with
    | .miss => .stall s
    | .stage2 fs s1 => .stage2 s1 (firstHeld fs) 0
    | .faults fs s1 => .fault s1 (faultRecs s c true 0 [(0, va)] fs) 0
    | .ok =>
      match s.readNow c va n with
      | none => .stall s
      | some r => k r.1 r.2

/-- Create the children of an instruction (05 R94): one for each argument, in order. -/
def State.spawnChildren (s : State) (c : Ctx) (rec_ : LaunchRec) (args : List Word) (tag rel depth : Nat) : State :=
  let cs : List Child := (args.zip (upTo args.length)).map fun e =>
    { launch := c.w.launch, wave := c.wi, record := rec_, rel := rel
      info := { tag := tag, arg := e.1, index := e.2, count := args.length, depth := depth + 1 } }
  s.modPart c.w.part fun p => { p with children := p.children ++ cs }

/-- SPAWN and SPAWNW with their record's bytes and arguments, which are read once, at issue (24 R400): a device-scope release, for which
the split waits; then the children exist, and are placed once the release is complete (05 R95). -/
def spawnRead (c : Ctx) (d : Operand) (args : List Word) (bs : List Byte) (s : State) : Effect :=
  let depth := (s.block? c.w.block).elim 0 fun b => b.child.elim 0 (·.depth)
  let cls := (s.launch? c.w.launch).elim 0 (·.record.cls)
  if 8 ≤ depth then .trap Cause.spawnDepth 0 c.sp.exec
  else
    match parseRecord bs cls with
    | none => .ok ((s.unmark c.wi).modWave c.wi fun w => w.setHandle d .failed)
    | some r =>
      if r.blocks ≠ 1 ∨ r.waves ≠ 1 then .ok ((s.unmark c.wi).modWave c.wi fun w => w.setHandle d .failed)
      else if 4096 < (s.part c.w.part).children.length + args.length then .park (s.unmark c.wi) (.room bs args)
      else
        let t := (s.unmark c.wi).takeTag c.w.part
        let rel := t.2.startRelease c.wi 0
        let op : SpawnOp := { tag := t.1, block := c.w.block, href := hrefOf c d, left := args.length, dropped := false }
        let s1 := ((rel.2.pendHandle c d t.1).modPart c.w.part fun p => { p with spawns := p.spawns ++ [op] }).spawnChildren c r
          args t.1 rel.1 depth
        waitRelease c (rel.1, s1) .quiet id

/-- SPAWN and SPAWNW. One that waited for room goes on with what it read at issue. -/
def spawnWord (i : Instr) (d a : Operand) (args : Ctx → List Word) (s : State) : Host.Outcome State Fault Refusal :=
  handleWord i {} d (fun c s =>
    match c.sp.park with
    | .wait (.room bs xs) _ _ => spawnRead c d xs bs s
    | _ => withRead c s (pairN c a) 64 64 (spawnRead c d (args c))) s

def execSpawn (d a b : Operand) (s : State) : Host.Outcome State Fault Refusal :=
  spawnWord (.spawn d a b) d a (fun c => (lanesOf c.act).map (rawLane c b)) s
def execSpawnw (d a b : Operand) (s : State) : Host.Outcome State Fault Refusal :=
  spawnWord (.spawnw d a b) d a (fun c => [rawU c b]) s

end Sys2Proof.Machine
end

