-- ==== Sys2Proof/Machine/Engines.lean ====
section
/-! DEFINITION. Stash and mirrored windows, copies, and gather and scatter at the slices (06 R129 to R142, 21 R280). -/

namespace Sys2Proof.Machine

/-! ## Engine accesses -/

/-- What an engine's access to a granule finds in the rights cache of its core (18 R253, R256, R257). -/
inductive EngCheck where
  | go
  /-- held: a walk or Bruin comes first -/
  | wait (s : State)
  /-- stage 1 refuses, with this TYPE -/
  | refuse (s : State) (type : Nat)

/-- Check an engine's access; an address beyond the global region has no mapping (log 23). -/
def State.engCheck (s : State) (p core asid va : Nat) (n : Need) : EngCheck :=
  if !(isGlobal va) then .refuse s 0
  else
    match s.access core asid va n with
    | .granted _ => .go
    | .miss => .wait s
    | .held ipa => .wait ((s.tellBruin p core asid ipa).dropRight core asid va)
    | .denied t => .refuse (s.dropRight core asid va) t

/-- What an access of the device itself, on no core's behalf, finds at the granule's home (18 R254). -/
def State.deviceCheck (s : State) (p asid va : Nat) (n : Need) : EngCheck :=
  if !(isGlobal va) then .refuse s 0
  else
    let r : Walked := match s.tlb.find (rkey asid va) with
      | some r => if r.ok then .ok r else .unmapped
      | none => s.walk p asid va
    let forget : State := { s with tlb := s.tlb.drop (rkey asid va) }
    match r with
    | .unmapped => .refuse forget 0
    | .stage2 ipa => .wait (s.tellBruin p 0 asid ipa)
    | .ok r =>
      match n.deny r.r1 r.w1 r.x1 with
      | some t => .refuse forget t
      | none => if (n.deny r.r r.w r.x).isNone && s.open? r then .go else .wait (forget.tellBruin p 0 asid r.ipa)

/-- The fault record of an engine (18 Table 18.3): its number stands in ENGINE [11:0]. -/
def engineFault (va asid type kind tag eng num : Nat) : FaultRec :=
  { va := va, pc := 0, lanes := 0, token := tag, asid := asid, type := type, kind := kind, engine := eng * 4096 + num }

/-- Queue a fault record of a partition. -/
def State.addFault (s : State) (p : Nat) (f : FaultRec) : State := s.modPart p fun x => { x with faults := x.faults ++ [f] }

/-- An engine's read or write, byte by byte within a line. -/
inductive Moved (α : Type) where
  | ok (x : α)
  | wait (s : State)
  | refuse (s : State) (va type : Nat)

/-- Read n bytes for an engine of a block from scratch or global memory: global bytes as a load of the block reads from source 2 of 08
R145 onwards (08 R159). -/
def State.engRead (s : State) (bi va n : Nat) : Moved (List Byte × State) :=
  match s.block? bi with
  | none => .wait s
  | some b =>
    let asid := s.asidOf b.part
    if inAperture va then
      (match s.fillRange bi (va - Config.aperture) n with
       | .wait s1 => .wait s1
       | .refused s1 v t => .refuse s1 v t
       | .done s1 => match (s1.block? bi).bind fun x => x.scratchRead (va - Config.aperture) n with
         | some bs => .ok (bs, s1)
         | none => .wait s1)
    else
      match s.engCheck b.part b.core asid va .read with
      | .wait s1 => .wait s1
      | .refuse s1 t => .refuse s1 va t
      | .go =>
        match (b.waves.head?).bind s.wave? with
        | none => .wait s
        | some w =>
          match s.sources 0 { w with wsb := [] } b { n := s.seq, home := false, bytes := [] } 0 va n with
          | none => .wait s
          | some xs => .ok (xs.map (·.1), s)

/-- Write bytes for an engine of a block: scratch directly, global memory at H (08 R159). -/
def State.engWrite (s : State) (bi va : Nat) (bs : List Byte) : Moved State :=
  match s.block? bi with
  | none => .wait s
  | some b =>
    let asid := s.asidOf b.part
    if inAperture va then
      (match s.fillRange bi (va - Config.aperture) bs.length with
       | .wait s1 => .wait s1
       | .refused s1 v t => .refuse s1 v t
       | .done s1 => match s1.scratchWrite bi (va - Config.aperture) bs with
         | some s2 => .ok s2
         | none => .wait s1)
    else
      match s.engCheck b.part b.core asid va .write with
      | .wait s1 => .wait s1
      | .refuse s1 t => .refuse s1 va t
      | .go =>
        let r := s.stamp
        match r.2.engineWrite asid va bs r.1 with
        | none => .wait s
        | some s1 => .ok s1

/-! ## Stash windows (06 R130 to R134, 24 R406) -/

/-- Windows of an owner in a core, by block. -/
def State.windowsOf (s : State) (p core : Nat) : List Window :=
  (s.blocks.filter fun e => e.2.part == p && e.2.core == core).flatMap fun e => e.2.windows

/-- The cause STMAP raises with its FADDR: ranges first, then alignment (24 Table 24.9, log 20). -/
def stmapCause (s : State) (w : Wave) (g o n : Nat) : Option (Nat × Nat) :=
  if s.scratchOf w < o + n then some (Cause.aperture, Config.aperture + o)
  else if !(globalRange g n) then some (Cause.aperture, g)
  else if g % 256 ≠ 0 then some (Cause.misalign, g)
  else if o % 256 ≠ 0 ∨ n % 256 ≠ 0 ∨ n = 0 then some (Cause.misalign, Config.aperture + o)
  else none

/-- STMAP. -/
def execStmap (d a b : Operand) (s : State) : Host.Outcome State Fault Refusal :=
  uniformWord (.stmap d a b) {} (fun c s =>
    let g := pairN c a
    let o := (groupLane c b 0 0).toNat
    let n := (groupLane c b 1 0).toNat
    match stmapCause s c.w g o n with
    | some (k, fa) => .trap k fa c.act
    | none =>
      let used := s.windowsOf c.w.part c.w.core
      let share := ((s.part c.w.part).shareIn c.w.core).elim 0 (·.stash)
      let overlaps := ((s.block? c.w.block).elim [] (·.windows)).any fun x => decide (o < x.off + x.len) && decide (x.off < o + n)
      let put (v : Word) (s : State) : Effect := .ok ((s.unmark c.wi).modWave c.wi fun w => w.writeGroup d c.act 1 fun _ _ => v)
      if share ≤ used.length then put 0xFFFFFFFF#32 s
      else if overlaps then put 0xFFFFFFFE#32 s
      else
        match (upTo 16).find? fun i => !(used.any fun x => x.id == i) with
        | none => put 0xFFFFFFFF#32 s
        | some i =>
          let w : Window := { id := i, off := o, len := n, base := g, lines := List.replicate (n / 256) StashLine.absent }
          put (word i) (s.modBlock c.w.block fun x => { x with windows := x.windows ++ [w] })) s

/-- A write of the wave that is still in its store buffer may reach a window (log 22). -/
def Wave.bufferedFor (w : Wave) (x : Window) : Bool :=
  w.wsb.any fun e =>
    (decide (Config.aperture + x.off ≤ e.addr) && decide (e.addr < Config.aperture + x.off + x.len)) ||
    (isGlobal e.addr && (x.covers (lineOf e.addr)).isSome)

/-- STFLUSH and STUNMAP: the window's dirty sectors are written back, and the split waits (06 R134). -/
def flushWord (i : Instr) (a : Operand) (unmap : Bool) (s : State) : Host.Outcome State Fault Refusal :=
  uniformWord i {} (fun c s =>
    let k := rawN c a
    match (s.block? c.w.block).bind (·.window? k) with
    | none => .trap Cause.illegal 0 c.sp.exec
    | some w =>
      if c.w.bufferedFor w then .stall s
      else
        let mine := ((s.block? c.w.block).elim [] fun b => b.dirtyStash c.w.block).filter fun x => x.2.1 == k
        let r := (s.unmark c.wi).startWriteBack c.wi 0 mine []
        if unmap then waitRelease c r (.unmap k) fun s => s.unmapWindow c.w.block k else waitRelease c r .proceed id) s

def execStflush (a : Operand) (s : State) : Host.Outcome State Fault Refusal := flushWord (.stflush a) a false s
def execStunmap (a : Operand) (s : State) : Host.Outcome State Fault Refusal := flushWord (.stunmap a) a true s

/-! ## Mirrored windows (06 R135 to R137, 21 R280) -/

/-- Bindings of a group id in a sector of a partition: block and binding. -/
def State.mirrorsOf (s : State) (p sec id : Nat) : List (Block × MirrorBind) :=
  (s.blocks.filter fun e => e.2.part == p && sectorOf e.2.core == sec).flatMap fun e =>
    (e.2.mirrors.filter fun m => m.id == id).map fun m => (e.2, m)

/-- The id, offset and length of an MWBIND: its operands at issue, which one that waits keeps (06 R135). -/
def mwbindArgs (c : Ctx) (a b : Operand) : Nat × Nat × Nat :=
  match c.sp.park with
  | .wait (.mirror id off len) _ _ => (id, off, len)
  | _ => (rawN c b, (groupLane c a 0 0).toNat, (groupLane c a 1 0).toNat)

/-- MWBIND (23 R362). -/
def execMwbind (a b : Operand) (s : State) : Host.Outcome State Fault Refusal :=
  uniformWord (.mwbind a b) {} (fun c s =>
    let x := mwbindArgs c a b
    let id := x.1
    let off := x.2.1
    let len := x.2.2
    if 63 < id then .trap Cause.illegal 0 c.sp.exec
    else if s.scratchOf c.w < off + len then .trap Cause.aperture (Config.aperture + off) c.act
    else if off % 32 ≠ 0 ∨ len % 32 ≠ 0 ∨ len < 32 ∨ 65536 < len then .trap Cause.misalign (Config.aperture + off) c.act
    else
      let live := (s.mirrorsOf c.w.part (sectorOf c.w.core) id).filter fun e => !e.2.ended && e.1.launch == c.w.launch
      let r := s.stamp
      let use := (live.head?).elim r.1 fun e => e.2.use
      if s.mirrorBusy c.w id then .park (s.unmark c.wi) (.mirror id off len)
      else
        let m : MirrorBind := { id := id, off := off, len := len, use := use, ended := false, at_ := r.1 }
        .ok ((r.2.unmark c.wi).modBlock c.w.block fun x => { x with mirrors := x.mirrors.filter (fun y => y.id != id) ++ [m] })) s

/-- Remove a block's binding of an id. -/
def State.dropMirror (s : State) (b id : Nat) : State :=
  s.modBlock b fun x => { x with mirrors := x.mirrors.filter fun m => m.id != id }

/-- Deliveries of a block's binding of an id that have not been performed. -/
def State.outgoing (s : State) (b id : Nat) : Bool := s.deliveries.any fun d => d.src == b && d.id == id

/-- MWUNBIND (23 R362). -/
def execMwunbind (a : Operand) (s : State) : Host.Outcome State Fault Refusal :=
  uniformWord (.mwunbind a) {} (fun c s =>
    let id := rawN c a
    let s1 := s.unmark c.wi
    if 63 < id then .trap Cause.illegal 0 c.sp.exec
    else if !(((s.block? c.w.block).elim [] (·.mirrors)).any fun m => m.id == id) then .ok s1
    else if s.outgoing c.w.block id then
      .completing (s1.modBlock c.w.block fun x => { x with mirrors := x.mirrors.map fun m => if m.id = id then { m with ended := true } else m })
        (.deliveries id)
    else .ok (s1.dropMirror c.w.block id)) s

/-! ## Copies (06 R138 to R140, 22 R315, R316) -/

/-- The last byte of a strided range lies in place, and with it every byte (06 R138). -/
def stridedOk (s : State) (w : Wave) (base rows rowBytes pitch : Nat) : Bool :=
  rows == 0 || rowBytes == 0 || s.rangeOk w (base + (rows - 1) * pitch) rowBytes

/-- Roles that may not copy, gather or scatter (05 Table 5.5). -/
def copyRole (r : Nat) : Bool := r == 0 || r == 1

/-- The wave's partition has filled its share of the core's copy queue (06 R138). -/
def State.copyFull (s : State) (w : Wave) : Bool :=
  decide (((s.part w.part).shareIn w.core).elim 0 (·.cpq) ≤ ((s.core w.core).copyQ.filter fun o => o.part == w.part).length)

/-- CPY and CPY2D at issue. -/
def copyIssue (c : Ctx) (s : State) (dst src rows rowBytes dpitch spitch : Nat) : Effect :=
  if !(stridedOk s c.w dst rows rowBytes dpitch) then .trap Cause.aperture dst c.act
  else if !(stridedOk s c.w src rows rowBytes spitch) then .trap Cause.aperture src c.act
  else if s.copyFull c.w then .stall s
  else
    let o := s.opStart c.wi c.w 0
    let t := o.2.2.takeTag c.w.part
    let x : CopyOp := { tag := t.1, part := c.w.part, block := c.w.block, wave := c.wi, dst := dst, src := src, rows := rows
                        rowBytes := rowBytes, dpitch := dpitch, spitch := spitch, moved := 0, batch := none, rel := o.1
                        fences := o.2.1, st := .ready }
    .ok (t.2.modCore c.w.core fun k => { k with copyQ := k.copyQ ++ [x] })

def execCpy (d a b : Operand) (s : State) : Host.Outcome State Fault Refusal :=
  uniformWord (.cpy d a b) { roleOk := copyRole } (fun c s => copyIssue c s (pairN c a) (pairN c b) 1 (rawN c d) 0 0) s
def execCpy2d (d a b : Operand) (s : State) : Host.Outcome State Fault Refusal :=
  uniformWord (.cpy2d d a b) { roleOk := copyRole } (fun c s =>
    let g (i : Nat) : Nat := (groupLane c d i 0).toNat
    copyIssue c s (pairN c a) (pairN c b) (g 0) (g 1) (g 2) (g 3)) s

/-- The number of the wave's next batch (06 R139). -/
def Wave.nextBatch (w : Wave) : Nat := if w.lastBatch = 4294967295 then 1 else w.lastBatch + 1

/-- CPCLOSE. -/
def execCpclose (d : Operand) (s : State) : Host.Outcome State Fault Refusal :=
  uniformWord (.cpclose d) {} (fun c s =>
    let n := c.w.nextBatch
    let s1 := s.modCore c.w.core fun k => { k with copyQ := k.copyQ.map fun o =>
      if o.wave = c.wi ∧ o.batch = none then { o with batch := some n } else o }
    .ok (s1.modWave c.wi fun w => { w.writeGroup d c.act 1 (fun _ _ => word n) with lastBatch := n })) s

/-- CPWAIT. -/
def execCpwait (a : Operand) (s : State) : Host.Outcome State Fault Refusal :=
  uniformWord (.cpwait a) {} (fun c s =>
    let n := rawN c a
    if n = 0 then .ok (s.acquireBy c.wi c.sp.num 0)
    else if c.w.lastBatch = 0 ∨ !(covered c.w.lastBatch n) then .trap Cause.illegal 0 c.sp.exec
    else
      match s.waitRes c.wi c.w c.sp.num (.copies n) with
      | .stay => .park s (.copies n)
      | .met s1 => .ok s1
      | .issue => .ok s
      | .trap cause faddr => .trap cause faddr c.sp.exec) s

/-- How many bytes a step of a copy moves at two addresses: within one 64-byte line of each, and within the row. -/
def stepBytes (dst src left : Nat) : Nat := min left (min (64 - dst % 64) (64 - src % 64))

/-- The head of an owner's copy queue changes or leaves. -/
def State.setCopy (s : State) (core : Nat) (o : CopyOp) (x : Option CopyOp) : State :=
  s.modCore core fun k => { k with copyQ := k.copyQ.filterMap fun y => if y.tag = o.tag ∧ y.part = o.part then x else some y }

/-- COPY_STEP: the oldest copy of an owner's share moves bytes; the last ends it. A fault parks it with a record (06 R140). -/
def execCopyStep (core p : Nat) (s : State) : Host.Outcome State Fault Refusal :=
  match (s.core core).copyQ.find? fun o => o.part == p with
  | none => .next s
  | some o =>
    if o.st ≠ .ready ∨ !(s.opFree o.rel o.fences) then .next s
    else if o.rows * o.rowBytes ≤ o.moved then .next ((s.setCopy core o none).endOp o.tag)
    else
      let row := o.moved / o.rowBytes
      let col := o.moved % o.rowBytes
      let dst := o.dst + row * o.dpitch + col
      let src := o.src + row * o.spitch + col
      let n := stepBytes dst src (o.rowBytes - col)
      let park (s : State) (va t kind : Nat) : State :=
        (s.setCopy core o (some { o with st := .parked })).addFault p (engineFault va (s.asidOf p) t kind o.tag 1 core)
      match s.engRead o.block src n with
      | .wait s1 => .next s1
      | .refuse s1 va t => .next (park s1 va t 5)
      | .ok (bs, s1) =>
        match s1.engWrite o.block dst bs with
        | .wait s2 => .next s2
        | .refuse s2 va t => .next (park s2 va t 6)
        | .ok s2 =>
          let o1 : CopyOp := { o with moved := o.moved + n }
          if o.rows * o.rowBytes ≤ o1.moved then .next ((s2.setCopy core o none).endOp o.tag).settleReleases
          else .next (s2.setCopy core o (some o1)).settleReleases

/-! ## Gather and scatter (06 R141, R142, 22 R327, 24 R396) -/

/-- GATH and SCAT raise ILLEGAL for an element size or a count (06 R141), which outranks ROLE (22 R327). -/
def sliceIllegal (a : Operand) (c : Ctx) : Bool :=
  c.act != 0 && c.known (codesOf 0 (a, .four)) &&
    (!([4, 8, 16, 32, 64].contains (groupLane c a 2 0).toNat) || decide (65536 < (groupLane c a 1 0).toNat))

/-- The checks of GATH and SCAT. -/
def sliceChecks (a : Operand) : Checks := { illegal := sliceIllegal a, roleOk := copyRole }

/-- The cause that the ranges and alignments of GATH or SCAT raise, with its FADDR (06 R141). -/
def sliceCause (s : State) (c : Ctx) (l n e d g : Nat) : Option (Nat × Nat × Word) :=
  if s.scratchOf c.w < l + 4 * n then some (Cause.aperture, Config.aperture + l, c.act)
  else if s.scratchOf c.w < d + e * n then some (Cause.aperture, Config.aperture + d, c.act)
  else if l % 4 ≠ 0 then some (Cause.misalign, Config.aperture + l, c.act)
  else if d % e ≠ 0 then some (Cause.misalign, Config.aperture + d, c.act)
  else if g % e ≠ 0 then some (Cause.misalign, g, c.act)
  else none

/-- Replace or remove an operation of the slice queues. -/
def State.setSlice (s : State) (o : SliceOp) (x : Option SliceOp) : State :=
  { s with sliceQ := s.sliceQ.filterMap fun y => if y.tag = o.tag ∧ y.block = o.block then x else some y }

/-- The instruction has index entries still to send. -/
def SliceOp.isOpen (o : SliceOp) : Bool := !o.cancelled && decide (o.next < o.count)

/-- The operation that a stopped GATH or SCAT goes on with, under the handle that is already pending (18 Table 18.2). -/
def State.stoppedSlice (s : State) (c : Ctx) (d : Operand) : Option SliceOp :=
  s.sliceQ.find? fun o => o.block == c.w.block && o.wave == c.wi && o.split == c.sp.num && o.next == c.sp.prog.toNat && o.isOpen &&
    (!(isH d) || handleState c.w d == .pending o.tag)

/-- How reading index entries ends. -/
inductive Indices where
  /-- those read, and the state that follows -/
  | some (xs : List Nat) (s : State)
  | wait (s : State)
  /-- stage 1 refuses the fill of the stash line at this address, with this TYPE -/
  | refused (s : State) (va type : Nat)

/-- Read up to n index entries from a scratch offset on, as loads of the wave: those before the first ABSENT stash line; the first entry
fills its line. -/
def State.readIndices (s : State) (c : Ctx) (o n : Nat) : Indices :=
  match s.block? c.w.block with
  | none => .wait s
  | some b =>
    let k := ((upTo n).takeWhile fun i => b.readable (o + 4 * i)).length
    if k = 0 then
      (match s.fillRange c.w.block o 4 with
       | .done s1 | .wait s1 => .wait s1
       | .refused s1 va t => .refused s1 va t)
    else
      match s.readNow c (Config.aperture + o) (4 * k) with
      | none => .wait s
      | some r => .some ((upTo k).map fun i => leValue ((r.1.drop (4 * i)).take 4)) r.2

/-- Index entries are sent to their slices. -/
def SliceOp.send (o : SliceOp) (xs : List Nat) : SliceOp :=
  { o with sent := o.sent ++ (xs.zip (upTo xs.length)).map (fun e => (o.next + e.2, e.1)), next := o.next + xs.length }

/-- GATH or SCAT sends entries of its operation, how many at a time the manual does not say; `enter` puts the operation that results into
the queue. While some are left the instruction issues again, and a trap or a save finds in PROG how many are sent (18 R252). A fault of the
list parks the split (18 R257, log 53). -/
def sendIndices (c : Ctx) (s : State) (o : SliceOp) (enter : State → SliceOp → State) : Effect :=
  match s.drawn.readIndices c (o.list + 4 * o.next) (1 + Config.freeNat s.free % (o.count - o.next)) with
  | .wait s1 => .stall s1
  | .refused s1 va t => .fault s1 [waveFault s c 0 t va c.act] c.sp.prog
  | .some xs s1 =>
    let x := o.send xs
    let s2 := enter s1 x
    if x.isOpen then .stall (s2.modSplit c.wi c.sp.num fun y => { y with prog := word x.next }) else .ok s2

/-- GATH and SCAT at issue. A stopped one sends the entries from PROG onwards; if its operation has ended since, it has none left to send
(log 53). -/
def sliceWord (i : Instr) (d a b : Operand) (gather : Bool) (s : State) : Host.Outcome State Fault Refusal :=
  wordOf i (sliceChecks a) (fun c s =>
    if c.sp.prog ≠ 0 then
      match s.stoppedSlice c d with
      | none => .ok (s.unmark c.wi)
      | some o => sendIndices c (s.unmark c.wi) o fun s x => s.setSlice o (some x)
    else if isH d ∧ (handleState c.w d).isPending then .park s (.free (handleOf d))
    else if c.act = 0 then .ok (s.modWave c.wi fun w => w.setHandle d .done)
    else
      let g (k : Nat) : Nat := (groupLane c a k 0).toNat
      match sliceCause s c (g 0) (g 1) (g 2) (g 3) (pairN c b) with
      | some (k, fa, m) => .trap k fa m
      | none =>
        if g 1 = 0 then .ok ((s.unmark c.wi).modWave c.wi fun w => w.setHandle d .done)
        else
          let o : SliceOp := { tag := 0, block := c.w.block, wave := c.wi, split := c.sp.num, gather := gather, base := pairN c b
                               elem := g 2, data := g 3, list := g 0, count := g 1, sent := [], next := 0, done := [], cancelled := false
                               href := hrefOf c d, rel := 0, fences := [], st := .ready }
          sendIndices c s o fun s x =>
            let r := s.opStart c.wi c.w 1
            let t := r.2.2.takeTag c.w.part
            ({ t.2 with sliceQ := t.2.sliceQ ++ [{ x with tag := t.1, rel := r.1, fences := r.2.1 }] } : State).pendHandle c d t.1) s

def execGath (d a b : Operand) (s : State) : Host.Outcome State Fault Refusal := sliceWord (.gath d a b) d a b true s
def execScat (d a b : Operand) (s : State) : Host.Outcome State Fault Refusal := sliceWord (.scat d a b) d a b false s

/-- The address of element i. -/
def SliceOp.addr (o : SliceOp) (index : Nat) : Nat := o.base + index * o.elem

/-- Everything the operation will do is done. -/
def SliceOp.finished (o : SliceOp) : Bool := decide ((if o.cancelled then o.next else o.count) ≤ o.done.length)

/-- An operation of the slice queues ends. -/
def State.endSlice (s : State) (o : SliceOp) : State :=
  ((s.setSlice o none).endHandle o.href o.tag (if o.cancelled then .cancelled else .done)).endOp o.tag

/-- SLICE_ELEMENT: a home slice reads or stores element i of the head operation of a block's queue. Of two elements of one SCAT for
one address the earlier goes first (06 R142). A fault parks the operation with a record. -/
def execSliceElement (bi n i : Nat) (s : State) : Host.Outcome State Fault Refusal :=
  match s.sliceQ.find? (fun o => o.block == bi), s.block? bi with
  | some o, some b =>
    if o.tag ≠ n ∨ o.st ≠ .ready ∨ !(s.opFree o.rel o.fences) then .next s
    else
      match o.sent.find? fun e => e.1 == i with
      | none => .next s
      | some (_, index) =>
        let asid := s.asidOf b.part
        let va := o.addr index
        let sv := o.data + o.elem * i
        let park (s : State) (va t kind : Nat) : State :=
          (s.setSlice o (some { o with st := .parked })).addFault b.part (engineFault va asid t kind o.tag 2 b.core)
        let finish (s : State) : State :=
          let o2 : SliceOp := { o with done := insertNat i o.done, sent := o.sent.filter fun e => e.1 != i }
          if o2.finished then s.endSlice o2 else s.setSlice o (some o2)
        if !o.gather ∧ o.sent.any (fun e => decide (e.1 < i) && e.2 == index) then .next s
        else
          match s.engCheck b.part b.core asid va (if o.gather then .read else .write) with
          | .wait s1 => .next s1
          | .refuse s1 t => .next (park s1 va t (if o.gather then 5 else 6))
          | .go =>
            if o.gather then
              (match s.engineRead asid va o.elem with
               | none => .next s
               | some bs => match s.engWrite bi (Config.aperture + sv) bs with
                 | .wait s2 => .next s2
                 | .refuse s2 v t => .next (park s2 v t 5)
                 | .ok s2 => .next (finish s2).settleReleases)
            else
              match s.engRead bi (Config.aperture + sv) o.elem with
              | .wait s1 => .next s1
              | .refuse s1 v t => .next (park s1 v t 5)
              | .ok (bs, s1) =>
                let r := s1.stamp
                match r.2.engineWrite asid va bs r.1 with
                | none => .next s
                | some s2 => .next (finish s2).settleReleases
  | _, _ => .next s

end Sys2Proof.Machine
end

