-- ==== Sys2Proof/Machine/Matrix.lean ====
section
/-! DEFINITION. The matrix engine of a quadrant (12 R177 to R194, 23 R363, R364): what its words check and enter at issue, what a
command computes at its engine step, and leases (05 R98). -/

namespace Sys2Proof.Machine

/-! ## Slots and tiles (12 R177 to R179) -/

/-- Slot i of a wave. -/
def Wave.slot? (w : Wave) (i : Nat) : Option MxSlot := w.slots[i]?

/-- Slot i is there and CLAIMED. -/
def Wave.claimed (w : Wave) (i : Nat) : Bool := (w.slot? i).any (·.claimed)

/-- The bytes of slot i. -/
def Wave.slotData (w : Wave) (i : Nat) : Memory := match w.slot? i with | some x => x.data | none => []

/-- Change slot i. -/
def Wave.modSlot (w : Wave) (i : Nat) (f : MxSlot → MxSlot) : Wave := { w with slots := w.slots.modify i f }

/-- The matrix words' own checks (12 R180): one split with every lane in ACT, and the matrix role. -/
def mxChecks : Checks :=
  { illConv := fun c => c.w.splits.length != 1 || c.act != allLanes, roleOk := fun r => r == 2 }

/-- The slot that MXCLAIM of a kind claims. -/
def Wave.claimable (w : Wave) (kind : Nat) : Option Nat :=
  if kind = 0 then w.slots.findIdx? fun x => !x.claimed
  else match w.slot? (kind - 1) with
    | some x => if x.claimed then none else some (kind - 1)
    | none => none

/-- MXCLAIM: fixed-latency; it enters no queue (12 R179, 23 R364). -/
def execMxclaim (d a : Operand) (s : State) : Host.Outcome State Fault Refusal :=
  wordOf (.mxclaim d a) mxChecks (fun c s =>
    let k := rawN c a
    if 32 < k ∨ (k ≠ 0 ∧ c.w.slots.length < k) then .trap Cause.illegal 0 c.sp.exec
    else
      let put (v : Word) (w : Wave) : Wave := w.writeGroup d c.act 1 fun _ _ => v
      match c.w.claimable k with
      | none => .ok (s.setWave c.wi (put 0xFFFFFFFF#32 c.w))
      | some i =>
        .ok (s.setWave c.wi (put (word i) (c.w.modSlot i fun _ => { claimed := true, relQueued := false, data := [] })))) s

/-! ## Formats -/

/-- The TYPE of a format code of 12 Tables 12.3 and 12.4. -/
def mxType (code : Nat) : Nat :=
  match code with
  | 0 => Ty.bf16x2
  | 1 => Ty.f16x2
  | 2 => Ty.f8ax4
  | 3 => Ty.f8bx4
  | 4 => Ty.f4x8
  | 5 => 7
  | 6 => 11
  | _ => Ty.f32

/-- Elements that a slot row holds in a format (12 R178). -/
def rowCapacity (ty : Nat) : Nat := 1024 / elemWidth ty

/-- N of a code of N:64. -/
def sparseN (code : Nat) : Nat := match code with | 1 => 8 | 2 => 16 | 3 => 32 | _ => 0

/-- Element k of a row of w-bit elements given by its bytes (11 R162). -/
def rowElem (byte : Nat → Byte) (w k : Nat) : Nat :=
  if w = 4 then (byte (k / 2)).toNat / 16 ^ (k % 2) % 16
  else leValue ((upTo (w / 8)).map fun i => byte (k * (w / 8) + i))

/-- Elements packed into bytes, element 0 lowest. -/
def packRow (w : Nat) (xs : List Nat) : List Byte := leBytes (packElems w xs) ((w * xs.length + 7) / 8)

/-- Bytes of a scratch row of k elements. -/
def rowBytes (w k : Nat) : Nat := (k * w + 7) / 8

/-- A MXFILL's operands (12 Table 12.3). -/
structure FillSpec where
  slot : Nat
  cmp : Bool
  n : Nat
  groups : Nat
  mslot : Nat
  src : Nat
  dst : Nat
  sat : Bool
  pitch : Nat

/-- Read a fill word and a conversion spec; none for a reserved value (12 Table 12.3, R181). -/
def FillSpec.parse (w sp : Word) : Option FillSpec :=
  let x := w.toNat
  let y := sp.toNat
  let cmp := x / 256 % 2 == 1
  let src := y % 16
  let dst := y / 16 % 16
  if x / 8192 % 8 ≠ 0 ∨ x / 1048576 ≠ 0 ∨ y / 512 % 8 ≠ 0 ∨ y / 16777216 ≠ 0 ∨ 7 < src ∨ 6 < dst ∨ y / 4096 % 4096 = 0 ∨
      isFloat (mxType src) ≠ isFloat (mxType dst) ∨
      (if cmp then x / 512 % 4 = 0 else x / 512 % 16 ≠ 0 ∨ x / 65536 % 16 ≠ 0) then none
  else some { slot := x % 256, cmp := cmp, n := sparseN (x / 512 % 4), groups := x / 2048 % 4 + 1, mslot := x / 65536 % 16
              src := mxType src, dst := mxType dst, sat := y / 256 % 2 == 1, pitch := 16 * (y / 4096 % 4096) }

/-- Elements in a source row. -/
def FillSpec.count (f : FillSpec) : Nat := if f.cmp then 64 * f.groups else rowCapacity f.dst

/-- Bytes of a source row. -/
def FillSpec.srcBytes (f : FillSpec) : Nat := rowBytes (elemWidth f.src) f.count

/-- A product's operands (12 Table 12.4). -/
structure Product where
  tile : Nat
  aSlot : Nat
  bSlot : Nat
  aStream : Bool
  bStream : Bool
  aTy : Nat
  bTy : Nat
  /-- elements of a scale block; 0 without scales -/
  blen : Nat
  e8 : Bool
  k : Nat
  /-- N of N:64; 0 when A is dense -/
  n : Nat
  sslot : Nat
  mslot : Nat
  base : Nat

/-- Read the operands of a product; none for a reserved value or a combination that 12 Table 12.5 refuses. `kind` is 0 for MXMMA, 1
for MXMMAS, 2 for MXMMASP. -/
def Product.parse (kind : Nat) (a w0 w1 : Word) : Option Product :=
  let x := a.toNat
  let y := w0.toNat
  let aF := y % 16
  let bF := y / 16 % 16
  let bl := y / 256 % 4
  let sf := y / 1024 % 4
  let kx := y / 4096 % 512
  let sp := y / 2097152 % 8
  let ss := y / 16777216 % 16
  let ms := y / 268435456
  let aT := mxType aF
  let bT := mxType bF
  let aS := x / 16777216 % 2 == 1
  let bS := x / 33554432 % 2 == 1
  let k := if kx = 0 then 256 else kx
  let bothFloat := isFloat aT && isFloat bT
  let bothInt := !(isFloat aT) && !(isFloat bT)
  let n := sparseN sp
  if x / 67108864 ≠ 0 ∨ 6 < aF ∨ 6 < bF ∨ 1 < sf ∨ 256 < kx ∨ 3 < sp ∨ (bl = 0 ∧ (sf ≠ 0 ∨ ss ≠ 0)) ∨ (sp = 0 ∧ ms ≠ 0) ∨
      (aS ∧ x / 256 % 256 ≠ 0) ∨ (bS ∧ x / 65536 % 256 ≠ 0) ∨ (aS = false ∧ bS = false ∧ w1 ≠ 0) then none
  else if kind = 0 ∧ (bl ≠ 0 ∨ sp ≠ 0 ∨ !(bothFloat || bothInt)) then none
  else if kind = 1 ∧ (bl = 0 ∨ sp ≠ 0 ∨ !bothFloat) then none
  else if kind = 2 ∧ (sp = 0 ∨ aS ∨ !(bothFloat || (bothInt && bl == 0))) then none
  else if !aS ∧ rowCapacity aT < (if kind = 2 then n * ((k + 63) / 64) else k) then none
  else if !bS ∧ rowCapacity bT < k then none
  else some { tile := x % 256, aSlot := x / 256 % 256, bSlot := x / 65536 % 256, aStream := aS, bStream := bS, aTy := aT, bTy := bT
              blen := if bl = 0 then 0 else 8 * 2 ^ bl, e8 := sf == 0, k := k, n := n, sslot := ss, mslot := ms, base := w1.toNat }

/-- Bytes between the rows of a streamed operand (12 R187). -/
def Product.pitch (p : Product) (ty : Nat) : Nat := (rowBytes (elemWidth ty) p.k + 15) / 16 * 16

/-- Where B's rows begin. -/
def Product.bBase (p : Product) : Nat := p.base + (if p.aStream then 32 * p.pitch p.aTy else 0)

/-- Bytes of all streamed rows. -/
def Product.streamed (p : Product) : Nat :=
  (if p.aStream then 32 * p.pitch p.aTy else 0) + (if p.bStream then 32 * p.pitch p.bTy else 0)

/-- Elements of a k-step (12 R184). -/
def Product.q (p : Product) : Nat :=
  let w := max (elemWidth p.aTy) (elemWidth p.bTy)
  if w = 16 then 2 else if w = 8 then 4 else 8

/-- Stored elements of A that take part (12 R186); K when A is dense. -/
def Product.stored (p : Product) : Nat := if p.n = 0 then p.k else p.n * ((p.k + 63) / 64)

/-- The number of k-steps. -/
def Product.steps (p : Product) : Nat := (p.stored + p.q - 1) / p.q

/-- A MXSTACC's store word: offset, conversion, SAT; none for a reserved value (12 R188). -/
def storeSpec (w : Word) : Option (Nat × Nat × Bool) :=
  let x := w.toNat
  if x / 536870912 ≠ 0 ∨ 5 < x / 16777216 % 16 then none
  else some (x % 16777216, x / 16777216 % 16, x / 268435456 % 2 == 1)

/-- Bytes of a stored element under a conversion. -/
def storeWidth (conv : Nat) : Nat := match conv with | 0 => 4 | 1 | 2 => 2 | _ => 1

/-! ## Checks at issue (12 R180) -/

/-- A scratch range of n bytes from an offset: APERTURE, then MISALIGN, with its FADDR. -/
def mxRange (scratch off n : Nat) : Option (Nat × Nat) :=
  if scratch < off + n then some (Cause.aperture, Config.aperture + off)
  else if off % 16 ≠ 0 then some (Cause.misalign, Config.aperture + off)
  else none

/-- The cause that the operand values of a command have, with its FADDR. -/
def mxCause (w : Wave) (scratch : Nat) (op : MxOp) : Option (Nat × Nat) :=
  let ill : Option (Nat × Nat) := some (Cause.illegal, 0)
  match op with
  | .rel i => (match w.slot? i with | some x => if !x.claimed || x.relQueued then ill else none | none => ill)
  | .fill fw sp off =>
    (match FillSpec.parse fw sp with
     | none => ill
     | some f =>
       if !(w.claimed f.slot) ∨ (f.cmp ∧ (!(w.claimed f.mslot) ∨ f.mslot = f.slot ∨ rowCapacity f.dst < f.n * f.groups)) then ill
       else mxRange scratch off (31 * f.pitch + f.srcBytes))
  | .zero t => if w.tileCount ≤ t then ill else none
  | .mma kind a w0 w1 =>
    (match Product.parse kind a w0 w1 with
     | none => ill
     | some p =>
       if w.tileCount ≤ p.tile ∨ (!p.aStream ∧ !(w.claimed p.aSlot)) ∨ (!p.bStream ∧ !(w.claimed p.bSlot)) ∨
           (p.blen ≠ 0 ∧ !(w.claimed p.sslot)) ∨ (p.n ≠ 0 ∧ !(w.claimed p.mslot)) then ill
       else if p.streamed = 0 then none else mxRange scratch p.base p.streamed)
  | .ldacc t off => if w.tileCount ≤ t then ill else mxRange scratch off 4096
  | .stacc t sw =>
    match storeSpec sw with
    | none => ill
    | some (off, conv, _) => if w.tileCount ≤ t then ill else mxRange scratch off (1024 * storeWidth conv)

/-- Enter a command in the quadrant's queue (12 R180): a block-scope release of the wave's earlier writes, and the lease if nobody
holds it (05 R98). -/
def mxEnter (c : Ctx) (s : State) (href : Option HRef) (ops : List MxOp) : Nat × State :=
  let o := s.opStart c.wi c.w 2
  let t := o.2.2.takeTag c.w.part
  let x : MxCmd := { tag := t.1, wave := c.wi, block := c.w.block, launch := c.w.launch, ops := ops, started := false, prog := 0
                     chains := [], done := false, dropped := false, failed := false, href := href, rel := o.1, fences := o.2.1, st := .ready }
  (t.1, t.2.modQuad c.w.quad fun q => { q with
    mxq := q.mxq ++ [x], lease := q.lease.or (some c.w.launch), leaseUsed := if q.lease.isSome then q.leaseUsed else 0 })

/-- The command of a word (12 R180 to R188); a word of no operand values is MXREL of slot 0. -/
def mxOpOf (c : Ctx) : Instr → MxOp
  | .mxrel a => .rel (rawN c a)
  | .mxfill _ a b => .fill (rawU c a) (groupLane c b 1 0) (groupLane c b 0 0).toNat
  | .mxzero _ a => .zero (rawN c a)
  | .mxmma _ a b => .mma 0 (rawU c a) (groupLane c b 0 0) (groupLane c b 1 0)
  | .mxmmas _ a b => .mma 1 (rawU c a) (groupLane c b 0 0) (groupLane c b 1 0)
  | .mxmmasp _ a b => .mma 2 (rawU c a) (groupLane c b 0 0) (groupLane c b 1 0)
  | .mxldacc _ a b => .ldacc (rawN c a) (rawN c b)
  | .mxstacc _ a b => .stacc (rawN c a) (rawU c b)
  | _ => .rel 0

/-- A command's word: its operand values are checked, and it enters the queue or is held by a full one (12 R180). -/
def mxWord (i : Instr) (d : Operand) (s : State) : Host.Outcome State Fault Refusal :=
  handleWord i mxChecks d (fun c s =>
    let op := mxOpOf c i
    match mxCause c.w (s.scratchOf c.w) op with
    | some (k, fa) => .trap k fa (if k = Cause.illegal then c.sp.exec else c.act)
    | none =>
      if s.mxFull c.w.quad then .stall s
      else
        let r := mxEnter c s (hrefOf c d) [op]
        .ok (r.2.pendHandle c d r.1)) s

/-- MXREL (12 R179). -/
def execMxrel (a : Operand) (s : State) : Host.Outcome State Fault Refusal :=
  wordOf (.mxrel a) mxChecks (fun c s =>
    let i := rawN c a
    match mxCause c.w 0 (.rel i) with
    | some (k, fa) => .trap k fa c.sp.exec
    | none =>
      if s.mxFull c.w.quad then .stall s
      else .ok ((mxEnter c s none [.rel i]).2.modWave c.wi fun w => w.modSlot i fun x => { x with relQueued := true })) s

def execMxfill (d a b : Operand) (s : State) : Host.Outcome State Fault Refusal :=
  mxWord (.mxfill d a b) d s
def execMxzero (d a : Operand) (s : State) : Host.Outcome State Fault Refusal :=
  mxWord (.mxzero d a) d s
def execMxmma (d a b : Operand) (s : State) : Host.Outcome State Fault Refusal :=
  mxWord (.mxmma d a b) d s
def execMxmmas (d a b : Operand) (s : State) : Host.Outcome State Fault Refusal :=
  mxWord (.mxmmas d a b) d s
def execMxmmasp (d a b : Operand) (s : State) : Host.Outcome State Fault Refusal :=
  mxWord (.mxmmasp d a b) d s
def execMxldacc (d a b : Operand) (s : State) : Host.Outcome State Fault Refusal :=
  mxWord (.mxldacc d a b) d s
def execMxstacc (d a b : Operand) (s : State) : Host.Outcome State Fault Refusal :=
  mxWord (.mxstacc d a b) d s

/-- The command of a list entry (12 R189); none for a bad opcode or a nonzero reserved field. Word 2 of an MXZERO is not looked at (log
85). -/
def listOp (bs : List Byte) : Option MxOp :=
  let w (i : Nat) : Word := word (field bs (4 * i) 4)
  match (w 0).toNat with
  | 0xB2 => some (.fill (w 1) (w 3) (w 2).toNat)
  | 0xB3 => if w 3 = 0 then some (.zero (w 1).toNat) else none
  | 0xB4 => some (.mma 0 (w 1) (w 2) (w 3))
  | 0xB5 => some (.mma 1 (w 1) (w 2) (w 3))
  | 0xB6 => some (.mma 2 (w 1) (w 2) (w 3))
  | 0xB7 => if w 3 = 0 then some (.ldacc (w 1).toNat (w 2).toNat) else none
  | 0xB8 => if w 3 = 0 then some (.stacc (w 1).toNat (w 2)) else none
  | _ => none

/-- An entry of a list that fails a check of its own, its range's too, makes the MXLIST ILLEGAL, which outranks MISALIGN of the list itself
(12 R189, 18 Table 18.1, log 24). -/
def listFails (w : Wave) (scratch : Nat) (ops : List (Option MxOp)) : Bool :=
  ops.any fun o => o.all fun op => (mxCause w scratch op).isSome

/-- MXLIST (12 R189). With B = 0 its handle is done at once: it takes no entry and waits for no room (log 85). -/
def execMxlist (d a b : Operand) (s : State) : Host.Outcome State Fault Refusal :=
  handleWord (.mxlist d a b) mxChecks d (fun c s =>
    let off := rawN c a
    let n := rawN c b
    if 256 < n then .trap Cause.illegal 0 c.sp.exec
    else withRead c s (Config.aperture + off) 1 (16 * n) fun bs s =>
      let ops := (upTo n).map fun i => listOp ((bs.drop (16 * i)).take 16)
      if listFails c.w (s.scratchOf c.w) ops then .trap Cause.illegal 0 c.sp.exec
      else if off % 16 ≠ 0 then .trap Cause.misalign (Config.aperture + off) c.act
      else if n = 0 then .ok ((s.unmark c.wi).modWave c.wi fun w => w.setHandle d .done)
      else if s.mxFull c.w.quad then .stall s
      else
        let r := mxEnter c s (hrefOf c d) (ops.filterMap id)
        .ok (r.2.pendHandle c d r.1)) s

/-! ## Engine steps: rows (12 R181, R182, R188) -/

/-- How the engine's work on a command ends. -/
inductive MxEnd where
  | done (s : State)
  /-- held at a row or k-step: what is done so far -/
  | wait (s : State) (prog : Nat) (chains : Memory)
  /-- a translation fault at a row or k-step (12 R193) -/
  | refuse (s : State) (prog : Nat) (chains : Memory) (va type : Nat)

/-- Work through rows; `fin` says what comes after the last. -/
def mxRows (fin : State → MxEnd) (row : State → Nat → Moved State) : List Nat → State → MxEnd
  | [], s => fin s
  | r :: rs, s =>
    match row s r with
    | .ok s1 => mxRows fin row rs s1
    | .wait s1 => .wait s1 r []
    | .refuse s1 va t => .refuse s1 r [] va t

/-- A scratch offset as an address. -/
def scratchVa (off : Nat) : Nat := Config.aperture + off

/-- The zero detector: ±0 of a float type, 0 of an integer type (12 R182). -/
def isZeroElem (ty x : Nat) : Bool := if isFloat ty then x % (fmtOf ty).signBit == 0 else x == 0

/-- Ascending insertion of an (index, element) pair (log 44). -/
def insertIdx (e : Nat × Nat) : List (Nat × Nat) → List (Nat × Nat)
  | [] => [e]
  | x :: xs => if e.1 < x.1 then e :: x :: xs else x :: insertIdx e xs

/-- N:64 compression of one group: the first n nonzero elements, padded with +0 at the lowest unused indices, in ascending index
order (12 R182). -/
def compressGroup (ty n : Nat) (xs : List Nat) : List (Nat × Nat) :=
  let es := (upTo xs.length).zip xs
  let kept := (es.filter fun e => !(isZeroElem ty e.2)).take n
  let free := (upTo 64).filter fun i => !(kept.any fun e => e.1 == i)
  ((free.take (n - kept.length)).map fun i => (i, 0)).foldl (fun l e => insertIdx e l) kept

/-- Replace row r of a slot: bytes, the rest zero. -/
def MxSlot.setRow (x : MxSlot) (r : Nat) (bs : List Byte) : MxSlot :=
  { x with data := ((x.data.clear (128 * r) 128).write (128 * r) (bs.take 128)) }

/-- MXFILL's row r (12 R181, R182). -/
def fillRow (wi bi off : Nat) (f : FillSpec) (s : State) (r : Nat) : Moved State :=
  match s.engRead bi (scratchVa (off + r * f.pitch)) f.srcBytes with
  | .wait s1 => .wait s1
  | .refuse s1 va t => .refuse s1 va t
  | .ok (bs, s1) =>
    let byte (i : Nat) : Byte := nth bs i 0
    let xs := (upTo f.count).map fun k =>
      let x := rowElem byte (elemWidth f.src) k
      if f.src = f.dst then x else (cvtElem f.src f.dst 0 f.sat x).1
    if f.cmp then
      let gs := (upTo f.groups).flatMap fun g => compressGroup f.dst f.n ((xs.drop (64 * g)).take 64)
      let row := packRow (elemWidth f.dst) (gs.map (·.2))
      let meta_ := packRow 6 (gs.map (·.1))
      .ok (s1.modWave wi fun w => (w.modSlot f.slot fun x => x.setRow r row).modSlot f.mslot fun x => x.setRow r meta_)
    else .ok (s1.modWave wi fun w => w.modSlot f.slot fun x => x.setRow r (packRow (elemWidth f.dst) xs))

/-- Row m of a tile, as 128 bytes. -/
def Wave.tileRow (w : Wave) (t m : Nat) : List Byte := w.tiles.read (4096 * t + 128 * m) 128

/-- Write bytes of a tile from row m on. -/
def Wave.setTile (w : Wave) (t m : Nat) (bs : List Byte) : Wave := { w with tiles := w.tiles.write (4096 * t + 128 * m) bs }

/-- MXZERO's row m. -/
def zeroRow (wi t : Nat) (s : State) (m : Nat) : Moved State :=
  .ok (s.modWave wi fun w => { w with tiles := w.tiles.clear (4096 * t + 128 * m) 128 })

/-- MXLDACC's row m. -/
def ldaccRow (wi bi t off : Nat) (s : State) (m : Nat) : Moved State :=
  match s.engRead bi (scratchVa (off + 128 * m)) 128 with
  | .wait s1 => .wait s1
  | .refuse s1 va k => .refuse s1 va k
  | .ok (bs, s1) => .ok (s1.modWave wi fun w => w.setTile t m bs)

/-- A tile element under a conversion of 12 R188. -/
def storeElem (conv : Nat) (sat : Bool) (x : Nat) : Nat :=
  match conv with
  | 1 => (cvtElem Ty.f32 Ty.bf16x2 0 sat x).1
  | 2 => (cvtElem Ty.f32 Ty.f16x2 0 sat x).1
  | 3 => (cvtElem Ty.f32 Ty.f8ax4 0 sat x).1
  | 4 => (cvtElem Ty.f32 Ty.f8bx4 0 sat x).1
  | 5 => (cvtElem Ty.i32 7 0 true x).1
  | _ => x

/-- MXSTACC's row m. -/
def staccRow (wi bi t off conv : Nat) (sat : Bool) (s : State) (m : Nat) : Moved State :=
  match s.wave? wi with
  | none => .wait s
  | some w =>
    let row := w.tileRow t m
    let xs := (upTo 32).map fun n => storeElem conv sat (field row (4 * n) 4)
    s.engWrite bi (scratchVa (off + storeWidth conv * 32 * m)) (packRow (8 * storeWidth conv) xs)

/-! ## Engine steps: products (12 R185 to R187, 11 R175, R176) -/

/-- The logical k of stored element j of row m of A (12 R186), and j itself when A is dense. -/
def Product.logical (p : Product) (w : Wave) (m j : Nat) : Nat :=
  if p.n = 0 then j
  else
    let row := (w.slotData p.mslot).readLe (128 * m) 128
    64 * (j / p.n) + row / 2 ^ (6 * j) % 64

/-- The range of k that k-step t may touch. -/
def Product.kRange (p : Product) (t : Nat) : Nat × Nat :=
  let j0 := t * p.q
  let j1 := min ((t + 1) * p.q) p.stored
  if p.n = 0 then (j0, j1) else (64 * (j0 / p.n), min p.k (64 * ((j1 - 1) / p.n) + 64))

/-- The 32 rows of a streamed operand that a k-step needs: bytes of k in [lo, hi), from the byte that holds lo. -/
def streamRows (bi base pitch w lo hi : Nat) : List Nat → State → List (List Byte) → Moved (List (List Byte) × State)
  | [], s, acc => .ok (acc.reverse, s)
  | r :: rs, s, acc =>
    match s.engRead bi (scratchVa (base + r * pitch + lo * w / 8)) (rowBytes w hi - lo * w / 8) with
    | .wait s1 => .wait s1
    | .refuse s1 va t => .refuse s1 va t
    | .ok (bs, s1) => streamRows bi base pitch w lo hi rs s1 (bs :: acc)

/-- Element k of row r of an operand: from its slot, or from the bytes of a k-step that begin at k = lo. -/
def operandElem (w : Wave) (slot : Nat) (rows : Option (Nat × List (List Byte))) (wd r k : Nat) : Nat :=
  match rows with
  | none => rowElem (fun i => Memory.get (w.slotData slot) (128 * r + i)) wd k
  | some (lo, xs) => rowElem (fun i => nth (nth xs r []) (i - lo * wd / 8) 0) wd k

/-- The scale of a row's block of k (12 R185): `side` is 0 for A and 64 for B. -/
def Product.scale (p : Product) (w : Wave) (side r k : Nat) : FVal :=
  if p.blen = 0 then .fin false 1 0
  else
    let b := (Memory.get (w.slotData p.sslot) (128 * r + side + k / p.blen)).toNat
    if p.e8 then e8Scale b else f8aScale b

/-- A chain takes in the exact sum of its terms, rounded once (11 R175, R176). -/
def chainAdd (e : Nat) (ts : List FVal) : Nat :=
  let acc := (ts.foldl Acc.addV Acc.zero).addV (unpack fmtF32 e)
  match acc.special fmtF32 with
  | some r => r.1
  | none => (roundDy fmtF32 0 false false acc.sum).1

/-- Both chains of an element after a k-step: terms with their logical k. -/
def chainStep (float : Bool) (eo : Nat × Nat) (ts : List (Nat × FVal × Int)) : Nat × Nat :=
  if float then
    let of (par : Nat) : List FVal := (ts.filter fun x => x.1 % 2 == par).map fun x => x.2.1
    (chainAdd eo.1 (of 0), chainAdd eo.2 (of 1))
  else (wrap 32 (ts.foldl (fun (n : Int) x => n + x.2.2) eo.1), eo.2)

/-- The terms of element (m, n) in k-step t: logical k, and the exact product as a float or an integer. -/
def Product.terms (p : Product) (w : Wave) (ra rb : Option (Nat × List (List Byte))) (t m n : Nat) : List (Nat × FVal × Int) :=
  let j0 := t * p.q
  let float := isFloat p.aTy
  (upTo (min ((t + 1) * p.q) p.stored - j0)).filterMap fun i =>
    let j := j0 + i
    let k := p.logical w m j
    if p.k ≤ k then none
    else
      let x := operandElem w p.aSlot ra (elemWidth p.aTy) m j
      let y := operandElem w p.bSlot rb (elemWidth p.bTy) n k
      if float then
        some (k, mulV (mulV (unpack (fmtOf p.aTy) x) (p.scale w 0 m k)) (mulV (unpack (fmtOf p.bTy) y) (p.scale w 64 n k)), 0)
      else some (k, .fin false 0 0, intVal true (elemWidth p.aTy) x * intVal true (elemWidth p.bTy) y)

/-- Chains as the bytes E, O of each element. -/
def packChains (eos : List (Nat × Nat)) : Memory := Memory.write [] 0 (eos.flatMap fun x => leBytes x.1 4 ++ leBytes x.2 4)

/-- The chains of a command: what it kept when it stopped, or E the tile's elements and O +0 (11 R175). -/
def Product.chains (p : Product) (w : Wave) (prog : Nat) (kept : Memory) : List (Nat × Nat) :=
  (upTo 1024).map fun i =>
    if prog = 0 then (w.tiles.readLe (4096 * p.tile + 4 * i) 4, 0) else (kept.readLe (8 * i) 4, kept.readLe (8 * i + 4) 4)

/-- The element that chains end in. -/
def Product.result (p : Product) (eo : Nat × Nat) : Nat :=
  if isFloat p.aTy then (faddV fmtF32 0 (unpack fmtF32 eo.1) (unpack fmtF32 eo.2)).1 else eo.1

/-- The tile takes what the chains end in. -/
def Product.land (p : Product) (wi : Nat) (eos : List (Nat × Nat)) (s : State) : State :=
  s.modWave wi fun w => w.setTile p.tile 0 (eos.flatMap fun eo => leBytes (p.result eo) 4)

/-- Work through k-steps of a product; `fin` says what comes after the last. -/
def mxSteps (fin : State → List (Nat × Nat) → MxEnd) (p : Product) (wi bi : Nat) : List Nat → State → List (Nat × Nat) → MxEnd
  | [], s, eos => fin s eos
  | t :: ts, s, eos =>
    let kr := p.kRange t
    let ra : Moved (Option (Nat × List (List Byte)) × State) :=
      if p.aStream then
        (match streamRows bi p.base (p.pitch p.aTy) (elemWidth p.aTy) kr.1 kr.2 lanes s [] with
         | .ok (xs, s1) => .ok (some (kr.1, xs), s1)
         | .wait s1 => .wait s1
         | .refuse s1 va ty => .refuse s1 va ty)
      else .ok (none, s)
    match ra with
    | .wait s1 => .wait s1 t (packChains eos)
    | .refuse s1 va ty => .refuse s1 t (packChains eos) va ty
    | .ok (a, s1) =>
      let rb : Moved (Option (Nat × List (List Byte)) × State) :=
        if p.bStream then
          (match streamRows bi p.bBase (p.pitch p.bTy) (elemWidth p.bTy) kr.1 kr.2 lanes s1 [] with
           | .ok (xs, s2) => .ok (some (kr.1, xs), s2)
           | .wait s2 => .wait s2
           | .refuse s2 va ty => .refuse s2 va ty)
        else .ok (none, s1)
      match rb with
      | .wait s2 => .wait s2 t (packChains eos)
      | .refuse s2 va ty => .refuse s2 t (packChains eos) va ty
      | .ok (b, s2) =>
        match s2.wave? wi with
        | none => .done s2
        | some w =>
          let eos1 := (upTo 1024).zip eos |>.map fun x => chainStep (isFloat p.aTy) x.2 (p.terms w a b t (x.1 / 32) (x.1 % 32))
          mxSteps fin p wi bi ts s2 eos1

/-! ## Commands in their queue (12 R190 to R194) -/

/-- Rows or k-steps from the first not done, as far as the engine goes now: all of them, or at most `lim`. -/
def stepsNow (lim : Option Nat) (prog n : Nat) : List Nat :=
  (upTo n).filter fun i => decide (prog ≤ i) && lim.all fun k => decide (i < prog + k)

/-- What comes after the rows or k-steps that the engine did now: the end of the command, or the next of them (12 R193). -/
def afterSteps (lim : Option Nat) (prog n : Nat) (s : State) (chains : Memory) (done : MxEnd) : MxEnd :=
  match lim with
  | some k => if prog + k < n then .wait s (prog + k) chains else done
  | none => done

/-- The engine's work on one command from its progress on. -/
def MxOp.run (lim : Option Nat) (op : MxOp) (wi bi prog : Nat) (kept : Memory) (s : State) : MxEnd :=
  let rows (row : State → Nat → Moved State) : MxEnd :=
    mxRows (fun s => afterSteps lim prog 32 s [] (.done s)) row (stepsNow lim prog 32) s
  match op with
  | .rel i => .done (s.modWave wi fun w => w.modSlot i fun _ => { claimed := false, relQueued := false, data := [] })
  | .fill fw sp off =>
    (match FillSpec.parse fw sp with
     | none => .done s
     | some f => rows (fillRow wi bi off f))
  | .zero t => rows (zeroRow wi t)
  | .ldacc t off => rows (ldaccRow wi bi t off)
  | .stacc t sw =>
    (match storeSpec sw with
     | none => .done s
     | some (off, conv, sat) => rows (staccRow wi bi t off conv sat))
  | .mma kind a w0 w1 =>
    match Product.parse kind a w0 w1, s.wave? wi with
    | some p, some w =>
      mxSteps (fun s eos => afterSteps lim prog p.steps s (packChains eos) (.done (p.land wi eos s))) p wi bi
        (stepsNow lim prog p.steps) s (p.chains w prog kept)
    | _, _ => .done s

/-- Other launches have commands queued in a quadrant (05 R98). -/
def Quad.waiting (q : Quad) : List Nat := (q.mxq.filter fun x => !x.done && q.lease != some x.launch).map (·.launch)

/-- The lease length of a launch, in commands. -/
def State.leaseOf (s : State) (l : Nat) : Nat := (s.launch? l).elim 256 (·.record.lease)

/-- When the lease is used up and no other launch waits, the holder's count starts again (05 R98). -/
def State.renewLease (s : State) (q : Nat) : State :=
  s.modQuad q fun k =>
    if k.waiting.isEmpty && k.lease.any fun l => decide (s.leaseOf l ≤ k.leaseUsed) then { k with leaseUsed := 0 } else k

/-- Replace or remove a command of a quadrant: what an exited wave's last command held is room again (05 R92, 12 R177). -/
def State.setMx (s : State) (q : Nat) (x : MxCmd) (y : Option MxCmd) : State :=
  let s1 := (s.modQuad q fun k => { k with mxq := k.mxq.filterMap fun z => if z.tag = x.tag then y else some z }).renewLease q
  if (s.wave? x.wave).any (·.exited) then s1.freeRoom (q / 4) else s1

/-- The first command of its launch that has not been performed (12 R190). -/
def Quad.firstOf (q : Quad) (l : Nat) : Option MxCmd := q.mxq.find? fun x => x.launch == l && !x.done

/-- A command ends: it has been performed; its handle follows after its delay, and one without a handle is gone (12 R180, Table
12.6). -/
def State.mxPerformed (s : State) (q : Nat) (x : MxCmd) : State :=
  (s.setMx q x (if x.href.isSome then some { x with done := true, ops := [], started := false, chains := [] } else none)).endOp x.tag

/-- The head command of an entry has ended; the rest of a list follows in its order (12 R189). -/
def State.mxNext (s : State) (q : Nat) (x : MxCmd) : State :=
  let y : MxCmd := { x with ops := x.ops.drop 1, started := false, prog := 0, chains := [] }
  let s1 := s.modQuad q fun k => { k with mxprog := 0 }
  if y.ops.isEmpty then s1.mxPerformed q y else s1.setMx q x (some y)

/-- The engine may start a command of the holder: its lease lasts (05 R98). -/
def State.leaseAllows (s : State) (q l : Nat) : Bool :=
  let k := s.quad q
  k.lease == some l && decide (k.leaseUsed < s.leaseOf l)

/-- Count a command that starts. -/
def State.leaseCount (s : State) (q : Nat) : State :=
  (s.modQuad q fun k => { k with leaseUsed := k.leaseUsed + 1 }).renewLease q

/-- The kind of record of a matrix command's fault: a store of a tile is a write. -/
def MxOp.faultKind : MxOp → Nat
  | .stacc _ _ => 6
  | _ => 5

/-- The engine works on command n of a quadrant, in strict order within its launch (12 R190): to its end, or at most `lim` of its rows or
k-steps, which MXPROG then counts (12 R193). -/
def State.mxWork (lim : Option Nat) (q n : Nat) (s : State) : State :=
  match (s.quad q).mxq.find? fun x => x.tag == n with
  | none => s
  | some x =>
    match x.ops with
    | [] => s
    | op :: _ =>
      if ((s.quad q).firstOf x.launch).map (·.tag) ≠ some n ∨ x.st = .parked ∨ !(s.opFree x.rel x.fences) ∨
          (x.started = false ∧ !(s.leaseAllows q x.launch)) then s
      else
        let s0 := if x.started then s else s.leaseCount q
        match op.run lim x.wave x.block x.prog x.chains s0 with
        | .done s1 => (s1.mxNext q x).settleReleases
        | .wait s1 p ch =>
          (s1.setMx q x (some { x with started := true, prog := p, chains := ch })).modQuad q fun k => { k with mxprog := p }
        | .refuse s1 p ch va t =>
          let s2 := (s1.setMx q x (some { x with started := true, prog := p, chains := ch, st := .parked })).modQuad q fun k =>
            { k with mxprog := p }
          let part := (s.block? x.block).elim 0 (·.part)
          s2.addFault part (engineFault va (s.asidOf part) t op.faultKind x.tag 3 q)

/-- MATRIX_COMMAND: the engine does the rest of command n of a quadrant. -/
def execMatrixCommand (q n : Nat) (s : State) : Host.Outcome State Fault Refusal := .next (s.mxWork none q n)

/-- MATRIX_COMMAND_DONE: the completion delay of a performed command is over, and its handle ends (12 Table 12.6, 22 R329). -/
def execMatrixCommandDone (q n : Nat) (s : State) : Host.Outcome State Fault Refusal :=
  match (s.quad q).mxq.find? fun x => x.tag == n && x.done with
  | none => .next s
  | some x =>
    .next ((s.setMx q x none).endHandle x.href x.tag
      (if x.dropped then .cancelled else if x.failed then .failed else .done))

/-- The launch that the engine goes to: highest record priority, then fetched earliest (05 R98). -/
def State.leaseHeir (s : State) (q : Nat) : Option Nat :=
  let key (l : Nat) : Nat × Nat := (s.launch? l).elim (0, 0) fun x => (x.record.priority, x.order)
  match (s.quad q).waiting with
  | [] => none
  | l :: ls => some (ls.foldl (fun b l =>
      if (key b).1 < (key l).1 ∨ ((key b).1 = (key l).1 ∧ (key l).2 < (key b).2) then l else b) l)

/-- LEASE_PASS: at a command boundary the engine passes to a waiting launch, when the lease is used up or the holder has nothing
queued (05 R98). -/
def execLeasePass (q : Nat) (s : State) : Host.Outcome State Fault Refusal :=
  let k := s.quad q
  let held := k.mxq.filter fun x => !x.done && k.lease == some x.launch
  let used := match k.lease with | none => true | some l => decide (s.leaseOf l ≤ k.leaseUsed)
  match s.leaseHeir q with
  | none => .next s
  | some l =>
    if held.any (·.started) ∨ !(used || held.isEmpty) then .next s
    else .next (s.modQuad q fun k => { k with lease := some l, leaseUsed := 0 })

/-- A command that cannot go on (12 R194): a product's tile holds what its k-steps came to; later commands run normally. -/
def State.mxFail (s : State) (q : Nat) (x : MxCmd) : State :=
  let s1 := match x.ops with
    | .mma kind a w0 w1 :: _ =>
      (match Product.parse kind a w0 w1, s.wave? x.wave with
       | some p, some w => p.land x.wave (p.chains w x.prog x.chains) s
       | _, _ => s)
    | _ => s
  s1.mxNext q { x with st := .ready, failed := true }

/-- HCANCEL of a command (22 Table 22.8): commands whose step has not started are dropped. -/
def State.mxCancel (s : State) (q : Nat) (x : MxCmd) : State :=
  if x.done then s
  else if x.started then s.setMx q x (some { x with ops := x.ops.take 1, dropped := x.dropped || decide (1 < x.ops.length) })
  else ((s.setMx q x none).endHandle x.href x.tag .cancelled).endOp x.tag

end Sys2Proof.Machine
end

