-- ==== Sys2Proof/Machine/Place.lean ====
section
/-! DEFINITION. Placing blocks and waves (05 R88, R91, R93, 06 R113): room in a core, the scratch position, and the state a wave
starts in. -/

namespace Sys2Proof.Machine

/-- The role of a wave of a record (05 R90). -/
def LaunchRec.role (r : LaunchRec) (waveId : Nat) : Nat := r.roles / 16 ^ (waveId % 8) % 16

/-- What a wave takes of its quadrant: vector registers, accumulator tiles, operand slots (05 R90, R91). -/
def LaunchRec.need (r : LaunchRec) (role : Nat) : Nat × Nat × Nat := (r.regs, if role = 2 then (r.tiles, r.slots) else (0, 0))

/-- A quadrant's use: waves, vector registers, tiles, slots. An exited wave keeps its tiles and slots until its queued commands have
been performed (12 R177). -/
def State.quadUse (s : State) (q : Nat) : Nat × Nat × Nat × Nat :=
  (s.waves.filter fun e => e.2.quad == q && e.2.res == .resident).foldl (fun (u : Nat × Nat × Nat × Nat) e =>
    let busy := (s.quad q).mxq.any fun x => x.wave == e.1 && !x.done
    if e.2.exited ∧ !busy then u
    else (u.1 + (if e.2.exited then 0 else 1), u.2.1 + (if e.2.exited then 0 else e.2.footprint), u.2.2.1 + e.2.tileCount,
      u.2.2.2 + e.2.slots.length)) (0, 0, 0, 0)

/-- A use stays within a quadrant (05 R91). -/
def useOk (u : Nat × Nat × Nat × Nat) : Bool :=
  decide (u.1 ≤ 32) && decide (u.2.1 ≤ 2048) && decide (u.2.2.1 ≤ 192) && decide (u.2.2.2 ≤ 32)

/-- The quadrant of wave w of a block in a core (05 R91). -/
def Part.quadFor (p : Part) (core w : Nat) : Nat :=
  let qs := p.quadsIn core
  if qs.isEmpty then 0 else nth qs (w % qs.length) 0

/-- Add a wave's needs to a use. -/
def addUse (u : Nat × Nat × Nat × Nat) (n : Nat × Nat × Nat) : Nat × Nat × Nat × Nat :=
  (u.1 + 1, u.2.1 + n.1, u.2.2.1 + n.2.1, u.2.2.2 + n.2.2)

/-- The needs of the waves of a block, in ascending WAVEID. -/
def LaunchRec.needs (r : LaunchRec) (n : Nat) : List (Nat × Nat × Nat) := (upTo n).map fun w => r.need (r.role w)

/-- Waves with these needs fit a core's quadrants beside what they hold. -/
def State.quadsFit (s : State) (p : Part) (core : Nat) (empty : Bool) (needs : List (Nat × Nat × Nat)) : Bool :=
  let qs := p.quadsIn core
  !qs.isEmpty && qs.all fun q =>
    let mine := ((upTo needs.length).zip needs).filter fun e => p.quadFor core e.1 == q
    useOk (mine.foldl (fun u e => addUse u e.2) (if empty then (0, 0, 0, 0) else s.quadUse q))

/-- Bytes of scratch a partition owns in a core (06 R113). -/
def Part.banked (p : Part) (core : Nat) : Nat := 16384 * (p.shareIn core).elim 0 (·.nbank)

/-- The scratch ranges that blocks of a partition occupy in a core: position and size (06 R113). -/
def State.scratchUsed (s : State) (p core : Nat) : List (Nat × Nat) :=
  (s.blocks.filter fun e => e.2.part == p && e.2.core == core && !e.2.exited && !e.2.saved && decide (0 < e.2.record.scratch)).map fun e =>
    (e.2.pos, e.2.record.scratch)

/-- The lowest multiple of 32 at which n bytes of scratch are free (06 R113). -/
def scratchPos (used : List (Nat × Nat)) (total n : Nat) : Option Nat :=
  let free (a : Nat) : Bool := decide (a + n ≤ total) && used.all fun u => decide (a + n ≤ u.1) || decide (u.1 + u.2 ≤ a)
  let cs := (0 :: used.map fun u => (u.1 + u.2 + 31) / 32 * 32).filter free
  match cs with
  | [] => none
  | c :: rest => some (rest.foldl min c)

/-- The scratch position of a block that fits a core now; none if it does not fit (05 R91). -/
def State.roomFor (s : State) (p core : Nat) (r : LaunchRec) (n : Nat) : Option Nat :=
  if s.quadsFit (s.part p) core false (r.needs n) then scratchPos (s.scratchUsed p core) ((s.part p).banked core) r.scratch else none

/-- A block of a record could ever fit a core (05 R91). -/
def State.everFits (s : State) (p core : Nat) (r : LaunchRec) (n : Nat) : Bool :=
  s.quadsFit (s.part p) core true (r.needs n) && decide (r.scratch ≤ (s.part p).banked core)

/-- A vector of 64 scalar registers from a list of first words, the rest 0. -/
def scalarsOf (xs : List Nat) : Vector Word 64 := Vector.ofFn fun i => word (nth xs i.val 0)

/-- Low and high word of a 64-bit number. -/
def lowHigh (x : Nat) : List Nat := [x % 4294967296, x / 4294967296]

/-- What distinguishes the waves of a block as they start. -/
structure Start where
  part : Nat
  block : Nat
  launch : Nat
  core : Nat
  blockId : Nat
  /-- waves per block, and blocks, as WAVESPB and NBLOCKS read -/
  size : Nat
  record : LaunchRec
  child : Option ChildInfo
  live : Word

/-- A wave as it starts (05 R88, R94): one split at a PC, every register 0 but the given ones. -/
def startWave (b : Start) (quad waveId role token pc at_ : Nat) (sregs : List Nat) : Wave :=
  let n := b.record.need role
  { part := b.part, block := b.block, launch := b.launch, core := b.core, quad := quad, waveId := waveId, role := role
    footprint := n.1, depth := b.child.elim 0 (·.depth), token := token, v := Vector.replicate 128 (Vector.replicate 32 0)
    s := scalarsOf sregs, p := Vector.replicate 8 0, h := Vector.replicate 16 .empty, alive := b.live
    splits := [newSplit 0 pc b.live b.live 0 none at_], mons := [], stack := [], cause := 0, faddr := 0, fmask := 0
    ks := Vector.replicate 4 0, prog := 0, fpflags := 0, qsize := 64, tbase := BitVec.ofNat 64 b.record.tbase
    kbase := BitVec.ofNat 64 b.record.kbase, trap := none, bruin := [], succgo := false, mark := none, rewindable := false
    pend := [], wsb := [], releases := [], relHolds := [], acquires := [], lastBatch := 0, failedBatches := [], tileCount := n.2.1
    tiles := [], slots := List.replicate n.2.2 { claimed := false, relQueued := false, data := [] }, keyed := none, barPhase := []
    res := .resident, preempt := .none, guest := none, exited := false }

/-- The scalar registers a launch wave starts with (05 R88), or a child (05 R94). -/
def Start.scalars (b : Start) (waveId : Nat) : List Nat :=
  let args := lowHigh b.record.args.toNat
  match b.child with
  | none => args ++ [b.blockId, waveId, b.record.blocks, b.size]
  | some c => args ++ [c.arg.toNat, c.index, c.count, c.depth]

/-- A block as it starts, its units empty (05 R99, R100). -/
def startBlock (b : Start) (pos : Nat) (waves : List Nat) : Block :=
  { part := b.part, launch := b.launch, blockId := b.blockId, core := b.core, pos := pos, size := b.size, waves := waves
    child := b.child, record := b.record, scratch := [], oq := []
    rings := List.replicate 8 { slots := List.replicate 8 { st := .empty, phase := false, lap := false }, prod := 0, prodLap := false
                                cons := 0, consLap := false, acqs := [], gets := [] }
    bars := List.replicate 16 { arrivals := 0, expected := 0, fixed := false, phase := 0, who := [] }
    groups := [], windows := [], mirrors := [], seen := [], resv := [], wbFaults := [], saved := false, exited := false
    keyed := false, complete := false }

/-- The next partition wave number (18 R259). -/
def State.takeWaveNumber (s : State) (p : Nat) : Nat × State :=
  ((s.part p).waveCounter, s.modPart p fun x => { x with waveCounter := (x.waveCounter + 1) % 1073741824 })

/-- Place wave `waveId` of a block. -/
def State.placeWave (s : State) (b : Start) (key waveId role pc : Nat) (sregs : List Nat) : State :=
  let t := s.takeWaveNumber b.part
  t.2.setWave key (startWave b ((s.part b.part).quadFor b.core waveId) waveId role t.1 pc s.seq sregs)

/-- Place a block of n waves at a scratch position (05 R93). The keys of its records are order stamps. -/
def State.placeBlock (s : State) (part launch core blockId size pos n : Nat) (r : LaunchRec) (child : Option ChildInfo) : State :=
  let k := s.stamp
  let keys := (upTo n).map fun i => k.1 + 1 + i
  let s1 : State := { k.2 with seq := k.1 + 1 + n }
  let b : Start := { part := part, block := k.1, launch := launch, core := core, blockId := blockId, size := size, record := r
                     child := child, live := allLanes }
  let s2 := s1.setBlock k.1 (startBlock b pos keys)
  ((upTo n).zip keys).foldl (fun s e => s.placeWave b e.2 e.1 (r.role e.1) r.entry (b.scalars e.1)) s2

/-- The device wakes a gated core when a wave is placed there (05 R105). -/
def State.wakeCore (s : State) (c : Nat) : State := { s with cores := s.cores.modify c fun x => { x with gated := false } }

end Sys2Proof.Machine
end

