-- ==== Sys2Proof/Machine/Keyed.lean ====
section
/-! DEFINITION. Keyed stages (14 R195 to R208): binding, pushing, the homes and their contexts, keyed waves, retirement, spills and
drains. -/

namespace Sys2Proof.Machine

/-! ## Bindings (14 R195 to R198) -/

/-- Change the home of a core in a binding. -/
def Binding.modHome (b : Binding) (core : Nat) (f : Home → Home) : Binding :=
  { b with homes := b.homes.map fun h => if h.core = core then f h else h }

/-- The home of a core. -/
def Binding.home? (b : Binding) (core : Nat) : Option Home := b.homes.find? fun h => h.core == core

/-- The oldest record of a key that waits at a home. -/
def Home.next (h : Home) (key : Nat) : Option KRec := h.recs.find? fun r => r.key == key

/-- A context has reached the idle limit (14 R206). -/
def Binding.due (b : Binding) (h : Home) (c : KCtx) : Bool := b.idle != 0 && decide (b.idle ≤ h.arrivals - c.mark)

/-- Why a context is runnable (14 R203). -/
inductive RunWhy where
  | record | retire | drain
deriving DecidableEq, Repr

/-- A drain has reached a home's contexts: every record accepted there before it started has been delivered (14 R207). -/
def Binding.drainReaches (b : Binding) (h : Home) (n : Nat) : Bool :=
  b.drains.any fun d => d.n == n && !(h.recs.any fun r => d.before.contains r.n)

/-- Whether and why a context that is not running is runnable: a drain that has reached it (R207), its key's next record, or
retirement (R206). -/
def Binding.why (b : Binding) (h : Home) (c : KCtx) : Option RunWhy :=
  if c.st = .running then none
  else if c.drains.any (b.drainReaches h) then some .drain
  else if (h.next c.key).isSome then some .record
  else if b.due h c then some .retire
  else none

/-- Keys not seen whose first record waits at a home, in arrival order. -/
def Home.unseen (h : Home) : List Nat :=
  h.recs.foldl (fun ks r => if ks.contains r.key ∨ (h.ctxs.any fun c => c.key == r.key) then ks else ks ++ [r.key]) []

/-- Note at CLK t of its core what has become runnable at a home, or no longer is: contexts, and first records of unseen keys (14 R203). -/
def Home.mark (h : Home) (b : Binding) (t : Nat) : Home :=
  let heads := h.unseen.filterMap fun k => (h.next k).map (·.n)
  { h with
    ctxs := h.ctxs.map fun c => { c with runAt := if (b.why h c).isSome then some (c.runAt.getD t) else none }
    recs := h.recs.map fun r => { r with headAt := if heads.contains r.n then some (r.headAt.getD t) else none } }

/-- Change a bound stage. -/
def State.modBinding (s : State) (p stage : Nat) (f : Binding → Binding) : State :=
  let g (b : Binding) : Binding :=
    let b1 := f b
    { b1 with homes := b1.homes.map fun h => h.mark b1 (s.core h.core).clk.toNat }
  s.modPart p fun x => { x with bindings := x.bindings.map fun b => if b.stage = stage ∧ b.waiting = none then g b else b }

/-- The home core of a key (14 R200). -/
def Binding.homeOf (b : Binding) (key : Nat) : Nat :=
  if b.homes.isEmpty then 0
  else (b.homes[Nat.xor (key % 4294967296) (key / 4294967296) % b.homes.length]?).elim 0 (·.core)

/-- The stage holds a context, a record or a running keyed wave (14 R198). -/
def Binding.holds (b : Binding) : Bool := !b.inFlight.isEmpty || b.homes.any fun h => !h.recs.isEmpty || !h.ctxs.isEmpty

/-- Read a stage descriptor's first 28 bytes; none for a value outside 14 Table 14.1. -/
def parseStage (bs : List Byte) (desc launch asid : Nat) (cores : List Nat) (waiting : Option Nat) (stage : Nat) : Option Binding :=
  let f := field bs
  if f 0 8 % 32 ≠ 0 ∨ 12 < f 8 1 ∨ f 9 1 = 0 ∨ 4 < f 9 1 ∨ 2 ≤ f 0xA 2 ∨ f 0x10 8 % 64 ≠ 0 ∨ inAperture (f 0x10 8) ∨ 16777216 < f 0x18 4
  then none
  else some { stage := stage, launch := launch, desc := desc, asid := asid, template := f 0 8, words := f 8 1, recWords := f 9 1
              quiet := f 0xA 2 == 1, idle := f 0xC 4, spillBase := f 0x10 8, spillCap := f 0x18 4
              homes := cores.map fun c => { core := c, arrivals := 0, recs := [], ctxs := [] }
              inFlight := [], drains := [], pushed := 0, created := 0, spills := 0, refills := 0, retirements := 0, ends := 0
              waiting := waiting, parked := none }

/-- Cores that hold a non-exited block of a launch, ascending (14 R197). -/
def State.homeSet (s : State) (l : Nat) : List Nat :=
  (s.blocks.filter fun e => e.2.launch == l && !(s.wavesGone e.2)).foldl (fun cs e => insertNat e.2.core cs) []

/-- Watch one covered write: a release record that is complete once the write has been performed at H. -/
def State.watch (s : State) (wi block q : Nat) : Nat × State :=
  let r := s.stamp
  let x : Release := { n := r.1, scope := 0, wave := wi, block := block, seqs := [q], invs := [], stash := [], l2 := [], ports := []
                       fault := none }
  (r.1, r.2.modWave wi fun w => { w with releases := w.releases ++ [x] })

/-- KBIND with its descriptor's bytes, which are read once, at issue (14 R195): the id is bound once the write of H has been performed
(14 R197). -/
def kbindRead (c : Ctx) (id addr : Nat) (bs : List Byte) (s0 : State) : Effect :=
  let s := s0.unmark c.wi
  let cores := s.homeSet c.w.launch
  match parseStage bs addr c.w.launch (s.asidOf c.w.part) cores none id with
  | none => .trap Cause.illegal 0 c.sp.exec
  | some x =>
    match s.binding? c.w.part id with
    | some y =>
      if y.launch ≠ c.w.launch then .park s (.stage id addr bs)
      else if y.desc = addr then .ok s
      else .trap Cause.illegal 0 c.sp.exec
    | none => withLanes c s true 4 true .write 1 [(0, addr + 0x1C)] fun s =>
      let e := s.enter c (addr + 0x1C) (.store (leBytes cores.length 4)) false []
      let r := e.2.watch c.wi c.w.block e.1
      .completing (r.2.modPart c.w.part fun p => { p with bindings := p.bindings ++ [{ x with waiting := some r.1 }] })
        (.kbind r.1 id addr)

/-- KBIND (14 R197, 23 R338). One that waited for its id goes on with what it read at issue. -/
def execKbind (a b : Operand) (s : State) : Host.Outcome State Fault Refusal :=
  uniformWord (.kbind a b) {} (fun c s =>
    match c.sp.park with
    | .wait (.stage id addr bs) _ _ => kbindRead c id addr bs s
    | _ =>
      let id := rawN c a
      let addr := pairN c b
      if 63 < id ∨ addr % 64 ≠ 0 ∨ inAperture addr then .trap Cause.illegal 0 c.sp.exec
      else withRead c s addr 64 28 (kbindRead c id addr)) s

/-- The write of H of a KBIND has been performed: the id is bound, unless a wave of the launch bound it meanwhile; while another
launch holds it, the split waits on (14 R197). None while it waits. -/
def State.bindDone (s : State) (p launch n stage : Nat) : Option State :=
  if s.releasing n then none
  else
    match s.binding? p stage with
    | none => some (s.modPart p fun x => { x with bindings := x.bindings.map fun b =>
        if (b.waiting == some n) then { b with waiting := none } else b })
    | some y =>
      if y.launch ≠ launch then none
      else some (s.modPart p fun x => { x with bindings := x.bindings.filter fun b => b.waiting != some n })

/-! ## Pushing (14 R199 to R201) -/

/-- KPUSH's key of a lane: a vector pair, or a scalar pair that gives all lanes one key. -/
def keyOf (c : Ctx) (b : Operand) (l : Nat) : Nat := (groupLane c b 0 l).toNat + 4294967296 * (groupLane c b 1 l).toNat

/-- The binding that a KPUSH names, if its record lies within the footprint (14 R199). -/
def pushBinding (s : State) (c : Ctx) (d a : Operand) : Option Binding :=
  if 63 < rawN c a then none
  else match s.binding? c.w.part (rawN c a) with
    | none => none
    | some b => if regCode d + b.recWords ≤ c.w.footprint then some b else none

/-- The stage id's register is pending: its value is not there to be checked. -/
def pendingReg (c : Ctx) (a : Operand) : Bool := (codesOf 0 (a, .one)).any fun r => (c.w.sbOf c.sp.num).contains r

/-- KPUSH (14 R199, 23 R341, R342). -/
def execKpush (d a b : Operand) (s : State) : Host.Outcome State Fault Refusal :=
  let i : Instr := .kpush d a b
  runWord s (decodesFor i)
    { illegal := fun c => !(pendingReg c a) && (pushBinding s c d a).isNone, roleOk := fun r => r != 1 }
    (fun c => instrCodes i (mType c.sp.mode) ++ ((pushBinding s c d a).elim [] fun x => groupCodes d x.recWords)) fun c s =>
    match pushBinding s c d a with
    | none => .trap Cause.illegal 0 c.sp.exec
    | some x =>
      if c.act = 0 then .ok s
      else
        let o := s.opStart c.wi c.w 3
        let ls := lanesOf c.act
        let recs : List KRec := (ls.zip (upTo ls.length)).map fun e =>
          { n := o.2.2.seq + e.2, src := c.wi, key := keyOf c b e.1, words := (upTo x.recWords).map fun k => groupLane c d k e.1
            block := some c.w.block, launch := c.w.launch, draw := none, gen := 0, rel := o.1, fences := o.2.1
            headAt := none }
        let s1 : State := { o.2.2 with seq := o.2.2.seq + ls.length }
        .completing (s1.modBinding c.w.part x.stage fun y => { y with inFlight := y.inFlight ++ recs }) (.records (recs.map (·.n)))

/-- Records that have not been accepted (14 R199). -/
def State.recordsLeft (s : State) (p : Nat) (ns : List Nat) : Bool :=
  (s.part p).bindings.any fun b => b.inFlight.any fun r => ns.contains r.n

/-- Record-buffer entries of an owner that are in use in a core (14 R200). -/
def Part.buffered (p : Part) (core : Nat) : Nat :=
  p.bindings.foldl (fun n b => n + ((b.home? core).elim 0 fun h => h.recs.length)) 0

/-- The home of a core has room for a record: its share of the buffer (14 R200), and a Sett share at all (21 R277). -/
def Part.canAccept (p : Part) (core : Nat) : Bool :=
  (p.shareIn core).any fun e => decide (0 < e.sett) && decide (p.buffered core < e.recb)

/-- A context ends or is freed: no drain waits for it any more (14 R207). -/
def Binding.freeCtx (b : Binding) (core key : Nat) : Binding :=
  { b.modHome core (fun h => { h with ctxs := h.ctxs.filter fun c => c.key != key }) with
    drains := b.drains.map fun d => { d with pending := d.pending.filter fun x => x != (core, key) } }

/-- Under QUIET a context that falls due, and has no record waiting, is freed without running (14 R206). -/
def Binding.quietFree (b : Binding) (core : Nat) : Binding :=
  match b.quiet, b.home? core with
  | true, some h =>
    let out := h.ctxs.filter fun c => b.why h c == some .retire
    out.foldl (fun b c => { b.freeCtx core c.key with retirements := b.retirements + 1 }) b
  | _, _ => b

/-- A home accepts a record: the arrival counter advances (14 R200). -/
def Binding.accept (b : Binding) (core : Nat) (r : KRec) : Binding :=
  let b1 := b.modHome core fun h => { h with arrivals := h.arrivals + 1, recs := h.recs ++ [r] }
  { b1 with pushed := b.pushed + 1, inFlight := b1.inFlight.filter fun x => x.n != r.n }.quietFree core

/-- A drain that entered a block's keyed push queue before the operation with this stamp has not yet started at a home core (08 R159). -/
def Part.drainAhead (p : Part) (block : Option Nat) (n core : Nat) : Bool :=
  block.isSome && p.bindings.any fun b => b.drains.any fun d => d.block == block && decide (d.n < n) && d.left.contains core

/-- RECORD_ACCEPT: record n of a partition is accepted by its home; the records of one wave arrive in order (14 R201), and behind the drains
that entered their block's queue before them (08 R159). -/
def execRecordAccept (p n : Nat) (s : State) : Host.Outcome State Fault Refusal :=
  match (s.part p).bindings.find? fun b => b.inFlight.any fun r => r.n == n with
  | none => .next s
  | some b =>
    match b.inFlight.find? fun r => r.n == n with
    | none => .next s
    | some r =>
      let core := b.homeOf r.key
      let earlier := b.inFlight.any fun x => x.src == r.src && decide (x.n < n) && b.homeOf x.key == core
      if earlier ∨ (s.part p).drainAhead r.block n core ∨ !((s.part p).running) ∨ !((s.part p).canAccept core) ∨ !(s.opFree r.rel r.fences) then .next s
      else .next ((s.modBinding p b.stage fun x => x.accept core r).endWaits fun t => t == 4294967296 + n)

/-! ## The Sett: entries, spills and refills (14 R202, R205) -/

/-- The resident contexts of a partition in a core: stage and context. -/
def Part.resident (p : Part) (core : Nat) : List (Binding × Home × KCtx) :=
  p.bindings.flatMap fun b => (b.homes.filter fun h => h.core == core).flatMap fun h =>
    (h.ctxs.filter fun c => match c.st with | .spilled _ | .pooled _ => false | _ => true).map fun c => (b, h, c)

/-- Spill slots of a stage in use, ascending. -/
def Binding.usedSlots (b : Binding) : List Nat :=
  (b.homes.flatMap fun h => h.ctxs.filterMap fun c => match c.st with | .spilled j => some j | _ => none).foldl
    (fun xs j => insertNat j xs) []

/-- The spill slot the device chooses among the free ones: any (14 R202). -/
def Binding.freeSlot (b : Binding) (k : Nat) : Nat :=
  let used := b.usedSlots
  used.foldl (fun j u => if u ≤ j then j + 1 else j) (Config.freeNat k % (b.spillCap - used.length))

/-- A context's 64 bytes (14 Table 14.2). -/
def KCtx.bytes (c : KCtx) : List Byte :=
  let xs := leBytes c.pc 8 ++ leBytes c.keyField 8 ++ c.saved.flatMap fun w => leBytes w.toNat 4
  xs ++ List.replicate (64 - xs.length) 0

/-- A context of a key in a home changes. -/
def State.modCtx (s : State) (p stage core key : Nat) (f : KCtx → KCtx) : State :=
  s.modBinding p stage fun b => b.modHome core fun h => { h with ctxs := h.ctxs.map fun c => if c.key = key then f c else c }

/-- Free the area of the save pool at an address. -/
def State.freeArea (s : State) (p addr : Nat) : State :=
  s.modPart p fun x => { x with areas := x.areas.filter fun u => x.entry.savePool + u.1 != addr }

/-- How a spill, a refill or an entry comes about. -/
inductive Sett where
  | ok (s : State)
  | wait (s : State)

/-- A fault parks an access of the keyed engine with a record of ENGINE 6 (14 R196, 18 R257). -/
def State.parkCtx (s : State) (p stage core key va asid type kind : Nat) : State :=
  let t := s.takeTag p
  (t.2.modCtx p stage core key fun c => { c with parked := some t.1 }).addFault p (engineFault va asid type kind t.1 6 core)

/-- Spill a context into its own stage's spill area (14 R205). -/
def State.spill (s : State) (p core : Nat) (b : Binding) (c : KCtx) : Sett :=
  let j := b.freeSlot s.free
  let va := b.spillBase + 64 * j
  match s.engCheck p core b.asid va .write with
  | .wait s1 => .wait s1
  | .refuse s1 t => .wait (s1.parkCtx p b.stage core c.key va b.asid t 6)
  | .go =>
    let r := s.drawn.stamp
    match r.2.engineWrite b.asid va c.bytes r.1 with
    | none => .wait s
    | some s1 => .ok ((s1.modCtx p b.stage core c.key fun x => { x with st := .spilled j }).modBinding p b.stage fun x =>
        { x with spills := x.spills + 1 })

/-- The context that gives up its entry: idle, not runnable, its own stage with a free slot; least recently run, then lower key
(14 R205). -/
def Part.victim (p : Part) (core : Nat) : Option (Binding × KCtx) :=
  let cs := (p.resident core).filter fun x =>
    x.2.2.st == .idle && (x.1.why x.2.1 x.2.2).isNone && x.2.2.parked.isNone && decide (x.1.usedSlots.length < x.1.spillCap)
  match cs with
  | [] => none
  | x :: xs =>
    let y := xs.foldl (fun m e =>
      if e.2.2.ranAt < m.2.2.ranAt ∨ (e.2.2.ranAt = m.2.2.ranAt ∧ e.2.2.key < m.2.2.key) then e else m) x
    some (y.1, y.2.2)

/-- A free entry of the owner's share, made by a spill if need be (14 R205). -/
def State.settEntry (s : State) (p core : Nat) : Sett :=
  let x := s.part p
  if (x.resident core).length < 64 * (x.shareIn core).elim 0 (·.sett) then .ok s
  else
    match x.victim core with
    | none => .wait s
    | some (b, c) => s.spill p core b c

/-- The context that the bytes of a spill slot hold, as they stand (14 R202); the Sett still holds it under the key that it spilled (log
87). -/
def KCtx.refill (c : KCtx) (words : Nat) (bs : List Byte) : KCtx :=
  { c with pc := field bs 0 8, keyField := field bs 8 8, saved := (upTo words).map (fun i => word (field bs (16 + 4 * i) 4)), st := .idle, refilled := true
           parked := none }

/-- REFILL: a runnable spilled context is read back into the Sett (14 R205). -/
def execRefill (p stage key : Nat) (s : State) : Host.Outcome State Fault Refusal :=
  match s.binding? p stage with
  | none => .next s
  | some b =>
    let core := b.homeOf key
    match (b.home? core).bind fun h => (h.ctxs.find? fun c => c.key == key).map fun c => (h, c) with
    | none => .next s
    | some (h, c) =>
      match c.st with
      | .spilled j =>
        if (b.why h c).isNone ∨ c.parked.isSome ∨ !((s.part p).running) then .next s
        else
          match s.settEntry p core with
          | .wait s1 => .next s1
          | .ok s1 =>
            let va := b.spillBase + 64 * j
            (match s1.engCheck p core b.asid va .read with
             | .wait s2 => .next s2
             | .refuse s2 t => .next (s2.parkCtx p stage core key va b.asid t 5)
             | .go =>
               match s1.engineRead b.asid va 64 with
               | none => .next s1
               | some bs => .next ((s1.modCtx p stage core key fun x => x.refill b.words bs).modBinding p stage fun x =>
                   { x with refills := x.refills + 1 }))
      | .pooled addr =>
        if (b.why h c).isNone ∨ !((s.part p).running) then .next s
        else
          (match s.settEntry p core with
           | .wait s1 => .next s1
           | .ok s1 => match s1.engineRead (s1.asidOf p) addr 64 with
             | none => .next s1
             | some bs => .next ((s1.freeArea p addr).modCtx p stage core key fun x => x.refill b.words bs))
      | _ => .next s

/-! ## Keyed waves (14 R203) -/

/-- The position of a key's first record in the arrival order. -/
def Home.place (h : Home) (key : Nat) : Nat := (h.recs.findIdx? fun r => r.key == key).getD h.recs.length

/-- Insert a context (key, place of its record, order of creation) by the place of its record, then in ascending age, the youngest first
(14 R203, log 88). -/
def insertByPlace (x : Nat × Nat × Nat) : List (Nat × Nat × Nat) → List (Nat × Nat × Nat)
  | [] => [x]
  | y :: ys => if x.2.1 < y.2.1 ∨ (x.2.1 = y.2.1 ∧ y.2.2 < x.2.2) then x :: y :: ys else y :: insertByPlace x ys

/-- The drains that deliver the oldest record of a key before their resumptions: the context that it starts is one of those that they
end (14 R207, 16 notes (6), log 89). -/
def Binding.drainsOf (b : Binding) (core key : Nat) : List Nat :=
  match (b.home? core).bind (Home.next · key) with
  | none => []
  | some r => (b.drains.filter fun d => d.before.contains r.n).map (·.n)

/-- A new context of an unseen key, if an entry can be had (14 R205, R208); it is runnable since its record is at the head. -/
def State.newCtx (s : State) (p core : Nat) (b : Binding) (key : Nat) : State :=
  match s.settEntry p core with
  | .wait s1 => s1
  | .ok s1 =>
    let t := s1.stamp
    let c : KCtx := { key := key, keyField := key, pc := b.template, saved := List.replicate b.words 0, st := .idle, mark := 0, ranAt := t.1
                      refilled := false, fresh := true, age := t.1, drains := b.drainsOf core key, runAt := none, parked := none }
    t.2.modBinding p b.stage fun x =>
      let x1 := x.modHome core fun h => { h with ctxs := h.ctxs ++ [{ c with mark := h.arrivals, runAt := (h.next key).bind (·.headAt) }] }
      { x1 with
        created := x.created + 1
        drains := x.drains.map fun d => if c.drains.contains d.n then { d with pending := d.pending ++ [(core, key)] } else d }

/-- The contexts of a resume PC that are ready (14 R203). -/
def Binding.readyCtxs (b : Binding) (h : Home) (pc : Nat) : List KCtx :=
  h.ctxs.filter fun c => c.st == .idle && c.parked.isNone && c.pc == pc && (b.why h c).isSome

/-- The Sett forms a wave of a resume PC at CLK t: 32 contexts are ready, or 32 cycles have passed since the oldest became runnable (14
R203). -/
def Binding.formsAt (b : Binding) (h : Home) (pc t : Nat) : Bool :=
  let since := (b.readyCtxs h pc).map fun c => c.runAt.getD t
  decide (32 ≤ since.length) || since.any fun x => decide (32 ≤ (t + two64 - x) % two64)

/-- The keys of the contexts that a wave of a resume PC takes, in lane order (14 R203). -/
def Binding.lanesFor (b : Binding) (h : Home) (pc : Nat) : List Nat :=
  let cs := b.readyCtxs h pc
  let keyed := cs.map fun c => (c.key, (if b.why h c = some .record then h.place c.key else h.recs.length), c.age)
  ((keyed.foldl (fun l x => insertByPlace x l) []).take 32).map (·.1)

/-- The status word of a resumption (14 Table 14.4). -/
def statusOf (c : KCtx) (y : RunWhy) : Nat :=
  (if c.fresh then 1 else 0) + (if y = .record then 0 else 2) + (if c.refilled then 4 else 0) + (if y = .drain then 8 else 0)

/-- A lane of a keyed wave: key, the context, why it runs, the record it is given. -/
structure KeyLane where
  ctx : KCtx
  why : RunWhy
  rec_ : Option KRec

/-- The lanes of a wave. -/
def Binding.lanesOfKeys (b : Binding) (h : Home) (keys : List Nat) : List KeyLane :=
  keys.filterMap fun k => (h.ctxs.find? fun c => c.key == k).bind fun c => (b.why h c).map fun y =>
    { ctx := c, why := y, rec_ := if y = .record then h.next k else none }

/-- The contexts of a wave are running and its records delivered (14 R201, R207). -/
def Binding.deliver (b : Binding) (core : Nat) (ls : List KeyLane) : Binding :=
  let b1 := b.modHome core fun h =>
    { h with
      recs := h.recs.filter fun r => !(ls.any fun l => l.rec_.any fun x => x.n == r.n)
      ctxs := h.ctxs.map fun c =>
        match ls.find? fun l => l.ctx.key == c.key with
        | none => c
        | some _ => { c with st := .running, fresh := false, refilled := false } }
  { b1 with retirements := b.retirements + (ls.filter fun l => l.why != .record).length }

/-- The registers of a keyed wave at resumption (14 Table 14.3). -/
def Wave.keyedRegs (w : Wave) (b : Binding) (ls : List KeyLane) : Wave :=
  let low := maskOf fun l => decide (l < ls.length)
  let lane (f : KeyLane → Nat) (l : Nat) : Word := word ((ls[l]?).elim 0 f)
  let w1 := (upTo b.words).foldl (fun (w : Wave) i => w.writeV i low (lane fun x => (nth x.ctx.saved i 0).toNat)) w
  let w2 := (upTo 4).foldl (fun (w : Wave) i =>
    w.writeV (16 + i) low (lane fun x => x.rec_.elim 0 fun r => (nth r.words i 0).toNat)) w1
  let w3 := ((w2.writeV 20 low (lane fun x => x.ctx.keyField)).writeV 21 low (lane fun x => x.ctx.keyField / 4294967296)).writeV 22 low
    (lane fun x => statusOf x.ctx x.why)
  { w3 with
    alive := low
    splits := w3.splits.map fun x => { x with live := low, exec := low }
    s := scalarsOf (lowHigh b.desc ++ [b.stage, ls.length])
    keyed := some { stage := b.stage, words := b.words
                    ctx := (ls.zip (upTo ls.length)).map fun e => { lane := e.2, key := e.1.ctx.key, status := statusOf e.1.ctx e.1.why }
                    reserved := ls.any fun x => decide (Config.vaEnd ≤ x.ctx.pc) } }

/-- The record that a keyed wave's block goes by: the binding launch's, with a footprint of 24, the vector role and no scratch (14
R203). The resume PC is bits [55:0] of a context's first eight bytes (14 Table 14.2). -/
def LaunchRec.keyedForm (r : LaunchRec) (pc : Nat) : LaunchRec :=
  { r with entry := pc % Config.vaEnd, regs := 24, scratch := 0, roles := 0x33333333, tiles := 0, slots := 0 }

/-- KEYED_WAVE_FORM: the Sett of a home core forms a wave from runnable contexts of one resume PC (14 R203). An unseen key whose record
is at its head gets its context first, if an entry can be had; one that waits for its entry counts for no wave (14 R205). -/
def execKeyedWaveForm (p stage core pc : Nat) (s : State) : Host.Outcome State Fault Refusal :=
  match s.binding? p stage with
  | none => .next s
  | some b0 =>
    match s.launch? b0.launch, b0.home? core with
    | some l, some h0 =>
      let r := l.record.keyedForm pc
      if !(s.placing p) ∨ (s.roomFor p core r 1).isNone then .next s
      else
        let s0 := if pc = b0.template then (h0.unseen.take 32).foldl (fun s k => s.newCtx p core b0 k) s else s
        match s0.binding? p stage with
        | none => .next s0
        | some b =>
          match ((b.home? core).filter fun h => b.formsAt h pc (s0.core core).clk.toNat).map fun h =>
            b.lanesOfKeys h (b.lanesFor h pc) with
          | none | some [] => .next s0
          | some ls =>
            let s1 := s0.modBinding p stage fun x => x.deliver core ls
            let k := s1.seq
            let s2 := (s1.wakeCore core).placeBlock p b.launch core ((l.record.blocks + l.keyedBlocks) % 4294967296) l.record.waves 0 1 r none
            let s3 := (s2.modBlock k fun x => { x with keyed := true }).modLaunch b.launch fun x =>
              { x with keyedBlocks := x.keyedBlocks + 1 }
            .next ((s3.modWave (k + 1) fun w => w.keyedRegs b ls).acquireAt (k + 1) 0 false)
    | _, _ => .next s

/-! ## KYIELD, KEND and the end of a lane's context (14 R204) -/

/-- Every write of the wave that a device-scope release covers has been performed at H. -/
def State.allPerformed (s : State) (w : Wave) : Bool :=
  w.flushed && (s.block? w.block).all fun b => !(b.oq.any WEntry.counts) && (b.dirtyStash 0).isEmpty

/-- A lane's context is saved at a PC, or ends (14 R204); `at_` is when it ran. -/
def State.endLane (s : State) (w : Wave) (yield : Bool) (pc at_ lane : Nat) : State :=
  match w.keyed.bind fun k => (k.ctx.find? fun x => x.lane == lane).map fun x => (k, x) with
  | none => s
  | some (k, x) =>
    if yield ∧ x.status / 8 % 2 = 0 then
      s.modBinding w.part k.stage fun b => b.modHome w.core fun h => { h with ctxs := h.ctxs.map fun c =>
        if c.key = x.key then
          { c with pc := pc, saved := (upTo k.words).map (fun i => w.readV i lane), st := .idle, mark := h.arrivals, ranAt := at_ }
        else c }
    else s.modBinding w.part k.stage fun b => { b.freeCtx w.core x.key with ends := b.ends + 1 }

/-- The contexts of lanes of a keyed wave end together. -/
def State.endLanes (s : State) (w : Wave) (yield : Bool) (pc : Nat) (m : Word) : State :=
  let t := s.stamp
  (lanesOf m).foldl (fun s l => s.endLane w yield pc t.1 l) t.2

/-- The lanes of a mask leave a keyed wave with the device-scope release of its earlier writes (14 R204), which abandons the block's
reservations (08 R157). -/
def State.leaveLanes (s : State) (c : Ctx) (yield : Bool) (m : Word) : State := (s.startRelease c.wi 0).2.endLanes c.w yield c.next m

/-- KYIELD and KEND: they wait for the scoreboard, and for the release of the wave's earlier writes (log 25). -/
def coroutineWord (i : Instr) (yield : Bool) (s : State) : Host.Outcome State Fault Refusal :=
  wordOf i { illegal := fun c => c.w.keyed.isNone } (fun c s =>
    if !(c.w.sbOf c.sp.num).isEmpty then .stall s
    else if c.act = 0 then .ok s
    else if !(s.allPerformed c.w) then .stall s
    else
      let s1 := (s.unmark c.wi).leaveLanes c yield c.act
      .done ((s1.goOn c c.next false).exitLanes c.wi c.sp.num c.act)) s

def execKyield (s : State) : Host.Outcome State Fault Refusal := coroutineWord .kyield true s
def execKend (s : State) : Host.Outcome State Fault Refusal := coroutineWord .kend false s

/-! ## Drains (14 R196, R198, R207) -/

/-- The records that a block's keyed push queue has sent and no home has accepted. -/
def Part.sentBy (p : Part) (block : Nat) : List Nat :=
  p.bindings.flatMap fun b => (b.inFlight.filter fun r => r.block == some block).map (·.n)

/-- KDRAIN (23 R339). -/
def execKdrain (d a : Operand) (s : State) : Host.Outcome State Fault Refusal :=
  handleWord (.kdrain d a) {} d (fun c s =>
    let id := rawN c a
    match if 63 < id then none else s.binding? c.w.part id with
    | none => .trap Cause.illegal 0 c.sp.exec
    | some b =>
      if b.launch ≠ c.w.launch then .trap Cause.illegal 0 c.sp.exec
      else
        let t := (s.unmark c.wi).takeTag c.w.part
        let n := t.2.stamp
        let x : DrainRec := { n := n.1, tag := t.1, href := hrefOf c d, block := some c.w.block
                              after := (s.part c.w.part).sentBy c.w.block
                              left := b.homes.map (·.core), before := [], pending := [], fences := s.fencesOn c.w 3
                              st := .ready }
        .ok ((n.2.modBinding c.w.part id fun y => { y with drains := y.drains ++ [x] }).pendHandle c d t.1)) s

/-- A drain starts at a home: the records accepted there before are delivered first, and it waits for every context there (14 R207). -/
def Binding.startDrain (b : Binding) (n core : Nat) : Binding :=
  let h := (b.home? core).getD { core := core, arrivals := 0, recs := [], ctxs := [] }
  { b.modHome core (fun h => { h with ctxs := h.ctxs.map fun c => { c with drains := c.drains ++ [n] } }) with
    drains := b.drains.map fun d =>
      if d.n = n then
        { d with
          left := d.left.filter (· ≠ core)
          before := d.before ++ h.recs.map (·.n)
          pending := d.pending ++ h.ctxs.map fun c => (core, c.key) }
      else d }

/-- The homes at which a drain may start now (14 R207): every record that its queue sent there before has been accepted, and every drain
before it in the queue has started there (08 R159). -/
def Part.drainHomes (p : Part) (d : DrainRec) : List Nat :=
  d.left.filter fun c => !(p.bindings.any fun b => b.inFlight.any fun r => d.after.contains r.n && b.homeOf r.key == c) &&
    !(p.drainAhead d.block d.n c)

/-- The keyed push queue of a block makes progress: one of its drains starts at a home where it may. -/
def State.keyedQueueStep (s : State) (bi : Nat) : State :=
  match s.block? bi with
  | none => s
  | some x =>
    let p := s.part x.part
    let starts := p.bindings.flatMap fun b => (b.drains.filter fun d => d.block == some bi && s.opFree 0 d.fences).flatMap fun d =>
      (p.drainHomes d).map fun c => (b.stage, d.n, c)
    match starts with
    | [] => s
    | e :: es =>
      let y := nth (e :: es) (Config.freeNat s.free % (es.length + 1)) e
      s.drawn.modBinding x.part y.1 fun b => b.startDrain y.2.1 y.2.2

/-- Every wave of a launch that is not keyed has exited. -/
def State.unkeyedGone (s : State) (l : Nat) : Bool :=
  (s.blocks.filter fun e => e.2.launch == l && !e.2.keyed).all fun e => s.wavesGone e.2

/-- Every block of a launch has been placed, or none will be any more. -/
def State.allPlaced (s : State) (l : Nat) : Bool :=
  (s.launch? l).all fun x => (x.halted || decide (x.record.blocks ≤ x.nextBlock)) &&
    !((s.part x.part).children.any fun c => c.launch == l)

/-- The fragments of a stage's launch are all at their homes: no draw is open or being rastered (15 R220). -/
def State.drawsDone (s : State) (l : Nat) : Bool :=
  (s.launch? l).all fun x => x.past.isEmpty &&
    x.bind.all fun b => b.queue.isEmpty && b.draws.isEmpty && b.openTris == 0 && b.flushing.isNone

/-- STAGE_DRAIN: once the non-keyed waves of the binding launch have exited, the device drains a stage that holds anything, again and
again (14 R198). -/
def execStageDrain (p stage : Nat) (s : State) : Host.Outcome State Fault Refusal :=
  match s.binding? p stage with
  | none => .next s
  | some b =>
    if !b.holds ∨ b.drains.any (fun d => d.block.isNone) ∨ !((s.part p).running) ∨ !(s.unkeyedGone b.launch) ∨ !(s.allPlaced b.launch) ∨
        !(s.drawsDone b.launch) then .next s
    else
      let t := s.takeTag p
      let n := t.2.stamp
      let x : DrainRec := { n := n.1, tag := t.1, href := none, block := none, after := [], left := b.homes.map (·.core), before := []
                            pending := [], fences := [], st := .ready }
      .next (n.2.modBinding p stage fun y =>
        (y.homes.map (·.core)).foldl (fun y c => y.startDrain n.1 c) { y with drains := y.drains ++ [x] })

/-- The counters of a binding, at 0x20 of its descriptor (14 Table 14.1). -/
def Binding.counters (b : Binding) : List Byte :=
  leBytes b.pushed 8 ++ leBytes b.created 8 ++ leBytes b.spills 4 ++ leBytes b.refills 4 ++ leBytes b.retirements 4 ++ leBytes b.ends 4

/-- The core on whose behalf the stage's own accesses are checked. -/
def Binding.core0 (b : Binding) : Nat := (b.homes.head?).elim 0 (·.core)

/-- Write a binding's counters (14 R196). -/
def State.writeCounters (s : State) (p : Nat) (b : Binding) : Moved State :=
  let va := b.desc + 0x20
  match s.engCheck p b.core0 b.asid va .write with
  | .wait s1 => .wait s1
  | .refuse s1 t => .refuse s1 va t
  | .go =>
    let r := s.stamp
    match r.2.engineWrite b.asid va b.counters r.1 with
    | none => .wait s
    | some s1 => .ok s1

/-- A drain ends: its handle takes a state (14 R207, R196). -/
def State.endDrain (s : State) (p stage : Nat) (d : DrainRec) (st : HState) : State :=
  ((s.modBinding p stage fun b => { b with
      drains := b.drains.filter fun x => x.n != d.n
      homes := b.homes.map fun h => { h with ctxs := h.ctxs.map fun c => { c with drains := c.drains.filter (· ≠ d.n) } } }).endHandle
    d.href d.tag st).endOp d.tag

/-- A drain is over: it has started everywhere, the records before it are delivered, and the contexts that it waited for have ended (14
R207). -/
def Binding.drained (b : Binding) (d : DrainRec) : Bool :=
  d.left.isEmpty && d.pending.isEmpty && b.homes.all fun h => b.drainReaches h d.n

/-- DRAIN_COMPLETE: a drain is over; the counters are written and the handle is done (14 R207). -/
def execDrainComplete (p stage : Nat) (s : State) : Host.Outcome State Fault Refusal :=
  match s.binding? p stage with
  | none => .next s
  | some b =>
    match b.drains.find? fun d => b.drained d && d.st == .ready with
    | none => .next s
    | some d =>
      match s.writeCounters p b with
      | .wait s1 => .next s1
      | .refuse s1 va t =>
        .next ((s1.modBinding p stage fun x => { x with drains := x.drains.map fun y =>
          if y.n = d.n then { y with st := .parked } else y }).addFault p (engineFault va b.asid t 6 d.tag 6 b.core0))
      | .ok s1 => .next (s1.endDrain p stage d .done)

end Sys2Proof.Machine
end

