-- ==== Sys2Proof/Machine/Snapshot.lean ====
section
/-! DEFINITION. Snapshots (17 R231 to R244): the four words, their points in the snapshot order, shadows, the pool and the
reserve. -/

namespace Sys2Proof.Machine

/-! ## Regions (17 R231, R232) -/

/-- Region g of a partition. -/
def Part.region (p : Part) (g : Nat) : Region := nth p.regions g Region.free

/-- Change region g of a partition. -/
def State.modRegion (s : State) (p g : Nat) (f : Region → Region) : State :=
  s.modPart p fun x => { x with regions := setAt x.regions g (f (x.region g)) }

/-- A region is open. -/
def Region.isOpen (r : Region) : Bool := !r.levels.isEmpty

/-- The innermost level of an open region. -/
def Region.inner (r : Region) : Nat := r.levels.length - 1

/-- A range meets level 0 of a region. -/
def Region.meets (r : Region) (asid base len : Nat) : Bool :=
  r.asid == asid && (r.levels.head?).any fun l => decide (base < l.base + l.len) && decide (l.base < base + len)

/-- A range lies within the innermost level. -/
def Region.within (r : Region) (base len : Nat) : Bool :=
  (r.levels.getLast?).any fun l => decide (l.base ≤ base) && decide (base + len ≤ l.base + l.len)

/-- A token's region and level; none with a nonzero reserved bit. -/
def tokenOf (t : Word) : Option (Nat × Nat) := if t.toNat / 64 ≠ 0 then none else some (t.toNat % 16, t.toNat / 16)

/-- The level number of a shadow whose region has closed since, which no count of the region includes (17 R236, R237). -/
def closedLevel : Nat := 4

/-- A region leaves EXHAUSTED when none of its shadows remains in the reserve (17 R244). -/
def Region.relieve (r : Region) : Region := { r with exhausted := r.exhausted && r.shadows.any fun x => x.pool.isNone }

/-- The innermost level closes: with level 0 the region is FREE, and the shadows still to be copied back belong to no level. -/
def Region.close (r : Region) : Region :=
  let ls := r.levels.dropLast
  if ls.isEmpty then { r with levels := [], exhausted := false, shadows := r.shadows.map fun x => { x with level := closedLevel } }
  else { r with levels := ls }

/-- The region of a token whose level is the innermost open one (17 R236). -/
def State.innermost (s : State) (p : Nat) (t : Word) : Option (Nat × Region) :=
  match tokenOf t with
  | none => none
  | some (g, k) =>
    let r := (s.part p).region g
    if r.levels.length = k + 1 then some (g, r) else none

/-! ## Points in the snapshot order (17 R233, R235, R236) -/

/-- How a snapshot word ends at its point. -/
inductive Point where
  | ok (s : State)
  | illegal

/-- SNAP at its point: what D receives, and the state with the level open. None: ILLEGAL. -/
def State.openLevel (s : State) (p asid base len : Nat) : Option (Word × State) :=
  let x := s.part p
  let l : Level := { base := base, len := len }
  match (upTo 16).find? fun g => (x.region g).meets asid base len with
  | some g =>
    let r := x.region g
    if !(r.within base len) then none
    else if 4 ≤ r.levels.length then some (0xFFFFFFFE#32, s)
    else some (word (g + 16 * r.levels.length), s.modRegion p g fun r => { r with levels := r.levels ++ [l] })
  | none =>
    match (upTo 16).find? fun g => !(x.region g).isOpen with
    | none => some (0xFFFFFFFF#32, s)
    | some g => some (word g, s.modRegion p g fun r => { r with asid := asid, levels := [l], exhausted := false })

/-- SNAP at its point, for a wave and the scalar register that receives its result. -/
def State.snapPoint (s : State) (wi : Nat) (w : Wave) (d base len : Nat) : Point :=
  match s.openLevel w.part (s.asidOf w.part) base len with
  | none => .illegal
  | some (v, s1) => .ok (s1.modWave wi fun x => x.writeS d v)

/-- Every window of a partition loses its copy of a line: dirty sectors are discarded, the line is ABSENT, and no release waits for
it (17 R240). -/
def State.dropStash (s : State) (asid line : Nat) : State :=
  let hit (b : Nat) (i k : Nat) : Bool := (s.block? b).any fun x => s.asidOf x.part == asid &&
    (x.window? i).any fun w => w.covers line == some k
  let s1 := s.modReleases fun r => { r with stash := r.stash.filter fun x => !(hit x.1 x.2.1 x.2.2.1) }
  { s1 with
    blocks := s1.blocks.map fun e =>
      if (s.asidOf e.2.part == asid) then
        (e.1, { e.2 with
          windows := e.2.windows.map fun w =>
            (match w.covers line with
             | none => w
             | some k => w.modLine k fun _ => StashLine.absent)
          wbFaults := e.2.wbFaults.filter (· ≠ line * 256) })
      else e }

/-- Every on-chip copy of a line is dropped: L1, sector copies, stash lines, the home's owner (17 R240). -/
def State.dropCopies (s : State) (asid line : Nat) : State :=
  let s1 := s.dropStash asid line
  { s1 with
    cores := s1.cores.map fun e => (e.1, { e.2 with l1 := e.2.l1.filter fun l => !(l.asid == asid && l.line / 4 == line) })
    copies := s1.copies.filter fun c => !(c.asid == asid && c.line == line)
    lines := s1.lines.modify (lkey asid line) fun l => { l with owner := none, copies := [] } }

/-- Write guest-physical bytes of a partition; none when stage 2 refuses. A module write marks its granule (21 R279). -/
def State.guestWrite (s : State) (p ipa : Nat) (bs : List Byte) : Option State :=
  match s.stage2 p ipa with
  | none => none
  | some (e, pa) =>
    if e / 8 % 2 = 0 then none
    else
      let tgt := e / 128 % 4
      let s1 := s.physWrite tgt (leafPeer p e) pa bs
      some (if tgt ≠ 0 then s1 else s1.modPart p fun x =>
        { x with dirty := insertNat (ipa / 65536) x.dirty, dirtyOvf := x.dirtyOvf || decide (8 * x.entry.dirtySize ≤ ipa / 65536) })

/-- Read n guest-physical bytes of a partition; none when stage 2 refuses. -/
def State.guestRead (s : State) (p ipa n : Nat) : Option (List Byte) :=
  match s.stage2 p ipa with
  | none => none
  | some (e, pa) => if e / 4 % 2 = 0 then none else some (s.physRead (e / 128 % 4) (leafPeer p e) pa n)

/-- The value of a shadow: in its pool line, else in the reserve; none when stage 2 refuses the pool line (17 R242). -/
def State.shadowBytes (s : State) (p : Nat) (x : Shadow) : Option (List Byte) :=
  match x.pool with
  | none => some x.bytes
  | some j => s.guestRead p ((s.part p).poolBase + 256 * j) 256

/-- A shadow whose pool line stage 2 refuses. -/
def State.lostShadow (s : State) (p : Nat) (xs : List Shadow) : Option Shadow := xs.find? fun x => (s.shadowBytes p x).isNone

/-- A line of a shadow cannot be written yet: L2 does not hold it and its page has no translation. -/
def State.restoreWaits (s : State) (xs : List Shadow) : Bool :=
  xs.any fun x => (s.trans x.asid (x.line * 256)).isNone

/-- A line is restored from a shadow: a write performed at H, with no shadow of its own (17 R236, R241). -/
def State.restoreLine (p : Nat) (s : State) (x : Shadow) : State :=
  let s0 := s.dropCopies x.asid x.line
  match s.shadowBytes p x, s.trans x.asid (x.line * 256) with
  | some bs, some t =>
    let r := s0.stamp
    let va := x.line * 256
    let s1 := (r.2.storeLine p t x.asid va bs [] 0).setTag x.asid x.line none
    (s1.wroteHome x.asid va 256 r.1 []).markDirty x.asid va
  | _, _ => s0

/-- How SREJ stands at its point. -/
inductive Rejected where
  | ok (s : State)
  | illegal
  /-- a line that it restores has no translation now -/
  | waits

/-- SREJ at its point; a shadow that cannot be read stops the partition (17 R242). -/
def State.rejectLevel (s : State) (p : Nat) (t : Word) : Rejected :=
  match s.innermost p t with
  | none => .illegal
  | some (g, r) =>
    let k := r.inner
    let mine (x : Shadow) : Bool := x.level == k && !x.copyBack
    let xs := r.shadows.filter mine
    if s.restoreWaits xs then .waits
    else match s.lostShadow p xs with
      | some x => .ok (s.beginStop p 4 (x.pool.getD 0))
      | none =>
        .ok ((xs.foldl (State.restoreLine p) s).modRegion p g fun y =>
          ({ y with shadows := y.shadows.map fun x => if (mine x) then { x with copyBack := true } else x } : Region).close)

/-- SREJ at its point, with its acquire. -/
def State.srejPoint (s : State) (wi k : Nat) (w : Wave) (t : Word) : Rejected :=
  match s.rejectLevel w.part t with
  | .ok s1 => .ok (s1.acquireBy wi k 0)
  | x => x

/-- SACC (17 R236): a line's shadow passes to the next level, unless that level holds one. -/
def Region.accept (r : Region) : Region :=
  let k := r.inner
  let mine (x : Shadow) : Bool := x.level == k && !x.copyBack
  let kept := r.shadows.filter fun x => !(mine x) ||
    (k != 0 && !(r.shadows.any fun y => y.level + 1 == k && y.line == x.line && !y.copyBack))
  ({ r with shadows := kept.map fun x => if (mine x) then { x with level := k - 1 } else x } : Region).close.relieve

/-! ## The words (17 Table 17.1, 24 R392) -/

/-- The effect of a word at its point: its trap is at its own PC. -/
def Point.effect (c : Ctx) : Point → Effect
  | .ok s => .ok s
  | .illegal => .trap Cause.illegal 0 c.sp.exec

/-- SNAP. -/
def execSnap (d a b : Operand) (s : State) : Host.Outcome State Fault Refusal :=
  uniformWord (.snap d a b) {} (fun c s =>
    let base := pairN c a
    let n := rawN c b
    if n ≠ 0 ∧ !(globalRange base n) then .trap Cause.aperture base c.act
    else if base % 256 ≠ 0 ∨ n % 256 ≠ 0 ∨ n = 0 then .trap Cause.misalign base c.act
    else
      let r := (s.unmark c.wi).startRelease c.wi 0
      if r.2.isReleasing c.wi r.1 then .completing r.2 (.release r.1 (.snap (regCode d - 0x80) base n))
      else (r.2.snapPoint c.wi c.w (regCode d - 0x80) base n).effect c) s

/-- SREJ. A reserved token bit raises ILLEGAL at issue (17 R232). -/
def execSrej (a : Operand) (s : State) : Host.Outcome State Fault Refusal :=
  uniformWord (.srej a) {} (fun c s =>
    let t := rawU c a
    if (tokenOf t).isNone then .trap Cause.illegal 0 c.sp.exec
    else
      let r := (s.unmark c.wi).startRelease c.wi 0
      if r.2.isReleasing c.wi r.1 then .completing r.2 (.release r.1 (.srej t))
      else match r.2.srejPoint c.wi c.sp.num c.w t with
        | .ok s1 => .ok s1
        | .illegal => .trap Cause.illegal 0 c.sp.exec
        | .waits => .completing r.2 (.release r.1 (.srej t))) s

/-- SACC. -/
def execSacc (a : Operand) (s : State) : Host.Outcome State Fault Refusal :=
  uniformWord (.sacc a) {} (fun c s =>
    match s.innermost c.w.part (rawU c a) with
    | none => .trap Cause.illegal 0 c.sp.exec
    | some (g, _) => .ok ((s.unmark c.wi).modRegion c.w.part g Region.accept)) s

/-- The status of a region for a token's level (17 Table 17.2). -/
def Region.status (r : Region) (k : Nat) : Nat :=
  if !r.isOpen then 0
  else (if r.exhausted then 2 else 1) + 4 * r.inner + (if k < r.levels.length then 16 else 0) +
    256 * min 0xFFFFFF (r.shadows.filter fun x => x.level != closedLevel).length

/-- SQRY. -/
def execSqry (d a : Operand) (s : State) : Host.Outcome State Fault Refusal :=
  uniformWord (.sqry d a) {} (fun c s =>
    match tokenOf (rawU c a) with
    | none => .trap Cause.illegal 0 c.sp.exec
    | some (g, k) =>
      .ok ((s.unmark c.wi).modWave c.wi fun w => w.writeGroup d c.act 1 fun _ _ =>
        word (((s.part c.w.part).region g).status k))) s

/-! ## Shadows (17 R238, R242, R243) -/

/-- Shadows in the reserve. -/
def Part.reserved (p : Part) : Nat := (p.regions.flatMap fun r => r.shadows.filter fun x => x.pool.isNone).length

/-- The pool line the device chooses among the free ones: any. -/
def Part.freeLine (p : Part) (k : Nat) : Nat :=
  p.poolLines.foldl (fun j u => if u ≤ j then j + 1 else j) (Config.freeNat k % (p.poolSize - p.poolUsed))

/-- A byte of a line at H as the snapshot engine takes it: what a stash window holds is not there yet (17 R238, R240). -/
def State.l2Byte (s : State) (asid va : Nat) : Option Byte :=
  if (s.line? asid (lineOf va)).any fun l => l.valid.getLsbD (sectorIn va) then some (s.home.get (gkey asid va))
  else (s.trans asid va).map fun r => s.physByte r.tgt r.peer (r.pa + va % 65536)

/-- The 256 bytes of a line at H. -/
def State.l2Line (s : State) (asid line : Nat) : Option (List Byte) :=
  (upTo 256).foldr (fun i r => match s.l2Byte asid (line * 256 + i), r with
    | some x, some xs => some (x :: xs)
    | _, _ => none) (some [])

/-- Keep the old value of a line for level k of region g: in the pool, else in the reserve (17 R243); with neither, or when stage 2
refuses the pool line, the partition stops (R244, R242). -/
def State.makeShadow (s : State) (p g k asid line : Nat) (bs : List Byte) : State :=
  let x := s.part p
  let r := s.drawn.stamp
  let put (pool : Option Nat) (s : State) : State := s.modRegion p g fun y =>
    { y with exhausted := y.exhausted || pool.isNone
             shadows := y.shadows ++
               [{ line := line, asid := asid, level := k, bytes := if pool.isSome then [] else bs, seq := r.1, pool := pool, copyBack := false }] }
  if x.poolUsed < x.poolSize then
    let j := x.freeLine s.free
    match r.2.guestWrite p (x.poolBase + 256 * j) bs with
    | none => s.beginStop p 4 j
    | some s1 => put (some j) s1
  else if 64 ≤ x.reserved then s.beginStop p 3 g
  else put none r.2

/-- The shadow that a write to a line needs is made now, if one is due. -/
def State.shadowNow (s : State) (asid line : Nat) : State :=
  match s.shadowDue asid line, s.l2Line asid line with
  | some (p, g, k), some bs => s.makeShadow p g k asid line bs
  | _, _ => s

/-- The oldest shadow in the reserve: its region and itself. -/
def Part.oldestReserved (p : Part) : Option (Nat × Shadow) :=
  let xs := (upTo p.regions.length).flatMap fun g =>
    ((p.region g).shadows.filter fun x => x.pool.isNone).map fun x => (g, x)
  match xs with
  | [] => none
  | x :: rest => some (rest.foldl (fun m e => if e.2.seq < m.2.seq then e else m) x)

/-- RESERVE_MOVE (17 R244): the oldest reserve shadow moves into the pool while it has a free line. -/
def execReserveMove (p : Nat) (s : State) : Host.Outcome State Fault Refusal :=
  let x := s.part p
  match x.oldestReserved with
  | none => .next s
  | some (g, y) =>
    if x.poolSize ≤ x.poolUsed ∨ !x.running then .next s
    else
      let j := x.freeLine s.free
      match s.drawn.guestWrite p (x.poolBase + 256 * j) y.bytes with
      | none => .next (s.beginStop p 4 j)
      | some s1 => .next (s1.modRegion p g fun r =>
          ({ r with shadows := r.shadows.map fun z => if z.seq = y.seq then { z with pool := some j, bytes := [] } else z } : Region).relieve)

/-- COPY_BACK (17 R236): the copy back of shadow n of a rejected level ends, and it is freed. It reads the shadow's pool line; when stage 2
refuses that, the partition stops (R242). -/
def execCopyBack (p n : Nat) (s : State) : Host.Outcome State Fault Refusal :=
  match s.lostShadow p (((s.part p).regions.flatMap (·.shadows)).filter fun y => y.seq == n && y.copyBack) with
  | some x => .next (s.beginStop p 4 (x.pool.getD 0))
  | none =>
    .next (s.modPart p fun x => { x with regions := x.regions.map fun r =>
      ({ r with shadows := r.shadows.filter fun y => !(y.seq == n && y.copyBack) } : Region).relieve })

/-- A partition takes writes to its kick page (21 R278). -/
def Part.kickable (p : Part) : Bool := p.state != 2 && p.stopping.isNone

/-- SHADOW_POOL_BASE_WRITE (17 Table 17.3). -/
def execShadowPoolBaseWrite (p : Nat) (v : BitVec 64) (s : State) : Host.Outcome State Fault Refusal :=
  let x := s.part p
  if !x.kickable ∨ x.poolUsed ≠ 0 ∨ v.toNat % 65536 ≠ 0 then .next s
  else .next (s.modPart p fun y => { y with poolBase := v.toNat })

/-- SHADOW_POOL_SIZE_WRITE (17 Table 17.3). -/
def execShadowPoolSizeWrite (p : Nat) (v : Word) (s : State) : Host.Outcome State Fault Refusal :=
  let x := s.part p
  if !x.kickable ∨ x.entry.quota < v.toNat ∨ v.toNat < x.poolUsed then .next s
  else .next (s.modPart p fun y => { y with poolSize := v.toNat })

end Sys2Proof.Machine
end

