-- ==== Sys2Proof/Machine/Sampling.lean ====
section
/-! DEFINITION. Sample sets and the raster (15 R209 to R225): building an index, binding a set, emitting triangles, the binner, the
raster units and their fragment records. -/

namespace Sys2Proof.Machine

/-! ## Sets and their descriptors (15 R209) -/

/-- A sample set descriptor (15 Table 15.1). -/
structure SampleSet where
  samples : Nat
  count : Nat
  leafCap : Nat
  skipZero : Bool
  x0 : Nat
  y0 : Nat
  x1 : Nat
  y1 : Nat
  index : Nat
  indexSize : Nat
  arena : Nat
  arenaSize : Nat
  status : Nat

/-- The fields of a descriptor's bytes. -/
def SampleSet.read (bs : List Byte) : SampleSet :=
  let f := field bs
  { samples := f 0 8, count := f 8 4, leafCap := f 0xC 1, skipZero := f 0xD 1 % 2 == 1, x0 := f 0x10 2, y0 := f 0x12 2
    x1 := f 0x14 2, y1 := f 0x16 2, index := f 0x18 8, indexSize := f 0x20 4, arena := f 0x28 8, arenaSize := f 0x30 4
    status := f 0x34 4 }

/-- The reserved fields of a descriptor are 0 (00 R3, 15 Table 15.1). -/
def setReservedOk (bs : List Byte) : Bool :=
  let f := field bs
  decide (f 0xD 3 < 2) && decide (f 0x24 4 = 0) && decide (f 0x3C 4 = 0)

/-- The reserved bytes of an index header are 0 (00 R3, 15 Table 15.3). -/
def headerReservedOk (hdr : List Byte) : Bool := decide (field hdr 0x28 24 = 0)

/-- Every field lies within 15 Table 15.1. -/
def setOk (bs : List Byte) : Bool :=
  let f := field bs
  decide (f 0 8 % 8 = 0) && decide (f 8 4 ≤ 16777216) && decide (4 ≤ f 0xC 1) && decide (f 0xC 1 ≤ 64) &&
    decide (f 0x10 2 < f 0x14 2) && decide (f 0x12 2 < f 0x16 2) && decide (f 0x18 8 % 64 = 0) && decide (f 0x28 8 % 256 = 0) &&
    setReservedOk bs

/-- Ranges of a set that must lie in the global region, an empty one at its base: the first that does not. -/
def SampleSet.outside (x : SampleSet) : Option Nat :=
  ([(x.samples, 8 * x.count), (x.index, x.indexSize), (x.arena, x.arenaSize)].find? fun r => !(globalRange r.1 (max 1 r.2))).map (·.1)

/-- A launch of the partition holds the descriptor bound (15 R214). -/
def State.setBound (s : State) (p desc : Nat) : Bool :=
  s.launches.any fun e => e.2.part == p && !e.2.complete && e.2.bind.any fun b => b.desc == desc

/-- SSBUILD (15 R214, 24 R403). -/
def execSsbuild (d a : Operand) (s : State) : Host.Outcome State Fault Refusal :=
  handleWord (.ssbuild d a) {} d (fun c s =>
    let va := pairN c a
    if va % 64 ≠ 0 ∨ s.setBound c.w.part va then .trap Cause.illegal 0 c.sp.exec
    else if !(globalRange va 64) then .trap Cause.aperture va c.act
    else withRead c s va 64 64 fun bs s =>
      let x := SampleSet.read bs
      if !(setOk bs) then .trap Cause.illegal 0 c.sp.exec
      else
        match x.outside with
        | some g => .trap Cause.aperture g c.act
        | none =>
          let o := s.opStart c.wi c.w 4
          let t := o.2.2.takeTag c.w.part
          let b : BuildOp := { tag := t.1, part := c.w.part, sector := sectorOf c.w.core, block := c.w.block
                               asid := s.asidOf c.w.part, desc := va, samples := x.samples, count := x.count, leafCap := x.leafCap
                               skipZero := x.skipZero, x0 := x.x0, y0 := x.y0, x1 := x.x1, y1 := x.y1, index := x.index
                               indexSize := x.indexSize, started := false, written := false, href := hrefOf c d, rel := o.1
                               fences := o.2.1, st := .ready }
          .ok (({ t.2 with builds := t.2.builds ++ [b] } : State).pendHandle c d t.1)) s

/-! ## The index (15 R211 to R213) -/

/-- A sample: index, x, y, class. -/
structure Sample where
  i : Nat
  x : Nat
  y : Nat
  cls : Nat

/-- Sample i of an array's bytes. -/
def sampleAt (bs : List Byte) (i : Nat) : Sample :=
  let r := field bs (8 * i) 8
  { i := i, x := r % 16777216, y := r / 16777216 % 16777216, cls := r / 281474976710656 }

/-- A node of the index; a leaf's samples. -/
structure BNode where
  kind : Nat
  first : Nat
  level : Nat
  count : Nat
  items : List Sample

/-- A cell to be processed. -/
structure BCell where
  n : Nat
  cx : Nat
  cy : Nat
  size : Nat
  level : Nat
  items : List Sample

/-- A cell's samples that lie in a quarter. -/
def BCell.quarter (c : BCell) (n q : Nat) : BCell :=
  let h := c.size / 2
  let qx := c.cx + h * (q % 2)
  let qy := c.cy + h * (q / 2)
  { n := n, cx := qx, cy := qy, size := h, level := c.level + 1
    items := c.items.filter fun p => decide (qx ≤ p.x) && decide (p.x < qx + h) && decide (qy ≤ p.y) && decide (p.y < qy + h) }

/-- Process a cell and what lies under it (15 R213): nodes so far, and the next node number. -/
def growCell (cap : Nat) : Nat → BCell → Table BNode × Nat → Table BNode × Nat
  | fuel, c, (t, next) =>
    if c.items.isEmpty then (t.put c.n { kind := 0, first := 0, level := c.level, count := 0, items := [] }, next)
    else
      match fuel with
      | 0 => (t.put c.n { kind := 1, first := 0, level := c.level, count := c.items.length, items := c.items }, next)
      | f + 1 =>
        if cap < c.items.length ∧ 1 < c.size then
          [0, 1, 2, 3].foldl (fun acc q => growCell cap f (c.quarter (next + q) q) acc)
            (t.put c.n { kind := 2, first := next, level := c.level, count := c.items.length, items := [] }, next + 4)
        else (t.put c.n { kind := 1, first := 0, level := c.level, count := c.items.length, items := c.items }, next)

/-- Root columns and rows (15 R211). -/
def BuildOp.gw (b : BuildOp) : Nat := (b.x1 - b.x0 + 255) / 256
def BuildOp.gh (b : BuildOp) : Nat := (b.y1 - b.y0 + 255) / 256

/-- Root cell n. -/
def BuildOp.root (b : BuildOp) (xs : List Sample) (n : Nat) : BCell :=
  let cx := 256 * b.x0 + 65536 * (n % b.gw)
  let cy := 256 * b.y0 + 65536 * (n / b.gw)
  { n := n, cx := cx, cy := cy, size := 65536, level := 0
    items := xs.filter fun p => decide (cx ≤ p.x) && decide (p.x < cx + 65536) && decide (cy ≤ p.y) && decide (p.y < cy + 65536) }

/-- All nodes by number. -/
def BuildOp.nodes (b : BuildOp) (xs : List Sample) : Table BNode :=
  ((upTo (b.gw * b.gh)).foldl (fun acc n => growCell b.leafCap 16 (b.root xs n) acc) ([], b.gw * b.gh)).1

/-- The node array's words and the permuted array, leaves numbered in ascending node number. -/
def nodeWords (t : Table BNode) : List Nat × List Nat :=
  let r := t.foldl (fun (acc : List Nat × List Nat × Nat) e =>
    let leaf := e.2.kind == 1
    let first := if leaf then acc.2.1.length else e.2.first
    let w0 := e.2.kind + (if leaf then 256 * acc.2.2 else 0)
    (acc.1 ++ [w0, first, e.2.count, e.2.level], acc.2.1 ++ e.2.items.map (·.i), acc.2.2 + (if leaf then 1 else 0))) ([], [], 0)
  (r.1, r.2.1)

/-- What a build comes to: status, detail, and the index's bytes. -/
structure Built where
  status : Nat
  detail : Nat
  bytes : List Byte

/-- A sample is indexed (15 R209). -/
def BuildOp.indexed (b : BuildOp) (p : Sample) : Bool := !b.skipZero || p.cls != 0

/-- An indexed sample lies outside the bounds (15 R211). -/
def BuildOp.stray (b : BuildOp) (p : Sample) : Bool :=
  b.indexed p && !(decide (256 * b.x0 ≤ p.x) && decide (p.x < 256 * b.x1) && decide (256 * b.y0 ≤ p.y) && decide (p.y < 256 * b.y1))

/-- The build of a set from its samples (15 R210 to R213). -/
def BuildOp.build (b : BuildOp) (samples : List Sample) : Built :=
  let xs := samples.filter b.indexed
  match samples.find? b.stray with
  | some p => { status := 2, detail := p.i, bytes := [] }
  | none =>
    let t := b.nodes xs
    let m := t.length
    let w := nodeWords t
    let size := 64 + 16 * m + 4 * xs.length
    if b.indexSize < size then { status := 3, detail := size, bytes := [] }
    else
      let leaves := (t.filter fun e => e.2.kind == 1).length
      let header := [256 * b.x0, 256 * b.y0, 65536, b.gw, b.gh, m, b.leafCap, leaves, 64, 64 + 16 * m, 0, 0, 0, 0, 0, 0]
      { status := 1, detail := xs.length, bytes := (header ++ w.1 ++ w.2).flatMap fun x => leBytes x 4 }

/-! ## Lynx at work (15 R214, R215) -/

/-- Check every granule of an engine's range. -/
def State.engCheckAll (s : State) (p core asid va n : Nat) (need : Need) : Moved Unit :=
  if n = 0 then .ok ()
  else
    ((upTo ((va + n - 1) / 65536 - va / 65536 + 1)).map fun i => max va ((va / 65536 + i) * 65536)).foldl (fun (r : Moved Unit) a =>
      match r with
      | .ok () =>
        (match s.engCheck p core asid a need with
         | .go => .ok ()
         | .wait s1 => .wait s1
         | .refuse s1 t => .refuse s1 a t)
      | r => r) (.ok ())

/-- n bytes of global memory as the engines of a block read them (08 R159); none while a byte has no value yet. -/
def State.viewRead (s : State) (bi asid va n : Nat) : Option (List Byte) :=
  match s.block? bi with
  | none => s.engineRead asid va n
  | some b =>
    match (b.waves.head?).bind s.wave? with
    | none => s.engineRead asid va n
    | some w => (s.sources 0 { w with wsb := [] } b { n := s.seq, home := false, bytes := [] } 0 va n).map fun xs => xs.map (·.1)

/-- Read a range for an engine of a block, checked. -/
def State.viewChecked (s : State) (p core bi asid va n : Nat) : Moved (List Byte) :=
  match s.engCheckAll p core asid va n .read with
  | .wait s1 => .wait s1
  | .refuse s1 a t => .refuse s1 a t
  | .ok () =>
    match s.viewRead bi asid va n with
    | none => .wait s
    | some bs => .ok bs

/-- Write a range for an engine, checked. -/
def State.writeChecked (s : State) (p core asid va : Nat) (bs : List Byte) : Moved State :=
  match s.engCheckAll p core asid va bs.length .write with
  | .wait s1 => .wait s1
  | .refuse s1 a t => .refuse s1 a t
  | .ok () =>
    let r := s.stamp
    match r.2.engineWrite asid va bs r.1 with
    | none => .wait s
    | some s1 => .ok s1

/-- n free bytes, and the state that has drawn them. -/
def State.freeBytes (s : State) (n : Nat) : List Byte × State :=
  ((upTo n).map fun i => Config.freeByte (s.free + i), { s with free := s.free + n })

/-- Replace or remove a build. -/
def State.setBuild (s : State) (b : BuildOp) (x : Option BuildOp) : State :=
  { s with builds := s.builds.filterMap fun y => if y.tag = b.tag ∧ y.part = b.part then x else some y }

/-- A fault parks a build with a record of ENGINE 4 (24 R403). -/
def State.parkBuild (s : State) (b : BuildOp) (va type kind : Nat) : State :=
  (s.setBuild b (some { b with st := .parked })).addFault b.part (engineFault va b.asid type kind b.tag 4 b.sector)

/-- The core of a block. -/
def State.coreOf (s : State) (bi : Nat) : Nat := (s.block? bi).elim 0 (·.core)

/-- Under codes 2 and 3 what the index's memory holds is not valid: free bytes (15 R210). -/
def State.spoilIndex (s : State) (b : BuildOp) : State :=
  let r := s.freeBytes b.indexSize
  match r.2.writeChecked b.part (s.coreOf b.block) b.asid b.index r.1 with
  | .ok s1 => s1
  | _ => s

/-- The oldest build of an owner in a sector's queue. -/
def State.headBuild (s : State) (sec p : Nat) : Option BuildOp :=
  s.builds.find? fun b => b.sector == sec && b.part == p && !b.written

/-- A build may start: no other build of its descriptor that was issued before is unfinished (15 R214). -/
def State.mayBuild (s : State) (b : BuildOp) : Bool :=
  b.started || ((s.builds.takeWhile fun x => !(x.tag == b.tag && x.part == b.part)).all fun x =>
      !(x.part == b.part && x.desc == b.desc && !x.written)) &&
    s.builds.all fun x => !(x.part == b.part && x.desc == b.desc && x.started && !x.written)

/-- A build writes the index and its final status. -/
def State.finishBuild (s : State) (b : BuildOp) (r : Built) : State :=
  let core := s.coreOf b.block
  let park (s : State) (va t : Nat) : State := s.parkBuild b va t 6
  let s0 := if r.status = 1 then s else s.spoilIndex b
  match s0.writeChecked b.part core b.asid b.index r.bytes with
  | .wait s1 => s1
  | .refuse s1 va t => park s1 va t
  | .ok s1 =>
    match s1.writeChecked b.part core b.asid (b.desc + 0x34) (leBytes r.status 4 ++ leBytes r.detail 4) with
    | .wait _ => s
    | .refuse s2 va t => park s2 va t
    | .ok s2 => (s2.setBuild b (if b.href.isSome then some { b with written := true } else none)).endOp b.tag

/-- The sample records in ascending index, up to the first stray one (15 R215). -/
def State.readSamples (s : State) (p core : Nat) (b : BuildOp) : List Nat → Moved (List Sample)
  | [] => .ok []
  | i :: rest =>
    match s.viewChecked p core b.block b.asid (b.samples + 8 * i) 8 with
    | .wait s1 => .wait s1
    | .refuse s1 va t => .refuse s1 va t
    | .ok bs =>
      let x : Sample := { sampleAt bs 0 with i := i }
      if b.stray x then .ok [x]
      else match s.readSamples p core b rest with
        | .ok xs => .ok (x :: xs)
        | r => r

/-- LYNX_BUILD: the head build of an owner's share of a sector's queue starts, and then is done (15 R210, R213). -/
def execLynxBuild (sec p : Nat) (s : State) : Host.Outcome State Fault Refusal :=
  match s.headBuild sec p with
  | none => .next s
  | some b =>
    let core := s.coreOf b.block
    if b.st ≠ .ready ∨ !(s.opFree b.rel b.fences) ∨ !(s.mayBuild b) then .next s
    else if !b.started then
      match s.writeChecked p core b.asid (b.desc + 0x34) (List.replicate 8 0) with
      | .wait s1 => .next s1
      | .refuse s1 va t => .next (s1.parkBuild b va t 6)
      | .ok s1 => .next (s1.setBuild b (some { b with started := true }))
    else
      match s.readSamples p core b (upTo b.count) with
      | .wait s1 => .next s1
      | .refuse s1 va t => .next (s1.parkBuild b va t 5)
      | .ok xs => .next (s.finishBuild b (b.build xs))

/-- BUILD_HANDLE_DONE: the handle of a build follows its final status (15 R215). -/
def execBuildHandleDone (p n : Nat) (s : State) : Host.Outcome State Fault Refusal :=
  match s.builds.find? fun b => b.part == p && b.tag == n && b.written with
  | none => .next s
  | some b => .next ((s.setBuild b none).endHandle b.href b.tag .done)

/-! ## Binding (15 R216) -/

/-- Change the binding of a launch. -/
def State.modBind (s : State) (l : Nat) (f : SampleBind → SampleBind) : State :=
  s.modLaunch l fun x => { x with bind := x.bind.map f }

/-- The arena in use: root cells, triangles, references (15 R219). -/
def SampleBind.used (b : SampleBind) : Nat := 16 * b.gw * b.gh + 32 * b.binned + 4 * b.refs

/-- The open draw has triangles that no DRAWEND has closed. -/
def SampleBind.emitted (b : SampleBind) : Bool := !b.queue.isEmpty || b.flushing.isSome || decide (0 < b.openTris)

/-- A binding of a set to a stage. -/
def newBind (c : Ctx) (x : SampleSet) (hdr : List Byte) (desc asid gen stage stageLaunch : Nat) (cores : List Nat) : SampleBind :=
  let f := field hdr
  { gen := gen, desc := desc, samples := x.samples, count := x.count, skipZero := x.skipZero, x0 := f 0 4, y0 := f 4 4
    gw := f 0xC 4, gh := f 0x10 4, index := x.index, arena := x.arena, arenaSize := x.arenaSize, stage := stage
    stageLaunch := stageLaunch, block := c.w.block, core := c.w.core, asid := asid, prim := 0, drawNo := 0, cores := cores
    queue := [], bins := [], binned := 0, refs := 0, openTris := 0, openFailed := false, draws := [], flushing := none, parked := none }

/-- Root columns times root rows of a set's bounds (15 R211). -/
def SampleSet.cells (x : SampleSet) : Nat := ((x.x1 - x.x0 + 255) / 256) * ((x.y1 - x.y0 + 255) / 256)

/-- A launch's binding is replaced; the earlier one stays while it has draws that have not ended (15 R216). -/
def Launch.bindSet (l : Launch) (y : SampleBind) : Launch :=
  { l with bind := some y, past := l.past ++ (l.bind.toList.filter fun o => !o.draws.isEmpty) }

/-- SSBIND (15 R216, 24 R403): what the stage, the launch and then the descriptor make ILLEGAL comes before the accesses that follow. The
header is read as a load of the wave reads, from scratch too; only the descriptor's address must be global. -/
def execSsbind (a b : Operand) (s : State) : Host.Outcome State Fault Refusal :=
  uniformWord (.ssbind a b) {} (fun c s =>
    let va := pairN c a
    let id := rawN c b
    let old := (s.launch? c.w.launch).bind (·.bind)
    match if 63 < id then none else s.binding? c.w.part id with
    | none => .trap Cause.illegal 0 c.sp.exec
    | some k =>
      if k.recWords ≠ 4 ∨ old.any (·.emitted) then .trap Cause.illegal 0 c.sp.exec
      else if !(globalRange va 64) then .trap Cause.aperture va c.act
      else withRead c s va 1 64 fun bs s =>
        let x := SampleSet.read bs
        if !(setReservedOk bs) ∨ x.status ≠ 1 ∨ x.arenaSize < 20 * x.cells + 32 then .trap Cause.illegal 0 c.sp.exec
        else withRead c s x.index 1 64 fun hdr s =>
          if !(headerReservedOk hdr) ∨ x.arenaSize < 20 * field hdr 0xC 4 * field hdr 0x10 4 + 32 then .trap Cause.illegal 0 c.sp.exec
          else
            let t := (s.unmark c.wi).stamp
            let y := newBind c x hdr va (s.asidOf c.w.part) t.1 id k.launch (s.part c.w.part).coreList
            .ok (t.2.modLaunch c.w.launch fun l => l.bindSet y)) s

/-! ## Emitting (15 R217) -/

/-- The i32 value of a word. -/
def signed32 (x : Word) : Int := x.toInt

/-- The triangle of a lane. -/
def triOf (c : Ctx) (d : Operand) (l : Nat) : Tri :=
  let g (i : Nat) : Int := signed32 (groupLane c d i l)
  { prim := 0, x0 := g 0, y0 := g 1, x1 := g 2, y1 := g 3, x2 := g 4, y2 := g 5 }

/-- TRIEMIT (24 R413): while a partial flush holds the arena, the split waits for its end. -/
def execTriemit (d : Operand) (s : State) : Host.Outcome State Fault Refusal :=
  let bound (c : Ctx) : Bool := ((s.launch? c.w.launch).bind (·.bind)).isSome
  wordOf (.triemit d) { illegal := fun c => !(bound c), roleOk := fun r => r != 1 } (fun c s =>
    if c.act = 0 then .ok s
    else
      let o := s.opStart c.wi c.w 5
      let ts := (lanesOf c.act).map fun l => ({ wave := c.wi, split := c.sp.num, rel := o.1, tri := triOf c d l } : Emitted)
      let s1 := o.2.2.modBind c.w.launch fun b => { b with queue := b.queue ++ ts }
      if ((s.launch? c.w.launch).bind (·.bind)).any fun b => b.flushing.isSome then .completing s1 (.flush c.w.launch)
      else .ok s1) s

/-- A partial flush holds the arena of a launch. -/
def State.isFlushing (s : State) (l : Nat) : Bool := ((s.launch? l).bind (·.bind)).any fun b => b.flushing.isSome

/-! ## Triangles (15 R219, R222, R223) -/

/-- E of an edge at a point (15 R222). -/
def edgeFn (xi yi xj yj px py : Int) : Int := (xj - xi) * (py - yi) - (yj - yi) * (px - xi)

/-- The triangle with v1 and v2 exchanged where E01(v2) < 0, and whether they were. -/
def Tri.oriented (t : Tri) : Tri × Bool :=
  if edgeFn t.x0 t.y0 t.x1 t.y1 t.x2 t.y2 < 0 then ({ t with x1 := t.x2, y1 := t.y2, x2 := t.x1, y2 := t.y1 }, true) else (t, false)

/-- A: twice the area after the exchange. -/
def Tri.area (t : Tri) : Int := let u := t.oriented.1; edgeFn u.x0 u.y0 u.x1 u.y1 u.x2 u.y2

/-- The bounding box meets a cell of a size (15 R219). -/
def Tri.meets (t : Tri) (cx cy size : Nat) : Bool :=
  let lo (a b c : Int) : Int := min a (min b c)
  let hi (a b c : Int) : Int := max a (max b c)
  decide (lo t.x0 t.x1 t.x2 < (cx + size : Nat)) && decide ((cx : Int) ≤ hi t.x0 t.x1 t.x2) &&
    decide (lo t.y0 t.y1 t.y2 < (cy + size : Nat)) && decide ((cy : Int) ≤ hi t.y0 t.y1 t.y2)

/-- The tie rule of an edge whose function is 0 (15 R222). -/
def edgeWins (e xi yi xj yj : Int) : Bool :=
  decide (0 < e) || (e == 0 && (decide (0 < yj - yi) || (yj - yi == 0 && decide (xj - xi < 0))))

/-- An exact quotient of nonnegative integers rounded to f32 under rne (15 R223). -/
def quotientF32 (n d : Int) : Nat := if n = 0 then 0 else (roundRat fmtF32 0 false false n.toNat d.toNat 0).1

/-- What a covered sample's record holds of its triangle: b1, b2, TIE, SWAPPED. None: not covered. -/
def Tri.cover (t : Tri) (px py : Int) : Option (Nat × Nat × Bool × Bool) :=
  let u := t.oriented
  let v := u.1
  let a := t.area
  let e01 := edgeFn v.x0 v.y0 v.x1 v.y1 px py
  let e12 := edgeFn v.x1 v.y1 v.x2 v.y2 px py
  let e20 := edgeFn v.x2 v.y2 v.x0 v.y0 px py
  if a ≤ 0 then none
  else if edgeWins e01 v.x0 v.y0 v.x1 v.y1 && edgeWins e12 v.x1 v.y1 v.x2 v.y2 && edgeWins e20 v.x2 v.y2 v.x0 v.y0 then
    some (quotientF32 e20 a, quotientF32 e01 a, e01 == 0 || e12 == 0 || e20 == 0, u.2)
  else none

/-- The root cells that a triangle is binned in. -/
def SampleBind.cells (b : SampleBind) (t : Tri) : List Nat :=
  if t.area = 0 then []
  else (upTo (b.gw * b.gh)).filter fun n => t.meets (b.x0 + 65536 * (n % b.gw)) (b.y0 + 65536 * (n / b.gw)) 65536

/-! ## The binner (15 R218 to R220) -/

/-- Append a triangle to its bins. -/
def SampleBind.bin (b : SampleBind) (t : Tri) : SampleBind :=
  let cs := b.cells t
  { b with bins := b.bins ++ cs.map (fun n => (n, t)), binned := b.binned + (if cs.isEmpty then 0 else 1), refs := b.refs + cs.length }

/-- A raster phase of the open draw begins: its bins leave the arena. -/
def SampleBind.phase (b : SampleBind) (flush : Bool) (href : Option HRef) (tag : Nat) : SampleBind :=
  { b with
    draws := b.draws ++ [{ no := b.drawNo, flush := flush, handle := href, tag := tag, failed := b.openFailed, bins := b.bins
                           made := b.bins.isEmpty, parked := none }]
    bins := [], binned := 0, refs := 0 }

/-- The open draw closes (15 R220). -/
def SampleBind.close (b : SampleBind) (href : Option HRef) (tag : Nat) : SampleBind :=
  { b.phase false href tag with drawNo := (b.drawNo + 1) % 65536, openTris := 0, openFailed := false }

/-- Work is left for a phase: an item of it, or a record that its home has not accepted. -/
def State.phaseBusy (s : State) (l : Nat) (b : SampleBind) (d : Draw) : Bool :=
  let item (w : WorkItem) : Bool := w.launch == l && w.gen == b.gen && w.draw == d.no && (!d.flush || w.flush)
  let rec_ (r : KRec) : Bool := !d.flush && r.launch == l && r.gen == b.gen && r.draw == some d.no
  (s.cores.any fun e => e.2.work.any item || e.2.held.any fun h => rec_ h.2) ||
    s.parts.any fun e => (e.2.work.any fun w => item w.2) || e.2.held.any fun h => rec_ h.2.2

/-- A phase of a binding is over. -/
def State.phaseOver (s : State) (l : Nat) (b : SampleBind) (d : Draw) : Bool := d.made && !(s.phaseBusy l b d)

/-- End the phases of a binding that are over (15 R219, R220). -/
def State.endPhases (s : State) (l : Nat) (b : SampleBind) : SampleBind × State :=
  let ended := b.draws.filter (s.phaseOver l b)
  let left := b.draws.filter fun d => !(s.phaseOver l b d)
  let s1 := (ended.filter fun d => !d.flush).foldl (fun s d =>
    (s.endHandle d.handle d.tag (if d.failed then .failed else .done)).endOp d.tag) s
  ({ b with draws := left, openFailed := b.openFailed || ended.any fun d => d.flush && d.failed }, s1)

/-- Look again at the raster phases of a launch. -/
def State.settleDraws (s : State) (l : Nat) : State :=
  match s.launch? l with
  | none => s
  | some x =>
    let past := x.past.foldl (fun (acc : List SampleBind × State) b =>
      let r := acc.2.endPhases l b
      (if r.1.draws.isEmpty then acc.1 else acc.1 ++ [r.1], r.2)) ([], s)
    match x.bind with
    | none => past.2.modLaunch l fun y => { y with past := past.1 }
    | some b =>
      let r := past.2.endPhases l b
      r.2.modLaunch l fun y => { y with past := past.1, bind := some r.1 }

/-- A boundary at which a graphics launch that is to yield does so (05 R106). -/
def State.reachBoundary (s : State) (l : Nat) : State :=
  s.modLaunch l fun x => { x with yielding := false, yielded := x.yielded || x.yielding }

/-- DRAWEND (22 R321): it is received once every triangle the launch has emitted has been (log 29). -/
def execDrawend (d : Operand) (s : State) : Host.Outcome State Fault Refusal :=
  handleWord (.drawend d) {} d (fun c s =>
    match (s.launch? c.w.launch).bind (·.bind) with
    | none => .trap Cause.illegal 0 c.sp.exec
    | some b =>
      if !b.queue.isEmpty ∨ b.flushing.isSome then .stall s
      else
        let t := (s.unmark c.wi).takeTag c.w.part
        let s1 := (t.2.pendHandle c d t.1).modBind c.w.launch fun b => b.close (hrefOf c d) t.1
        .ok ((s1.reachBoundary c.w.launch).settleDraws c.w.launch)) s

/-- The sector's Lynx parks the binner's write of the arena with a record. -/
def State.parkBinner (s : State) (p l : Nat) (b : SampleBind) (wi va type : Nat) : State :=
  let t := s.takeTag p
  (t.2.modBind l fun x => { x with parked := some (t.1, wi) }).addFault p
    (engineFault va b.asid type 6 t.1 4 (sectorOf b.core))

/-- Free bytes are written to ranges as an engine writes. -/
def State.spoilRanges (s : State) (p core asid : Nat) : List (Nat × Nat) → Moved State
  | [] => .ok s
  | r :: rest =>
    let y := s.freeBytes r.2
    match y.2.writeChecked p core asid r.1 y.1 with
    | .ok s1 => s1.spoilRanges p core asid rest
    | x => x

/-- The arena bytes that binning a triangle writes: 16 bytes for each root cell it meets, every cell's with the first triangle, and its
own 32 bytes with 4 for each reference; what they hold is the device's own (15 R219). -/
def SampleBind.arenaRanges (b : SampleBind) (t : Tri) : List (Nat × Nat) :=
  (if b.binned = 0 then [(b.arena, 16 * b.gw * b.gh)] else (b.cells t).map fun n => (b.arena + 16 * n, 16)) ++
    [(b.arena + b.used, 32 + 4 * (b.cells t).length)]

/-- Bin the triangle of a wave: its arena bytes are written, or the write is parked with a record. -/
def State.binTriangle (s : State) (p l wi : Nat) (b : SampleBind) (t : Tri) : State :=
  match s.spoilRanges p b.core b.asid (b.arenaRanges t) with
  | .wait s1 => s1
  | .refuse s1 va ty => s1.parkBinner p l b wi va ty
  | .ok s1 => s1.modBind l fun _ => b.bin t

/-- A partial flush begins for a triangle that does not fit; the split that emitted it is held until the triangle is binned (15 R219). -/
def State.startFlush (s : State) (p l : Nat) (b : SampleBind) (e : Emitted) : State :=
  let tag := s.takeTag p
  let s1 := tag.2.modBind l fun _ => { b.phase true none tag.1 with flushing := some e }
  (s1.modSplit e.wave e.split fun x =>
    if x.park = .none then { x with park := .completing x.pc (.flush l) false, parkedAt := s.seq } else x).settleDraws l

/-- A triangle is received: it takes its primitive id; if it meets root cells it is binned, or it waits for a partial flush (15 R218,
R219). -/
def State.receive (s : State) (p l : Nat) (b : SampleBind) (e : Emitted) : State :=
  let t : Tri := { e.tri with prim := b.prim }
  let b1 : SampleBind := { b with queue := b.queue.erase e, prim := (b.prim + 1) % 4294967296, openTris := b.openTris + 1 }
  let cs := b.cells t
  if cs.isEmpty then s.modBind l fun _ => b1
  else if b.arenaSize < b.used + 32 + 4 * cs.length then s.startFlush p l b1 { e with tri := t }
  else s.binTriangle p l e.wave b1 t

/-- BINNER_RECEIVE: the binner of a launch receives wave w's oldest triangle, or bins the one that a flush kept waiting. Once the launch's
waves that are not keyed have exited, the device closes an open draw (15 R220). -/
def execBinnerReceive (l wi : Nat) (s : State) : Host.Outcome State Fault Refusal :=
  match s.launch? l with
  | none => .next s
  | some x =>
    match x.bind with
    | none => .next s
    | some b =>
      if b.parked.isSome then .next s
      else
        match b.flushing with
        | some e =>
          if b.draws.any (·.flush) then .next s else .next (s.binTriangle x.part l e.wave { b with flushing := none } e.tri)
        | none =>
          match b.queue.find? fun e => e.wave == wi with
          | some e => if s.releasing e.rel then .next s else .next (s.receive x.part l b e)
          | none =>
            if b.queue.isEmpty ∧ 0 < b.openTris ∧ s.unkeyedGone l ∧ s.allPlaced l then
              let t := s.takeTag x.part
              .next ((t.2.modBind l fun y => y.close none t.1).settleDraws l)
            else .next s

/-! ## Raster units (15 R221 to R225) -/

/-- A leaf met by the walk of the index. -/
structure Leaf where
  no : Nat
  first : Nat
  count : Nat
  cx : Nat
  cy : Nat
  size : Nat

/-- The leaves under a node of the index's bytes, and `none` for a node with a nonzero reserved field (00 R3); no walk goes beyond its
levels or its nodes. -/
def leavesUnder (bs : List Byte) (m : Nat) : Nat → Nat → Nat → Nat → Nat → List (Option Leaf)
  | 0, _, _, _, _ => []
  | fuel + 1, n, cx, cy, size =>
    if m ≤ n then []
    else
      let f (k : Nat) : Nat := field bs (64 + 16 * n + 4 * k) 4
      let h := size / 2
      if f 0 / 4 % 64 ≠ 0 then [none]
      else match f 0 % 4 with
      | 2 => [0, 1, 2, 3].flatMap fun q => leavesUnder bs m fuel (f 1 + q) (cx + h * (q % 2)) (cy + h * (q / 2)) h
      | 1 => [some { no := f 0 / 256, first := f 1, count := f 2, cx := cx, cy := cy, size := size }]
      | _ => []

/-- The work items of a phase: every leaf of a root cell with a nonempty bin, with that bin's triangles (15 R221); `none` for a node
with a nonzero reserved field. -/
def phaseItems (p l : Nat) (b : SampleBind) (d : Draw) (bs : List Byte) : List (Option WorkItem) :=
  let m := field bs 0x14 4
  ((upTo (b.gw * b.gh)).filter fun n => d.bins.any fun e => e.1 == n).flatMap fun n =>
    (leavesUnder bs m 17 n (b.x0 + 65536 * (n % b.gw)) (b.y0 + 65536 * (n / b.gw)) 65536).map fun o => o.map fun f =>
      { tag := 0, part := p, launch := l, gen := b.gen, draw := d.no, flush := d.flush
        core := nth b.cores (f.no % max 1 b.cores.length) 0, leaf := f.no, first := f.first, count := f.count, cx := f.cx, cy := f.cy
        size := f.size, prims := (d.bins.filter fun e => e.1 == n).map (·.2), pi := 0, si := 0, st := .ready }

/-- Change a phase of a launch's bindings. -/
def State.modPhase (s : State) (l gen no : Nat) (flush : Bool) (f : Draw → Draw) : State :=
  let g (b : SampleBind) : SampleBind :=
    if b.gen = gen then { b with draws := b.draws.map fun d => if d.no = no ∧ d.flush = flush then f d else d } else b
  s.modLaunch l fun x => { x with bind := x.bind.map g, past := x.past.map g }

/-- Records of a draw are lost: the draw fails, or the open one will (15 R224). -/
def State.failDraw (s : State) (l gen no : Nat) : State :=
  let g (b : SampleBind) : SampleBind :=
    if b.gen = gen then
      { b with draws := b.draws.map (fun d => if d.no = no then { d with failed := true } else d)
               openFailed := b.openFailed || b.drawNo == no }
    else b
  s.modLaunch l fun x => { x with bind := x.bind.map g, past := x.past.map g }

/-- Every binding of a launch. -/
def Launch.binds (x : Launch) : List SampleBind := x.past ++ x.bind.toList

/-- A phase whose items are to be made by a raster unit of a core: a binding's phases go in order, behind one whose read of the index is
parked too (15 R221). -/
def State.unmade (s : State) (c p : Nat) : Option (Nat × SampleBind × Draw) :=
  (s.launches.filter fun e => e.2.part == p && !e.2.yielded).findSome? fun e => e.2.binds.findSome? fun b =>
    if b.cores.contains c then ((b.draws.find? fun d => !d.made).filter fun d => d.parked.isNone).map fun d => (e.1, b, d) else none

/-- A phase ends without items, failed. -/
def State.failPhase (s : State) (l gen no : Nat) (flush : Bool) : State :=
  (s.modPhase l gen no flush fun d => { d with parked := none, failed := true, made := true, bins := [] }).settleDraws l

/-- Read the index and make a phase's items; a nonzero reserved field that is met fails the phase (00 R3). -/
def State.makeItems (s : State) (c p l : Nat) (b : SampleBind) (d : Draw) : State :=
  let park (s : State) (va t : Nat) : State :=
    let r := s.takeTag p
    (r.2.modPhase l b.gen d.no d.flush fun x => { x with parked := some r.1 }).addFault p (engineFault va b.asid t 5 r.1 5 c)
  match s.viewChecked p c b.block b.asid b.index 64 with
  | .wait s1 => s1
  | .refuse s1 va t => park s1 va t
  | .ok hdr =>
    match s.viewChecked p c b.block b.asid b.index (64 + 16 * field hdr 0x14 4) with
    | .wait s1 => s1
    | .refuse s1 va t => park s1 va t
    | .ok bs =>
      let xs := phaseItems p l b d bs
      if !(headerReservedOk bs) || xs.any (·.isNone) then s.failPhase l b.gen d.no d.flush
      else
      let s1 := (xs.filterMap id).foldl (fun s w => s.modCore w.core fun k => { k with work := k.work ++ [w] }) s
      (s1.modPhase l b.gen d.no d.flush fun x => { x with made := true, bins := [] }).settleDraws l

/-- Items of an owner that may go on: no earlier item of the same leaf is unfinished (15 R221). -/
def Core.readyItems (k : Core) (s : State) (p : Nat) : List WorkItem :=
  (((upTo k.work.length).zip k.work).filter fun e =>
    e.2.part == p && e.2.st == .ready && !((s.launch? e.2.launch).any fun x => (x.yielding || x.yielded) && e.2.pi == 0 && e.2.si == 0) &&
    !((k.work.take e.1).any fun w => w.launch == e.2.launch && w.gen == e.2.gen && w.leaf == e.2.leaf)).map (·.2)

/-- Replace or remove an item, in its core or, after a DESCHED, out of it. -/
def State.setItem (s : State) (c : Nat) (w : WorkItem) (x : Option WorkItem) : State :=
  let set {α : Type} (xs : List α) (i : Option Nat) (y : Option α) : List α :=
    match i, y with
    | none, _ => xs
    | some i, none => xs.eraseIdx i
    | some i, some y => setAt xs i y
  (s.modCore c fun k => { k with work := set k.work (k.work.findIdx? (· == w)) x }).modPart w.part fun p =>
    { p with work := set p.work (p.work.findIdx? (· == (c, w))) (x.map fun y => (c, y)) }

/-- A raster unit makes a record of a covered sample and keeps it until its home accepts it (15 R224, Table 15.6). -/
def State.makeRecord (s : State) (c : Nat) (w : WorkItem) (b : SampleBind) (t : Tri) (i : Nat) (v : Nat × Nat × Bool × Bool) : State :=
  let r := s.stamp
  let w3 := (if v.2.2.1 then 1 else 0) + (if v.2.2.2 then 2 else 0) + 65536 * w.draw
  let k : KRec := { n := r.1, src := 4294967296 + c, key := i, words := [word t.prim, word v.1, word v.2.1, word w3], block := none
                    launch := w.launch, draw := some w.draw, gen := w.gen, rel := 0, fences := [], headAt := none }
  match s.binding? w.part b.stage with
  | none => s.failDraw w.launch w.gen w.draw
  | some x =>
    if x.launch ≠ b.stageLaunch then s.failDraw w.launch w.gen w.draw
    else r.2.modCore c fun y => { y with held := y.held ++ [(x.homeOf i, k)] }

/-- Records of an owner that a raster unit holds. -/
def State.heldOf (s : State) (c p : Nat) : Nat :=
  ((s.core c).held.filter fun h => (s.launch? h.2.launch).any fun x => x.part == p).length

/-- One step of an item: skip a triangle that misses the leaf, test the next sample, or end. -/
def State.itemStep (s : State) (c : Nat) (w : WorkItem) (b : SampleBind) : State :=
  match w.prims[w.pi]? with
  | none => ((s.setItem c w none).reachBoundary w.launch).settleDraws w.launch
  | some t =>
    if !(t.meets w.cx w.cy w.size) ∨ w.count ≤ w.si then s.setItem c w (some { w with pi := w.pi + 1, si := 0 })
    else
      let park (s : State) (va ty : Nat) : State :=
        let r := s.takeTag w.part
        (r.2.setItem c w (some { w with st := .parked, tag := r.1 })).addFault w.part (engineFault va b.asid ty 5 r.1 5 c)
      match s.viewChecked w.part c b.block b.asid (b.index + 0x24) 4 with
      | .wait s1 => s1
      | .refuse s1 va ty => park s1 va ty
      | .ok po =>
        match s.viewChecked w.part c b.block b.asid (b.index + leValue po + 4 * (w.first + w.si)) 4 with
        | .wait s1 => s1
        | .refuse s1 va ty => park s1 va ty
        | .ok e =>
          let i := leValue e
          match s.viewChecked w.part c b.block b.asid (b.samples + 8 * i) 8 with
          | .wait s1 => s1
          | .refuse s1 va ty => park s1 va ty
          | .ok bs =>
            let p := sampleAt bs 0
            let s1 := s.setItem c w (some { w with si := w.si + 1 })
            match t.cover p.x p.y with
            | none => s1
            | some v => s1.makeRecord c w b t i v

/-- RASTER_WORK_ITEM: a core's raster unit makes the items of a closed draw or a flush, or takes a step of one of its items. Items of
different leaves run in any order; it stalls while it holds 64 records (15 R224). -/
def execRasterWorkItem (c p : Nat) (s : State) : Host.Outcome State Fault Refusal :=
  if !((s.part p).running) ∨ 64 ≤ s.heldOf c p then .next s
  else
    match s.unmade c p with
    | some (l, b, d) => .next (s.makeItems c p l b d)
    | none =>
      let ws := (s.core c).readyItems s p
      match ws[Config.freeNat s.free % max 1 ws.length]? with
      | none => .next s
      | some w =>
        match (s.launch? w.launch).bind fun x => x.binds.find? fun b => b.gen == w.gen with
        | none => .next (s.setItem c w none)
        | some b => .next (s.drawn.itemStep c w b)

/-- The owner of a record. -/
def State.recOwner (s : State) (h : Nat × KRec) : Option Nat := (s.launch? h.2.launch).map (·.part)

/-- A record that a raster unit holds leaves it: its home accepts it, or, without the binding, it is dropped and its draw fails. None: it
waits for its owner's share of the home (14 R200). -/
def State.pushRecord (s : State) (c : Nat) (h : Nat × KRec) : Option State :=
  let gone := s.modCore c fun k => { k with held := k.held.erase h }
  let dropped := (gone.failDraw h.2.launch h.2.gen (h.2.draw.getD 0)).settleDraws h.2.launch
  match s.launch? h.2.launch with
  | none => some gone
  | some x =>
    match x.binds.find? fun b => b.gen == h.2.gen with
    | none => some gone
    | some b =>
      match s.binding? x.part b.stage with
      | none => some dropped
      | some k =>
        if k.launch ≠ b.stageLaunch then some dropped
        else if !((s.part x.part).running) ∨ !((s.part x.part).canAccept h.1) then none
        else some ((gone.modBinding x.part b.stage fun y => y.accept h.1 h.2).settleDraws h.2.launch)

/-- The oldest record of each owner that a raster unit holds for a home. -/
def State.heldFor (s : State) (c home : Nat) : List (Nat × KRec) :=
  let hs := (s.core c).held.filter fun h => h.1 == home
  ((upTo hs.length).zip hs).filterMap fun e => if (hs.take e.1).any fun h => s.recOwner h == s.recOwner e.2 then none else some e.2

/-- FRAGMENT_PUSH: a home accepts the oldest record that a raster unit holds for it of an owner whose share has room (15 R224). -/
def execFragmentPush (c home : Nat) (s : State) : Host.Outcome State Fault Refusal :=
  .next (((s.heldFor c home).findSome? fun h => s.pushRecord c h).getD s)

end Sys2Proof.Machine
end

