-- ==== Sys2Proof/Machine/Present.lean ====
section
/-! DEFINITION. Presentation (15 R226 to R230, 23 R376): PRESENT, a link's frames and deadlines, re-projection, the display mode
and the sideband channel. -/

namespace Sys2Proof.Machine

/-! ## PRESENT -/

/-- The partition that owns a link: its latched entry says so (21 Table 21.3). -/
def State.linkOwner (s : State) (l : Nat) : Option Nat :=
  (s.parts.find? fun e => e.2.entry.links.testBit l).map (·.1)

/-- An image descriptor within 15 Table 15.8: the link and the frame. -/
def parseImage (bs : List Byte) (f asid p : Nat) : Option (Nat × Frame) :=
  let g := field bs
  if g 0 8 % 256 ≠ 0 ∨ Config.aperture ≤ g 0 8 ∨ g 8 4 % 256 ≠ 0 ∨ g 0xC 2 = 0 ∨ 16384 < g 0xC 2 ∨ g 0xE 2 = 0 ∨ 16384 < g 0xE 2 ∨
      Config.links ≤ g 0x10 1 ∨ g 0x11 1 ≠ 0 ∨ g 0x12 14 ≠ 0 then none
  else some (g 0x10 1, { no := f, base := g 0 8, pitch := g 8 4, width := g 0xC 2, height := g 0xE 2, asid := asid, part := p })

/-- PRESENT (23 R376): a device-scope release for which its split does not wait. -/
def execPresent (a b : Operand) (s : State) : Host.Outcome State Fault Refusal :=
  uniformWord (.present a b) {} (fun c s =>
    let va := pairN c a
    if va % 32 ≠ 0 then .trap Cause.illegal 0 c.sp.exec
    else withRead c s va 32 32 fun bs s =>
      match parseImage bs (rawN c b) (s.asidOf c.w.part) c.w.part with
      | none => .trap Cause.illegal 0 c.sp.exec
      | some (l, f) =>
        if s.linkOwner l ≠ some c.w.part then .trap Cause.illegal 0 c.sp.exec
        else
          let r := (s.unmark c.wi).startRelease c.wi 0
          .ok { r.2 with presenting := r.2.presenting ++ [{ wave := c.wi, rel := r.1, link := l, frame := f }] }) s

/-! ## Complete frames -/

/-- Frame number f is newer than n (15 R226). -/
def newer (f n : Nat) : Bool :=
  let d := (f + 4294967296 - n) % 4294967296
  decide (1 ≤ d) && decide (d ≤ 2147483647)

/-- A link receives a complete frame, or drops it (15 R226). -/
def Link.accept (x : Link) (f : Frame) : Link :=
  if x.frame.isSome && !(newer f.no x.newest) then { x with drops := (x.drops + 1) % 4294967296 }
  else { x with frame := some f, newest := f.no }

/-- The granules of an image's rows. -/
def Frame.granules (f : Frame) : List Nat :=
  (upTo f.height).foldl (fun gs v =>
    let lo := f.base + f.pitch * v
    (upTo ((lo + 4 * f.width - 1) / 65536 - lo / 65536 + 1)).foldl (fun gs i =>
      if gs.getLast? = some (lo / 65536 + i) then gs else gs ++ [lo / 65536 + i]) gs) []

/-- The presentation engine reads an image: the first granule that stops it. -/
def State.readImage (s : State) (f : Frame) : Moved Unit :=
  f.granules.foldl (fun (r : Moved Unit) g =>
    match r with
    | .ok () =>
      (match s.deviceCheck f.part f.asid (g * 65536) .read with
       | .go => .ok ()
       | .wait s1 => .wait s1
       | .refuse s1 t => .refuse s1 (max f.base (g * 65536)) t)
    | r => r) (.ok ())

/-- FRAME_COMPLETE: the oldest PRESENT of a link whose release is complete makes its image the newest complete frame or is dropped; a
fault on the image's pixels parks it with a record of ENGINE 7 (23 R376). -/
def execFrameComplete (link : Nat) (s : State) : Host.Outcome State Fault Refusal :=
  match s.presenting.find? fun x => x.link == link && !(s.releasing x.rel) with
  | none => .next s
  | some x =>
    let gone (s : State) : State := { s with presenting := s.presenting.erase x }
    match s.readImage x.frame with
    | .wait s1 => .next s1
    | .ok () => .next ((gone s).modLink link fun y => y.accept x.frame)
    | .refuse s1 va t =>
      let r := (gone s1).takeTag x.frame.part
      .next ((r.2.modLink link fun y => { y with parked := y.parked ++ [(r.1, x.frame, false)] }).addFault x.frame.part
        (engineFault va x.frame.asid t 5 r.1 7 link))

/-! ## Deadlines (15 R227, R228) -/

/-- DEADLINE as it reads: 0 reads as 1 (15 Table 15.9). -/
def Link.deadlineLines (x : Link) : Nat := max 1 x.deadline

/-- Active lines and pixels of a mode block's words (15 Table 15.10). -/
def modeH (m : Vector Word 6) : Nat := (vget m 0 0).toNat % 65536
def modeV (m : Vector Word 6) : Nat := (vget m 0 0).toNat / 65536

/-- The next reading of the pose: POSESEQ, then POSE (15 R228). -/
def Link.readOn (x : Link) : Link :=
  match x.reading with
  | none => { x with reading := some (x.poseSeq, none) }
  | some (q, none) => { x with reading := some (q, some x.pose) }
  | some (_, some _) => x

/-- POSE_READ. -/
def State.poseRead (s : State) (link : Nat) : State := s.modLink link Link.readOn

/-- The pose is settled at a deadline: what is still to be read is read, POSESEQ last; POSE counts if both readings of POSESEQ are equal
and even, else that of the last successful read does (15 R228). -/
def Link.settlePose (x : Link) : Link :=
  let y := x.readOn.readOn
  { y with
    reading := none
    goodPose := match y.reading with
      | some (q, some pose) => if q = y.poseSeq ∧ q.toNat % 2 = 0 then some pose else y.goodPose
      | _ => y.goodPose }

/-- The line of a link's deadline. -/
def Link.deadlineAt (x : Link) : Nat := modeV x.sentMode - min (modeV x.sentMode) x.deadlineLines

/-- The last image is shown again through the pose. -/
def Link.again (x : Link) : Link := { x.settlePose with reproj := (x.reproj + 1) % 4294967296, output := x.image, reprojected := true }

/-- The deadline: a newer frame is shown, else the last image again through the pose (15 R227). Before any frame has been shown, a
complete frame of any number is newer. -/
def Link.atDeadline (x : Link) : Link :=
  let y := match x.frame with
    | some f =>
      if x.image.isNone ∨ newer f.no x.shown then { x with shown := f.no, image := some f, output := some f, reprojected := false }
      else x.again
    | none => x.again
  { y with line := x.deadlineAt }

/-- Lines of a frame: active, front porch, sync and back porch (15 R229). -/
def Link.totalLines (x : Link) : Nat :=
  modeV x.sentMode + (vget x.sentMode 3 0).toNat % 65536 + (vget x.sentMode 3 0).toNat / 65536 + (vget x.sentMode 4 0).toNat % 65536

/-- The line that follows the one being sent. -/
def Link.lineAfter (x : Link) : Nat := (x.line + 1) % max 1 x.totalLines

/-- A mode that MODEGO has accepted starts at a frame boundary (15 R229): at its first line, or just before it if the deadline is there. -/
def Link.startMode (x : Link) (m : Vector Word 6) : Link :=
  let y : Link := { x with sentMode := m, pendingMode := none, active := true, line := 0 }
  if y.deadlineAt = 0 then { y with line := y.totalLines - 1 } else y

/-- One line passes; the deadline and the vertical blank come with steps of their own (15 R227, R229). After the blank lines comes the frame
boundary, at which an accepted mode starts. -/
def Link.nextLine (x : Link) : Link :=
  let n := x.lineAfter
  if !x.active then x
  else match (if n = 0 then x.pendingMode else none) with
    | some m => x.startMode m
    | none => if n = x.deadlineAt ∨ n = modeV x.sentMode then x else { x with line := n }

/-- A link's shown image has a pixel that the engine may not read: the frame counts as not complete until its fault is resumed, and the link
shows black meanwhile (23 R376, log 99). -/
def State.checkShown (s : State) (link : Nat) : State :=
  let x := s.link link
  match if x.active then x.output else none with
  | none => s
  | some f =>
    if x.parked.any fun e => e.2 == (f, true) then s.modLink link fun y => { y with output := none }
    else
      match s.readImage f with
      | .refuse s1 va t =>
        let r := s1.takeTag f.part
        (r.2.modLink link fun y => { y with parked := y.parked ++ [(r.1, f, true)], output := none }).addFault f.part
          (engineFault va f.asid t 5 r.1 7 link)
      | _ => s

/-- SCAN: n lines pass. -/
def State.scan (s : State) (link n : Nat) : State :=
  (s.checkShown link).modLink link fun x => (upTo n).foldl (fun x _ => x.nextLine) x

/-- A newer frame with a pixel that the engine may not read is not complete: it is parked, and the deadline goes without it (23 R376). -/
def State.checkNewest (s : State) (link : Nat) : State :=
  let x := s.link link
  match x.frame.filter fun f => x.image.isNone || newer f.no x.shown with
  | none => s
  | some f =>
    match s.readImage f with
    | .refuse s1 va t =>
      let r := s1.takeTag f.part
      (r.2.modLink link fun y => { y with parked := y.parked ++ [(r.1, f, false)], frame := none }).addFault f.part
        (engineFault va f.asid t 5 r.1 7 link)
    | _ => s

/-- PRESENTATION_DEADLINE: it comes DEADLINE lines before each vertical blank (15 R227); a link that sends no mode has none (R229). -/
def execPresentationDeadline (link : Nat) (s : State) : Host.Outcome State Fault Refusal :=
  let x := s.link link
  if x.active ∧ x.lineAfter = x.deadlineAt ∧ (x.lineAfter ≠ 0 ∨ x.pendingMode.isNone) then
    .next (((s.checkNewest link).modLink link Link.atDeadline).checkShown link)
  else .next s

/-! ## Pixels (15 R227, R228) -/

/-- A pixel of an image: its bytes R, G, B, A; outside the image, black. -/
def State.texel (s : State) (f : Frame) (x y : Int) : List Nat :=
  if x < 0 ∨ y < 0 ∨ (f.width : Int) ≤ x ∨ (f.height : Int) ≤ y then [0, 0, 0, 255]
  else
    match s.engineRead f.asid (f.base + f.pitch * y.toNat + 4 * x.toNat) 4 with
    | some bs => bs.map BitVec.toNat
    | none => [0, 0, 0, 255]

/-- An f32 product and sum under rne, on bit patterns (11 R164). -/
def fmul32 (x y : Nat) : Nat := (fmulV fmtF32 0 (unpack fmtF32 x) (unpack fmtF32 y)).1
def fadd32 (x y : Nat) : Nat := (faddV fmtF32 0 (unpack fmtF32 x) (unpack fmtF32 y)).1
def fmad32 (x y z : Nat) : Nat := (fmadV fmtF32 0 (unpack fmtF32 x) (unpack fmtF32 y) (unpack fmtF32 z)).1

/-- A row of POSE times (a, b, 1) in f32 under rne; the manual does not say in which order the terms are summed or whether the
products are rounded: a free choice among the forms (15 R228, logs 2 and 63). -/
def poseRow (form p q r a b : Nat) : Nat :=
  match form % 4 with
  | 0 => fadd32 (fadd32 (fmul32 p a) (fmul32 q b)) r
  | 1 => fmad32 p a (fmad32 q b r)
  | 2 => fadd32 (fmul32 p a) (fadd32 (fmul32 q b) r)
  | _ => fmad32 q b (fmad32 p a r)

/-- A half-integer pixel centre as f32. -/
def centre (u : Nat) : Nat := (roundRat fmtF32 0 false false (2 * u + 1) 2 0).1

/-- An exact quotient of two finite floats less one half, as (numerator, denominator); the denominator is positive. -/
def ratioLessHalf (x w : FVal) : Option (Int × Nat) :=
  match x, w with
  | .fin nx mx ex, .fin _ mw ew =>
    let e := ex - ew
    let n : Nat := if 0 ≤ e then mx * 2 ^ e.toNat else mx
    let d : Nat := if 0 ≤ e then mw else mw * 2 ^ (-e).toNat
    some (2 * (if nx then -(n : Int) else n) - d, 2 * d)
  | .fin _ _ _, .inf _ => some (-1, 2)
  | _, _ => none

/-- n / d rounded to the nearest integer, ties to even, for n of no sign. -/
def roundEven (n d : Nat) : Nat :=
  let q := n / d
  let r := 2 * (n % d)
  if d < r ∨ (r = d ∧ q % 2 = 1) then q + 1 else q

/-- An image sampled bilinearly at an exact point: floor and fraction of each coordinate, the four texels weighted exactly, each
channel rounded once to 8 bits (15 R228). -/
def State.bilinear (s : State) (f : Frame) (x y : Int × Nat) : List Nat :=
  let ix := x.1 / (x.2 : Int)
  let iy := y.1 / (y.2 : Int)
  let fx := (x.1 % (x.2 : Int)).toNat
  let fy := (y.1 % (y.2 : Int)).toNat
  let t (dx dy : Int) : List Nat := s.texel f (ix + dx) (iy + dy)
  (upTo 4).map fun k =>
    let at_ (dx dy : Int) : Nat := nth (t dx dy) k 0
    let n := (x.2 - fx) * (y.2 - fy) * at_ 0 0 + fx * (y.2 - fy) * at_ 1 0 + (x.2 - fx) * fy * at_ 0 1 + fx * fy * at_ 1 1
    roundEven n (x.2 * y.2)

/-- Black (15 R227). -/
def black : List Nat := [0, 0, 0, 255]

/-- A re-projected output pixel (15 R228). -/
def State.reproject (s : State) (f : Frame) (pose : Vector Word 9) (u v : Nat) : List Nat :=
  let g (i : Nat) : Nat := (vget pose i 0).toNat
  let form := Config.freeNat (4294967296 + u + 65536 * v)
  let a := centre u
  let b := centre v
  let row (i : Nat) : FVal := unpack fmtF32 (poseRow form (g i) (g (i + 1)) (g (i + 2)) a b)
  let x := row 0
  let y := row 3
  let w := row 6
  let positive := !w.neg && !w.isZero
  if x.isNan || y.isNan || w.isNan || !positive then black
  else
    match ratioLessHalf x w, ratioLessHalf y w with
    | some p, some q => s.bilinear f p q
    | _, _ => black

/-- The identity matrix as f32 words (15 R228). -/
def identityPose : Vector Word 9 :=
  #v[0x3F800000#32, 0, 0, 0, 0x3F800000#32, 0, 0, 0, 0x3F800000#32]

/-- The pixel a link sends at (u, v) of its mode: R, G, B, A of the shown or re-projected image, from memory as it stands. None: the
point is not in the mode, or nothing is sent. -/
def State.pixelOut (s : State) (link u v : Nat) : Option (List Nat) :=
  let x := s.link link
  if !x.active ∨ modeH x.sentMode ≤ u ∨ modeV x.sentMode ≤ v then none
  else
    match x.output with
    | none => some black
    | some f => some (if x.reprojected then s.reproject f (x.goodPose.getD identityPose) u v else s.texel f u v)

/-! ## The display mode (15 R229) -/

/-- The fields of a mode block are in range and its reserved bits 0 (15 Table 15.10). -/
def modeInRange (m : Vector Word 6) : Bool :=
  let w (i : Nat) : Nat := (vget m i 0).toNat
  decide (1 ≤ modeH m) && decide (modeH m ≤ 16384) && decide (1 ≤ modeV m) && decide (modeV m ≤ 16384) &&
    decide (1 ≤ w 1 / 65536) && decide (w 2 / 131072 = 0) && decide (1 ≤ w 3 / 65536) && decide (w 4 / 131072 = 0) &&
    decide (25000 ≤ w 5) && decide (w 5 ≤ 3300000)

/-- The lane rate of a RATE code in kbit/s (PRESUMED: DisplayPort 2.1; log 30). -/
def laneRate (rate : Nat) : Nat := nth [0, 1620000, 2700000, 5400000, 8100000, 10000000, 13500000, 20000000] rate 0

/-- A pixel clock in kHz fits the payload rate of a trained link. -/
def payloadOk (lanes rate pclk : Nat) : Bool :=
  if rate < 5 then decide (pclk * 24 * 10 ≤ lanes * laneRate rate * 8) else decide (pclk * 24 * 132 ≤ lanes * laneRate rate * 128)

/-- What link training comes to: the lanes and the rate the sink and the channel allow; anything else is failed training. -/
def trainOk (lanes rate : Nat) : Bool := (lanes == 1 || lanes == 2 || lanes == 4) && decide (1 ≤ rate) && decide (rate ≤ 7)

/-- MODEGO on a link: ERR is its result; a refusal changes nothing else, but a link that has been trained stays trained. -/
def Link.modego (x : Link) (lanes rate : Nat) : Link :=
  if !x.hpd then { x with err := 1 }
  else if !(modeInRange x.mode) then { x with err := 4 }
  else if !x.trained ∧ !(trainOk lanes rate) then { x with err := 2 }
  else
    let y : Link := if x.trained then x else { x with trained := true, lanes := lanes, rate := rate }
    if payloadOk y.lanes y.rate (vget x.mode 5 0).toNat then { y with err := 0, pendingMode := some x.mode } else { y with err := 3 }

/-- A write to a link's page reaches it: some partition owns the link (21 Table 21.7). -/
def State.linkWrite (s : State) (link : Nat) (f : Link → Link) : State :=
  if link < Config.links ∧ (s.linkOwner link).isSome then s.modLink link f else s

/-- MODEGO_APPLY: `lanes` and `rate` are what training comes to, if the link is not trained. -/
def execModegoApply (link lanes rate : Nat) (s : State) : Host.Outcome State Fault Refusal :=
  .next (s.linkWrite link fun x => x.modego lanes rate)

/-- MODEGO_STOP. -/
def execModegoStop (link : Nat) (s : State) : Host.Outcome State Fault Refusal :=
  .next (s.linkWrite link fun x => { x with active := false, pendingMode := none })

/-- HPD_CHANGE: loss of the sink clears TRAINED and ACTIVE. -/
def execHpdChange (link : Nat) (present : Bool) (s : State) : Host.Outcome State Fault Refusal :=
  if Config.links ≤ link ∨ (s.link link).hpd = present then .next s
  else .next (s.modLink link fun x =>
    if present then { x with hpd := true, hpdchg := true }
    else { x with hpd := false, hpdchg := true, trained := false, active := false, lanes := 0, rate := 0, pendingMode := none })

/-- HPDCHG_CLEAR. -/
def execHpdchgClear (link : Nat) (s : State) : Host.Outcome State Fault Refusal :=
  .next (s.linkWrite link fun x => { x with hpdchg := false })

/-- VERTICAL_BLANK: after its active lines a link that sends a mode raises vector 3 of its owner's function (21 Table 21.7). A link that sends
none has a frame boundary at any time, at which a mode that MODEGO has accepted starts (15 R229). -/
def execVerticalBlank (link : Nat) (s : State) : Host.Outcome State Fault Refusal :=
  let x := s.link link
  match x.active, x.pendingMode with
  | false, none => .next s
  | false, some m => .next (s.modLink link fun y => y.startMode m)
  | true, _ =>
    if x.lineAfter ≠ modeV x.sentMode then .next s
    else
      let s1 := match s.linkOwner link with
        | some p => s.raiseMsix (p + 1) 3
        | none => s
      .next (s1.modLink link fun y => { y with line := modeV y.sentMode })

/-- DEADLINE_WRITE (15 Table 15.9). -/
def execDeadlineWrite (link : Nat) (v : Word) (s : State) : Host.Outcome State Fault Refusal :=
  .next (s.linkWrite link fun x => { x with deadline := v.toNat % 256 })

/-! ## The sideband channel (15 R230) -/

/-- A command word: request code, ADDR, LEN. -/
def auxWord (code addr len : Nat) : Word := word (code + 16 * (addr % 1048576) + 16777216 * (len % 16))

/-- A valid request code (15 Table 15.11). -/
def auxCodeOk (code : Nat) : Bool := [8, 9, 0, 1, 4, 5].contains code

/-- A transaction starts, unless one is in progress. -/
def Link.auxStart (x : Link) (code addr len : Nat) : Link :=
  if x.auxBusy then x else { x with auxBusy := true, auxCmd := auxWord code addr len, auxDefers := 0 }

def execAuxNativeWrite (link addr len : Nat) (s : State) : Host.Outcome State Fault Refusal :=
  .next (s.linkWrite link fun x => x.auxStart 8 addr len)
def execAuxNativeRead (link addr len : Nat) (s : State) : Host.Outcome State Fault Refusal :=
  .next (s.linkWrite link fun x => x.auxStart 9 addr len)
def execAuxI2cWrite (link addr len : Nat) (s : State) : Host.Outcome State Fault Refusal :=
  .next (s.linkWrite link fun x => x.auxStart 0 addr len)
def execAuxI2cRead (link addr len : Nat) (s : State) : Host.Outcome State Fault Refusal :=
  .next (s.linkWrite link fun x => x.auxStart 1 addr len)
def execAuxI2cWriteMot (link addr len : Nat) (s : State) : Host.Outcome State Fault Refusal :=
  .next (s.linkWrite link fun x => x.auxStart 4 addr len)
def execAuxI2cReadMot (link addr len : Nat) (s : State) : Host.Outcome State Fault Refusal :=
  .next (s.linkWrite link fun x => x.auxStart 5 addr len)

/-- AUX_INVALID_REQUEST: a code that is none, or a reserved bit. -/
def execAuxInvalidRequest (link : Nat) (w : Word) (s : State) : Host.Outcome State Fault Refusal :=
  if auxCodeOk (w.toNat % 16) ∧ w.toNat / 268435456 = 0 then .next s
  else .next (s.linkWrite link fun x => if x.auxBusy then x else { x with auxCmd := w, auxStat := 4, auxCount := 0 })

/-- Bytes a transaction asks for, and whether it is a read. -/
def Link.auxLen (x : Link) : Nat := x.auxCmd.toNat / 16777216 % 16 + 1
def Link.auxIsRead (x : Link) : Bool := x.auxCmd.toNat % 2 == 1

/-- DATA with its first bytes replaced. -/
def loadData (d : BitVec 128) (bs : List Byte) : BitVec 128 :=
  BitVec.ofNat 128 (leValue bs + d.toNat / 2 ^ (8 * bs.length) * 2 ^ (8 * bs.length))

/-- A reply ends a transaction, or a DEFER is tried again. -/
def Link.auxReply (x : Link) (r : AuxReply) (data : List Byte) : Link :=
  let got := data.take x.auxLen
  match r with
  | .ack =>
    if x.auxIsRead then { x with auxBusy := false, auxStat := 0, auxCount := got.length, auxData := loadData x.auxData got }
    else { x with auxBusy := false, auxStat := 0, auxCount := x.auxLen }
  | .nack => { x with auxBusy := false, auxStat := 1, auxCount := if x.auxIsRead then 0 else got.length }
  | .defer =>
    if x.auxDefers < 7 then { x with auxDefers := x.auxDefers + 1 }
    else { x with auxBusy := false, auxStat := 2, auxCount := 0 }

/-- AUX_REPLY: only a sink that is present replies. -/
def execAuxReply (link : Nat) (reply : AuxReply) (data : List Byte) (s : State) : Host.Outcome State Fault Refusal :=
  let x := s.link link
  if !x.auxBusy ∨ !x.hpd then .next s else .next (s.modLink link fun x => x.auxReply reply data)

/-- AUX_TIMEOUT. -/
def execAuxTimeout (link : Nat) (s : State) : Host.Outcome State Fault Refusal :=
  if !(s.link link).auxBusy then .next s
  else .next (s.modLink link fun x => { x with auxBusy := false, auxStat := 3, auxCount := 0 })

/-! ## The control page (15 Tables 15.9 to 15.11) -/

/-- The 4 bytes at an offset of a link's page, as a read returns them. -/
def Link.readReg (x : Link) (off : Nat) : Nat :=
  let b (f : Bool) (k : Nat) : Nat := if f then 2 ^ k else 0
  if off = 0 then x.deadlineLines
  else if off = 4 then x.shown
  else if off = 8 then x.newest
  else if off = 0xC then x.reproj
  else if off = 0x10 then x.drops
  else if off = 0x40 then x.poseSeq.toNat
  else if 0x44 ≤ off ∧ off < 0x68 then (vget x.pose ((off - 0x44) / 4) 0).toNat
  else if 0x100 ≤ off ∧ off < 0x118 then (vget x.mode ((off - 0x100) / 4) 0).toNat
  else if off = 0x11C then
    b x.hpd 0 + b x.trained 1 + b x.active 2 + b x.hpdchg 3 + 16 * x.lanes + 256 * x.rate + 4096 * x.err
  else if off = 0x120 then x.line
  else if off = 0x204 then b x.auxBusy 0 + 2 * x.auxStat + 16 * x.auxCount
  else if 0x210 ≤ off ∧ off < 0x220 then x.auxData.toNat / 2 ^ (8 * (off - 0x210)) % 4294967296
  else 0

/-- A link's page as its owner reads it; without an owner it reads 0 (21 Table 21.7). -/
def State.linkReg (s : State) (l off : Nat) : Nat := if (s.linkOwner l).isSome then (s.link l).readReg off else 0

/-- A write of 4 bytes at an offset that has no behaviour of its own. -/
def Link.writeReg (x : Link) (off : Nat) (v : Word) : Link :=
  if off = 0x40 then { x with poseSeq := v }
  else if 0x44 ≤ off ∧ off < 0x68 then { x with pose := vset x.pose ((off - 0x44) / 4) v }
  else if 0x100 ≤ off ∧ off < 0x118 then { x with mode := vset x.mode ((off - 0x100) / 4) v }
  else if 0x210 ≤ off ∧ off < 0x220 then
    let k := 2 ^ (8 * (off - 0x210))
    { x with auxData := BitVec.ofNat 128 (x.auxData.toNat % k + k * v.toNat + x.auxData.toNat / (k * 4294967296) * (k * 4294967296)) }
  else x

/-- A link is given to a partition: no complete frame, REPROJ and DROPS 0, NEWEST and SHOWN all ones, black (15 R227). -/
def Link.given (x : Link) : Link :=
  { x with frame := none, image := none, output := none, reprojected := false, reproj := 0, drops := 0, newest := 0xFFFFFFFF
           shown := 0xFFFFFFFF, reading := none, parked := [] }

end Sys2Proof.Machine
end

