-- ==== Sys2Proof/Machine/Launch.lean ====
section
/-! DEFINITION. The dispatcher (05 R83 to R97, R105, R106): doorbells and queues, fetching launch records, placing blocks and
children, completing and yielding launches, and the clock gate of a core. -/

namespace Sys2Proof.Machine

/-! ## Queues (05 R84, R85) -/

/-- Change queue q of a partition. -/
def Part.modQueue (p : Part) (q : Nat) (f : Queue → Queue) : Part := { p with queues := p.queues.put q (f (p.queue q)) }
def State.modQueue (s : State) (p q : Nat) (f : Queue → Queue) : State := s.modPart p fun x => x.modQueue q f

/-- A difference modulo 2^32. -/
def sub32 (a b : Nat) : Nat := (a + 4294967296 - b % 4294967296) % 4294967296

/-- A doorbell is served (05 R84): a disabled queue ignores it; a tail beyond the ring sets ERR to 4. -/
def Queue.ring (x : Queue) (t : Nat) : Queue :=
  if !x.en then x
  else if 2 ^ x.logn < sub32 t x.head then { x with err := 4 }
  else { x with tail := t }

/-- DOORBELL: served at once in STATE 0 and 3, latched in STATE 1, ignored in STATE 2 (05 R85). -/
def execDoorbell (p q : Nat) (v : BitVec 64) (s : State) : Host.Outcome State Fault Refusal :=
  let x := s.part p
  let t := v.toNat % 4294967296
  if 64 ≤ q ∨ !x.kickable then .next s
  else if x.state = 1 then .next (s.modPart p fun y => { y with latched := y.latched.put q t })
  else .next (s.modQueue p q fun y => y.ring t)

/-- The latched queues are served in ascending number (05 R85). -/
def State.serveLatched (s : State) (p : Nat) : State :=
  ((s.part p).latched.foldl (fun s e => s.modQueue p e.1 fun y => y.ring e.2) s).modPart p fun x => { x with latched := [] }

/-- The writable fields of a control word (05 Table 5.2). -/
def Queue.fields (x : Queue) (v : Nat) : Queue := { x with logn := v % 32, prio := v / 512 % 4, cls := v / 2048 % 2 }

/-- Launches of a queue. -/
def Launch.ofQueue (x : Launch) (p q : Nat) : Bool := x.part == p && x.queue == q

/-- A launch has begun: a block has been placed. -/
def Launch.begun (x : Launch) : Bool := decide (0 < x.nextBlock)

/-- QUEUE_ENABLE: a control word with EN set. Records count from 0 again, so ids of earlier launches are named no more (05 R84, R96). -/
def execQueueEnable (p q : Nat) (v : Word) (s : State) : Host.Outcome State Fault Refusal :=
  let n := v.toNat
  let x := (s.part p).queue q
  if 64 ≤ q ∨ !((s.part p).kickable) ∨ !(v.getLsbD 8) then .next s
  else if x.en then .next (s.modQueue p q fun y => y.fields n)
  else if n % 32 = 0 ∨ 16 < n % 32 then .next (s.modQueue p q fun y => y.fields n)
  else
    let s1 : State := { s with launches := s.launches.map fun e => if (e.2.ofQueue p q) then (e.1, { e.2 with id := 0 }) else e }
    .next (s1.modQueue p q fun y => { y.fields n with en := true })

/-- QUEUE_DISABLE: a control word with EN clear. Fetching stops; launches that have begun run on, and HEAD, cleared now, counts only
records fetched from now on (05 R84). -/
def execQueueDisable (p q : Nat) (v : Word) (s : State) : Host.Outcome State Fault Refusal :=
  if 64 ≤ q ∨ !((s.part p).kickable) ∨ v.getLsbD 8 then .next s
  else
    let kept := s.launches.filter fun e => !(e.2.ofQueue p q) || e.2.begun || e.2.complete
    let s1 : State := { s with launches := kept.map fun e => (e.1, if e.2.ofQueue p q then { e.2 with counts := false } else e.2) }
    .next (s1.modQueue p q fun y => { y.fields v.toNat with en := false, err := 0, head := 0, fetched := 0, tail := 0 })

/-! ## Fetching (05 R86, R87) -/

/-- A queue has a record to fetch. -/
def Queue.ready (x : Queue) : Bool := x.en && x.err == 0 && decide (sub32 x.fetched x.head < sub32 x.tail x.head)

/-- The queue to fetch from: the highest PRIO, round robin among equals in ascending number (05 R86). -/
def Part.nextQueue (p : Part) : Option (Nat × Queue) :=
  let ready := p.queues.filter fun e => e.2.ready
  let top := ready.foldl (fun m e => max m e.2.prio) 0
  let rs := ready.filter fun e => e.2.prio == top
  match p.lastQueue.find top with
  | none => rs.head?
  | some last => (rs.find? fun e => decide (last < e.1)).or rs.head?

/-- The launch an id names for a successor fetched now: the latest with that id (05 R96). -/
def State.named (s : State) (p id : Nat) : Option Nat :=
  ((s.launches.filter fun e => e.2.part == p && e.2.id == id).getLast?).map (·.1)

/-- The id of record n of queue q (05 R84). -/
def launchId (q n : Nat) : Nat := (q + 1) * 16777216 + n % 16777216

/-- Instruction caches hold nothing older for launches fetched from now on (03 R45, log 40). -/
def State.dropCode (s : State) (asid : Nat) : State :=
  { s with cores := s.cores.map fun e =>
      (e.1, { e.2 with icache := e.2.icache.filter fun b => b.1 / 2251799813685248 != asid }) }

/-- LAUNCH_FETCH: a record is read and checked in full (05 R87); a fault of the read sets ERR to 2. -/
def execLaunchFetch (p : Nat) (s : State) : Host.Outcome State Fault Refusal :=
  if !((s.part p).running) then .next s
  else
    match (s.part p).nextQueue with
    | none => .next s
    | some (q, x) =>
      let va := x.base + 64 * (x.fetched % 2 ^ x.logn)
      let asid := s.asidOf p
      let served (s : State) : State := s.modPart p fun y => { y with lastQueue := y.lastQueue.put x.prio q }
      match s.deviceCheck p asid va .read with
      | .wait s1 => .next s1
      | .refuse s1 _ => .next ((served s1).modQueue p q fun y => { y with err := 2 })
      | .go =>
        match s.engineRead asid va 64 with
        | none => .next s
        | some bs =>
          let s1 := (served s).modQueue p q fun y => { y with fetched := (y.fetched + 1) % 4294967296 }
          match parseRecord bs x.cls with
          | none => .next (s1.modQueue p q fun y => { y with err := 1 })
          | some r =>
            let k := s1.stamp
            let l : Launch := { part := p, queue := q, id := launchId q x.fetched, order := k.1, record := r
                                pred := if r.pred = 0 then none else s.named p r.pred, hasPred := r.pred != 0, nextBlock := 0
                                halted := false, counts := true, skipped := none, served := false, yielding := false
                                yielded := false, keyedBlocks := 0, bind := none, past := [], complete := false }
            .next ((k.2.dropCode asid).setLaunch k.1 l)

/-! ## Starting (05 R86, R96) -/

/-- Every block of a launch has been placed and every wave of it has executed SUCCGO or exited (05 R96). -/
def State.letGo (s : State) (l : Nat) : Bool :=
  (s.launch? l).all fun x => x.complete || (decide (x.record.blocks ≤ x.nextBlock) &&
    s.waves.all fun e => e.2.launch != l || e.2.succgo || e.2.exited)

/-- A launch may be placed: the launches before it in its queue have completed, and its predecessor has, or lets it start early (05
R86, R96). -/
def State.mayStart (s : State) (l : Nat) (x : Launch) : Bool :=
  let early (p : Nat) : Bool := x.record.early && x.pred == some p && s.letGo p
  (s.launches.all fun e => !(e.2.ofQueue x.part x.queue) || decide (l ≤ e.1) || e.2.complete || early e.1) &&
  (s.predDone l || x.pred.any early)

/-! ## Placing (05 R91 to R94) -/

/-- A core's sensors skip it (05 R92): above the high mark, or more droop events in its last 4096 cycles than the limit. -/
def State.sensorSkip (s : State) (p core : Nat) : Bool :=
  let e := (s.part p).entry
  let c := s.core core
  let recent := (c.droopAt.filter fun t => decide ((c.clk.toNat + two64 - t) % two64 < 4096)).length
  decide ((e.highMark : Int) < c.temp) || decide (e.droop < recent)

/-- The cores at the eight positions that the dispatcher examines for block k, in order (05 R92). -/
def candidates (cores : List Nat) (k : Nat) : List Nat := if cores.isEmpty then [] else (upTo 8).map fun i => nth cores ((k + i) % cores.length) 0

/-- The core and scratch position that R92's rule gives a block among its candidates; `skips` counts the sensor skips just before. -/
def State.examine (s : State) (p : Nat) (r : LaunchRec) (n : Nat) : Nat → List Nat → Option (Nat × Nat)
  | _, [] => none
  | skips, core :: rest =>
    match s.roomFor p core r n with
    | none => s.examine p r n 0 rest
    | some pos => if skips < 2 && s.sensorSkip p core then s.examine p r n (skips + 1) rest else some (core, pos)

/-- Where block k of a record goes now. -/
def State.placeFor (s : State) (p : Nat) (r : LaunchRec) (n k : Nat) : Option (Nat × Nat) :=
  s.examine p r n 0 (candidates (s.part p).coreList k)

/-- The dispatcher examines the candidates of block k: they have not all been skipped, or one of them has freed room since (05 R92). -/
def State.looks (s : State) (p k : Nat) (skipped : Option Nat) : Bool :=
  skipped.all fun n => (candidates (s.part p).coreList k).any fun c => decide (n < (s.core c).freedAt)

/-- No core of a partition could ever fit a block of a record (05 R91). -/
def State.neverFits (s : State) (p : Nat) (r : LaunchRec) (n : Nat) : Bool := !((s.part p).coreList.any fun c => s.everFits p c r n)

/-- A block that can never fit: ERR becomes 3, and its launch starts no further block (05 R91). -/
def State.haltLaunch (s : State) (l : Nat) (x : Launch) : State :=
  (s.modLaunch l fun y => { y with halted := true }).modQueue x.part x.queue fun y => { y with err := 3 }

/-- A launch has a block to place. -/
def State.wantsPlace (s : State) (l : Nat) (x : Launch) : Bool :=
  !x.complete && !x.halted && decide (x.nextBlock < x.record.blocks) && s.mayStart l x

/-- A launch lacks room: its next block fits none of its eight cores now. -/
def State.lacksRoom (s : State) (x : Launch) : Bool :=
  (candidates (s.part x.part).coreList x.nextBlock).all fun c => (s.roomFor x.part c x.record x.record.waves).isNone

/-- A launch of higher priority waits for room (05 R106). -/
def State.outranked (s : State) (x : Launch) : Bool :=
  s.launches.any fun e => e.2.part == x.part && decide (x.record.priority < e.2.record.priority) && s.wantsPlace e.1 e.2 && !e.2.yielded

/-- BLOCK_PLACE: the next block of a launch is placed, or ERR becomes 3 when no core could ever hold it (05 R91, R92). A launch that
has yielded, or is to, resumes when no higher one waits (05 R106). -/
def execBlockPlace (l : Nat) (s : State) : Host.Outcome State Fault Refusal :=
  match s.launch? l with
  | none => .next s
  | some x =>
    let r := x.record
    if !(s.placing x.part) then .next s
    else if x.yielded ∨ x.yielding then
      .next (if s.outranked x then s else s.modLaunch l fun y => { y with yielding := false, yielded := false })
    else if !(s.wantsPlace l x) ∨ !(s.looks x.part x.nextBlock x.skipped) then .next s
    else if s.neverFits x.part r r.waves then .next (s.haltLaunch l x)
    else
      match s.placeFor x.part r r.waves x.nextBlock with
      | none =>
        let k := s.stamp
        .next (k.2.modLaunch l fun y => { y with skipped := some k.1, served := false })
      | some (core, pos) =>
        .next (((s.wakeCore core).placeBlock x.part l core x.nextBlock r.waves pos r.waves r none).modLaunch l fun y =>
          { y with nextBlock := y.nextBlock + 1, skipped := none, served := false })

/-- A child goes: it is placed at a core, or its launch starts no further block. -/
def Part.takeChild (x : Part) (c : Child) : Part :=
  { x with children := x.children.erase c, childCounter := (x.childCounter + 1) % 4294967296, childSkipped := none }

/-- CHILD_PLACE: the oldest created child of a launch that starts blocks is placed under R92's rule, once the release of its SPAWN is
complete (05 R94, R95); one that can never fit halts its launch (05 R91). -/
def execChildPlace (p : Nat) (s : State) : Host.Outcome State Fault Refusal :=
  let x := s.part p
  if !(s.placing p) then .next s
  else
    match x.children.find? fun c => (s.launch? c.launch).all fun l => !l.yielded && !l.halted with
    | none => .next s
    | some c =>
      if s.releasing c.rel ∨ !(s.looks p x.childCounter x.childSkipped) then .next s
      else if s.neverFits p c.record 1 then
        .next ((s.launch? c.launch).elim s fun l => s.haltLaunch c.launch l)
      else
        match s.placeFor p c.record 1 x.childCounter with
        | none =>
          let k := s.stamp
          .next (k.2.modPart p fun y => { y with childSkipped := some k.1 })
        | some (core, pos) =>
          .next (((s.modPart p fun y => y.takeChild c).wakeCore core).placeBlock p c.launch core 0 1 pos 1 c.record (some c.info))

/-! ## Completing (05 R89, R95) -/

/-- A write of a block has not been performed at H. -/
def State.writesLeft (s : State) (bi : Nat) (b : Block) : Bool :=
  !b.oq.isEmpty || b.waves.any (fun wi => (s.wave? wi).any fun w => !w.wsb.isEmpty) || s.deliveries.any fun d => d.src == bi

/-- An engine operation of a block's waves has not been performed (05 R89). -/
def State.enginesLeft (s : State) (bi : Nat) (b : Block) : Bool :=
  (s.cores.any fun e => e.2.copyQ.any fun o => o.block == bi) ||
  (s.sliceQ.any fun o => o.block == bi) ||
  (s.quads.any fun e => e.2.mxq.any fun o => o.block == bi && !o.done) ||
  (s.builds.any fun o => o.block == bi && !o.written) ||
  (s.qfences.any fun f => f.block == bi) ||
  ((s.part b.part).bindings.any fun x => (x.inFlight.any fun r => r.block == some bi) || x.drains.any fun d => d.block == some bi) ||
  ((s.launch? b.launch).any fun x => x.bind.any fun y => y.queue.any fun e => b.waves.contains e.wave)

/-- Children that a block's waves created have not completed. -/
def State.childrenLeft (s : State) (bi : Nat) (b : Block) : Bool := (s.part b.part).spawns.any fun o => o.block == bi

/-- Everything a block did is done (05 R89). -/
def State.blockDone (s : State) (bi : Nat) (b : Block) : Bool :=
  b.exited && !(s.writesLeft bi b) && !(s.enginesLeft bi b) && !(s.childrenLeft bi b)

/-- Forget a block and its waves. -/
def State.forgetBlock (s : State) (bi : Nat) (b : Block) : State :=
  { s with
    blocks := s.blocks.drop bi
    waves := s.waves.filter fun e => !(b.waves.contains e.1)
    cores := s.cores.map fun e => (e.1, { e.2 with l1 := e.2.l1.filter fun l => l.block != bi }) }

/-- A child of a SPAWN operation has ended; with the last, the handle is done, or cancelled if children were dropped (05 R95). -/
def State.childEnded (s : State) (p tag : Nat) : State :=
  match (s.part p).spawns.find? fun o => o.tag == tag with
  | none => s
  | some o =>
    if 1 < o.left then
      s.modPart p fun x => { x with spawns := x.spawns.map fun y => if y.tag = tag then { y with left := y.left - 1 } else y }
    else
      ((s.modPart p fun x => { x with spawns := x.spawns.filter fun y => y.tag != tag }).endHandle o.href tag
        (if o.dropped then .cancelled else .done)).endOp tag

/-- Complete the children of a launch that are done, later ones first: a child's children come after it. -/
def State.completeChildren (s : State) (l : Nat) : State :=
  (s.blocks.filter fun e => e.2.launch == l && e.2.child.isSome).foldr (fun e s =>
    match s.block? e.1, e.2.child with
    | some b, some c => if s.blockDone e.1 b then (s.forgetBlock e.1 b).childEnded b.part c.tag else s
    | _, _ => s) s

/-- A stage that a launch has bound still holds something, or a drain of it goes on (14 R198). -/
def State.stagesHeld (s : State) (l : Nat) (x : Launch) : Bool :=
  (s.part x.part).bindings.any fun b => b.launch == l && b.waiting.isNone && (b.holds || !b.drains.isEmpty)

/-- Waves of a launch are among these, or waves that are gone. -/
def State.ofLaunch (s : State) (l : Nat) (ws : List Nat) : Bool := ws.any fun k => (s.wave? k).all fun w => w.launch == l

/-- What the system-scope release of a launch's completion waits for has happened (05 R89, 08 Table 8.3): its writes and its engines' are
out of the ports, and no owner's line that can be written back holds them. -/
def State.launchReleased (s : State) (l : Nat) (x : Launch) : Bool :=
  (s.portWrites.all fun w => w.asid != s.asidOf x.part || !(w.waves.isEmpty || s.ofLaunch l w.waves)) &&
  s.blocks.all fun e => e.2.part != x.part || e.2.windows.all fun w => w.lines.all fun k =>
    k.dirty == 0 || k.faulted || !(s.ofLaunch l (k.writers.map (·.2)))

/-- A partition's dirty sectors of L2 reach the physical tiers. -/
def State.emptyL2 (s : State) (p : Nat) : State :=
  (s.lines.filter fun e => s.partOfAsid (keyAsid e.1) == some p).foldl (fun s e => [0, 1, 2, 3].foldl (fun s k =>
    s.sectorDone (keyAsid e.1) (keyLine e.1) k) s) s

/-- Everything that a launch did is done (05 R89): an ERR 3 launch never gets there. -/
def State.launchDone (s : State) (l : Nat) (x : Launch) : Bool :=
  !x.complete && !x.halted && decide (x.record.blocks ≤ x.nextBlock) && s.mayStart l x &&
    !((s.part x.part).children.any fun c => c.launch == l) && (s.blocks.all fun e => e.2.launch != l || s.blockDone e.1 e.2) &&
    s.drawsDone l && !(s.stagesHeld l x)

/-- A stage binding ends: its counters are written (14 R196, R198); a fault parks the write with a record of ENGINE 6. -/
def State.endBinding (s : State) (p : Nat) (b : Binding) : Sett :=
  if b.parked.isSome then .wait s
  else
    match s.writeCounters p b with
    | .wait s1 => .wait s1
    | .refuse s1 va t =>
      let r := s1.takeTag p
      .wait ((r.2.modBinding p b.stage fun x => { x with parked := some r.1 }).addFault p (engineFault va b.asid t 6 r.1 6 b.core0))
    | .ok s1 => .ok (s1.modPart p fun x => { x with bindings := x.bindings.filter fun y => !(y.stage == b.stage && y.waiting.isNone) })

/-- End the bindings of a launch. -/
def State.endBindings (s : State) (p l : Nat) : Sett :=
  ((s.part p).bindings.filter fun b => b.launch == l && b.waiting.isNone).foldl (fun (r : Sett) b =>
    match r with
    | .ok s => s.endBinding p b
    | r => r) (.ok s)

/-- A launch is complete: its writes have reached the physical tiers, its blocks are gone, HEAD advances unless its queue has been
disabled, and vector 2 is raised (05 R84, R89, 21 Table 21.7, log 74). -/
def State.completeLaunch (s : State) (l : Nat) (x : Launch) : State :=
  let s0 := s.emptyL2 x.part
  let s1 := (s0.blocks.filter fun e => e.2.launch == l).foldl (fun s e => s.forgetBlock e.1 e.2) s0
  let s2 := s1.modLaunch l fun y => { y with complete := true, bind := none, past := [], yielding := false, yielded := false }
  let s3 := s2.modPart x.part fun p => { p with bindings := p.bindings.filter fun b => b.launch != l }
  (s3.modQueue x.part x.queue fun q => { q with head := (q.head + if x.counts then 1 else 0) % 4294967296 }).raiseMsix (x.part + 1) 2

/-- LAUNCH_COMPLETE: children of a launch that are done complete, and then the launch itself once everything is done. -/
def execLaunchComplete (l : Nat) (s : State) : Host.Outcome State Fault Refusal :=
  match s.launch? l with
  | none => .next s
  | some x =>
    if !((s.part x.part).running) then .next s
    else
      let s1 := s.completeChildren l
      if !(s1.launchDone l x) then .next s1
      else
        match s1.endBindings x.part l with
        | .wait s2 => .next s2
        | .ok s2 => .next (if s2.launchReleased l x then s2.completeLaunch l x else s2)

/-! ## Yielding (05 R106) -/

/-- A launch runs: it has waves that have not exited. -/
def State.isRunning (s : State) (l : Nat) : Bool := s.waves.any fun e => e.2.launch == l && !e.2.exited && e.2.res == .resident

/-- The launch that yields to one that lacks room: the lowest priority first, then the most recently fetched. -/
def State.victimFor (s : State) (x : Launch) : Option Nat :=
  let cs := s.launches.filter fun e => e.2.part == x.part && !e.2.complete && !e.2.yielded && !e.2.yielding &&
    decide (e.2.record.priority < x.record.priority) && s.isRunning e.1
  match cs with
  | [] => none
  | c :: cs => some (cs.foldl (fun m e =>
      if e.2.record.priority < m.2.record.priority ∨ (e.2.record.priority = m.2.record.priority ∧ m.1 < e.1) then e else m) c).1

/-- The waves of a compute launch leave residence (18 R264): each has 60,000 cycles to reach a mark. -/
def State.askToLeave (s : State) (f : Wave → Bool) : State :=
  { s with waves := s.waves.map fun e =>
      if (f e.2 && e.2.res == .resident && !e.2.exited && e.2.preempt == .none) then
        (e.1, { e.2 with preempt := .window (s.core e.2.core).clk.toNat })
      else e }

/-- The launch that lacks room, and that none has yielded to since its last placement decision, for which this one is to yield. -/
def State.beneficiary (s : State) (l : Nat) (x : Launch) : Option Nat :=
  (s.launches.find? fun e => e.2.part == x.part && s.wantsPlace e.1 e.2 && !e.2.yielded && !e.2.served && s.lacksRoom e.2 &&
    s.victimFor e.2 == some l).map (·.1)

/-- LAUNCH_PREEMPT: a launch yields because one of higher priority cannot be placed; one yields for each placement decision. A compute
launch's waves leave residence; a graphics launch is to yield at its next DRAWEND or the end of a leaf. -/
def execLaunchPreempt (l : Nat) (s : State) : Host.Outcome State Fault Refusal :=
  match s.launch? l with
  | none => .next s
  | some x =>
    match s.beneficiary l x with
    | none => .next s
    | some h =>
      if !(s.placing x.part) then .next s
      else
        let s1 := s.modLaunch h fun y => { y with served := true }
        .next (if x.record.cls = 1 then s1.modLaunch l fun y => { y with yielding := true }
          else (s1.modLaunch l fun y => { y with yielded := true }).askToLeave fun w => w.launch == l)

/-! ## Clock gating (05 R105) -/

/-- A split is parked in one of the waits that let a core gate its clock, and its wait is not over. -/
def State.gatable (s : State) (wi : Nat) (w : Wave) (x : Split) : Bool :=
  match x.park with
  | .wait (.free _) _ _ | .wait (.mirror _ _ _) _ _ | .wait (.stage _ _ _) _ _ | .wait (.room _ _) _ _ => false
  | .wait f _ _ => (match s.waitRes wi w x.num f with | .stay => true | _ => false)
  | .joinw _ => true
  | _ => false

/-- The keyed engine of an owner in a core has a wave to form (05 R105, 14 R203). -/
def State.forming (s : State) (p core : Nat) : Bool :=
  let x := s.part p
  let spare := decide ((x.resident core).length < 64 * (x.shareIn core).elim 0 (·.sett)) || (x.victim core).isSome
  x.bindings.any fun b => b.homes.any fun h => h.core == core &&
    ((h.ctxs.any fun c => c.st == .idle && c.parked.isNone && (b.why h c).isSome) || (spare && !h.unseen.isEmpty))

/-- A core may gate its clock. -/
def State.mayGate (s : State) (c : Nat) : Bool :=
  let k := s.core c
  (s.waves.all fun e => e.2.core != c || e.2.exited || e.2.res != .resident ||
    (e.2.pend.isEmpty && e.2.splits.all fun x => s.gatable e.1 e.2 x)) &&
  k.copyQ.isEmpty && k.work.isEmpty && k.held.isEmpty &&
  (s.quads.all fun e => e.1 / 4 != c || e.2.mxq.all fun o => o.done) &&
  s.parts.all fun e => !(s.forming e.1 c)

/-- CORE_CLOCK_GATE. -/
def execCoreClockGate (c : Nat) (s : State) : Host.Outcome State Fault Refusal :=
  if Config.cores ≤ c ∨ !(s.mayGate c) then .next s else .next (s.modCore c fun k => { k with gated := true })

/-- CORE_WAKE: a split of the core is ready again. -/
def execCoreWake (c : Nat) (s : State) : Host.Outcome State Fault Refusal :=
  let k := s.core c
  if !k.gated then .next s
  else if s.waves.any fun e => e.2.core == c && !e.2.exited && e.2.res == .resident && e.2.splits.any fun x => s.mayIssue e.1 e.2 x then
    .next (s.modCore c fun k => { k with gated := false })
  else .next s

end Sys2Proof.Machine
end

