-- ==== Sys2Proof/Machine/Save.lean ====
section
/-! DEFINITION. Leaving residence and coming back (18 R261 to R270, Table 18.5): save areas, WAVE_SAVE, PREEMPT, WAVE_RESTORE, and
EXIT, which in a PREEMPT handler saves its wave. -/

namespace Sys2Proof.Machine

/-! ## Save areas (18 R266) -/

/-- The size of a wave's save area. -/
def Wave.areaSize (w : Wave) : Nat :=
  (0x4800 + 4096 * (w.tileCount + (w.slots.filter (·.claimed)).length) + 255) / 256 * 256

/-- The lowest multiple of 256 in the pool at which n bytes are free. -/
def Part.areaFor (p : Part) (n : Nat) : Option Nat :=
  let free (a : Nat) : Bool := decide (a + n ≤ p.entry.saveSize) && p.areas.all fun u => decide (a + n ≤ u.1) || decide (u.1 + u.2 ≤ a)
  let cs := (0 :: p.areas.map fun u => (u.1 + u.2 + 255) / 256 * 256).filter free
  match cs with
  | [] => none
  | c :: rest => some (rest.foldl min c)

/-- Allocate an area for a wave: its address, or none. -/
def State.allocArea (s : State) (w : Wave) : Option (Nat × State) :=
  match (s.part w.part).areaFor w.areaSize with
  | none => none
  | some off => some ((s.part w.part).entry.savePool + off, s.modPart w.part fun p => { p with areas := p.areas ++ [(off, w.areaSize)] })

/-- The split that holds the wave's lowest live lane. -/
def Wave.lowest (w : Wave) : Option Split := lanes.findSome? fun l => w.splits.find? fun x => bit x.live l

/-- The save pool is full: the partition stops with REASON 8 (21 Table 21.6). -/
def State.poolFull (s : State) (w : Wave) : State := s.beginStop w.part 8 (w.tokenOf ((w.lowest).elim 0 (·.num)))

/-! ## The bytes of a save area (18 Table 18.5) -/

/-- Bytes of 32-bit numbers. -/
def bytes4 (xs : List Nat) : List Byte := xs.flatMap fun x => leBytes x 4

/-- Bytes of words. -/
def bytesOf (xs : List Word) : List Byte := bytes4 (xs.map BitVec.toNat)

/-- Pad with zeros, or cut, to n bytes. -/
def padTo (n : Nat) (bs : List Byte) : List Byte := (bs ++ List.replicate (n - bs.length) 0).take n

/-- A split's 28 bytes; `armed`: its monitor is armed. -/
def Split.bytes (x : Split) (armed : Bool) : List Byte :=
  leBytes x.pc 8 ++ bytesOf [x.live, x.exec, x.mode, x.prog] ++
    bytes4 [(match x.join with | none => 0 | some j => j + 1) + 65536 + (if armed then 131072 else 0)]

/-- Barriers the wave has arrived at in their open phase, as a mask. -/
def arrivedMask (b : Block) (wi : Nat) : Nat :=
  ((upTo b.bars.length).zip b.bars).foldl (fun m e => if e.2.who.contains wi then m + 2 ^ e.1 else m) 0

/-- A slot state's two bits. -/
def SlotState.code : SlotState → Nat
  | .empty => 0
  | .claimed => 1
  | .full => 2
  | .taken => 3

/-- A ring's 8 bytes. -/
def Ring.bytes (r : Ring) : List Byte :=
  let states := ((upTo 8).map fun k => 4 ^ k * (r.slot k).st.code).foldl (· + ·) 0
  let phases := ((upTo 8).map fun k => if (r.slot k).phase then 2 ^ k else 0).foldl (· + ·) 0
  leBytes (states + 65536 * phases + 16777216 * r.prod + (if r.prodLap then 134217728 else 0) + 268435456 * r.cons +
    (if r.consLap then 2147483648 else 0)) 8

/-- A block's barriers and rings as 128 bytes. -/
def Block.unitBytes (b : Block) : List Byte :=
  padTo 64 (b.bars.flatMap fun x => leBytes (x.arrivals % 256 + 256 * (x.expected % 256) + 65536 * (x.phase % 256)) 4) ++
    padTo 64 (b.rings.flatMap Ring.bytes)

/-- The bytes 0x080 to 0x0FF: barriers and rings, for wave 0 only. -/
def unitBytes (b : Block) (w : Wave) : List Byte := if w.waveId ≠ 0 then List.replicate 128 0 else b.unitBytes

/-- A handle's 8 bytes. -/
def HState.bytes : HState → List Byte
  | .empty => leBytes 0 8
  | .pending t => leBytes (1 + 4294967296 * t) 8
  | .done => leBytes 2 8
  | .cancelled => leBytes 3 8
  | .failed => leBytes 4 8

/-- The monitor line of split k. -/
def Wave.monLine (w : Wave) (k : Nat) : Nat := (w.mons.find k).elim 0 fun m => 64 * m.line

/-- The mask of claimed slots. -/
def Wave.claimedMask (w : Wave) : Nat := ((upTo w.slots.length).filter fun i => w.claimed i).foldl (fun m i => m + 2 ^ i) 0

/-- The claimed slots' contents, ascending. -/
def Wave.slotBytes (w : Wave) : List Byte := (w.slots.filter (·.claimed)).flatMap fun x => x.data.read 0 4096

/-- What the two registers files and the predicates hold, register by register, for those that a mask keeps. -/
def kept (keep : Nat → Bool) (i : Nat) (x : Word) : Word := if keep i then x else 0

/-- A device-written save, of a parked wave or not: header, units, registers, stack, tiles and slots, with the registers that `v`, `sr` and `pr` keep. -/
def Wave.saveBytes (w : Wave) (wi : Nat) (b : Block) (rewound parked : Bool) (splits : List Split) (stack : List Entry)
    (v sr pr : Nat → Bool) : List Byte :=
  let armed (k : Nat) : Bool := (w.mons.find k).any fun m => m.st == .armed
  let header := bytes4 [0x5A390001, w.footprint + 256 * w.role + 65536 * splits.length + 16777216 * stack.length,
    1 + (if rewound then 2 else 0) + (if parked then 4 else 0) + 65536 * arrivedMask b wi, w.tileCount]
  let recs := (upTo 4).flatMap fun k => match splits.find? fun x => x.num == k with
    | some x => x.bytes (armed k && !rewound)
    | none => List.replicate 28 0
  let rest (bs : List Byte) : List Byte := if rewound then List.replicate bs.length 0 else bs
  let regs := bytesOf ((upTo 64).map fun k => kept sr k (w.readS k)) ++ bytesOf ((upTo 8).map fun k => kept pr k (w.readP k)) ++
    rest (w.h.toList.flatMap HState.bytes) ++ rest ((upTo 4).flatMap fun k => leBytes (w.monLine k) 8) ++
    rest (bytes4 [w.fpflags.toNat, w.qsize]) ++ leBytes ((w.mark).elim 0 (·.desc)) 8 ++
    rest (bytes4 [w.lastBatch, w.claimedMask])
  let vregs := (upTo 128).flatMap fun k => if k < w.footprint then bytesOf ((upTo 32).map fun l => kept v k (w.readV k l)) else
    List.replicate 128 0
  padTo 0x300 (header ++ recs ++ rest (unitBytes b w) ++ regs) ++ padTo 0x500 (rest (bytesOf (stack.flatMap Entry.words))) ++ vregs ++
    rest (w.tiles.read 0 (4096 * w.tileCount) ++ w.slotBytes)

/-- Write bytes of the save pool, for the device (18 R266). -/
def State.writePool (s : State) (p va : Nat) (bs : List Byte) : Option State :=
  let asid := s.asidOf p
  let gs := (upTo ((va + bs.length - 1) / 65536 - va / 65536 + 1)).map fun i => (va / 65536 + i) * 65536
  if !(gs.all fun g => match s.deviceCheck p asid g .write with | .go => true | _ => false) then none
  else
    let r := s.stamp
    r.2.engineWrite asid va bs r.1

/-! ## WAVE_SAVE (18 R261, R264) -/

/-- What a recipe descriptor names (18 Table 18.4): live vector, scalar and predicate registers, and RECIPE. -/
structure Recipe where
  v : Nat
  sr : Nat
  pr : Nat
  pc : Nat

/-- What the descriptor of a wave's mark says. -/
inductive Marked where
  | ok (r : Recipe)
  /-- it breaks 18 Table 18.4, or stage 1 refuses its read -/
  | bad
  /-- its read must wait -/
  | wait (s : State)

/-- The descriptor of the wave's mark, as it stands (18 R261). -/
def State.recipe (s : State) (w : Wave) (m : Mark) : Marked :=
  let asid := s.asidOf w.part
  match s.deviceCheck w.part asid m.desc .read with
  | .wait s1 => .wait s1
  | .refuse _ _ => .bad
  | .go => match s.engineRead asid m.desc 64 with
    | none => .wait s
    | some bs =>
      let f := field bs
      if f 0 16 / 2 ^ w.footprint ≠ 0 ∨ f 25 7 ≠ 0 ∨ f 32 8 % 32 ≠ 0 ∨ f 40 8 % 32 ≠ 0 ∨ f 48 16 ≠ 0 then .bad
      else .ok { v := f 0 16, sr := f 16 8, pr := f 24 1, pc := f 32 8 }

/-- A split is parked and its wait is not over (18 R264, R419). -/
def State.staysParked (s : State) (wi : Nat) (w : Wave) (x : Split) : Bool :=
  match x.park with
  | .rejoin _ | .joinw _ | .fault | .stage2 _ => true
  | .wait f _ _ => (match s.waitRes wi w x.num f with | .stay => true | _ => false)
  | .marker => !(w.sbOf x.num).isEmpty
  | .completing _ _ _ => !x.ready
  | .none => false

/-- Every live split is parked. -/
def State.allParked (s : State) (wi : Nat) (w : Wave) : Bool := w.splits.all (s.staysParked wi w)

/-- A pending handle that a save does not wait for (18 R266): SPAWN, SPAWNW, KDRAIN, DRAWEND, GATH or SCAT. -/
def State.savableTag (s : State) (p t : Nat) : Bool :=
  let x := s.part p
  x.spawns.any (fun o => o.tag == t) || x.bindings.any (fun b => b.drains.any fun d => d.tag == t) || s.sliceQ.any (fun o => o.tag == t) ||
  s.launches.any fun e => e.2.part == p && e.2.binds.any fun b => b.draws.any fun d => d.tag == t

/-- What a save of a wave waits for: its copies, its launch's commands on its quadrant, and other handles (18 R264, R266, 12 R194). -/
def State.saveWaits (s : State) (wi : Nat) (w : Wave) : Bool :=
  ((s.core w.core).copyQ.any fun o => o.wave == wi) ||
  ((s.quad w.quad).mxq.any fun o => o.launch == w.launch) ||
  w.h.toList.any fun h => match h with | .pending t => !(s.savableTag w.part t) | _ => false

/-- A saved wave holds no slot, waits in no ring's order, and its armed monitors give status 4 (05 R103, 18 R265). -/
def Wave.leave (w : Wave) (res : Residence) : Wave :=
  { w with
    res := res, preempt := .none, splits := [], pend := [], trap := none
    mons := w.mons.map fun e => (e.1, if e.2.st = .armed then { e.2 with st := .saved } else e.2) }

/-- The wave leaves residence at an address; a partition save tags it with its guest context (18 R268). -/
def State.leaves (s : State) (wi : Nat) (res : Residence) : State :=
  (((s.withdraw wi).modWave wi fun w =>
    { w.leave res with guest := if s.module.cmd = some (3, w.part) then some w.launch else w.guest }).tidySlots wi).freeRoom
      ((s.wave? wi).elim 0 (·.core))

/-- A rewound wave is saved: its live registers, its mark (18 R264). -/
def State.saveRewound (s : State) (wi : Nat) (w : Wave) (b : Block) (r : Recipe) (m : Mark) : State :=
  match s.allocArea w with
  | none => s.poolFull w
  | some (addr, s1) =>
    let x := newSplit 0 r.pc m.exec m.exec m.mode none s.seq
    let bs := w.saveBytes wi b true false [x] [] r.v.testBit r.sr.testBit r.pr.testBit
    match s1.writePool w.part addr (padTo 0x4800 bs) with
    | none => s
    | some s2 => s2.leaves wi (.saved addr true)

/-- A wave is saved whole (18 R264). -/
def State.saveWhole (s : State) (wi : Nat) (w : Wave) (b : Block) : State :=
  match s.allocArea w with
  | none => s.poolFull w
  | some (addr, s1) =>
    let bs := w.saveBytes wi b false (!w.rewindable || s.allParked wi w) w.splits w.stack (fun _ => true) (fun _ => true) (fun _ => true)
    match s1.writePool w.part addr bs with
    | none => s
    | some s2 => s2.leaves wi (.saved addr false)

/-- A wave is saved whole once its results are written and the instructions that it is parked in have completed (18 R264, R266, R419);
until then it issues nothing. -/
def State.saveOrFreeze (s : State) (wi : Nat) (w : Wave) (b : Block) (since : Nat) : State :=
  if w.sbClear ∧ !(w.splits.any Split.isCompleting) ∧ !(s.saveWaits wi w) then s.saveWhole wi w b
  else s.setWave wi { w with preempt := .saving since }

/-- WAVE_SAVE: a wave that is to leave residence is rewound at once if its flag is set, or saved whole if all its splits are parked. -/
def execWaveSave (wi : Nat) (s : State) : Host.Outcome State Fault Refusal :=
  match s.wave? wi with
  | none => .next s
  | some w =>
    if w.res ≠ .resident ∨ w.exited ∨ !((s.part w.part).running) then .next s
    else match s.block? w.block, w.preempt, (if w.rewindable then w.mark else none) with
      | some b, .window t, some m =>
        (match s.recipe w m with
         | .wait s1 => .next s1
         | .ok r => .next (if s.saveWaits wi w then s else s.saveRewound wi w b r m)
         | .bad => .next (if w.trap.isSome then s.tryTrapEntry wi else s.saveOrFreeze wi w b t))
      | some b, .window t, none =>
        .next (if w.trap.isNone ∧ s.allParked wi w then s.saveOrFreeze wi w b t else s)
      | some b, .saving t, _ => .next (if w.trap.isSome then s.tryTrapEntry wi else s.saveOrFreeze wi w b t)
      | _, _, _ => .next s

/-! ## PREEMPT (18 R264) -/

/-- Cycles of a core since a reading of its CLK. -/
def State.since (s : State) (core t : Nat) : Nat := ((s.core core).clk.toNat + two64 - t) % two64

/-- MARK_WINDOW_EXPIRY: a running wave that has reached no mark within 60,000 cycles takes PREEMPT; FADDR is its save area. -/
def execMarkWindowExpiry (wi : Nat) (s : State) : Host.Outcome State Fault Refusal :=
  match s.wave? wi with
  | none => .next s
  | some w =>
    match w.preempt, w.lowest with
    | .window t, some x =>
      if w.res ≠ .resident ∨ w.exited ∨ w.trap.isSome ∨ w.rewindable ∨ !((s.part w.part).running) ∨ s.since w.core t < 60000 ∨
          s.allParked wi w ∨ x.isCompleting then .next s
      else
        (match s.allocArea w with
         | none => .next (s.poolFull w)
         | some (addr, s1) =>
           .next ((s1.modWave wi fun y => { y with preempt := .raised addr (s.core w.core).clk.toNat w.splits.length }).preempt wi x addr))
    | _, _ => .next s

/-- The wave's final EXIT has come: it waits for its release (18 R269). -/
def Wave.exiting (w : Wave) : Bool :=
  w.splits.any fun x => match x.park with | .completing _ (.release _ (.save _)) _ => true | _ => false

/-- PREEMPT_HANDLER_TIMEOUT: the handler's final EXIT has not come within 240,000 cycles more. -/
def execPreemptHandlerTimeout (wi : Nat) (s : State) : Host.Outcome State Fault Refusal :=
  match s.wave? wi with
  | none => .next s
  | some w =>
    match w.preempt with
    | .raised _ t _ =>
      if w.exited ∨ w.exiting ∨ w.res ≠ .resident ∨ s.since w.core t < 240000 then .next s
      else .next (s.beginStop w.part 5 (w.tokenOf ((w.lowest).elim 0 (·.num))))
    | _ => .next s

/-! ## EXIT (22 R322, 04 R67, 18 R269) -/

/-- The cause of the wave's top frame (18 R264): Bruin holds it in start-up, test and recovery mode (R251). -/
def Wave.topFrame (w : Wave) : Option Nat := ((w.bruin.head?).map (·.cause)).or ((w.stack.find? fun e => e.kind == 3).map (·.cause))

/-- The wave runs the handler of a PREEMPT that the device has raised: the address of its save area. -/
def Wave.preemptArea (w : Wave) : Option Nat :=
  match w.preempt with
  | .raised addr _ _ => if w.topFrame = some Cause.preempt then some addr else none
  | _ => none

/-- The splits the wave had at the entry of its PREEMPT. -/
def Wave.splitsAtTrap (w : Wave) : Nat := match w.preempt with | .raised _ _ n => n | _ => 0

/-- The device completes a handler-written save (18 R269); none while a write must wait. -/
def State.completeArea (s : State) (wi : Nat) (w : Wave) (b : Block) (addr : Nat) : Option State :=
  match s.engineRead (s.asidOf w.part) (addr + 4) 4 with
  | none => none
  | some old =>
    let v := leValue old
    let n := w.splitsAtTrap % 8
    let word4 := v % 65536 + 65536 * n + v / 524288 * 524288
    [(4, bytes4 [word4, 65536 * arrivedMask b wi]), (0x80, if w.waveId = 0 then unitBytes b w else []),
     (0x2A0, (upTo 4).flatMap fun k => leBytes (w.monLine k) 8), (0x2D0, bytes4 [w.lastBatch, w.claimedMask]),
     (0x4800 + 4096 * w.tileCount, w.slotBytes)].foldl (fun (r : Option State) e =>
       match r with
       | none => none
       | some s => if e.2.isEmpty then some s else s.writePool w.part (addr + e.1) e.2) (some s)

/-- The final EXIT of a PREEMPT handler once its release is complete: the device completes the save area, and the wave is saved (18
R269). None while its copies, commands or a write must wait (18 R264, R266). -/
def State.savePoint (s : State) (wi : Nat) (w : Wave) (addr : Nat) : Option State :=
  match s.block? w.block with
  | none => none
  | some b =>
    if s.saveWaits wi w then none
    else (s.completeArea wi w b addr).map fun s1 =>
      (s1.leaves wi (.handler addr)).modWave wi fun w => { w with stack := [] }

/-- EXIT of the last live lanes of a PREEMPT handler: a device-scope release of everything the wave has written; then the wave is
saved. -/
def exitSaves (c : Ctx) (s : State) (addr : Nat) : Effect :=
  let r := s.startRelease c.wi 0
  if r.2.isReleasing c.wi r.1 then .completing r.2 (.release r.1 (.save addr))
  else match r.2.savePoint c.wi c.w addr with
    | some s1 => .done s1
    | none => .completing r.2 (.release r.1 (.save addr))

/-- EXIT. -/
def execExit (s : State) : Host.Outcome State Fault Refusal :=
  wordOf .exit {} (fun c s =>
    let m := c.sp.exec
    if !(c.w.sbOf c.sp.num).isEmpty then .stall s
    else if m = 0 then .ok s
    else
      match if c.w.alive &&& ~~~m = 0 then c.w.preemptArea else none with
      | some addr => exitSaves c s addr
      | none =>
        if c.w.keyed.isSome ∧ !(s.allPerformed c.w) then .stall s
        else
          let s1 := if c.w.keyed.isSome then s.leaveLanes c false m else s
          .done ((s1.goOn c c.next false).exitLanes c.wi c.sp.num m)) s

/-! ## WAVE_RESTORE (18 R265, R267, R270) -/

/-- Words of a save area. -/
def wordsAt (bs : List Byte) (o n : Nat) : List Word := (upTo n).map fun i => word (field bs (o + 4 * i) 4)

/-- A split from its 28 bytes. -/
def splitOf (bs : List Byte) (k at_ : Nat) : Option Split :=
  let f := fun o n => field bs (0x10 + 28 * k + o) n
  let j := f 24 2
  if f 24 4 / 65536 % 2 = 0 then none
  else some { num := k, pc := f 0 8, live := word (f 8 4), exec := word (f 12 4), mode := word (f 16 4), prog := word (f 20 4)
              join := if j = 0 then none else some (j - 1), park := .none, entered := none, ready := false, acq := 0, readyAt := at_
              parkedAt := at_ }

/-- A handle's state; none for a reserved value. -/
def handleAt (bs : List Byte) (r : Nat) : Option HState :=
  let lo := field bs (0x220 + 8 * r) 4
  let tag := field bs (0x224 + 8 * r) 4
  if lo = 1 then some (.pending tag)
  else if tag ≠ 0 then none
  else match lo with
    | 0 => some .empty
    | 2 => some .done
    | 3 => some .cancelled
    | 4 => some .failed
    | _ => none

/-- Bytes [a, a + n) of a save area are all 0. -/
def zeroAt (bs : List Byte) (a n : Nat) : Bool := ((bs.drop a).take n).all (· == 0)

/-- The barriers' and rings' reserved bits are 0; they belong to wave 0 (18 Table 18.5). -/
def unitsOk (bs : List Byte) (w : Wave) : Bool :=
  if w.waveId ≠ 0 then zeroAt bs 0x80 128
  else ((upTo 16).all fun b => zeroAt bs (0x83 + 4 * b) 1) && (upTo 8).all fun g => zeroAt bs (0xC4 + 8 * g) 4

/-- The magic is right and no value of a device-written save is reserved (18 R267, Table 18.5). A REWOUND save's units, handles, tiles and
stack are 0. -/
def areaOk (bs : List Byte) (w : Wave) (rewound : Bool) : Bool :=
  let f := field bs
  let w4 := f 4 4
  let depth := w4 / 16777216
  decide (f 0 4 = 0x5A390001) && decide (w4 % 256 = w.footprint) && decide (w4 / 256 % 256 = w.role) && decide (w4 / 524288 % 32 = 0) &&
  decide (depth ≤ 32) && decide (f 8 4 % 65536 / 8 = 0) && decide (f 0xC 4 = w.tileCount) &&
  ([0, 1, 2, 3].all fun k => decide (f (0x10 + 28 * k + 24) 4 / 262144 = 0) && modeOk (f (0x10 + 28 * k + 16) 4)) &&
  ((upTo 16).all fun r => (handleAt bs r).isSome) && decide (f 0x2C0 4 < 32) && decide (f 0x2D8 0x28 = 0) &&
  ((upTo depth).all fun i => (Entry.ofWords (wordsAt bs (0x300 + 32 * i) 8)).isSome) && zeroAt bs (0x300 + 32 * depth) (1024 - 32 * depth) &&
  zeroAt bs 0x700 0x100 && zeroAt bs (0x800 + 128 * w.footprint) (16384 - 128 * w.footprint) &&
  (if rewound then zeroAt bs 0x80 128 && zeroAt bs 0x220 0xA8 && zeroAt bs 0x2D0 8
   else unitsOk bs w && decide (1 ≤ f 0x2C4 4) && decide (f 0x2C4 4 ≤ 4096))

/-- The registers of a save area. -/
def Wave.loadRegs (w : Wave) (bs : List Byte) : Wave :=
  { w with
    v := Vector.ofFn fun k => if k.val < w.footprint then Vector.ofFn fun l => word (field bs (0x800 + 128 * k.val + 4 * l.val) 4) else
      Vector.replicate 32 0
    s := Vector.ofFn fun k => word (field bs (0x100 + 4 * k.val) 4)
    p := Vector.ofFn fun k => word (field bs (0x200 + 4 * k.val) 4) }

/-- The slots of a save area. -/
def loadSlots (bs : List Byte) (tiles n : Nat) : List MxSlot :=
  let m := field bs 0x2D4 4
  (upTo n).map fun i =>
    if m.testBit i then
      let j := ((upTo i).filter fun k => m.testBit k).length
      { claimed := true, relQueued := false, data := Memory.write [] 0 ((bs.drop (0x4800 + 4096 * tiles + 4096 * j)).take 4096) }
    else { claimed := false, relQueued := false, data := [] }

/-- A wave saved whole resumes in its exact state (18 R265). A handle whose operation has ended meanwhile has its final state. -/
def Wave.restoreWhole (w : Wave) (bs : List Byte) (at_ : Nat) : Wave :=
  let f := field bs
  let entries := (upTo (f 4 4 / 16777216)).filterMap fun i =>
    (Entry.ofWords (wordsAt bs (0x300 + 32 * i) 8)).map fun e =>
      { e with orphan := (w.stack[i]?).any (·.orphan) }
  { w.loadRegs bs with
    h := Vector.ofFn fun r =>
      (match handleAt bs r.val with
       | some (.pending t) => if vget w.h r.val .empty = .pending t then .pending t else vget w.h r.val .empty
       | some x => x
       | none => .empty)
    splits := [0, 1, 2, 3].filterMap fun k => splitOf bs k at_
    stack := entries
    fpflags := BitVec.ofNat 5 (f 0x2C0 4), qsize := f 0x2C4 4, lastBatch := f 0x2D0 4
    tiles := Memory.write [] 0 ((bs.drop 0x4800).take (4096 * w.tileCount)), slots := loadSlots bs w.tileCount w.slots.length
    res := .resident, preempt := .none, guest := none }

/-- A rewound wave resumes as one split at RECIPE (18 R265). A REWOUND save holds no tiles: what they hold then is free (log 2). -/
def Wave.restoreRewound (w : Wave) (bs tiles : List Byte) (at_ : Nat) : Wave :=
  let sp := (splitOf bs 0 at_).toList
  { w.loadRegs bs with
    h := Vector.replicate 16 .empty, splits := sp, stack := [], alive := (sp.head?).elim 0 (·.live), ks := Vector.replicate 4 0, prog := 0
    cause := 0, faddr := 0, fmask := 0
    tiles := Memory.write [] 0 tiles, fpflags := 0, qsize := 64, trap := none, res := .resident, preempt := .none, guest := none }

/-- The wave starts its trap handler to restore itself, or because its save area is bad (18 R267, R270). -/
def Wave.restoreByHandler (w : Wave) (cause addr at_ : Nat) : Wave :=
  { w with
    v := Vector.replicate 128 (Vector.replicate 32 0), s := Vector.replicate 64 0, p := Vector.replicate 8 0
    h := Vector.replicate 16 .empty, alive := allLanes, splits := [newSplit 0 (w.tbase.toNat + 4) allLanes allLanes 0 none at_]
    stack := [], cause := cause, faddr := BitVec.ofNat 64 addr, fmask := 0, ks := Vector.replicate 4 0, prog := 0, fpflags := 0, qsize := 64
    tiles := [], trap := none, rewindable := false, mark := none, res := .resident, preempt := .none, guest := none }

/-- A saved wave fits its quadrant again (05 R91). -/
def State.fitsAgain (s : State) (w : Wave) : Bool :=
  useOk (addUse (s.quadUse ((s.part w.part).quadFor w.core w.waveId)) (w.footprint, w.tileCount, w.slots.length))

/-- The launch of a saved wave may run again: it has not yielded, or nothing of higher priority waits (05 R106). -/
def State.mayReturn (s : State) (w : Wave) : Bool := (s.launch? w.launch).all fun x => !x.yielded || !(s.outranked x)

/-- The wave is back: in its quadrant, its area freed, its launch no longer yielding. -/
def State.returns (s : State) (wi addr : Nat) (w : Wave) : State :=
  let q := (s.part w.part).quadFor w.core w.waveId
  (((s.setWave wi { w with quad := q }).freeArea w.part addr).modLaunch w.launch fun x => { x with yielding := false, yielded := false }).wakeCore w.core

/-- What the waves of placed blocks that are still to come back will take of a quadrant (21 R277). -/
def State.pledged (s : State) (q : Nat) (u : Nat × Nat × Nat × Nat) : Nat × Nat × Nat × Nat :=
  (s.waves.filter fun e => e.2.quad == q && e.2.res != .resident && !e.2.exited && (s.block? e.2.block).any (fun b => !b.saved) &&
    (s.launch? e.2.launch).all fun l => !l.yielded).foldl (fun u e => addUse u (e.2.footprint, e.2.tileCount, e.2.slots.length)) u

/-- The scratch position of a saved block that fits a core with its waves that have not exited (05 R91). -/
def State.roomAgain (s : State) (bi : Nat) (b : Block) (core : Nat) : Option Nat :=
  let p := s.part b.part
  let ws := (s.waves.filter fun e => e.2.block == bi && !e.2.exited).map (·.2)
  let qs := p.quadsIn core
  if !qs.isEmpty ∧ qs.all (fun q => useOk ((ws.filter fun w => p.quadFor core w.waveId == q).foldl (fun u w =>
      addUse u (w.footprint, w.tileCount, w.slots.length)) (s.pledged q (s.quadUse q)))) then
    scratchPos (s.scratchUsed b.part core) (p.banked core) b.record.scratch
  else none

/-- A block that a DESCHED has saved is placed again, on any core of the partition that it fits (21 R277); a keyed block on its home's,
which does not change. Its scratch, barriers, rings and bindings are there before any of its waves resumes. -/
def State.replaceBlock (s : State) (bi : Nat) : State :=
  match s.block? bi with
  | none => s
  | some b =>
    let p := s.part b.part
    let cs := (if b.keyed then [b.core] else p.coreList).filterMap fun c => (s.roomAgain bi b c).map fun pos => (c, pos)
    match cs[Config.freeNat s.free % max 1 cs.length]? with
    | none => s
    | some (c, pos) =>
      let s1 := s.drawn.modBlock bi fun x => { x with core := c, pos := pos, saved := false }
      { s1 with waves := s1.waves.map fun e =>
          if e.2.block = bi then (e.1, { e.2 with core := c, quad := p.quadFor c e.2.waveId }) else e }

/-- WAVE_RESTORE: a saved wave comes back when it fits and may run; the block of a descheduled partition is placed first. -/
def execWaveRestore (wi : Nat) (s : State) : Host.Outcome State Fault Refusal :=
  match s.wave? wi with
  | none => .next s
  | some w =>
    if !(s.placing w.part) ∨ w.exited ∨ w.res = .resident then .next s
    else if (s.block? w.block).any (·.saved) then .next (s.replaceBlock w.block)
    else if !(s.fitsAgain w) ∨ !(s.mayReturn w) then .next s
    else
      match w.res with
      | .resident => .next s
      | .handler addr => .next ((s.returns wi addr (w.restoreByHandler Cause.preempt addr s.seq)).acquireAt wi 0 false)
      | .saved addr rewound =>
        match s.engineRead (s.asidOf w.part) addr w.areaSize with
        | none => .next s
        | some bs =>
          if !(areaOk bs w rewound) then .next ((s.returns wi addr (w.restoreByHandler Cause.illegal addr s.seq)).acquireAt wi 0 false)
          else if rewound then
            let r := s.freeBytes (4096 * w.tileCount)
            .next (r.2.returns wi addr (w.restoreRewound bs r.1 s.seq))
          else .next (s.returns wi addr (w.restoreWhole bs s.seq))

end Sys2Proof.Machine
end

