-- ==== Sys2Proof/Machine/Cancel.lean ====
section
/-! DEFINITION. HCANCEL (22 R329, Table 22.8), and ENGINE: the head operation of an engine queue makes progress (08 R160). -/

namespace Sys2Proof.Machine

/-- Cancel a gather or scatter: the index entries not yet sent are dropped; without any sent one it ends. -/
def State.cancelSlice (s : State) (o : SliceOp) : State :=
  let x : SliceOp := { o with cancelled := o.cancelled || decide (o.next < o.count) }
  if x.st = .ready ∧ x.finished then s.endSlice x else s.setSlice o (some x)

/-- Cancel a SPAWN: its children that have not been placed are dropped. -/
def State.cancelSpawn (s : State) (p : Nat) (o : SpawnOp) : State :=
  let mine (c : Child) : Bool := c.info.tag == o.tag
  let n := ((s.part p).children.filter mine).length
  if n = 0 then s
  else
    let s1 := s.modPart p fun x => { x with
      children := x.children.filter fun c => !(mine c)
      spawns := x.spawns.map fun y => if y.tag = o.tag then { y with left := y.left - n, dropped := true } else y }
    if o.left = n then ((s1.modPart p fun x => { x with spawns := x.spawns.filter fun y => y.tag != o.tag }).endHandle o.href o.tag
      .cancelled).endOp o.tag
    else s1

/-- Cancel a build that Lynx has not started; one whose first write is parked by a fault counts as begun (22 R329). -/
def State.cancelBuild (s : State) (b : BuildOp) : State :=
  if b.started ∨ b.written ∨ b.st = .parked then s else ((s.setBuild b none).endHandle b.href b.tag .cancelled).endOp b.tag

/-- Cancel the operation of a tag of a partition: what of it has not begun is dropped. Draws, drains and fences are left alone. -/
def State.cancelOp (s : State) (p tag : Nat) : State :=
  let mineB (b : Nat) : Bool := (s.block? b).any fun x => x.part == p
  match s.sliceQ.find? fun o => o.tag == tag && mineB o.block with
  | some o => s.cancelSlice o
  | none =>
    match (s.part p).spawns.find? fun o => o.tag == tag with
    | some o => s.cancelSpawn p o
    | none =>
      match s.builds.find? fun b => b.tag == tag && b.part == p with
      | some b => s.cancelBuild b
      | none =>
        match s.quads.findSome? fun e => (e.2.mxq.find? fun x => x.tag == tag && mineB x.block).map fun x => (e.1, x) with
        | some (q, x) => s.mxCancel q x
        | none => s

/-- HCANCEL. -/
def execHcancel (a : Operand) (s : State) : Host.Outcome State Fault Refusal :=
  uniformWord (.hcancel a) {} (fun c s =>
    match handleState c.w a with
    | .pending t => .ok (s.cancelOp c.w.part t)
    | _ => .ok s) s

/-- ENGINE: the head operation of a queue of 08 Table 8.8 makes progress, as the step of its own engine has it. A gather or scatter
whose wave has exited without sending the rest of its list ends with what is sent. -/
def execEngine (queue : QueueRef) (s : State) : Host.Outcome State Fault Refusal :=
  match queue with
  | .copy c p => execCopyStep c p s
  | .slice b =>
    match s.sliceQ.find? fun o => o.block == b with
    | none => .next s
    | some o =>
      if o.finished then .next (if o.st = .ready then s.endSlice o else s)
      else match o.sent.head? with
        | none => .next (if (s.wave? o.wave).all fun w => w.exited then s.endSlice { o with cancelled := true } else s)
        | some e => execSliceElement b o.tag e.1 s
  | .matrix q =>
    match (s.quad q).mxq.head? with
    | none => .next s
    | some x => if x.done then execMatrixCommandDone q x.tag s else execMatrixCommand q x.tag s
  | .keyed b => .next (s.keyedQueueStep b)
  | .lynx sec p => execLynxBuild sec p s

end Sys2Proof.Machine
end

