-- ==== Sys2Proof/Machine/Faults.lean ====
section
/-! DEFINITION. Translation walks, Bruin's answers to stage-2 faults, page migration, the fault ring, and the fault-resume word
(18 R254 to R260). -/

namespace Sys2Proof.Machine

/-! ## FAULT_RECORD (18 R258) -/

/-- The 32 bytes of a record (18 Table 18.3). -/
def FaultRec.bytes (f : FaultRec) : List Byte :=
  leBytes f.va 8 ++ leBytes f.pc 8 ++ leBytes f.lanes.toNat 4 ++ leBytes f.token 4 ++ leBytes f.asid 2 ++ leBytes f.type 1 ++
    leBytes f.kind 1 ++ leBytes f.engine 2 ++ leBytes 0 2

/-- LOGN of the fault ring: the value read since ACTIVATE, else what the header holds; none when stage 2 refuses the read. -/
def State.ringLog (s : State) (p : Nat) : Option Nat :=
  match (s.part p).ringLogn with
  | some n => some n
  | none => (s.guestRead p ((s.part p).entry.ring + 8) 4).map leValue

/-- FAULT_RECORD: the oldest record of a partition is written, TAIL advances and the fault interrupt is raised. With the ring full it
waits; an unusable ring stops the partition (21 Table 21.6). -/
def execFaultRecord (p : Nat) (s : State) : Host.Outcome State Fault Refusal :=
  let x := s.part p
  let ring := x.entry.ring
  let unusable (a : Nat) : State := s.beginStop p 9 (a / 65536)
  match x.faults with
  | [] => .next s
  | f :: fs =>
    if x.state = 2 ∨ x.stopping.isSome then .next s
    else
      match s.ringLog p with
      | none => .next (unusable (ring + 8))
      | some n =>
        if n < 4 ∨ 16 < n then .next (s.beginStop p 9 0)
        else
          match s.guestRead p (ring + 4) 4 with
          | none => .next (unusable (ring + 4))
          | some hd =>
            let s0 := s.modPart p fun y => { y with ringLogn := some n }
            if (x.ringTail + 4294967296 - leValue hd) % 4294967296 = 2 ^ n then .next s0
            else
              let at_ := ring + 64 + 32 * (x.ringTail % 2 ^ n)
              let tail := (x.ringTail + 1) % 4294967296
              match s0.guestWrite p at_ f.bytes with
              | none => .next (unusable at_)
              | some s1 =>
                match s1.guestWrite p ring (leBytes tail 4) with
                | none => .next (unusable ring)
                | some s2 => .next ((s2.modPart p fun y => { y with ringTail := tail, faults := fs }).raiseMsix (p + 1) 0)

/-! ## TRANSLATION_WALK (18 R253, R254) -/

/-- Put a right into the rights cache of a core, of 2048 entries (18 R253). -/
def State.putRight (s : State) (c asid va : Nat) (r : Right) : State :=
  s.drawn.modCore c fun k => { k with rights := k.rights.putCapped (fun _ => true) rightsCap (rkey asid va) r (Config.freeNat s.free) }

/-- Put a translation into the TLB of its home, of 16,384 entries (18 R254). -/
def State.putTlb (s : State) (asid va : Nat) (r : Right) : State :=
  let mine (k : Nat) : Bool := transHome (k % 1099511627776 * 65536) == transHome va
  { s.drawn with tlb := s.tlb.putCapped mine tlbCap (rkey asid va) r (Config.freeNat s.free) }

/-- TRANSLATION_WALK: the granule's home answers a core from its TLB, or walks both stages. What stage 1 does not map, and what stage 2
refuses, is told to the core alone: the access that waits for it faults, or goes to Bruin. -/
def execTranslationWalk (c asid granule : Nat) (s : State) : Host.Outcome State Fault Refusal :=
  let va := granule * 65536
  match s.partOfAsid asid with
  | none => .next s
  | some p =>
    if (s.right? c asid va).isSome then .next s
    else
      match s.tlb.find (rkey asid va) with
      | some r => .next (s.putRight c asid va r)
      | none =>
        match s.walk p asid va with
        | .ok r => .next ((s.putTlb asid va r).putRight c asid va r)
        | .unmapped => .next (s.putRight c asid va Right.unmapped)
        | .stage2 ipa => .next (s.putRight c asid va (Right.refused ipa))

/-! ## STAGE2_FAULT (18 R256) -/

/-- Bruin resumes the agents of a stage-2 fault: the splits of that core that are parked on it issue again (18 R256). -/
def State.resumeStage2 (s : State) (p : Nat) (f : S2Fault) : State :=
  { s with waves := s.waves.map fun e =>
      if e.2.part = p ∧ e.2.core = f.core then
        (e.1, { e.2 with splits := e.2.splits.map fun x =>
          if x.park = .stage2 f.granule then { x with park := .none, readyAt := s.seq } else x })
      else e }

/-- STAGE2_FAULT: Bruin maps the page of the oldest fault it holds by writing table entries, and the agents that wait go on; or it
stops the partition with REASON 6. -/
def execStage2Fault (p : Nat) (act : BruinAct) (s : State) : Host.Outcome State Fault Refusal :=
  match (s.part p).s2faults with
  | [] => .next s
  | f :: fs =>
    match act with
    | .stopPartition => .next (s.beginStop p 6 f.granule)
    | .mapPage es =>
      let s1 := es.foldl (fun s e => s.ptWrite e.1 (leBytes e.2.toNat 8)) s
      .next ((s1.modPart p fun x => { x with s2faults := fs }).resumeStage2 p f)

/-! ## PAGE_MIGRATION (18 R255) -/

/-- The leaf that a stage-2 walk ends at: its own address, its value and its level. -/
def leafAt (read : Nat → Nat) (a : Nat) : List LevelShape → Nat → Option (Nat × Nat × LevelShape)
  | [], _ => none
  | l :: ls, table =>
    let at_ := table + 8 * (a / 2 ^ l.shift % 2 ^ l.bits)
    let e := read at_
    if e % 2 = 0 then none
    else if e / 2 % 2 = 1 then (if leafOk true l e then some (at_, e, l) else none)
    else if tableOk ls.head? e then leafAt read a ls (e / 256 * 256)
    else none

/-- A stage-2 leaf gives an address of its page: the code, the peer and the bytes' place. -/
def leafTgt (e : Nat) : Nat := e / 128 % 4

/-- The cells of a page at a place. -/
def State.pageCells (s : State) (tgt peer pa n : Nat) : List Host.Cell :=
  let m := if tgt = 0 then s.pt else if tgt = 1 then s.host else s.peers
  let base := if tgt = 2 then peerKey peer pa else pa
  (m.filter fun c => decide (base ≤ c.1) && decide (c.1 < base + n)).map fun c => (c.1 - base, c.2)

/-- Put a page's cells at a place: every other byte of the page there is blank. -/
def State.putPage (s : State) (tgt peer pa n : Nat) (cs : List Host.Cell) : State :=
  let base := if tgt = 2 then peerKey peer pa else pa
  let put (m : Memory) : Memory := (m.clear base n).writeCells (cs.map fun c => (base + c.1, c.2))
  if tgt = 0 then { s with pt := put s.pt } else if tgt = 1 then { s with host := put s.host } else { s with peers := put s.peers }

/-- Deliver the writes in transit that meet a page behind a port. -/
def State.deliverTo (s : State) (tgt peer pa n : Nat) : State :=
  (s.portWrites.filter fun w => w.tgt == tgt && w.peer == peer && decide (w.addr < pa + n) && decide (pa < w.addr + w.bytes.length)).foldl
    (fun s w => ((({ s with portWrites := s.portWrites.erase w } : State).physWrite w.tgt w.peer w.addr w.bytes).fire w.asid w.va
      w.bytes.length).modReleases fun r => { r with ports := r.ports.filter (· ≠ w.seq) }) s

/-- The SRAM caches give up the lines of a page of module memory (06 R119). -/
def State.ptFlush (s : State) (pa n : Nat) : State :=
  ((s.sram.map (·.1)).filter fun l => decide (pa / 256 ≤ l) && decide (l < (pa + n) / 256)).foldl State.ptEvict s

/-- The home lines of a partition that lie in a page of module memory. -/
def State.linesIn (s : State) (p pa n : Nat) : List Nat :=
  (s.lines.filter fun e => s.partOfAsid (e.1 / 281474976710656) == some p && decide (pa ≤ e.2.pa) && decide (e.2.pa < pa + n)).map (·.1)

/-- An open snapshot level meets a guest-physical page of a partition: one of its granules is translated to it (17 R239). -/
def State.snapMeets (s : State) (p ipa n : Nat) : Bool :=
  (s.part p).regions.any fun r => (r.levels.head?).any fun l =>
    (upTo ((l.base + l.len - 1) / 65536 - l.base / 65536 + 1)).any fun i =>
      (s.trans r.asid ((l.base / 65536 + i) * 65536)).any fun x => decide (ipa ≤ x.ipa) && decide (x.ipa < ipa + n)

/-- What the homes hold of a page goes with it: a line that stays in module memory takes its new address; what L2 held of another is dropped. -/
def State.moveLines (s : State) (ks : List Nat) (old tgt pa : Nat) : State :=
  if tgt = 0 then
    { s with lines := s.lines.map fun e => if ks.contains e.1 then (e.1, { e.2 with pa := e.2.pa - old + pa }) else e }
  else
    let s1 := ks.foldl (fun s k => s.evictHome (keyAsid k) (keyLine k)) s
    { s1 with copies := s1.copies.filter fun c => !(ks.contains (lkey c.asid c.line)) }

/-- A partition's rights for a guest-physical page are dropped, in every core and at the homes, and the page's access counters are
cleared. -/
def State.dropPage (s : State) (p ipa n : Nat) : State :=
  let mine (e : Nat × Right) : Bool :=
    s.partOfAsid (e.1 / 1099511627776) == some p && decide (ipa ≤ e.2.ipa) && decide (e.2.ipa < ipa + n)
  let gone := (s.tlb.filter mine).map (·.1)
  { s with
    tlb := s.tlb.filter fun e => !(mine e)
    cores := s.cores.map fun e => (e.1, { e.2 with rights := e.2.rights.filter fun r => !(mine r) })
    module := { s.module with counters := s.module.counters.filter fun e => !(gone.contains e.1) } }

/-- The bytes of a page of the leaf e1 all lie at its place: what L2 holds dirty of it is written back, and the SRAM caches give up its lines
and those of the place that the leaf e2 names, or what is in transit to it is delivered. -/
def State.pageAtRest (s : State) (p e1 e2 n : Nat) : State :=
  let old := e1 / 65536 * 65536
  let s1 := if leafTgt e1 ≠ 0 then s.deliverTo (leafTgt e1) (leafPeer p e1) old n
    else ((s.linesIn p old n).foldl (fun s k => [0, 1, 2, 3].foldl (fun s j => s.sectorDone (keyAsid k) (keyLine k) j) s) s).ptFlush old n
  if leafTgt e2 = 0 then s1.ptFlush (e2 / 65536 * 65536) n else s1

/-- PAGE_MIGRATION: Bruin moves a page that no open snapshot level meets to the place that a new leaf of the same size names: its
bytes move, the leaf is written, and no access faults for it. -/
def execPageMigration (p ipa : Nat) (leaf : BitVec 64) (s : State) : Host.Outcome State Fault Refusal :=
  let e2 := leaf.toNat
  match leafAt (fun a => s.ptLe a 8) ipa tableLevels (s.part p).entry.s2root with
  | none => .next s
  | some (at_, e1, l) =>
    let n := 2 ^ l.shift
    let page := ipa / n * n
    let old := leafAddr e1 l.shift 0
    let new := leafAddr e2 l.shift 0
    let exists_ := leafTgt e2 ≠ 0 ∨ (modulePaOk new ∧ modulePaOk (new + n - 1))
    if !(e2 % 4 == 3) ∨ !(leafOk true l e2) ∨ ¬ exists_ ∨ s.snapMeets p page n then .next s
    else
      let ks := if leafTgt e1 = 0 then s.linesIn p old n else []
      let s1 := s.pageAtRest p e1 e2 n
      let s2 := s1.putPage (leafTgt e2) (leafPeer p e2) new n (s1.pageCells (leafTgt e1) (leafPeer p e1) old n)
      let s3 := (s2.moveLines ks old (leafTgt e2) new).ptWrite at_ (leBytes e2 8)
      .next (s3.dropPage p page n).settleReleases

/-! ## The fault-resume word (18 R259) -/

/-- A fault-resume word: TOKEN, FAIL, KIND; none with a nonzero reserved bit or a KIND above 8. -/
def resumeWord (v : BitVec 64) : Option (Nat × Bool × Nat) :=
  let n := v.toNat
  if n / 137438953472 ≠ 0 ∨ 8 < n / 8589934592 % 16 then none
  else some (n % 4294967296, n / 4294967296 % 2 == 1, n / 8589934592 % 16)

/-- WAVE_RESUME: the parked instruction of the split a TOKEN names restarts with its PROG. -/
def execWaveResume (p : Nat) (v : BitVec 64) (s : State) : Host.Outcome State Fault Refusal :=
  match resumeWord v with
  | some (token, _, 0) =>
    if !((s.part p).kickable) then .next s
    else
      (match s.waves.find? fun e => e.2.part == p && e.2.res == .resident && !e.2.exited && e.2.token == token / 4 &&
          e.2.splits.any fun x => x.num == token % 4 && x.park == .fault with
       | none => .next s
       | some (wi, _) => .next (s.modSplit wi (token % 4) fun x => { x with park := .none, readyAt := s.seq }))
  | _ => .next s

/-- A parked operation of an engine. -/
inductive Parked where
  | copy (core : Nat) (o : CopyOp)
  | slice (o : SliceOp)
  | matrix (q : Nat) (x : MxCmd)
  | build (b : BuildOp)
  /-- the binner's write of the arena: launch, wave of the triangle -/
  | binner (l wi : Nat)
  /-- the read of an index that makes a phase's items -/
  | phase (l gen no : Nat) (flush : Bool)
  | item (core : Nat) (w : WorkItem)
  /-- a context's spill or refill -/
  | context (stage core : Nat) (c : KCtx)
  /-- a drain's write of the counters -/
  | drain (stage : Nat) (d : DrainRec)
  /-- the counters at the end of a binding -/
  | binding (stage : Nat)
  /-- a complete frame, or the one that the link shows -/
  | frame (link : Nat) (f : Frame) (shown : Bool)
  /-- a stash line's fill, or its write-back at the end of its block -/
  | line (b win k : Nat)

/-- The parked operation of a partition that a tag and an engine number name. -/
def State.parkedOp (s : State) (p kind tag : Nat) : Option Parked :=
  let blockHere (b : Nat) : Bool := (s.block? b).any fun x => x.part == p
  let binds := (s.launches.filter fun e => e.2.part == p).flatMap fun e => e.2.binds.map fun b => (e.1, b)
  match kind with
  | 1 => s.cores.findSome? fun e => (e.2.copyQ.find? fun o => o.part == p && o.tag == tag && o.st == .parked).map (Parked.copy e.1)
  | 2 => (s.sliceQ.find? fun o => blockHere o.block && o.tag == tag && o.st == .parked).map Parked.slice
  | 3 => s.quads.findSome? fun e => (e.2.mxq.find? fun x => blockHere x.block && x.tag == tag && x.st == .parked).map (Parked.matrix e.1)
  | 4 =>
    (match s.builds.find? fun b => b.part == p && b.tag == tag && b.st == .parked with
     | some b => some (.build b)
     | none => binds.findSome? fun e => match e.2.parked with
       | some (t, wi) => if t = tag then some (.binner e.1 wi) else none
       | none => none)
  | 5 =>
    (match binds.findSome? fun e => (e.2.draws.find? fun d => d.parked == some tag).map fun d => Parked.phase e.1 e.2.gen d.no d.flush with
     | some x => some x
     | none => (s.cores.findSome? fun e =>
         (e.2.work.find? fun w => w.part == p && w.tag == tag && w.st == .parked).map (Parked.item e.1)).or
         (((s.part p).work.find? fun w => w.2.tag == tag && w.2.st == .parked).map fun w => Parked.item w.1 w.2))
  | 6 => (s.part p).bindings.findSome? fun b =>
      (match b.drains.find? fun d => d.tag == tag && d.st == .parked with
       | some d => some (.drain b.stage d)
       | none =>
         if b.parked = some tag then some (.binding b.stage)
         else b.homes.findSome? fun h => (h.ctxs.find? fun c => c.parked == some tag).map (Parked.context b.stage h.core))
  | 7 => s.links.findSome? fun e => (e.2.parked.find? fun f => f.1 == tag && f.2.1.part == p).map fun f => .frame e.1 f.2.1 f.2.2
  | 8 => (s.blocks.filter fun e => e.2.part == p).findSome? fun e => e.2.windows.findSome? fun w =>
      (w.lines.findIdx? fun l => l.parked == some tag).map (Parked.line e.1 w.id)
  | _ => none

/-- An operation retries: it goes on from where it stopped. -/
def State.retryOp (s : State) (p tag : Nat) : Parked → State
  | .copy c o => s.setCopy c o (some { o with st := .ready })
  | .slice o =>
    let x : SliceOp := { o with st := .ready }
    if x.finished then s.endSlice x else s.setSlice o (some x)
  | .matrix q x => s.setMx q x (some { x with st := .ready })
  | .build b => s.setBuild b (some { b with st := .ready })
  | .binner l _ => s.modBind l fun b => { b with parked := none }
  | .phase l gen no flush => s.modPhase l gen no flush fun d => { d with parked := none }
  | .item c w => s.setItem c w (some { w with st := .ready })
  | .context stage c k => s.modCtx p stage c k.key fun x => { x with parked := none }
  | .drain stage d => s.modBinding p stage fun b => { b with
      drains := b.drains.map fun y => if y.n = d.n then { y with st := .ready } else y }
  | .binding stage => s.modBinding p stage fun b => { b with parked := none }
  | .frame l f shown =>
    let s1 := s.modLink l fun x => { x with parked := x.parked.filter fun y => y.1 != tag }
    if shown then s1
    else { s1 with presenting := { wave := 0, rel := 0, link := l, frame := f } :: s1.presenting }
  | .line b w k => s.modBlock b fun x => x.modWindow w fun y => y.modLine k fun l => { l with parked := none }

/-- A binner's triangle of a wave is given up: it has its primitive id, no bin holds it, and its draw fails. -/
def SampleBind.giveUp (b : SampleBind) (wi : Nat) : SampleBind :=
  match if b.flushing.isSome then none else b.queue.find? fun e => e.wave == wi with
  | none => { b with parked := none, openFailed := true, flushing := none }
  | some e => { b with queue := b.queue.erase e, prim := (b.prim + 1) % 4294967296, openTris := b.openTris + 1, parked := none
                       openFailed := true }

/-- A fill of a line that cannot be recovered gives free bytes; a write-back's dirty sectors are discarded (18 R260). -/
def State.failLine (s : State) (b wi k : Nat) : State :=
  match (s.block? b).bind (·.window? wi) with
  | none => s
  | some w =>
    if (w.line k).present then
      ((s.modBlock b fun x => { x.modWindow wi (fun y => y.modLine k fun l => { l with dirty := 0, faulted := false, parked := none }) with
        wbFaults := x.wbFaults.filter (· ≠ w.base + 256 * k) }).modReleases fun r =>
          { r with stash := r.stash.filter fun x => !(x.1 == b && x.2.1 == wi && x.2.2.1 == k) }).settleReleases.tryEndBlock b
    else
      let r := s.freeBytes 256
      r.2.modBlock b fun x => ({ x with scratch := x.scratch.write (w.off + 256 * k) r.1 } : Block).modWindow wi fun y =>
        y.modLine k fun l => { l with present := true, dirty := 0, faulted := false, parked := none, filled := [], own := [], read := [] }

/-- An operation fails: its handle becomes failed, or its batch does (06 R140, R142, 12 R194, 14 R196, 15 R210, 23 R376). -/
def State.failOp (s : State) (p tag : Nat) : Parked → State
  | .copy c o =>
    ((s.setCopy c o none).modWave o.wave fun w => { w with failedBatches := insertNat (o.batch.getD w.nextBatch) w.failedBatches }).endOp
      o.tag
  | .slice o => ((s.setSlice o none).endHandle o.href o.tag (if o.cancelled then .cancelled else .failed)).endOp o.tag
  | .matrix q x => s.mxFail q x
  | .build b => ((s.setBuild b none).endHandle b.href b.tag .failed).endOp b.tag
  | .binner l wi => (s.modBind l fun b => b.giveUp wi).settleDraws l
  | .phase l gen no flush => s.failPhase l gen no flush
  | .item c w => ((s.setItem c w none).failDraw w.launch w.gen w.draw).settleDraws w.launch
  | .context stage c k =>
    (match k.st with
     | .spilled _ => let r := s.freeBytes 64
       r.2.modBinding p stage fun b =>
         (b.modHome c fun h => { h with ctxs := h.ctxs.map fun x => if x.key = k.key then x.refill b.words (leBytes k.pc 8 ++ r.1) else x })
     | _ => s.modCtx p stage c k.key fun x => { x with parked := none })
  | .drain stage d => s.endDrain p stage d .failed
  | .binding stage => s.modPart p fun x => { x with bindings := x.bindings.filter fun y => !(y.stage == stage && y.waiting.isNone) }
  | .frame l f shown => s.modLink l fun x => { x with
      parked := x.parked.filter (fun y => y.1 != tag), drops := (x.drops + 1) % 4294967296
      image := if shown ∧ x.image = some f then none else x.image }
  | .line b w k => s.failLine b w k

/-- A fault-resume word of an engine. -/
def engineResume (p : Nat) (v : BitVec 64) (fail : Bool) (act : State → Nat → Parked → State) (s : State) :
    Host.Outcome State Fault Refusal :=
  match resumeWord v with
  | some (tag, f, kind) =>
    if !((s.part p).kickable) ∨ f ≠ fail then .next s
    else
      match s.parkedOp p kind tag with
      | none => .next s
      | some x => .next (act s tag x)
  | none => .next s

/-- ENGINE_RETRY. -/
def execEngineRetry (p : Nat) (v : BitVec 64) (s : State) : Host.Outcome State Fault Refusal :=
  engineResume p v false (fun s tag x => s.retryOp p tag x) s

/-- ENGINE_FAIL. -/
def execEngineFail (p : Nat) (v : BitVec 64) (s : State) : Host.Outcome State Fault Refusal :=
  engineResume p v true (fun s tag x => s.failOp p tag x) s

end Sys2Proof.Machine
end

