-- ==== Sys2Proof/Machine/Module.lean ====
section
/-! DEFINITION. The module (21): the register windows, the commands of the physical function, stopping a partition, the host's and
the fabric's accesses, attestation, and the device's health. -/

namespace Sys2Proof.Machine

/-! ## Entries of PF BAR0 (21 Tables 21.1 to 21.3) -/

/-- Offsets of the partition, quadrant and colour entries, and the number of a PF BAR0 byte's partition. -/
def partOff (p : Nat) : Nat := 0x10000 + 256 * p
def quadOff (q : Nat) : Nat := 0x20000 + 8 * q
def colourOff (c : Nat) : Nat := 0x30000 + 256 * c

/-- A quadrant entry's fields. -/
def QuadEntry.ofNat (v : Nat) : QuadEntry :=
  { part := v % 64, en := v.testBit 6, rsv7 := v.testBit 7, bank0 := v / 2 ^ 8 % 32, nbank := v / 2 ^ 13 % 64, l1w := v / 2 ^ 19 % 32
    sett := v / 2 ^ 24 % 128, stash := v / 2 ^ 31 % 32, mwin := v / 2 ^ 36 % 16, cpq := v / 2 ^ 40 % 128, recb := v / 2 ^ 47 % 2048
    rsv58 := v / 2 ^ 58 % 64 }

/-- Quadrant entry q as it stands. -/
def State.quadEntry (s : State) (q : Nat) : QuadEntry := QuadEntry.ofNat (s.module.entries.readLe (quadOff q) 8)

/-- The enabled entries, ascending. -/
def State.enabled (s : State) : List (Nat × QuadEntry) :=
  ((upTo Config.quads).map fun q => (q, s.quadEntry q)).filter fun e => e.2.en

/-- The entries that assign quadrants to a partition. -/
def State.quadsOf (s : State) (p : Nat) : List (Nat × QuadEntry) := s.enabled.filter fun e => e.2.part == p

/-- Partition entry p as it stands. -/
def State.partEntry (s : State) (p : Nat) : PartEntry :=
  let f (o n : Nat) : Nat := s.module.entries.readLe (partOff p + o) n
  { asidBase := f 0 2, colour := f 2 1, mode := f 3 1 % 4, highMark := f 4 2, droop := f 6 2, s2root := f 8 8, ring := f 0x10 8
    savePool := f 0x18 8, saveSize := f 0x20 4, quota := f 0x24 4, dirtyBuf := f 0x28 8, dirtySize := f 0x30 4, stopReport := f 0x38 8
    links := f 0x40 1, winAsid := f 0x42 2, winVa := f 0x48 8 }

/-- A colour's slice list; none unless its N lies in 1 to 128 and the list names live slices, each once (21 R276). -/
def State.colourList (s : State) (c : Nat) : Option (List Nat) :=
  let n := s.module.entries.readLe (colourOff c) 1
  let xs := (upTo n).map fun i => s.module.entries.readLe (colourOff c + 1 + i) 1
  if c < 64 ∧ 1 ≤ n ∧ n ≤ 128 ∧ xs.all (fun x => decide (x < Config.slices)) ∧ xs.Nodup then some xs else none

/-! ## The checks of ACTIVATE and RESCHED (21 R272, R275, R276) -/

/-- The share fields of an entry. -/
def QuadEntry.shares (e : QuadEntry) : List Nat := [e.nbank, e.l1w, e.sett, e.stash, e.mwin, e.cpq, e.recb]

/-- What a core has of each: scratch banks, L1 ways, units of 64 Sett contexts, stash windows, mirrored windows, copy-queue entries,
record-buffer entries. -/
def coreUnits : List Nat := [32, 16, 64, 16, 8, 64, 1024]

/-- The entries of a core's owners that carry their shares: each owner's lowest enabled quadrant. -/
def ownersIn (es : List (Nat × QuadEntry)) : List (Nat × QuadEntry) :=
  es.foldl (fun os e => if os.any fun o => o.2.part == e.2.part then os else os ++ [e]) []

/-- A core's shares exceed a unit, a bank range leaves it, or an owner's CPQ is 0 (ERR 2). -/
def sharesBad (os : List (Nat × QuadEntry)) : Bool :=
  let sum (i : Nat) : Nat := os.foldl (fun n e => n + nth e.2.shares i 0) 0
  ((upTo 7).any fun i => decide (nth coreUnits i 0 < sum i)) ||
    os.any fun e => decide (32 < e.2.bank0 + e.2.nbank) || e.2.cpq == 0

/-- Two owners' bank ranges overlap (ERR 3). -/
def banksBad (os : List (Nat × QuadEntry)) : Bool :=
  os.any fun a => os.any fun b => decide (a.1 < b.1) &&
    decide (max a.2.bank0 b.2.bank0 < min (a.2.bank0 + a.2.nbank) (b.2.bank0 + b.2.nbank))

/-- A reserved field of a partition's quadrant entries is not 0: its shares stand in its first entry of a core alone (ERR 6). -/
def quadsReserved (es : List (Nat × QuadEntry)) : Bool :=
  es.any fun e => e.2.rsv7 || e.2.rsv58 != 0 ||
    (es.any (fun o => o.1 / 4 == e.1 / 4 && decide (o.1 < e.1)) && (e.2.bank0 != 0 || e.2.shares.any (· ≠ 0)))

/-- The ERR codes that a partition's quadrant entries give. -/
def State.quadErrs (s : State) (p : Nat) : List Nat :=
  let mine := s.quadsOf p
  let cores := (upTo Config.cores).filter fun c => mine.any fun e => e.1 / 4 == c
  let owners (c : Nat) : List (Nat × QuadEntry) := ownersIn (s.enabled.filter fun e => e.1 / 4 == c)
  (if cores.any fun c => sharesBad (owners c) then [2] else []) ++ (if cores.any fun c => banksBad (owners c) then [3] else []) ++
    (if quadsReserved mine then [6] else [])

/-- The ERR codes that ACTIVATE's other checks give. -/
def State.entryErrs (s : State) (p : Nat) : List Nat :=
  let e := s.partEntry p
  let shared := s.parts.any fun x => x.1 != p && x.2.state != 2 && (upTo 2).any fun i => e.links.testBit i && x.2.entry.links.testBit i
  (if shared then [4] else []) ++ (if (s.colourList e.colour).isNone then [5] else []) ++
    (if (s.module.entries.read (partOff p + 0x50) 176).any (· ≠ 0) then [6] else [])

/-- The ERR of a failed check; where several fail, any of them. -/
def State.pickErr (s : State) (es : List Nat) : Nat := nth es (Config.freeNat s.free % max 1 es.length) 0

/-! ## Starting commands (21 R275) -/

/-- How a command's first step ends. -/
inductive Started where
  | fails (err : Nat)
  | goes (s : State)

/-- A CMD write starts a command, unless one is in progress or Bruin is not up. -/
def State.startCmd (s : State) (op p : Nat) (act : State → Started) : State :=
  if s.module.booted = false ∨ s.module.cmd.isSome ∨ 64 ≤ p then s
  else
    let r := s.stamp
    let begin_ (s : State) (e : Nat) : State := { s with module := { s.module with cmd := some (op, p), cmdAt := r.1, cmdErr := e } }
    match act r.2 with
    | .fails e => (begin_ r.2 e).drawn
    | .goes s1 => begin_ s1 0

/-- ACTIVATE: what a partition becomes. Granules written since the stop report stay to be reported (21 R279). -/
def Part.activated (x : Part) (e : PartEntry) (slices : List Nat) (quads : List (Nat × QuadEntry)) : Part :=
  { Part.reset with state := 1, entry := e, slices := slices, quads := quads, waveCounter := x.waveCounter, tagCounter := x.tagCounter
                    attest := x.attest, dirty := x.dirty }

/-- ACTIVATE. -/
def execActivate (p : Nat) (s : State) : Host.Outcome State Fault Refusal :=
  .next (s.startCmd 1 p fun s =>
    let x := s.part p
    let e := s.partEntry p
    if x.state ≠ 2 then .fails 1
    else
      match s.entryErrs p ++ s.quadErrs p, s.colourList e.colour with
      | [], some xs =>
        let s1 := s.setPart p (x.activated e xs (s.quadsOf p))
        let s2 : State := { s1 with
          cores := s1.cores.map fun k => (k.1, { k.2 with droopSeen := k.2.droopSeen.put p k.2.droop })
          parts := s1.parts.map fun y => if y.1 = p then y else (y.1, { y.2 with entry := { y.2.entry with
            links := ((upTo 2).filter fun i => y.2.entry.links.testBit i && !(e.links.testBit i)).foldl (fun n i => n + 2 ^ i) 0 } }) }
        .goes (((upTo Config.links).foldl (fun s i => if e.links.testBit i then s.modLink i Link.given else s) s2).raiseMsix (p + 1) 1)
      | es, _ => .fails (s.pickErr es))

/-- The areas of the save pool that waves and contexts hold: a RESCHED frees the others (21 R277). -/
def State.heldAreas (s : State) (p : Nat) : List (Nat × Nat) :=
  let x := s.part p
  x.areas.filter fun a => (s.waves.any fun e => e.2.part == p && (match e.2.res with
    | .saved addr _ | .handler addr => addr == x.entry.savePool + a.1
    | .resident => false)) ||
    x.bindings.any fun b => b.homes.any fun h => h.ctxs.any fun c => c.st == .pooled (x.entry.savePool + a.1)

/-- The raster units' work and records of a partition leave the cores (21 R277). -/
def State.takeWork (s : State) (p : Nat) : State :=
  let mine (h : Nat × KRec) : Bool := s.recOwner h == some p
  let s1 := s.modPart p fun x => { x with
    work := x.work ++ s.cores.flatMap fun e => (e.2.work.filter fun w => w.part == p).map fun w => (e.1, w)
    held := x.held ++ s.cores.flatMap fun e => (e.2.held.filter mine).map fun h => (e.1, h) }
  { s1 with cores := s1.cores.map fun e => (e.1, { e.2 with
      work := e.2.work.filter fun w => w.part != p
      held := e.2.held.filter fun h => !(mine h) }) }

/-- They return to the units of the cores that they were in: a binding's list of cores is fixed (15 R216). -/
def State.returnWork (s : State) (p : Nat) : State :=
  let x := s.part p
  let s1 := x.work.foldl (fun s e => s.modCore e.1 fun k => { k with work := k.work ++ [e.2] }) s
  (x.held.foldl (fun s e => s.modCore e.1 fun k => { k with held := k.held ++ [e.2] }) s1).modPart p fun y => { y with work := [], held := [] }

/-- RESCHED: the quadrant entries are read again; latched doorbells are served; saved blocks are placed again. -/
def execResched (p : Nat) (s : State) : Host.Outcome State Fault Refusal :=
  .next (s.startCmd 2 p fun s =>
    let x := s.part p
    if x.state ≠ 1 ∨ x.stopping.isSome then .fails 1
    else
      match s.quadErrs p with
      | [] =>
        let s1 := s.modPart p fun y => { y with
          quads := s.quadsOf p, areas := s.heldAreas p, descheduled := false, childSkipped := none, state := if y.entry.mode = 0 then 0 else 3 }
        let s2 := (({ s1 with launches := s1.launches.map fun e =>
          (e.1, if e.2.part = p then { e.2 with skipped := none } else e.2) } : State).serveLatched p).raiseMsix (p + 1) 1
        .goes (((s2.blocks.filter fun e => e.2.part == p && e.2.saved).foldl (fun s e => s.replaceBlock e.1) s2).returnWork p)
      | es => .fails (s.pickErr es))

/-- DESCHED: every wave is to leave residence. -/
def execDesched (p : Nat) (s : State) : Host.Outcome State Fault Refusal :=
  .next (s.startCmd 3 p fun s =>
    let x := s.part p
    if x.state ≠ 0 ∧ x.state ≠ 3 then .fails 1 else .goes (s.askToLeave fun w => w.part == p))

/-- STOP. -/
def execStop (p : Nat) (s : State) : Host.Outcome State Fault Refusal :=
  .next (s.startCmd 4 p fun s => if (s.part p).state = 2 then .fails 1 else .goes (s.beginStop p 1 0))

/-- INVAL: the rights of a partition's ASIDs are dropped, in the cores and at the translation homes. -/
def execInval (p : Nat) (s : State) : Host.Outcome State Fault Refusal :=
  .next (s.startCmd 5 p fun s =>
    let keep (r : Nat × Right) : Bool := !((s.part p).entry.hasAsid (r.1 / 1099511627776))
    .goes { s with tlb := s.tlb.filter keep, cores := s.cores.map fun e => (e.1, { e.2 with rights := e.2.rights.filter keep }) })

/-- The dirty report of a partition: bit i for granule i, over the whole buffer (21 R279). -/
def State.dirtyReport (s : State) (p : Nat) : State :=
  let x := s.part p
  let bits := x.dirty.filter fun i => decide (i < 8 * x.entry.dirtySize)
  let m := bits.foldl (fun (m : Memory) i => m.set (x.entry.dirtyBuf + i / 8)
    (m.get (x.entry.dirtyBuf + i / 8) ||| (1#8 <<< (i % 8)))) (s.host.clear x.entry.dirtyBuf x.entry.dirtySize)
  ({ s with host := m } : State).modPart p fun y => { y with dirty := [] }

/-- DIRTY. -/
def execDirty (p : Nat) (s : State) : Host.Outcome State Fault Refusal :=
  .next (s.startCmd 6 p fun s => if (s.part p).state = 2 then .fails 1 else .goes (s.dirtyReport p))

/-- CMD_UNKNOWN_OP: a CMD write that fails on its own words: an unknown op, or a reserved bit. -/
def execCmdUnknownOp (v : BitVec 64) (s : State) : Host.Outcome State Fault Refusal :=
  let n := v.toNat
  let op := n % 256
  let es := (if op = 0 ∨ 6 < op then [7] else []) ++ (if n / 16384 ≠ 0 then [6] else [])
  if es.isEmpty then .next s else .next (s.startCmd op (n / 256 % 64) fun s => .fails (s.pickErr es))

/-! ## DESCHED and INVAL in progress (21 R276, R277) -/

/-- A partition's waves have left, its writes are performed and its engines have finished or are parked. -/
def State.quiet (s : State) (p : Nat) : Bool :=
  let here (b : Nat) : Bool := (s.block? b).any fun x => x.part == p
  (s.waves.all fun e => e.2.part != p || ((e.2.exited || e.2.res != .resident) && e.2.wsb.isEmpty && e.2.releases.all (·.complete))) &&
  (s.blocks.all fun e => e.2.part != p || (e.2.oq.isEmpty && (e.2.dirtyStash e.1).isEmpty)) && (s.deliveries.all fun d => !(here d.src)) &&
  (s.cores.all fun e => e.2.copyQ.all fun o => o.part != p || o.st != .ready) && (s.sliceQ.all fun o => !(here o.block) || o.st != .ready || (o.isOpen && o.sent.isEmpty)) &&
  (s.quads.all fun e => e.2.mxq.all fun x => !(here x.block) || x.done || x.st != .ready) &&
  (s.builds.all fun b => b.part != p || b.written || b.st != .ready) &&
  (s.presenting.all fun x => x.frame.part != p) &&
  s.launches.all fun e => e.2.part != p || e.2.bind.all fun b => b.queue.isEmpty || b.flushing.isSome || b.parked.isSome

/-- n bytes of the save pool. -/
def State.allocPool (s : State) (p n : Nat) : Option (Nat × State) :=
  let k := (n + 255) / 256 * 256
  match (s.part p).areaFor k with
  | none => none
  | some off => some ((s.part p).entry.savePool + off, s.modPart p fun x => { x with areas := x.areas ++ [(off, k)] })

/-- The token of a block's wave that a full save pool is reported with. -/
def State.blockToken (s : State) (b : Block) : Nat := ((b.waves.head?).bind s.wave?).elim 0 fun w => w.tokenOf 0

/-- A block's stash windows and mirrored-window bindings as bytes; their order is the device's own (log 66). -/
def Block.bindingBytes (b : Block) : List Byte :=
  bytes4 [b.windows.length, b.mirrors.length] ++
    (b.windows.flatMap fun w => leBytes w.base 8 ++ bytes4 [w.id, w.off, w.len]) ++
    b.mirrors.flatMap fun m => bytes4 [m.id, m.off, m.len, m.use, if m.ended then 1 else 0]

/-- What the save pool takes of a block: its scratch, if a wave of it is saved, with its barriers and rings, and its bindings (21 R277). -/
def State.blockBytes (s : State) (bi : Nat) (b : Block) : List Byte :=
  (if s.waves.any fun e => e.2.block == bi && !e.2.exited then b.scratch.read 0 b.record.scratch ++ b.unitBytes else []) ++ b.bindingBytes

/-- A block leaves its core: what the save pool takes of it is written there, its clean stash lines are dropped, its L1 copies too. -/
def State.saveBlock (s : State) (p : Nat) (e : Nat × Block) : Sett :=
  let b := e.2
  let done (s : State) : State :=
    let kept (i line : Nat) : Bool := b.windows.any fun w => w.id == i && (w.covers line).any fun k => (w.line k).faulted
    { (s.modBlock e.1 fun x => { x with
        saved := true
        windows := x.windows.map fun w => { w with lines := w.lines.map fun l => if l.faulted then l else StashLine.absent } }) with
      lines := s.lines.map fun l => match l.2.owner with
        | some (bi, i) => if bi = e.1 ∧ !(kept i (l.1 % 281474976710656)) then (l.1, { l.2 with owner := none }) else l
        | none => l
      cores := s.cores.map fun k => (k.1, { k.2 with l1 := k.2.l1.filter fun l => l.block != e.1 }) }
  if b.saved ∨ b.exited then .ok s
  else
    let bs := s.blockBytes e.1 b
    match s.allocPool p bs.length with
    | none => .wait (s.beginStop p 8 (s.blockToken b))
    | some (va, s1) =>
      match s1.writePool p va bs with
      | none => .wait s
      | some s2 => .ok (done s2)

/-- A resident context that is idle goes to its stage's spill area, or, that being full, into the save pool. -/
def State.putAway (s : State) (p stage core key : Nat) : Sett :=
  match s.binding? p stage with
  | none => .ok s
  | some b =>
    match (b.home? core).bind fun h => h.ctxs.find? fun c => c.key == key with
    | none => .ok s
    | some c =>
      if c.st ≠ .idle then .ok s
      else if c.parked.isSome then .wait s
      else if b.usedSlots.length < b.spillCap then s.spill p core b c
      else
        match s.allocPool p 64 with
        | none => .wait (s.beginStop p 8 0)
        | some (va, s1) =>
          match s1.writePool p va c.bytes with
          | none => .wait s
          | some s2 => .ok (s2.modCtx p stage core key fun x => { x with st := .pooled va })

/-- A queued record's bytes in the save pool; their order is the device's own (log 66). -/
def KRec.bytes (r : KRec) : List Byte := leBytes r.key 8 ++ r.words.flatMap fun w => leBytes w.toNat 4

/-- The records queued at a partition's homes are kept in the save pool, one area for each home, in their arrival order (21 R277). -/
def State.poolRecords (s : State) (p : Nat) : Sett :=
  ((s.part p).bindings.flatMap fun b => b.homes.filter fun h => !h.recs.isEmpty).foldl (fun (r : Sett) h =>
    match r with
    | .wait s1 => .wait s1
    | .ok s1 =>
      let bs := h.recs.flatMap KRec.bytes
      match s1.allocPool p bs.length with
      | none => .wait (s.beginStop p 8 0)
      | some (va, s2) =>
        match s2.writePool p va bs with
        | none => .wait s
        | some s3 => .ok s3) (.ok s)

/-- Go through a list while nothing waits. -/
def settAll {α : Type} (f : State → α → Sett) (s : State) (xs : List α) : Sett :=
  xs.foldl (fun (r : Sett) x => match r with | .ok s => f s x | r => r) (.ok s)

/-- The last step of DESCHED: blocks, contexts and raster work are put away, and STATE becomes 1. -/
def State.finishDesched (s : State) (p : Nat) : Sett :=
  if !(s.quiet p) then .wait s
  else
    match settAll (fun s e => s.saveBlock p e) s (s.blocks.filter fun e => e.2.part == p) with
    | .wait s1 => .wait s1
    | .ok s1 =>
      let cs := (s1.part p).bindings.flatMap fun b => b.homes.flatMap fun h => h.ctxs.map fun c => (b.stage, h.core, c.key)
      match settAll (fun s (c : Nat × Nat × Nat) => s.putAway p c.1 c.2.1 c.2.2) s1 cs with
      | .wait s2 => .wait s2
      | .ok s2 =>
        match s2.poolRecords p with
        | .wait s3 => .wait s3
        | .ok s3 => .ok (((s3.takeWork p).modPart p fun x => { x with state := 1, quads := [], descheduled := true }).raiseMsix (p + 1) 1)

/-- Every access of a partition that was checked before a stamp has been performed (21 R276). -/
def State.performedBefore (s : State) (p q : Nat) : Bool :=
  (s.waves.all fun e => e.2.part != p || ((e.2.wsb.all fun x => decide (q ≤ x.seq)) && e.2.pend.all fun x => !x.unsatisfied || decide (q ≤ x.n))) &&
  (s.blocks.all fun e => e.2.part != p || e.2.oq.all fun x => decide (q ≤ x.seq)) &&
  s.portWrites.all fun w => decide (q ≤ w.born) || s.partOfAsid w.asid != some p

/-- COMMAND_COMPLETE: BUSY clears and vector 1 of the PF is raised, once the command's work is done. -/
def execCommandComplete (s : State) : Host.Outcome State Fault Refusal :=
  let done (s : State) : State := ({ s with module := { s.module with cmd := none } } : State).raiseMsix 0 1
  match s.module.cmd with
  | none => .next s
  | some (op, p) =>
    let stopped := (s.part p).state = 2
    if s.module.cmdErr ≠ 0 then .next (done s)
    else if op = 3 then
      (if stopped then .next (done s)
       else if (s.part p).stopping.isSome then .next s
       else match s.finishDesched p with
         | .ok s1 => .next (done s1)
         | .wait s1 => .next s1)
    else if op = 4 ∧ ¬ stopped then .next s
    else if op = 5 ∧ !(s.performedBefore p s.module.cmdAt) then .next s
    else .next (done s)

/-! ## Registers (21 R271, R275) -/

/-- QUADRANT_ENTRY_WRITE: ignored while the partition that an entry names, or is to name, runs. -/
def execQuadrantEntryWrite (q : Nat) (v : BitVec 64) (s : State) : Host.Outcome State Fault Refusal :=
  let runs (p : Nat) : Bool := (s.part p).state == 0 || (s.part p).state == 3
  if s.module.booted = false ∨ Config.quads ≤ q ∨ runs (s.quadEntry q).part ∨ runs (v.toNat % 64) then .next s
  else .next { s with module := { s.module with entries := s.module.entries.writeLe (quadOff q) 8 v.toNat } }

/-- POWERLIMIT_WRITE. -/
def execPowerlimitWrite (v : Word) (s : State) : Host.Outcome State Fault Refusal :=
  if s.module.booted = false ∨ v.toNat < 600 ∨ 1500 < v.toNat then .next s
  else .next { s with module := { s.module with powerLimit := v.toNat } }

/-- SCRUB_WRITE. -/
def execScrubWrite (v : Word) (s : State) : Host.Outcome State Fault Refusal :=
  if s.module.booted = false then .next s else .next { s with module := { s.module with scrub := v.getLsbD 0 } }

/-- Replace the byte at an offset of a little-endian register of n bytes. -/
def patch (v off : Nat) (b : Byte) : Nat := v % 256 ^ off + 256 ^ off * b.toNat + v / 256 ^ (off + 1) * 256 ^ (off + 1)

/-- The bits of a byte of PF BAR0's partition and colour entries that hold what is written: none at an offset that 21 Tables 21.1 and 21.3 do
not list, nor of the mode that only Bruin writes; reserved bits read 0 unless ACTIVATE checks them (00 R3, 21 R271). -/
def entryBits (a : Nat) : Byte :=
  let o := a % 256
  if partOff 0 ≤ a ∧ a < partOff 64 then
    (if o = 3 ∨ (0x34 ≤ o ∧ o < 0x38) ∨ o = 0x41 ∨ (0x44 ≤ o ∧ o < 0x48) then 0 else if o = 0x40 then 3 else 255)
  else if colourOff 0 ≤ a ∧ a < colourOff 64 ∧ o ≤ 128 then 255
  else 0

/-- A byte of PF BAR0 is written: CMDARG, and the partition and colour entries. -/
def Module.writePf (m : Module) (a : Nat) (b : Byte) : Module :=
  if 0x108 ≤ a ∧ a < 0x110 then { m with cmdArg := BitVec.ofNat 64 (patch m.cmdArg.toNat (a - 0x108) b) }
  else if entryBits a = 0 then m
  else { m with entries := m.entries.set a (b &&& entryBits a) }

/-- A byte of a kick page is written: the ring base of a queue, of which bits [5:0] stay 0. -/
def Part.writeKick (x : Part) (a : Nat) (b : Byte) : Part :=
  if 0x400 ≤ a ∧ a < 0xC00 ∧ a % 32 < 8 then
    x.modQueue ((a - 0x400) / 32) fun q => { q with base := patch q.base (a % 32) b / 64 * 64 }
  else x

/-- A byte of an attestation page is written: NONCE and DEST. -/
def Attest.write (x : Attest) (a : Nat) (b : Byte) : Attest :=
  if a < 0x20 then { x with nonce := BitVec.ofNat 256 (patch x.nonce.toNat a b) }
  else if a < 0x28 then { x with dest := BitVec.ofNat 64 (patch x.dest.toNat (a - 0x20) b) }
  else x

/-- Bytes with their offsets. -/
def numbered (off : Nat) (bs : List Byte) : List (Nat × Byte) := ((upTo bs.length).map (off + ·)).zip bs

/-- REGISTER_WRITE: a write to registers that do nothing else; others of the window ignore it. -/
def execRegisterWrite (win : RegWindow) (off : Nat) (bytes : List Byte) (s : State) : Host.Outcome State Fault Refusal :=
  let xs := numbered off bytes
  match win with
  | .pf => if s.module.booted then .next { s with module := xs.foldl (fun m e => m.writePf e.1 e.2) s.module } else .next s
  | .kick p => if (s.part p).kickable then .next (s.modPart p fun x => xs.foldl (fun x e => x.writeKick e.1 e.2) x) else .next s
  | .link l =>
    if off % 4 ≠ 0 ∨ bytes.length % 4 ≠ 0 then .next s
    else .next (s.linkWrite l fun x => (upTo (bytes.length / 4)).foldl (fun x i =>
      x.writeReg (off + 4 * i) (word (leValue ((bytes.drop (4 * i)).take 4)))) x)
  | .attest p => .next (s.modPart p fun x => { x with attest := xs.foldl (fun a e => a.write e.1 e.2) x.attest })
  | .bruin p =>
    match bytes with
    | [b] => if off = 3 ∧ p < 64 ∧ b.toNat < 4 then
        .next { s with module := { s.module with entries := s.module.entries.set (partOff p + 3) b } } else .next s
    | _ => .next s

/-- The 4 bytes at an offset of PF BAR0 as a read returns them (21 Table 21.1). -/
def State.pfRead (s : State) (a : Nat) : Nat :=
  let m := s.module
  let p := (a - 0x40000) / 64
  if a = 0 then Config.deviceId + 65536 * m.revision
  else if !m.booted then 0
  else if a = 0x108 then m.cmdArg.toNat % 4294967296
  else if a = 0x10C then m.cmdArg.toNat / 4294967296
  else if a = 0x110 then (if m.cmd.isSome then 1 else 0) + 256 * m.cmdErr
  else if a = 0x200 then m.powerLimit
  else if a = 0x204 then (if m.scrub then 1 else 0)
  else if (partOff 0 ≤ a ∧ a < partOff 64) ∨ (quadOff 0 ≤ a ∧ a < quadOff Config.quads) ∨ (colourOff 0 ≤ a ∧ a < colourOff 64) then
    m.entries.readLe a 4
  else if 0x40000 ≤ a ∧ a < 0x41000 then
    (if a % 64 < 8 then (s.part p).bypass / 2 ^ (8 * (a % 64)) % 4294967296
     else if a % 64 < 16 then (s.part p).corrected / 2 ^ (8 * (a % 64 - 8)) % 4294967296
     else if a % 64 = 16 then (if (s.part p).dirtyOvf then 1 else 0)
     else 0)
  else if 0x50000 ≤ a ∧ a < 0x50040 then
    leValue ((upTo 4).map fun i => Config.healthByte m.corrected (m.mcheck.map fun r => (r.unit, r.num)) (a - 0x50000 + i))
  else 0

/-! ## Writes that reach a kick page (05 R83, log 76) -/

/-- The size of the register of a kick page that an offset lies in. -/
def kickSize (off : Nat) : Nat :=
  if off < 0x200 ∨ (0x400 ≤ off ∧ off < 0xC00 ∧ off % 32 < 8) ∨ off / 8 = 0x300 ∨ off / 8 = 0x400 then 8 else 4

/-- Bytes cut at the registers they meet. -/
def kickPieces (off : Nat) (bs : List Byte) : Nat → List (Nat × List Byte)
  | 0 => []
  | n + 1 =>
    if bs.isEmpty then []
    else
      let k := (kickSize off) - off % (kickSize off)
      (off, bs.take k) :: kickPieces (off + k) (bs.drop k) n

/-- What a write to one register of a kick page does. DESIGN CHOICE (log 95): a write narrower than its register, of which 05 R83 does not
speak, acts as one of the whole register with zeros above it; one that does not start at the register's first byte is dropped. -/
def kickAct (p off : Nat) (bs : List Byte) (s : State) : Host.Outcome State Fault Refusal :=
  let n := leValue bs
  let q := (off - 0x400) / 32
  let base := (s.part p).poolBase
  if off < 0x200 then (if off % 8 = 0 then execDoorbell p (off / 8) (BitVec.ofNat 64 n) s else .next s)
  else if 0x400 ≤ off ∧ off < 0xC00 ∧ off % 32 = 8 then
    (if n / 256 % 2 = 1 then execQueueEnable p q (word n) s else execQueueDisable p q (word n) s)
  else if off = 0x1800 then
    (match resumeWord (BitVec.ofNat 64 n) with
     | some (_, _, 0) => execWaveResume p (BitVec.ofNat 64 n) s
     | some (_, true, _) => execEngineFail p (BitVec.ofNat 64 n) s
     | some (_, false, _) => execEngineRetry p (BitVec.ofNat 64 n) s
     | none => .next s)
  else if off / 8 = 0x400 then
    execShadowPoolBaseWrite p (BitVec.ofNat 64 ((numbered (off - 0x2000) bs).foldl (fun v e => patch v e.1 e.2) base)) s
  else if off = 0x2008 then execShadowPoolSizeWrite p (word n) s
  else execRegisterWrite (.kick p) off bs s

/-- A write that reaches a kick page, register by register. -/
def State.kickWrite (s : State) (p off : Nat) (bs : List Byte) : State :=
  (kickPieces off bs bs.length).foldl (fun s e => match kickAct p e.1 e.2 s with | .next t => t | _ => s) s

/-- A write in transit reaches its target: the host's or a peer's memory, or a kick page. It is performed there, and monitors on its line wake
(05 R104, 18 R255). -/
def State.deliver (s : State) (w : PortWrite) : State :=
  (match if w.tgt = 1 then s.barAt w.addr else none with
   | some (p, off) => s.kickWrite p off w.bytes
   | none => s.physWrite w.tgt w.peer w.addr w.bytes).fire w.asid w.va w.bytes.length

/-- PORT: the oldest write in transit through FP or SP reaches its target; one to a peer waits while no port reaches it (21 R283). -/
def execPort (port : Port) (s : State) : Host.Outcome State Fault Refusal :=
  let mine (p : PortWrite) : Bool := match port with | .fabric => p.tgt == 2 && s.reaches p.peer | .system => p.tgt == 1
  match s.portWrites.find? mine with
  | none => .next s
  | some p =>
    let s1 := ({ s with portWrites := s.portWrites.erase p } : State).deliver p
    .next (s1.modReleases fun r => { r with ports := r.ports.filter (· ≠ p.seq) }).settleReleases

/-! ## PARTITION_STOP (21 R278) -/

/-- A write that a wave has issued leaves its store buffer whatever else waits; none if it cannot. -/
def State.forceDrain (s : State) (wi : Nat) (e : WEntry) : Option State :=
  let s0 := s.modWave wi fun x => { x with wsb := x.wsb.filter fun y => y.seq != e.seq }
  match s0.wave? wi with
  | none => none
  | some w =>
    match s0.block? w.block with
    | none => none
    | some b =>
      let s1 := match s0.fillRange w.block (e.addr - Config.aperture) (if inAperture e.addr then e.width else 0) with
        | .done s1 => s1
        | _ => s0
      if inAperture e.addr then s1.drainScratch w e (e.addr - Config.aperture) else s1.drainGlobal w b e

/-- Lines with the sectors whose writes cannot be performed. -/
abbrev Lost := List (Nat × BitVec 4)

/-- Where the write of an entry was to go: its line, through a window if it is to scratch, and the sectors. -/
def WEntry.place (b : Block) (e : WEntry) : Lost :=
  let o := e.addr - Config.aperture
  let va := if inAperture e.addr then (b.windows.find? fun w => decide (w.off ≤ o) && decide (o < w.off + w.len)).map fun w => w.base + (o - w.off)
    else some e.addr
  va.toList.map fun a => (a / 256 * 256, sectorMask a e.width)

/-- Everything that waits in a wave's store buffer leaves it; what cannot is lost. -/
def State.emptyWsb (r : State × Lost) (wi : Nat) : State × Lost :=
  ((r.1.wave? wi).elim [] (·.wsb)).foldl (fun r e =>
    let gone := r.1.modWave wi fun x => { x with wsb := x.wsb.filter fun y => y.seq != e.seq }
    match r.1.forceDrain wi e with
    | some s1 => (s1, r.2)
    | none => (gone, r.2 ++ (((r.1.wave? wi).bind fun w => r.1.block? w.block).elim [] fun b => e.place b))) r

/-- An entry has left its block's outbound queue. -/
def State.oqHolds (s : State) (bi q : Nat) : Bool := ((s.block? bi).elim [] (·.oq)).any fun y => y.seq == q

/-- Everything in a block's outbound queue is performed or forwarded; what cannot be is lost. -/
def State.emptyOq (r : State × Lost) (bi : Nat) : State × Lost :=
  match r.1.block? bi with
  | none => r
  | some b =>
    let asid := r.1.asidOf b.part
    b.oq.foldl (fun r e =>
      let serve (s : State) : Option State := s.serveEntries bi b.core asid [e]
      match (serve r.1).bind fun s1 => if s1.oqHolds bi e.seq then serve s1 else some s1 with
      | some s1 => (s1, r.2)
      | none => (r.1.modBlock bi fun x => { x with oq := x.oq.filter fun y => y.seq != e.seq }, r.2 ++ e.place b)) r

/-- The rights of a granule are read now, so that the device's own writes meet no miss. -/
def State.knowRight (s : State) (p core asid va : Nat) : State :=
  if (s.right? core asid va).isSome then s
  else match s.walk p asid va with
    | .ok r => s.putRight core asid va r
    | _ => s

/-- Every dirty stash sector of a block that can be written back is. -/
def State.emptyStash (s : State) (bi : Nat) : State :=
  match s.block? bi with
  | none => s
  | some b =>
    (b.dirtyStash bi).foldl (fun s x =>
      let va := ((b.window? x.2.1).elim 0 (·.base)) + 256 * x.2.2.1
      match (s.knowRight b.part b.core (s.asidOf b.part) va).stashBack bi x.2.1 x.2.2.1 x.2.2.2 with
      | .done s1 | .refused s1 | .wait s1 => s1) s

/-- The counters of a binding that ends with its partition (14 R196). -/
def State.lastCounters (s : State) (p : Nat) (b : Binding) : State :=
  match (s.knowRight p b.core0 b.asid (b.desc + 0x20)).writeCounters p b with
  | .ok s1 => s1
  | _ => s

/-- Everything in transit through the ports is delivered. -/
def State.emptyPorts (s : State) : State :=
  s.portWrites.foldl (fun s w => ({ s with portWrites := s.portWrites.erase w } : State).deliver w) s

/-- Operations of a partition's engines that a fault has parked go on. -/
def State.unpark (s : State) (p : Nat) : State :=
  let here (b : Nat) : Bool := (s.block? b).any fun x => x.part == p
  { s with
    cores := s.cores.map fun e => (e.1, { e.2 with copyQ := e.2.copyQ.map fun o => if o.part = p then { o with st := .ready } else o })
    sliceQ := s.sliceQ.map fun o => if here o.block then { o with st := .ready } else o
    quads := s.quads.map fun e => (e.1, { e.2 with mxq := e.2.mxq.map fun x => if here x.block then { x with st := .ready } else x })
    builds := s.builds.map fun b => if b.part = p then { b with st := .ready } else b
    launches := s.launches.map fun e => (e.1, if e.2.part = p then { e.2 with bind := e.2.bind.map fun b => { b with parked := none } } else e.2) }

/-- The moves of a partition's engines by which its writes are performed, for operations that no fault has parked. -/
def State.engineMoves (s : State) (p : Nat) : List (State → Host.Outcome State Fault Refusal) :=
  let here (b : Nat) : Bool := (s.block? b).any fun x => x.part == p
  ((s.cores.filter fun e => e.2.copyQ.any fun o => o.part == p && o.st == .ready).map fun e => execCopyStep e.1 p) ++
  ((s.sliceQ.filter fun o => here o.block && o.st == .ready).flatMap fun o => o.sent.map fun e => execSliceElement o.block o.tag e.1) ++
  ((s.builds.filter fun b => b.part == p && b.st == .ready && !b.written).map fun b => execLynxBuild b.sector p) ++
  (s.quads.flatMap fun e => (if e.2.mxq.any fun x => here x.block && !x.done && x.st == .ready then [execLeasePass e.1] else []) ++
    (e.2.mxq.filter fun x => here x.block && !x.done && x.st == .ready).map fun x => execMatrixCommand e.1 x.tag) ++
  ((s.launches.filter fun e => e.2.part == p).flatMap fun e => e.2.bind.elim [] fun b =>
    if b.parked.isSome ∨ b.flushing.isSome then [] else b.queue.map fun x => execBinnerReceive e.1 x.wave) ++
  (s.deliveries.filter fun d => here d.src).map fun d => execMwDelivery d.src d.dst

/-- More moves than a partition's engines have left. -/
def State.engineBound (s : State) (p : Nat) : Nat :=
  s.cores.foldl (fun n e => e.2.copyQ.foldl (fun n o => if o.part = p then n + o.rows * o.rowBytes + 1 else n) n) 0 +
    s.sliceQ.foldl (fun n o => n + o.count + 1) 0 + 2 * s.builds.length + s.deliveries.length +
    s.quads.foldl (fun n e => e.2.mxq.foldl (fun n x => n + 2 * x.ops.length + 1) n) 0 +
    s.launches.foldl (fun n e => n + e.2.bind.elim 0 fun b => b.queue.length) 0

/-- A move of the device. -/
def State.move (s : State) (f : State → Host.Outcome State Fault Refusal) : State := match f s with | .next t => t | _ => s

/-- The sectors that n bytes of global memory meet. -/
def lostBytes (va n : Nat) : Lost :=
  if n = 0 ∨ inAperture va then []
  else (upTo ((va + n - 1) / 256 - va / 256 + 1)).map fun i =>
    let line := (va / 256 + i) * 256
    let lo := max va line
    (line, sectorMask lo (min (va + n) (line + 256) - lo))

/-- What a copy has not written. -/
def CopyOp.lost (o : CopyOp) : Lost :=
  (upTo o.rows).flatMap fun r =>
    let lo := max (r * o.rowBytes) o.moved
    lostBytes (o.dst + r * o.dpitch + (lo - r * o.rowBytes)) ((r + 1) * o.rowBytes - lo)

/-- The elements that a scatter has sent and not stored. -/
def SliceOp.lost (o : SliceOp) : Lost := if o.gather then [] else o.sent.flatMap fun e => lostBytes (o.addr e.2) o.elem

/-- The index and the status that a build has not written. -/
def BuildOp.lost (b : BuildOp) : Lost := if b.written then [] else lostBytes b.index b.indexSize ++ lostBytes (b.desc + 0x34) 8

/-- The operations of a partition's engines that `ends` picks end here, and what they have not written is lost. -/
def State.loseOps (s : State) (p : Nat) (ends : EngState → Bool) : State × Lost :=
  let mineB (b : Nat) : Bool := (s.block? b).any fun x => x.part == p
  let c (o : CopyOp) : Bool := o.part == p && ends o.st
  let g (o : SliceOp) : Bool := mineB o.block && ends o.st
  let u (b : BuildOp) : Bool := b.part == p && ends b.st
  ({ s with
     cores := s.cores.map fun e => (e.1, { e.2 with copyQ := e.2.copyQ.filter fun o => !(c o) })
     sliceQ := s.sliceQ.filter fun o => !(g o)
     builds := s.builds.filter fun b => !(u b) },
   (s.cores.flatMap fun e => (e.2.copyQ.filter c).flatMap CopyOp.lost) ++ (s.sliceQ.filter g).flatMap SliceOp.lost ++
     (s.builds.filter u).flatMap BuildOp.lost)

/-- A partition's engines do what they have left (21 R278), in at most so many rounds. An operation that a fault stops ends there, and those
behind it in its queue go on (log 100). -/
def State.runEngines (s : State) (p : Nat) : Nat → State × Lost
  | 0 => s.loseOps p fun _ => true
  | n + 1 =>
    if (s.engineMoves p).isEmpty then s.loseOps p fun _ => true
    else
      let r := ((s.engineMoves p).foldl State.move s).loseOps p (· == .parked)
      let t := State.runEngines r.1 p n
      (t.1, r.2 ++ t.2)

/-- What the other engines of a partition could not write: their faults of writes. -/
def State.engineLost (s : State) (p : Nat) : Lost :=
  ((s.part p).faults.filter fun r => r.kind == 6).map fun r => (r.va / 256 * 256, sectorMask r.va 1)

/-- One entry for each line. -/
def Lost.merged (xs : Lost) : Lost :=
  xs.foldl (fun ys x => if ys.any fun y => y.1 == x.1 then ys.map fun y => if y.1 = x.1 then (y.1, y.2 ||| x.2) else y else ys ++ [x]) []

/-- Step 1 of R278: every write of a partition, its engines' too, is performed at system scope; what cannot be is lost. Its snapshot
regions are free by then. -/
def State.performAtStop (s : State) (p : Nat) : State × Lost :=
  let s0 := (s.modPart p fun x => { x with stopping := none, faults := [], regions := List.replicate 16 Region.free }).unpark p
  let r1 := (s0.waves.filter fun e => e.2.part == p).foldl (fun r e => State.emptyWsb r e.1) (s0, [])
  let bs := (r1.1.blocks.filter fun e => e.2.part == p).map (·.1)
  let r2 := bs.foldl State.emptyOq r1
  let s1 := r2.1.settleReleases
  let r3 := s1.runEngines p (s1.engineBound p)
  let s3 := bs.foldl (fun s b => s.emptyStash b) r3.1
  let s4 := ((s3.part p).bindings.filter fun b => b.waiting.isNone).foldl (fun s b => s.lastCounters p b) s3
  ((s4.emptyL2 p).emptyPorts, Lost.merged (r2.2 ++ r3.2 ++ r3.1.engineLost p))

/-- The lines of a partition's windows whose data is not at H. -/
def State.leftDirty (s : State) (p : Nat) : List (Nat × BitVec 4) :=
  (s.blocks.filter fun e => e.2.part == p).flatMap fun e => e.2.windows.flatMap fun w =>
    ((upTo w.lines.length).filter fun k => (w.line k).dirty != 0).map fun k => (w.base + 256 * k, (w.line k).dirty)

/-- The stop report (21 Table 21.13). -/
def stopBytes (reason detail asid : Nat) (xs : List (Nat × BitVec 4)) : List Byte :=
  padTo 64 (bytes4 [reason, detail % 4294967296, xs.length]) ++
    xs.flatMap fun x => padTo 16 (leBytes x.1 8 ++ leBytes asid 2 ++ leBytes x.2.toNat 1)

/-- Nothing of a partition is left in the device: its waves, blocks and launches, its engines' operations, pins and monitors. -/
def State.expel (s : State) (p : Nat) : State :=
  let mineB (b : Nat) : Bool := (s.block? b).any fun x => x.part == p
  let mineW (w : Nat) : Bool := (s.wave? w).any fun x => x.part == p
  let mineL (l : Nat) : Bool := (s.launch? l).any fun x => x.part == p
  { s with
    waves := s.waves.filter fun e => e.2.part != p
    blocks := s.blocks.filter fun e => e.2.part != p
    launches := s.launches.filter fun e => e.2.part != p
    presenting := s.presenting.filter fun x => x.frame.part != p
    builds := s.builds.filter fun b => b.part != p
    sliceQ := s.sliceQ.filter fun o => !(mineB o.block)
    qfences := s.qfences.filter fun f => f.part != p
    deliveries := s.deliveries.filter fun d => !(mineB d.src)
    lines := s.lines.map fun e => if s.partOfAsid (e.1 / 281474976710656) = some p then (e.1, { e.2 with pinned := false, owner := none }) else e
    quads := s.quads.map fun e => (e.1, { e.2 with
      slots := e.2.slots.map fun x => if x.any fun y => mineW y.1 then none else x
      mxq := e.2.mxq.filter fun x => !(mineB x.block)
      lease := if e.2.lease.any mineL then none else e.2.lease
      leaseUsed := if e.2.lease.any mineL then 0 else e.2.leaseUsed
      mxprog := if e.2.mxq.any fun x => mineB x.block && x.started then 0 else e.2.mxprog })
    cores := s.cores.map fun e => (e.1, { e.2 with
      l1 := e.2.l1.filter fun l => !(mineB l.block)
      copyQ := e.2.copyQ.filter fun o => o.part != p
      work := e.2.work.filter fun w => w.part != p
      held := e.2.held.filter fun h => !(mineL h.2.launch) })
    links := s.links.map fun e => (e.1, { e.2 with parked := e.2.parked.filter fun f => f.2.1.part != p }) }

/-- PARTITION_STOP: a stopping partition's writes are performed, the reports are written, and STATE becomes 2. -/
def execPartitionStop (p : Nat) (s : State) : Host.Outcome State Fault Refusal :=
  match (s.part p).stopping with
  | none => .next s
  | some (reason, detail) =>
    let r := s.performAtStop p
    let e := (r.1.part p).entry
    let s2 := r.1.dirtyReport p
    let s3 : State := { s2 with host := s2.host.write e.stopReport (stopBytes reason detail e.asidBase (s2.leftDirty p ++ r.2)) }
    let s4 := (s3.expel p).modPart p fun x => { x with
      state := 2, reason := reason, detail := detail, stopping := none, quads := [], latched := [], children := [], spawns := []
      faults := [], s2faults := [], areas := [], work := [], held := [], bindings := [], descheduled := false }
    .next ((s4.raiseMsix (p + 1) 1).raiseMsix 0 2)

/-! ## Attestation (21 R287) -/

/-- ATTESTATION_REQUEST: REQ takes NONCE as it stands. -/
def execAttestationRequest (p : Nat) (v : Word) (s : State) : Host.Outcome State Fault Refusal :=
  let a := (s.part p).attest
  if s.module.booted = false ∨ v.toNat ≠ 1 ∨ a.status = 1 then .next s
  else .next (s.modPart p fun x => { x with attest := { a with status := 1, busyNonce := a.nonce } })

/-- The partition's configuration, whose digest a report holds. -/
def State.configBytes (s : State) (p : Nat) : List Byte :=
  let m := s.module.entries
  m.read (partOff p) 256 ++ (s.quadsOf p).flatMap (fun e => m.read (quadOff e.1) 8) ++ m.read (colourOff (s.partEntry p).colour) 256

/-- The report body (21 Table 21.11). -/
def State.reportBody (s : State) (p : Nat) : List Byte :=
  bytes4 [1, Config.deviceId + 65536 * s.module.revision, s.module.sigIndex, p] ++ padTo 16 Config.serial ++
    padTo 32 (Config.shake256 Config.bruinImage) ++ padTo 32 (Config.shake256 (s.configBytes p)) ++
    leBytes (s.part p).attest.busyNonce.toNat 32

/-- Write guest-physical bytes granule by granule. -/
def State.guestWriteAll (s : State) (p ipa : Nat) (bs : List Byte) : Option State :=
  let k := 65536 - ipa % 65536
  (s.guestWrite p ipa (bs.take k)).bind fun s1 => if bs.length ≤ k then some s1 else s1.guestWrite p (ipa + k) (bs.drop k)

/-- A signature over a body: the index, big-endian, then what the key makes of it (21 R287). -/
def xmssSignature (n : Nat) (body : List Byte) : List Byte := (leBytes n 4).reverse ++ padTo 2816 (Config.xmssSign n body)

/-- PRESUMED (log 98): the OID that NIST SP 800-208 assigns to XMSS-SHAKE256_20_256, big-endian. -/
def keyOid : List Byte := [0x00, 0x00, 0x00, 0x12]

/-- The device certificate (21 R288, Table 21.12). -/
def certificate : List Byte :=
  padTo 128 (bytes4 [1, Config.issuingKey] ++ padTo 16 Config.serial ++ keyOid ++ padTo 64 Config.publicKey) ++ padTo 2820 Config.certSignature

/-- ATTESTATION_DONE: the signed report stands at DEST, and STATUS is 2; with the signatures used up it is 3. -/
def execAttestationDone (p : Nat) (s : State) : Host.Outcome State Fault Refusal :=
  let a := (s.part p).attest
  let status (n : Nat) (s : State) : State := s.modPart p fun x => { x with attest := { x.attest with status := n } }
  if a.status ≠ 1 then .next s
  else if 1048576 ≤ s.module.sigIndex then .next (status 3 s)
  else
    let body := s.reportBody p
    let n := s.module.sigIndex
    match s.guestWriteAll p a.dest.toNat (body ++ xmssSignature n body) with
    | none => .next (s.tellBruin p 0 (s.asidOf p) a.dest.toNat)
    | some s1 => .next (status 2 { s1 with module := { s1.module with sigIndex := n + 1 } })

/-- The 4 bytes at an offset of an attestation page as a read returns them. -/
def State.attestRead (s : State) (p off : Nat) : Nat :=
  let a := (s.part p).attest
  if off < 0x20 then a.nonce.toNat / 2 ^ (8 * off) % 4294967296
  else if off < 0x28 then a.dest.toNat / 2 ^ (8 * (off - 0x20)) % 4294967296
  else if off = 0x2C then a.status
  else if 0x100 ≤ off ∧ off < 0x100 + 2948 then leValue ((certificate.drop (off - 0x100)).take 4)
  else 0

/-! ## The window onto a partition's memory (21 R282, R283) -/

/-- The address of a byte of partition p's window. -/
def State.windowVa (s : State) (p off : Nat) : Nat := (s.part p).entry.winVa + off

/-- An access through the window is granted at both stages. -/
def State.windowOk (s : State) (p va n : Nat) (need : Need) : Bool :=
  let asid := (s.part p).entry.winAsid
  decide (0 < n) && (upTo ((va + n - 1) / 65536 - va / 65536 + 1)).all fun i =>
    let a := (va / 65536 + i) * 65536
    isGlobal a && (match s.trans asid a with
      | some r => (need.deny r.r1 r.w1 r.x1).isNone && (need.deny r.r r.w r.x).isNone
      | none => false)

/-- The answer to the host or the fabric: none is Unsupported Request. -/
def State.answer (s : State) (r : Option (List Byte)) : State := { s with module := { s.module with reply := r } }

/-- A write through the window, performed at H; shadows that snapshots need are made before it. Where it must wait, nothing happens. -/
def State.windowWrite (s : State) (p off : Nat) (bs : List Byte) : State :=
  let asid := (s.part p).entry.winAsid
  let va := s.windowVa p off
  if !(s.windowOk p va bs.length .write) then s.answer none
  else
    let s1 := (upTo ((va + bs.length - 1) / 256 - va / 256 + 1)).foldl (fun s i => s.shadowNow asid (va / 256 + i)) s
    let r := s1.stamp
    match r.2.engineWrite asid va bs r.1 with
    | none => s1
    | some s2 => (s2.answer (some [])).settleReleases

/-- A read through the window: the value at H. -/
def State.windowRead (s : State) (p off n : Nat) : State :=
  let va := s.windowVa p off
  if !(s.windowOk p va n .read) then s.answer none
  else match s.engineRead (s.part p).entry.winAsid va n with
    | none => s
    | some bs => s.answer (some bs)

/-- Bytes of an AtomicOp. -/
def pcieWidth : PcieAtomic → Nat
  | .fetchAdd w _ | .swap w _ | .cas w _ _ => if w then 8 else 4

/-- What an AtomicOp leaves of an old value. -/
def pcieApply (op : PcieAtomic) (old : Nat) : Nat :=
  let m := 2 ^ (8 * (pcieWidth op))
  match op with
  | .fetchAdd _ x => (old + x.toNat) % m
  | .swap _ x => x.toNat % m
  | .cas _ e x => if old = e.toNat % m then x.toNat % m else old

/-- An AtomicOp through the window, in one step at H; it must be aligned to its size. -/
def State.windowAtomic (s : State) (p off : Nat) (op : PcieAtomic) : State :=
  let va := s.windowVa p off
  let n := (pcieWidth op)
  if va % n ≠ 0 ∨ !(s.windowOk p va n .both) then s.answer none
  else match s.engineRead (s.part p).entry.winAsid va n with
    | none => s
    | some bs =>
      let s1 := s.windowWrite p off (leBytes (pcieApply op (leValue bs)) n)
      if s1.module.reply = some [] then s1.answer (some bs) else s1

/-- The size of a window. -/
def windowSize : Nat := 68719476736

/-- BAR4_WRITE. -/
def execBar4Write (p off : Nat) (bytes : List Byte) (s : State) : Host.Outcome State Fault Refusal :=
  if s.module.booted = false ∨ windowSize < off + bytes.length then .next (s.answer none)
  else .next ((s.answer none).windowWrite p off bytes)

/-- BAR4_READ. -/
def execBar4Read (p off n : Nat) (s : State) : Host.Outcome State Fault Refusal :=
  if s.module.booted = false ∨ windowSize < off + n then .next (s.answer none) else .next (s.windowRead p off n)

/-- BAR4_ATOMIC. -/
def execBar4Atomic (p off : Nat) (op : PcieAtomic) (s : State) : Host.Outcome State Fault Refusal :=
  if s.module.booted = false ∨ windowSize < off + (pcieWidth op) then .next (s.answer none)
  else .next ((s.answer none).windowAtomic p off op)

/-- FABRIC_ACCESS: an access that arrives over PZ link acts like one of the partition's window. -/
def execFabricAccess (p off : Nat) (acc : FabricOp) (s : State) : Host.Outcome State Fault Refusal :=
  if s.module.booted = false then .next (s.answer none)
  else
    match acc with
    | .read n => .next (s.windowRead p off n)
    | .write bs => .next ((s.answer none).windowWrite p off bs)
    | .atomic op => .next ((s.answer none).windowAtomic p off op)

/-! ## PZ link, health, clocks, reset (21 R283 to R287, start-up) -/

/-- FLIT_CRC_ERROR: a flit fails its CRC and is replayed; one that fails after its 16th replay takes the port down. Whether it is the
flit that failed before is not stated: a free choice. -/
def execFlitCrcError (port : Nat) (s : State) : Host.Outcome State Fault Refusal :=
  let x := s.pzPort port
  if 8 ≤ port ∨ !x.up then .next s
  else
    let n := if Config.freeBool s.free then x.replays else 0
    let y : PzPort := if n < 16 then { x with replays := n + 1 } else { up := false, replays := n }
    .next { s.drawn with module := { s.module with ports := s.module.ports.put port y } }

/-- The partitions that a fault affects (21 R285): the owner of private storage, the partition of an ASID's data, every user of a shared
unit. -/
def State.affected (s : State) (site : FaultSite) : List Nat :=
  let those (f : Nat × Part → Bool) : List Nat := (s.parts.filter fun e => e.2.state != 2 && f e).map (·.1)
  match site with
  | .quadrant q => those fun e => e.2.quads.any fun x => x.1 == q
  | .share c p => those fun e => e.1 == p && !(e.2.quadsIn c).isEmpty
  | .data a => (s.partOfAsid a).toList
  | .core c => those fun e => !(e.2.quadsIn c).isEmpty
  | .sector n => those fun e => e.2.coreList.any fun c => sectorOf c == n
  | .slice n => those fun e => e.2.slices.contains n
  | .link n => those fun e => e.2.entry.links.testBit n
  | .whole => those fun _ => true

/-- MACHINE_CHECK: Bruin records the fault and stops the partitions it affects. -/
def execMachineCheck (unit num : Nat) (site : FaultSite) (s : State) : Host.Outcome State Fault Refusal :=
  if !s.module.booted then .next s
  else
    let s1 := ({ s with module := { s.module with mcheck := some { unit := unit, num := num } } } : State).raiseMsix 0 0
    .next ((s.affected site).foldl (fun s p => s.beginStop p 2 (Config.mcDetail unit num)) s1)

/-- CLOCK_STATE_CHANGE: 0 is 2.4 GHz, 1 is 1.8 GHz, 2 is 1.2 GHz. CLK does not advance with it. -/
def execClockStateChange (c st : Nat) (s : State) : Host.Outcome State Fault Refusal :=
  if Config.cores ≤ c ∨ 3 ≤ st then .next s else .next (s.modCore c fun k => { k with clock := st })

/-- DROOP_EVENT. -/
def execDroopEvent (c : Nat) (s : State) : Host.Outcome State Fault Refusal :=
  if Config.cores ≤ c then .next s
  else .next (s.modCore c fun k => { k with
    droop := k.droop + 1
    droopAt := k.droopAt.filter (fun t => decide ((k.clk.toNat + two64 - t) % two64 < 4096)) ++ [k.clk.toNat] })

/-- PATROL_SCRUB: an error found and corrected is counted by unit kind, and for the partition whose data it was. -/
def execPatrolScrub (kind p : Nat) (s : State) : Host.Outcome State Fault Refusal :=
  if s.module.booted = false ∨ s.module.scrub = false then .next s
  else
    let s1 : State := { s with module := { s.module with
      corrected := s.module.corrected.put kind ((s.module.corrected.find kind).getD 0 + 1) } }
    .next (if p < 64 then s1.modPart p fun x => { x with corrected := x.corrected + 1 } else s1)

/-- MODULE_RESET: every unit as after reset, GDDR7 scrubbed. What lies outside the module stays: host and peer memory, the sinks, and
the fuses' signature counter. If a check of the boot ROM fails, the device stays in the ROM. -/
def execModuleReset (ok : Bool) (s : State) : Host.Outcome State Fault Refusal :=
  let m : Module := { Module.reset with booted := ok, revision := if ok then Config.revision else 0xFFFF, sigIndex := s.module.sigIndex }
  .next { State.reset with
    free := s.free, turns := s.turns, host := s.host, peers := s.peers, module := m
    links := s.links.map fun e => (e.1, { Link.reset with hpd := e.2.hpd })
    cores := s.cores.map fun e => (e.1, { Core.reset with temp := e.2.temp }) }

/-! ## SHADOW_COPY (17 R238) -/

/-- The state as it would be were no snapshot region open. -/
def State.unsnapped (s : State) : State := { s with parts := s.parts.map fun e => (e.1, { e.2 with regions := List.replicate 16 Region.free }) }

/-- A move of the device writes a line at its home. -/
def State.movesTo (s : State) (asid line : Nat) (act : State → Host.Outcome State Fault Refusal) : Bool :=
  match act s with
  | .next t => (upTo 256).any fun i => t.stampOf asid (256 * line + i) != s.stampOf asid (256 * line + i)
  | _ => false

/-- The moves of a partition by which something other than a stash write-back is performed at a home: stores and atomics that wait for
a line, engines, spills and counters of stages, and saves. -/
def State.writers (s : State) (p line : Nat) : List (State → Host.Outcome State Fault Refusal) :=
  (s.blocks.filter fun e => e.2.part == p).map (fun e => execPerform e.1 line 1) ++
  (s.cores.filter fun e => !e.2.copyQ.isEmpty).map (fun e => execCopyStep e.1 p) ++
  (s.sliceQ.flatMap fun o => o.sent.map fun e => execSliceElement o.block o.tag e.1) ++
  (s.builds.map fun o => execLynxBuild o.sector o.part) ++
  ((s.part p).bindings.flatMap fun b =>
    [execDrainComplete p b.stage] ++
    b.homes.flatMap fun h => execKeyedWaveForm p b.stage h.core b.template :: h.ctxs.map fun c => execRefill p b.stage c.key) ++
  (s.launches.filter fun e => e.2.part == p && !e.2.complete).flatMap (fun e =>
    execLaunchComplete e.1 :: (e.2.bind.elim [] fun b => b.queue.map fun x => execBinnerReceive e.1 x.wave)) ++
  (s.waves.filter fun e => e.2.part == p).flatMap (fun e =>
    [execWaveSave e.1, fun t => match e.2.preemptArea, t.block? e.2.block with
      | some a, some b => .next ((t.completeArea e.1 e.2 b a).getD t)
      | _, _ => .next t]) ++
  [execCommandComplete]

/-- A write to a line is on its way: a dirty stash line, which may be written back at any time, or the next move of some agent. -/
def State.writeComing (s : State) (p asid line : Nat) : Bool :=
  (s.blocks.any fun e => e.2.part == p && e.2.windows.any fun w => (w.covers line).any fun k => (w.line k).dirty != 0) ||
  (s.writers p line).any fun f => s.unsnapped.movesTo asid line f

/-- SHADOW_COPY: before a line's first write after a cut is performed, its old value is copied beside its home. -/
def execShadowCopy (asid line : Nat) (s : State) : Host.Outcome State Fault Refusal :=
  match s.shadowDue asid line with
  | none => .next s
  | some (p, _, _) => if s.writeComing p asid line && (s.part p).stopping.isNone then .next (s.shadowNow asid line) else .next s

end Sys2Proof.Machine
end

