-- ==== Sys2Proof/Machine/Dispatch.lean ====
section
/-! DEFINITION. The meaning of every instruction and of every step of the device that has no instruction word: one arm for each
constructor of Instr. -/

namespace Sys2Proof.Machine

/-- The meaning of an instruction. -/
def exec (i : Instr) (s : State) : Host.Outcome State Fault Refusal :=
  match i with
  | .nop => Sys2Proof.Machine.execNop s
  | .jmp off => Sys2Proof.Machine.execJmp off s
  | .brz r off => Sys2Proof.Machine.execBrz r off s
  | .brnz r off => Sys2Proof.Machine.execBrnz r off s
  | .bany r off => Sys2Proof.Machine.execBany r off s
  | .ball r off => Sys2Proof.Machine.execBall r off s
  | .brx r off rejoin => Sys2Proof.Machine.execBrx r off rejoin s
  | .joinw a => Sys2Proof.Machine.execJoinw a s
  | .call r off => Sys2Proof.Machine.execCall r off s
  | .ret a => Sys2Proof.Machine.execRet a s
  | .jmpr a => Sys2Proof.Machine.execJmpr a s
  | .exit => Sys2Proof.Machine.execExit s
  | .trap imm => Sys2Proof.Machine.execTrap imm s
  | .rett => Sys2Proof.Machine.execRett s
  | .brk => Sys2Proof.Machine.execBrk s
  | .modea imm => Sys2Proof.Machine.execModea imm s
  | .modem imm => Sys2Proof.Machine.execModem imm s
  | .modesv d => Sys2Proof.Machine.execModesv d s
  | .modeld a => Sys2Proof.Machine.execModeld a s
  | .srd d a b => Sys2Proof.Machine.execSrd d a b s
  | .swr a b => Sys2Proof.Machine.execSwr a b s
  | .clk d => Sys2Proof.Machine.execClk d s
  | .sense d b => Sys2Proof.Machine.execSense d b s
  | .msave d => Sys2Proof.Machine.execMsave d s
  | .mset a => Sys2Proof.Machine.execMset a s
  | .mand a => Sys2Proof.Machine.execMand a s
  | .mandn a => Sys2Proof.Machine.execMandn a s
  | .fmark offset => Sys2Proof.Machine.execFmark offset s
  | .stkrd d a => Sys2Proof.Machine.execStkrd d a s
  | .stkwr a b => Sys2Proof.Machine.execStkwr a b s
  | .yield => Sys2Proof.Machine.execYield s
  | .cmpeq d a b => Sys2Proof.Machine.execCmpeq d a b s
  | .cmpne d a b => Sys2Proof.Machine.execCmpne d a b s
  | .cmplt d a b => Sys2Proof.Machine.execCmplt d a b s
  | .cmple d a b => Sys2Proof.Machine.execCmple d a b s
  | .cmpgt d a b => Sys2Proof.Machine.execCmpgt d a b s
  | .cmpge d a b => Sys2Proof.Machine.execCmpge d a b s
  | .cmpun d a b => Sys2Proof.Machine.execCmpun d a b s
  | .classF d a b => Sys2Proof.Machine.execClassF d a b s
  | .pand d a b => Sys2Proof.Machine.execPand d a b s
  | .por d a b => Sys2Proof.Machine.execPor d a b s
  | .pxor d a b => Sys2Proof.Machine.execPxor d a b s
  | .pnot d a => Sys2Proof.Machine.execPnot d a s
  | .pcnt d a => Sys2Proof.Machine.execPcnt d a s
  | .pmov d a => Sys2Proof.Machine.execPmov d a s
  | .mov d a => Sys2Proof.Machine.execMov d a s
  | .add d a b => Sys2Proof.Machine.execAdd d a b s
  | .sub d a b => Sys2Proof.Machine.execSub d a b s
  | .mul d a b => Sys2Proof.Machine.execMul d a b s
  | .mulhi d a b => Sys2Proof.Machine.execMulhi d a b s
  | .mad d a b => Sys2Proof.Machine.execMad d a b s
  | .min d a b => Sys2Proof.Machine.execMin d a b s
  | .max d a b => Sys2Proof.Machine.execMax d a b s
  | .abs d a => Sys2Proof.Machine.execAbs d a s
  | .neg d a => Sys2Proof.Machine.execNeg d a s
  | .andB d a b => Sys2Proof.Machine.execAndB d a b s
  | .orB d a b => Sys2Proof.Machine.execOrB d a b s
  | .xorB d a b => Sys2Proof.Machine.execXorB d a b s
  | .notB d a => Sys2Proof.Machine.execNotB d a s
  | .shl d a b => Sys2Proof.Machine.execShl d a b s
  | .shr d a b => Sys2Proof.Machine.execShr d a b s
  | .bfx d a b => Sys2Proof.Machine.execBfx d a b s
  | .bfi d a b => Sys2Proof.Machine.execBfi d a b s
  | .popc d a => Sys2Proof.Machine.execPopc d a s
  | .clz d a => Sys2Proof.Machine.execClz d a s
  | .brev d a => Sys2Proof.Machine.execBrev d a s
  | .csel d a b => Sys2Proof.Machine.execCsel d a b s
  | .addw d a b => Sys2Proof.Machine.execAddw d a b s
  | .dot d a b => Sys2Proof.Machine.execDot d a b s
  | .cvt d a b => Sys2Proof.Machine.execCvt d a b s
  | .roundi d a => Sys2Proof.Machine.execRoundi d a s
  | .fract d a => Sys2Proof.Machine.execFract d a s
  | .ldexp d a b => Sys2Proof.Machine.execLdexp d a b s
  | .scalex d a b => Sys2Proof.Machine.execScalex d a b s
  | .rcp d a => Sys2Proof.Machine.execRcp d a s
  | .rsq d a => Sys2Proof.Machine.execRsq d a s
  | .sqrt d a => Sys2Proof.Machine.execSqrt d a s
  | .exp2 d a => Sys2Proof.Machine.execExp2 d a s
  | .log2 d a => Sys2Proof.Machine.execLog2 d a s
  | .sin d a => Sys2Proof.Machine.execSin d a s
  | .cos d a => Sys2Proof.Machine.execCos d a s
  | .shfl d a b => Sys2Proof.Machine.execShfl d a b s
  | .shflx d a b => Sys2Proof.Machine.execShflx d a b s
  | .rdlane d a b => Sys2Proof.Machine.execRdlane d a b s
  | .wrlane d a b => Sys2Proof.Machine.execWrlane d a b s
  | .ballot d a => Sys2Proof.Machine.execBallot d a s
  | .vany d a => Sys2Proof.Machine.execVany d a s
  | .vall d a => Sys2Proof.Machine.execVall d a s
  | .matchLanes d a => Sys2Proof.Machine.execMatchLanes d a s
  | .scan d a => Sys2Proof.Machine.execScan d a s
  | .reduce d a b => Sys2Proof.Machine.execReduce d a b s
  | .rank d => Sys2Proof.Machine.execRank d s
  | .regroup a b => Sys2Proof.Machine.execRegroup a b s
  | .rebal d a b => Sys2Proof.Machine.execRebal d a b s
  | .ld8 d a b => Sys2Proof.Machine.execLd8 d a b s
  | .ld16 d a b => Sys2Proof.Machine.execLd16 d a b s
  | .ld32 d a b => Sys2Proof.Machine.execLd32 d a b s
  | .ld64 d a b => Sys2Proof.Machine.execLd64 d a b s
  | .ld128 d a b => Sys2Proof.Machine.execLd128 d a b s
  | .st8 d a b => Sys2Proof.Machine.execSt8 d a b s
  | .st16 d a b => Sys2Proof.Machine.execSt16 d a b s
  | .st32 d a b => Sys2Proof.Machine.execSt32 d a b s
  | .st64 d a b => Sys2Proof.Machine.execSt64 d a b s
  | .st128 d a b => Sys2Proof.Machine.execSt128 d a b s
  | .lds32 d a b => Sys2Proof.Machine.execLds32 d a b s
  | .lds64 d a b => Sys2Proof.Machine.execLds64 d a b s
  | .lds128 d a b => Sys2Proof.Machine.execLds128 d a b s
  | .sts32 d a b => Sys2Proof.Machine.execSts32 d a b s
  | .ldacq d a b => Sys2Proof.Machine.execLdacq d a b s
  | .strel d a b => Sys2Proof.Machine.execStrel d a b s
  | .acqr d a b => Sys2Proof.Machine.execAcqr d a b s
  | .fence b => Sys2Proof.Machine.execFence b s
  | .pref a b => Sys2Proof.Machine.execPref a b s
  | .pin d a b => Sys2Proof.Machine.execPin d a b s
  | .unpin a b => Sys2Proof.Machine.execUnpin a b s
  | .cwb a b => Sys2Proof.Machine.execCwb a b s
  | .cinv a b => Sys2Proof.Machine.execCinv a b s
  | .aadd d a b => Sys2Proof.Machine.execAadd d a b s
  | .amin d a b => Sys2Proof.Machine.execAmin d a b s
  | .amax d a b => Sys2Proof.Machine.execAmax d a b s
  | .aand d a b => Sys2Proof.Machine.execAand d a b s
  | .aor d a b => Sys2Proof.Machine.execAor d a b s
  | .axor d a b => Sys2Proof.Machine.execAxor d a b s
  | .axchg d a b => Sys2Proof.Machine.execAxchg d a b s
  | .acas d a b => Sys2Proof.Machine.execAcas d a b s
  | .ainc d a b => Sys2Proof.Machine.execAinc d a b s
  | .mon a b => Sys2Proof.Machine.execMon a b s
  | .mwait d a => Sys2Proof.Machine.execMwait d a s
  | .mcancel => Sys2Proof.Machine.execMcancel s
  | .stmap d a b => Sys2Proof.Machine.execStmap d a b s
  | .stunmap a => Sys2Proof.Machine.execStunmap a s
  | .stflush a => Sys2Proof.Machine.execStflush a s
  | .mwbind a b => Sys2Proof.Machine.execMwbind a b s
  | .mwunbind a => Sys2Proof.Machine.execMwunbind a s
  | .cpy d a b => Sys2Proof.Machine.execCpy d a b s
  | .cpy2d d a b => Sys2Proof.Machine.execCpy2d d a b s
  | .cpclose d => Sys2Proof.Machine.execCpclose d s
  | .cpwait a => Sys2Proof.Machine.execCpwait a s
  | .gath d a b => Sys2Proof.Machine.execGath d a b s
  | .scat d a b => Sys2Proof.Machine.execScat d a b s
  | .qfence d a => Sys2Proof.Machine.execQfence d a s
  | .bar a b => Sys2Proof.Machine.execBar a b s
  | .bara a b => Sys2Proof.Machine.execBara a b s
  | .barw a => Sys2Proof.Machine.execBarw a s
  | .racq d a => Sys2Proof.Machine.execRacq d a s
  | .rpub a b => Sys2Proof.Machine.execRpub a b s
  | .rget d a => Sys2Proof.Machine.execRget d a s
  | .rrel a b => Sys2Proof.Machine.execRrel a b s
  | .hwait d a => Sys2Proof.Machine.execHwait d a s
  | .htest d a => Sys2Proof.Machine.execHtest d a s
  | .hcancel a => Sys2Proof.Machine.execHcancel a s
  | .hmov d a => Sys2Proof.Machine.execHmov d a s
  | .spawn d a b => Sys2Proof.Machine.execSpawn d a b s
  | .spawnw d a b => Sys2Proof.Machine.execSpawnw d a b s
  | .succgo => Sys2Proof.Machine.execSuccgo s
  | .predwait => Sys2Proof.Machine.execPredwait s
  | .mxclaim d a => Sys2Proof.Machine.execMxclaim d a s
  | .mxrel a => Sys2Proof.Machine.execMxrel a s
  | .mxfill d a b => Sys2Proof.Machine.execMxfill d a b s
  | .mxzero d a => Sys2Proof.Machine.execMxzero d a s
  | .mxmma d a b => Sys2Proof.Machine.execMxmma d a b s
  | .mxmmas d a b => Sys2Proof.Machine.execMxmmas d a b s
  | .mxmmasp d a b => Sys2Proof.Machine.execMxmmasp d a b s
  | .mxldacc d a b => Sys2Proof.Machine.execMxldacc d a b s
  | .mxstacc d a b => Sys2Proof.Machine.execMxstacc d a b s
  | .mxlist d a b => Sys2Proof.Machine.execMxlist d a b s
  | .kbind a b => Sys2Proof.Machine.execKbind a b s
  | .kpush d a b => Sys2Proof.Machine.execKpush d a b s
  | .kyield => Sys2Proof.Machine.execKyield s
  | .kend => Sys2Proof.Machine.execKend s
  | .kdrain d a => Sys2Proof.Machine.execKdrain d a s
  | .snap d a b => Sys2Proof.Machine.execSnap d a b s
  | .sacc a => Sys2Proof.Machine.execSacc a s
  | .srej a => Sys2Proof.Machine.execSrej a s
  | .sqry d a => Sys2Proof.Machine.execSqry d a s
  | .ssbuild d a => Sys2Proof.Machine.execSsbuild d a s
  | .ssbind a b => Sys2Proof.Machine.execSsbind a b s
  | .triemit d => Sys2Proof.Machine.execTriemit d s
  | .drawend d => Sys2Proof.Machine.execDrawend d s
  | .present a b => Sys2Proof.Machine.execPresent a b s
  | .splitSwap q => Sys2Proof.Machine.execSplitSwap q s
  | .resultWrite w n => Sys2Proof.Machine.execResultWrite w n s
  | .rejoinArrival w sp => Sys2Proof.Machine.execRejoinArrival w sp s
  | .convdead w => Sys2Proof.Machine.execConvdead w s
  | .trapEntry w => Sys2Proof.Machine.execTrapEntry w s
  | .regroupResume b tag => Sys2Proof.Machine.execRegroupResume b tag s
  | .mwaitTimeout w sp => Sys2Proof.Machine.execMwaitTimeout w sp s
  | .coreClockGate c => Sys2Proof.Machine.execCoreClockGate c s
  | .coreWake c => Sys2Proof.Machine.execCoreWake c s
  | .drain w line => Sys2Proof.Machine.execDrain w line s
  | .perform b line n => Sys2Proof.Machine.execPerform b line n s
  | .fillL1 b line => Sys2Proof.Machine.execFillL1 b line s
  | .fillCopy sec asid line => Sys2Proof.Machine.execFillCopy sec asid line s
  | .evict place => Sys2Proof.Machine.execEvict place s
  | .consume sec => Sys2Proof.Machine.execConsume sec s
  | .writeBack place => Sys2Proof.Machine.execWriteBack place s
  | .satisfy w n lane => Sys2Proof.Machine.execSatisfy w n lane s
  | .port port => Sys2Proof.Machine.execPort port s
  | .engine queue => Sys2Proof.Machine.execEngine queue s
  | .stashFill b win line => Sys2Proof.Machine.execStashFill b win line s
  | .mwDelivery src dst => Sys2Proof.Machine.execMwDelivery src dst s
  | .copyStep c p => Sys2Proof.Machine.execCopyStep c p s
  | .sliceElement b n i0 => Sys2Proof.Machine.execSliceElement b n i0 s
  | .matrixCommand q n => Sys2Proof.Machine.execMatrixCommand q n s
  | .matrixCommandDone q n => Sys2Proof.Machine.execMatrixCommandDone q n s
  | .leasePass q => Sys2Proof.Machine.execLeasePass q s
  | .recordAccept p n => Sys2Proof.Machine.execRecordAccept p n s
  | .keyedWaveForm p stage c pc => Sys2Proof.Machine.execKeyedWaveForm p stage c pc s
  | .refill p stage key => Sys2Proof.Machine.execRefill p stage key s
  | .stageDrain p stage => Sys2Proof.Machine.execStageDrain p stage s
  | .drainComplete p stage => Sys2Proof.Machine.execDrainComplete p stage s
  | .lynxBuild sec p => Sys2Proof.Machine.execLynxBuild sec p s
  | .buildHandleDone p n => Sys2Proof.Machine.execBuildHandleDone p n s
  | .binnerReceive l w => Sys2Proof.Machine.execBinnerReceive l w s
  | .rasterWorkItem c p => Sys2Proof.Machine.execRasterWorkItem c p s
  | .fragmentPush c home => Sys2Proof.Machine.execFragmentPush c home s
  | .frameComplete link => Sys2Proof.Machine.execFrameComplete link s
  | .presentationDeadline link => Sys2Proof.Machine.execPresentationDeadline link s
  | .hpdChange link present => Sys2Proof.Machine.execHpdChange link present s
  | .modegoApply link lanes rate => Sys2Proof.Machine.execModegoApply link lanes rate s
  | .modegoStop link => Sys2Proof.Machine.execModegoStop link s
  | .hpdchgClear link => Sys2Proof.Machine.execHpdchgClear link s
  | .auxNativeWrite link addr len => Sys2Proof.Machine.execAuxNativeWrite link addr len s
  | .auxNativeRead link addr len => Sys2Proof.Machine.execAuxNativeRead link addr len s
  | .auxI2cWrite link addr len => Sys2Proof.Machine.execAuxI2cWrite link addr len s
  | .auxI2cRead link addr len => Sys2Proof.Machine.execAuxI2cRead link addr len s
  | .auxI2cWriteMot link addr len => Sys2Proof.Machine.execAuxI2cWriteMot link addr len s
  | .auxI2cReadMot link addr len => Sys2Proof.Machine.execAuxI2cReadMot link addr len s
  | .auxInvalidRequest link w => Sys2Proof.Machine.execAuxInvalidRequest link w s
  | .auxReply link reply data => Sys2Proof.Machine.execAuxReply link reply data s
  | .auxTimeout link => Sys2Proof.Machine.execAuxTimeout link s
  | .deadlineWrite link v => Sys2Proof.Machine.execDeadlineWrite link v s
  | .doorbell p q v => Sys2Proof.Machine.execDoorbell p q v s
  | .queueEnable p q v => Sys2Proof.Machine.execQueueEnable p q v s
  | .queueDisable p q v => Sys2Proof.Machine.execQueueDisable p q v s
  | .launchFetch p => Sys2Proof.Machine.execLaunchFetch p s
  | .blockPlace l => Sys2Proof.Machine.execBlockPlace l s
  | .childPlace p => Sys2Proof.Machine.execChildPlace p s
  | .launchComplete l => Sys2Proof.Machine.execLaunchComplete l s
  | .launchPreempt l => Sys2Proof.Machine.execLaunchPreempt l s
  | .waveSave w => Sys2Proof.Machine.execWaveSave w s
  | .markWindowExpiry w => Sys2Proof.Machine.execMarkWindowExpiry w s
  | .preemptHandlerTimeout w => Sys2Proof.Machine.execPreemptHandlerTimeout w s
  | .waveRestore w => Sys2Proof.Machine.execWaveRestore w s
  | .faultRecord p => Sys2Proof.Machine.execFaultRecord p s
  | .translationWalk c asid granule => Sys2Proof.Machine.execTranslationWalk c asid granule s
  | .stage2Fault p act => Sys2Proof.Machine.execStage2Fault p act s
  | .forwardedAccess b line n => Sys2Proof.Machine.execForwardedAccess b line n s
  | .pageMigration p ipa leaf => Sys2Proof.Machine.execPageMigration p ipa leaf s
  | .waveResume p v => Sys2Proof.Machine.execWaveResume p v s
  | .engineRetry p v => Sys2Proof.Machine.execEngineRetry p v s
  | .engineFail p v => Sys2Proof.Machine.execEngineFail p v s
  | .shadowCopy asid line => Sys2Proof.Machine.execShadowCopy asid line s
  | .reserveMove p => Sys2Proof.Machine.execReserveMove p s
  | .copyBack p n => Sys2Proof.Machine.execCopyBack p n s
  | .shadowPoolBaseWrite p v => Sys2Proof.Machine.execShadowPoolBaseWrite p v s
  | .shadowPoolSizeWrite p v => Sys2Proof.Machine.execShadowPoolSizeWrite p v s
  | .activate p => Sys2Proof.Machine.execActivate p s
  | .resched p => Sys2Proof.Machine.execResched p s
  | .desched p => Sys2Proof.Machine.execDesched p s
  | .stop p => Sys2Proof.Machine.execStop p s
  | .inval p => Sys2Proof.Machine.execInval p s
  | .dirty p => Sys2Proof.Machine.execDirty p s
  | .cmdUnknownOp v => Sys2Proof.Machine.execCmdUnknownOp v s
  | .commandComplete => Sys2Proof.Machine.execCommandComplete s
  | .partitionStop p => Sys2Proof.Machine.execPartitionStop p s
  | .quadrantEntryWrite q v => Sys2Proof.Machine.execQuadrantEntryWrite q v s
  | .powerlimitWrite v => Sys2Proof.Machine.execPowerlimitWrite v s
  | .scrubWrite v => Sys2Proof.Machine.execScrubWrite v s
  | .registerWrite win off bytes => Sys2Proof.Machine.execRegisterWrite win off bytes s
  | .attestationRequest p v => Sys2Proof.Machine.execAttestationRequest p v s
  | .attestationDone p => Sys2Proof.Machine.execAttestationDone p s
  | .bar4Write p off bytes => Sys2Proof.Machine.execBar4Write p off bytes s
  | .bar4Read p off n => Sys2Proof.Machine.execBar4Read p off n s
  | .fabricAccess p off acc => Sys2Proof.Machine.execFabricAccess p off acc s
  | .flitCrcError port => Sys2Proof.Machine.execFlitCrcError port s
  | .machineCheck unit num site => Sys2Proof.Machine.execMachineCheck unit num site s
  | .clockStateChange c st => Sys2Proof.Machine.execClockStateChange c st s
  | .moduleReset ok => Sys2Proof.Machine.execModuleReset ok s
  | .reservedOpcode w => Sys2Proof.Machine.execReservedOpcode w s
  | .bar4Atomic p off op => Sys2Proof.Machine.execBar4Atomic p off op s
  | .droopEvent c => Sys2Proof.Machine.execDroopEvent c s
  | .patrolScrub kind p => Sys2Proof.Machine.execPatrolScrub kind p s
  | .verticalBlank link => Sys2Proof.Machine.execVerticalBlank link s

end Sys2Proof.Machine
end

