-- ==== Sys2Proof/Machine/Issue.lean ====
section
/-! DEFINITION. What an agent that moves next does (log 1): a split in its issue slot (03 R39 to R42, R420, 04 R76 to R79, 18 R419),
and what reaches the device from outside. -/

namespace Sys2Proof

/-- The agent that moves when the list of turns is empty: any (log 1). -/
opaque Config.freeTurn : Nat → Machine.Turn

namespace Machine

/-! ## Completions (18 R419) -/

/-- How the completion of a parked instruction stands. -/
inductive Completion where
  | stays
  /-- it is over: the split goes on -/
  | over (s : State)
  /-- it raises a cause at its own PC -/
  | trap (s : State) (cause faddr : Nat)
  /-- more is to be done: it waits for that now -/
  | again (s : State) (f : Waiting)

/-- STUNMAP's write-backs are performed: the window goes, unless it has been written since, when those sectors come first (06 R134). -/
def State.unmapNow (s : State) (wi b win : Nat) : Completion :=
  match ((s.block? b).elim [] fun x => x.dirtyStash b).filter fun x => x.2.1 == win with
  | [] => .over (s.unmapWindow b win)
  | xs =>
    let r := s.startWriteBack wi 0 xs []
    .again r.2 (.release r.1 (.unmap win))

/-- What follows the release that split k of a wave has waited for. -/
def State.afterRelease (s : State) (wi k : Nat) (w : Wave) : After → Completion
  | .proceed | .quiet => .over s
  | .unmap win => s.unmapNow wi w.block win
  | .snap d base len => (match s.snapPoint wi w d base len with
    | .ok s1 => .over s1
    | .illegal => .trap s Cause.illegal 0)
  | .srej t => (match s.srejPoint wi k w t with
    | .ok s1 => .over s1
    | .illegal => .trap s Cause.illegal 0
    | .waits => .stays)
  | .save addr => match s.savePoint wi w addr with
    | some s1 => .over s1
    | none => .stays

/-- Forget release n of a wave. -/
def State.endRelease (s : State) (wi n : Nat) : State :=
  s.modWave wi fun w => { w with releases := w.releases.filter fun r => r.n != n }

/-- The completion of an instruction that split k of a wave is parked in. -/
def State.completion (s : State) (wi k : Nat) (w : Wave) : Waiting → Completion
  | .release n a =>
    (match w.releases.find? fun r => r.n == n with
     | none => s.afterRelease wi k w a
     | some r =>
       if !r.complete then .stays
       else match r.fault with
         | some va => .trap (s.endRelease wi n) Cause.wbFault va
         | none => (s.endRelease wi n).afterRelease wi k w a)
  | .stash n =>
    if s.stashPending wi n then .stays
    else match (w.releases.find? fun r => r.n == n).bind (·.fault) with
      | some va => .trap (s.modWave wi fun x => { x with releases := x.releases.map fun r => if r.n = n then { r with fault := none } else r })
          Cause.wbFault va
      | none => .over s
  | .records ns => if s.recordsLeft w.part ns then .stays else .over s
  | .kbind n stage _ => match s.bindDone w.part w.launch n stage with
    | none => .stays
    | some s1 => .over s1
  | .deliveries id => if s.outgoing w.block id then .stays else .over (s.dropMirror w.block id)
  | .flush l => if s.isFlushing l then .stays else .over s

/-- A completion that has come: the split goes on at its next PC, or traps at the instruction; while another split's trap waits, the
instruction issues again after it. -/
def State.complete (s : State) (wi k pc : Nat) (marked : Bool) (exec : Word) : Completion → State
  | .stays => s
  | .over s1 =>
    (s1.modWave wi fun w => w.modSplit k fun x =>
      { x with park := w.marker marked k, readyAt := s.seq, parkedAt := s.seq }).tryTrapEntry wi
  | .again s1 f => s1.modSplit wi k fun x => { x with park := .completing pc f marked }
  | .trap s1 cause faddr =>
    (s1.modSplit wi k fun x => { x with park := .none, pc := pc, readyAt := s.seq }).raise wi k cause faddr exec pc

/-! ## The issue of one instruction -/

/-- What a split in its slot does: a word to run, or something that runs none. -/
inductive Offered where
  | word (i : Instr) (s : State)
  | settled (s : State)

/-- A fetch that stage 1 refuses parks the split with a record (03 R42, 18 R257). -/
def State.parkFetch (s : State) (wi : Nat) (w : Wave) (x : Split) (pc type : Nat) : State :=
  let f : FaultRec := { va := pc, pc := pc, lanes := x.exec, token := w.tokenOf x.num, asid := s.asidOf w.part, type := type, kind := 3
                        engine := w.core }
  ((s.dropRight w.core (s.asidOf w.part) pc).modSplit wi x.num fun y => { y.parkAs .fault s.seq with pc := pc }).addFault w.part f

/-- The word in the slot that a PC names of a bundle that a split issues from. -/
def State.wordAt (s : State) (wi : Nat) (x : Split) (ws : List Word) (pc : Nat) : Offered :=
  let s1 := s.modSplit wi x.num fun y => { y with pc := pc, entered := some (pc / 32, ws) }
  .word (instrAt ws (slotOf pc))
    { s1 with issue := some { wave := wi, split := x.num, pc := pc, next := nextPc ws pc, marked := isMarked ws (slotOf pc) } }

/-- A keyed wave of contexts whose PC has a reserved bit set, before its first issue and in no handler (14 R202). -/
def Wave.reservedPc (w : Wave) : Bool := w.stack.isEmpty && w.bruin.isEmpty && w.keyed.any (·.reserved)

/-- The first issue of such a wave has been checked. -/
def Wave.checkedPc (w : Wave) : Wave := { w with keyed := w.keyed.map fun k => { k with reserved := false } }

/-- The word at a split's PC: a keyed wave's reserved bits (14 R202), the checks of R420, the fetch, and the check of a bundle that it
enters (03 R39). A bundle that it has entered is not fetched again (03 R45). -/
def State.issueAt (s : State) (wi : Nat) (w : Wave) (x : Split) : Offered :=
  let asid := s.asidOf w.part
  let raise (s : State) (cause faddr pc : Nat) : Offered := .settled (s.raise wi x.num cause faddr x.exec pc)
  if w.reservedPc then raise (s.modWave wi Wave.checkedPc) Cause.illegal x.pc x.pc
  else
    match pcFault (s.codeAt w.core asid x.pc) x.pc with
    | some cause => raise s cause x.pc x.pc
    | none =>
      if w.arriving x.num then .settled (s.arrive wi x.num 8)
      else
        let pc := resumePc x.pc
        match x.entered.filter fun e => e.1 == pc / 32 with
        | some e => s.wordAt wi x e.2 pc
        | none =>
          match s.fetch w.core asid pc with
          | .held s1 => .settled s1
          | .stage2 s1 g => .settled (s1.modSplit wi x.num fun y => { y.parkAs (.stage2 g) s.seq with pc := pc })
          | .fault t => .settled (s.parkFetch wi w x pc t)
          | .code ws s1 =>
            match entryFault ws pc with
            | some faddr => raise s1 Cause.illegal faddr pc
            | none => s1.wordAt wi x ws pc

/-- A split holds an issue slot of its quadrant (04 R76). -/
def State.holdsSlot (s : State) (wi : Nat) (w : Wave) (k : Nat) : Bool := (s.quad w.quad).slots.contains (some (wi, k))

/-- A split that has no slot fetches the bundle that it will issue from (04 R76): a fetch that faults parks it. -/
def State.fetchAhead (s : State) (wi : Nat) (w : Wave) (x : Split) : State :=
  let asid := s.asidOf w.part
  let pc := resumePc x.pc
  if !(s.mayIssue wi w x) ∨ (x.park ≠ .none ∧ x.park ≠ .marker) ∨ w.reservedPc ∨ (pcFault (s.codeAt w.core asid x.pc) x.pc).isSome ∨
      w.arriving x.num ∨ x.entered.any fun e => e.1 == pc / 32 then s
  else
    match s.fetch w.core asid pc with
    | .held s1 | .code _ s1 => s1
    | .stage2 s1 g => s1.modSplit wi x.num fun y => { y.parkAs (.stage2 g) s.seq with pc := pc }
    | .fault t => s.parkFetch wi w x pc t

/-- Split k of wave wi is offered its slot. -/
def State.offer (s : State) (wi k : Nat) : Offered :=
  match s.wave? wi with
  | none => .settled s
  | some w =>
    match w.split? k with
    | none => .settled s
    | some x =>
      if !(s.waveRuns w) then .settled s
      else if !(s.holdsSlot wi w k) then .settled (s.fetchAhead wi w x)
      else
        match x.park with
        | .completing pc f marked => .settled (s.complete wi k pc marked x.exec (s.completion wi k w f))
        | .rejoin _ | .joinw _ | .fault | .stage2 _ => .settled s
        | .none => if w.trap.isSome ∨ s.heldBack wi w k then .settled s else s.issueAt wi w x
        | .marker => if w.trap.isSome ∨ s.heldBack wi w k ∨ !(w.sbOf k).isEmpty then .settled s
          else s.issueAt wi (w.modSplit k fun y => { y with park := .none }) { x with park := .none }
        | .wait f next marked =>
          if s.heldBack wi w k ∨ (w.trap.isSome ∧ !f.completes) then .settled s
          else match s.waitRes wi w k f with
            | .stay => .settled s
            | .issue => s.issueAt wi w x
            | .met s1 => .settled (s1.endWait wi k next marked)
            | .trap cause faddr => .settled (s.raise wi k cause faddr x.exec x.pc)

/-! ## From outside -/

/-- An entry that is the oldest for its line could leave a wave's store buffer now. -/
def State.couldDrain (s : State) (w : Wave) (e : WEntry) : Bool :=
  w.mayDrain e && (w.wsb.find? fun x => lineOf x.addr == lineOf e.addr) == some e &&
    (match s.block? w.block with
     | none => false
     | some b => (if inAperture e.addr then s.drainScratch w e (e.addr - Config.aperture) else s.drainGlobal w b e).isSome)

/-- Some entry of a wave of the core that nothing holds back would stay in its store buffer for more than 32 cycles after it issued, were n
more to pass (08 R148). -/
def State.overdue (s : State) (c n : Nat) : Bool :=
  let now := (s.core c).clk.toNat + n
  s.waves.any fun e => e.2.core == c && e.2.wsb.any fun x => decide (x.at_ + 32 < now) && s.couldDrain e.2 x

/-- Cycles of a core pass, its clock gated or not (05 R105, 22 R311); store-buffer entries drain first that are due (08 R148). -/
def State.elapse (s : State) (c n : Nat) : State :=
  if Config.cores ≤ c ∨ s.overdue c n then s else s.modCore c fun k => { k with clk := k.clk + BitVec.ofNat 64 n }

/-- A sensor reading of a core arrives (21 R284). -/
def State.sense (s : State) (c : Nat) (t : Int) : State := if Config.cores ≤ c then s else s.modCore c fun k => { k with temp := t }

/-- The host writes its own memory. -/
def State.hostStore (s : State) (a : Nat) (bs : List Byte) : State :=
  ({ s with host := s.host.write a bs } : State).endSumsAt (portKey 1 0 a) bs.length

/-- Bytes of a peer's window change: the peer, or another module, has written them (21 R283). -/
def State.peerStore (s : State) (w a : Nat) (bs : List Byte) : State :=
  if w < 4096 ∧ a + bs.length ≤ two64 then
    ({ s with peers := s.peers.write (peerKey w a) bs } : State).endSumsAt (portKey 2 w a) bs.length
  else s

/-- Software sets the stage-1 root of an ASID (log 8). -/
def State.setRoot (s : State) (asid root : Nat) : State := { s with roots := s.roots.put asid root }

/-- The host places the BAR0 of a partition's VF. -/
def State.setBar (s : State) (p base : Nat) : State := { s with bars := s.bars.put p base }

/-- A constructor that stands for a step of the device, which no split issues. -/
def isEvent (i : Instr) : Bool :=
  match i.shape, i with
  | .step, .reservedOpcode _ => false
  | .step, _ => true
  | _, _ => false

/-- How the bundle stands that a split that is not parked issues from (04 R76). -/
inductive Awaited where
  /-- not fetched -/
  | bundle
  /-- fetched, with this word in the split's slot -/
  | word (i : Instr)
  /-- no word of a bundle: it traps or arrives where it is -/
  | none

/-- The word that a split that is not parked would issue next. -/
def State.awaited (s : State) (w : Wave) (x : Split) : Awaited :=
  let asid := s.asidOf w.part
  let pc := resumePc x.pc
  if w.reservedPc ∨ (pcFault (s.codeAt w.core asid x.pc) x.pc).isSome ∨ w.arriving x.num then .none
  else
    match x.entered.filter fun e => e.1 == pc / 32 with
    | some e => .word (instrAt e.2 (slotOf pc))
    | none =>
      match s.fetch w.core asid pc with
      | .code ws _ => if (entryFault ws pc).isSome then .none else .word (instrAt ws (slotOf pc))
      | _ => .bundle

/-- The operand codes that a word is checked for HAZARD on. -/
def wordCodes (s : State) (c : Ctx) (i : Instr) : List Nat :=
  match i with
  | .ld128 _ _ _ | .st128 _ _ _ => progCodes i c
  | .kpush d a _ => instrCodes i (mType c.sp.mode) ++ ((pushBinding s c d a).elim [] fun x => groupCodes d x.recWords)
  | _ => instrCodes i (mType c.sp.mode)

/-- A structural stall holds a word (04 R76): a queue that it enters is full, or it waits for its split's own results (04 R72, R74, R82,
14 R204). DEDUCED (log 94). -/
def State.structural (s : State) (c : Ctx) (i : Instr) : Bool :=
  let results := !(c.w.sbOf c.sp.num).isEmpty
  let matrix := mxChecks.roleOk c.w.role && s.mxFull c.w.quad
  match i with
  | .brx _ _ _ | .joinw _ | .exit => results
  | .kyield | .kend => c.w.keyed.isSome && results
  | .regroup _ _ => c.w.keyed.isNone && c.sp.prog != 1 && results
  | .cpy _ _ _ | .cpy2d _ _ _ => copyRole c.w.role && c.act != 0 && s.copyFull c.w
  | .mxrel _ | .mxfill _ _ _ | .mxzero _ _ | .mxmma _ _ _ | .mxmmas _ _ _ | .mxmmasp _ _ _ | .mxldacc _ _ _ | .mxstacc _ _ _ =>
    matrix && (mxCause c.w (s.scratchOf c.w) (mxOpOf c i)).isNone
  | .mxlist _ _ b => matrix && decide (1 ≤ rawN c b) && decide (rawN c b ≤ 256)
  | .qfence _ a => decide (rawN c a < 32) && (rawN c a).testBit 2 && s.mxFull c.w.quad
  | _ => false

/-- A word is held: a register that it names is pending for another split of the wave (04 R79), or a structural stall holds it (04 R76).
A word that raises ILLEGAL or HAZARD is not. -/
def State.wordHeld (s : State) (wi : Nat) (x : Split) (i : Instr) : Bool :=
  match ({ s with issue := some { wave := wi, split := x.num, pc := x.pc, next := x.pc, marked := false } } : State).ctx? with
  | none => false
  | some c =>
    let codes := wordCodes s c i
    if !(decodesFor i c) || codes.any fun r => (c.w.sbOf c.sp.num).contains r then false
    else (codes.any fun r => (c.w.pend.flatMap (·.codes)).contains r) || s.structural c i

/-- A split is ready: not parked, or its wait is over; its bundle is fetched and nothing holds the word (04 R76, R79). -/
def State.splitReady (s : State) (wi : Nat) (w : Wave) (x : Split) : Bool :=
  s.mayIssue wi w x && (match x.park with
    | .completing _ f _ => (match s.completion wi x.num w f with | .stays => false | _ => true)
    | .none | .marker =>
      (match s.awaited w x with
       | .bundle => false
       | .word i => !(s.wordHeld wi x i)
       | .none => true)
    | _ => true)

/-- A split that becomes ready, or stops being so, at a stamp (04 R77). -/
def Split.note (x : Split) (ready : Bool) (at_ : Nat) : Split :=
  if ready = x.ready then x else if ready then { x with ready := true, readyAt := at_ } else { x with ready := false }

/-- Note which splits of running waves are ready: those that the last move made ready became so together (04 R77). -/
def State.noteReady (s : State) : State :=
  { s with waves := s.waves.map fun e =>
      if s.waveRuns e.2 then (e.1, { e.2 with splits := e.2.splits.map fun x => x.note (s.splitReady e.1 e.2 x) s.seq }) else e }

/-- A move begins: time has gone on since the last one, and the splits that it made ready are ready. -/
def State.tick (s : State) : State := ({ s with seq := s.seq + 1 } : State).noteReady

/-- The turn that comes next, and the state that has taken it. -/
def State.nextTurn (s : State) : Turn × State :=
  match s.turns with
  | t :: ts => (t, ({ s with turns := ts } : State).tick)
  | [] => (Config.freeTurn s.free, s.drawn.tick)

/-! ## A program in place (log 4) -/

/-- A control word: LIT is set for slot 2 when the word in slot 1 consumes a literal. -/
def controlFor (w : Word) : Word := if consumesLiteral w then 0x00000100#32 else 0

/-- The bytes of a bundle with a table word in slot 1. -/
def bundleOf (w : Nat) : List Byte :=
  bytesOf [controlFor (BitVec.ofNat 32 w), BitVec.ofNat 32 w] ++ leBytes (if consumesLiteral (BitVec.ofNat 32 w) then w / 4294967296 else 0) 4 ++
    List.replicate 20 0

/-- A translation of granule 0 to physical address 0, with every permission. -/
def bootRight : Right :=
  { ok := true, ipa := 0, pa := 0, tgt := 0, peer := 0, attr := 0, r := true, w := true, x := true, r1 := true, w1 := true, x1 := true }

/-- A quadrant entry that gives partition 0 core 0's first quadrant. -/
def bootQuad : QuadEntry :=
  { part := 0, en := true, rsv7 := false, bank0 := 0, nbank := 1, l1w := 1, sett := 1, stash := 1, mwin := 1, cpq := 1, recb := 1, rsv58 := 0 }

/-- A launch record of one block of one wave. -/
def bootRecord : LaunchRec :=
  { entry := 0, args := 0, blocks := 1, waves := 1, regs := 128, early := false, scratch := 16384, roles := 0, tiles := 0, slots := 0
    priority := 0, cls := 0, pred := 0, lease := 256, tbase := 0, kbase := 0 }

/-- A launch of it. -/
def bootLaunch : Launch :=
  { part := 0, queue := 0, id := 0, order := 0, record := bootRecord, pred := none, hasPred := false, nextBlock := 1, halted := false
    counts := true, skipped := none, served := false, yielding := false, yielded := false, keyedBlocks := 0, bind := none, past := [], complete := false }

/-- Its one wave. -/
def bootStart : Start :=
  { part := 0, block := 0, launch := 0, core := 0, blockId := 0, size := 1, record := bootRecord, child := none, live := allLanes }

/-- Partition 0 as it runs. -/
def bootPart : Part := { Part.reset with state := 0, quads := [(0, bootQuad)], slices := [0] }

/-- A bundle in place at VA 0, and a wave of partition 0 about to issue its slot 1. -/
def State.placeBundle (s : State) (bs : List Byte) : State :=
  let right (c : Core) : Core := { c with rights := c.rights.put 0 bootRight, icache := c.icache.drop 0, gated := false }
  { s with
    turns := [.issue 0 0]
    issue := none
    parts := s.parts.put 0 bootPart
    cores := s.cores.put 0 (right (s.core 0))
    quads := s.quads.put 0 { s.quad 0 with slots := [some (0, 0), none, none, none, none, none, none, none] }
    launches := s.launches.put 0 bootLaunch
    blocks := s.blocks.put 0 (startBlock bootStart 0 [0])
    waves := s.waves.put 0 (startWave bootStart 0 0 0 0 4 0 [])
    tlb := s.tlb.put 0 bootRight
    lines := s.lines.drop 0
    sram := s.sram.drop 0
    pt := s.pt.write 0 bs }

end Machine
end Sys2Proof
end

