-- ==== Sys2Proof/Machine/Step.lean ====
section
/-! DEFINITION. One step: the agent whose turn it is moves (log 1). -/

namespace Sys2Proof.Machine

/-- After a word no split is issuing. -/
def issued : Host.Outcome State Fault Refusal → Host.Outcome State Fault Refusal
  | .next s => .next { s with issue := none }
  | r => r

/-- What an agent does with its turn. -/
def take (t : Turn) (s : State) : Host.Outcome State Fault Refusal :=
  match t with
  | .issue w k =>
    match s.offer w k with
    | .word i s1 => issued (exec i s1)
    | .settled s1 => .next s1
  | .event i => if isEvent i then exec i s else .next s
  | .elapse c n => .next (s.elapse c n)
  | .sensor c t => .next (s.sense c t)
  | .hostStore a bs => .next (s.hostStore a bs)
  | .setRoot asid root => .next (s.setRoot asid root)
  | .setBar p base => .next (s.setBar p base)
  | .peerStore w a bs => .next (s.peerStore w a bs)
  | .mxStep q n => .next (s.mxWork (some 1) q n)
  | .poseRead l => .next (s.poseRead l)
  | .scan l n => .next (s.scan l n)

/-- One step of the machine. -/
def step (s : State) : Host.Outcome State Fault Refusal := take s.nextTurn.1 s.nextTurn.2

/-- The state with an instruction where the next step fetches and runs it: a wave of partition 0 in its issue slot, its bundle in
memory (log 4). -/
def State.withFetchWord (s : State) (_nbits w : Nat) : State := s.placeBundle (bundleOf w)

end Sys2Proof.Machine
end

