-- ==== Sys2Proof/Safety.lean ====
section
/-! DEFINITION. What claims are stated in: when a word is ready to run, what it has written and left alone, how the machine completes
a step, what a well-formed state is, and what a safe run is. -/

namespace Sys2Proof.Safety

open Machine

/-! ## Steps and runs -/

/-- The meaning of an instruction answers a next state. -/
def Completes (i : Instr) (s : State) : Prop := ∃ t, exec i s = .next t

/-- The machine goes on. -/
def Goes (s : State) : Prop := ∃ t, step s = .next t

/-- A split of the state is in the course of issuing. -/
def Issuing (s : State) : Prop := s.ctx? ≠ none

/-- Every memory is in canonical form: those of the machine as a whole, the blocks' scratch, the waves' tiles and staging slots, and
the progress of the matrix commands. -/
def MemoryOk (s : State) : Bool :=
  s.pt.wf && s.host.wf && s.peers.wf && s.home.wf && s.module.entries.wf && (s.blocks.all fun b => b.2.scratch.wf) &&
    (s.waves.all fun w => w.2.tiles.wf && w.2.slots.all fun x => x.data.wf) && s.quads.all fun q => q.2.mxq.all fun x => x.chains.wf

/-- A run of the machine from a state meets no fault and no refusal, however long it is followed. -/
def SafeRun (s : State) : Prop := ∀ n : Nat, ∃ t, Host.Core.run core n s = .next t

/-- A step of the machine's own: a split issues, or one of the steps of 08 Table 8.2 and those that deliver a result. -/
def ownStep : Turn → Bool
  | .issue _ _ => true
  | .event (.drain _ _) | .event (.perform _ _ _) | .event (.forwardedAccess _ _ _) | .event (.consume _) | .event (.satisfy _ _ _)
  | .event (.fillL1 _ _) | .event (.fillCopy _ _ _) | .event (.evict _) | .event (.writeBack _) | .event (.stashFill _ _ _)
  | .event (.port _) | .event (.engine _) | .event (.resultWrite _ _) | .event (.mwDelivery _ _) | .event (.rejoinArrival _ _) => true
  | _ => false

/-- A fair run (08 R148): however far it has gone, every step of the machine's own comes again, and so one that stays enabled is taken.
The model leaves the order of turns free (log 1); a claim that something comes about has this as its premise. -/
def Fair (s : State) : Prop :=
  ∀ t, ownStep t = true → ∀ n, ∃ m u, n ≤ m ∧ Host.Core.run core m s = .next u ∧ u.nextTurn.1 = t

/-- Every memory that software or an agent can read through an address is the same in two states. -/
def SameMemory (s t : State) : Prop :=
  t.pt = s.pt ∧ t.sram = s.sram ∧ t.host = s.host ∧ t.peers = s.peers ∧ t.home = s.home ∧ t.sums = s.sums ∧
    t.portWrites = s.portWrites

/-! ## A word that is ready -/

/-- A split issues the word and nothing refuses it: it decodes for the wave (03 R50, R53), its TYPE and its entry's conditions
hold, its role may issue it (05 R90), and no register that it names awaits a result (04 R79). -/
def Ready (i : Instr) (k : Checks) (s : State) (c : Ctx) : Prop :=
  s.ctx? = some c ∧ decodesFor i c = true ∧ k.typeOk (mType c.sp.mode) = true ∧ k.illegal c = false ∧ k.illConv c = false ∧
    k.roleOk c.w.role = true ∧ ∀ r ∈ instrCodes i (mType c.sp.mode), r ∉ c.w.pend.flatMap (·.codes)

/-- What is judged of a word before the registers that its split awaits (18 Table 18.1, ranks 1 to 3): the types it is valid under, its
conditions of ILLEGAL and ILLCONV that read no such register, and the roles that may issue it. -/
def checksOf (s : State) (i : Instr) : Checks :=
  let alu (d : Operand) (srcs : List Operand) (ty : Nat → Bool) : Checks := { typeOk := ty, illegal := fun _ => vectorToScalar d srcs }
  let atomic (op : AtomicOp) : Checks :=
    { typeOk := atomicTypes op, illegal := fun c => !(useAllows (mAuse c.sp.mode) (mType c.sp.mode) op) }
  match i with
  | .mov d a => alu d [a] fun _ => true
  | .scalex d a b => alu d [a, b] fun _ => true
  | .add d a b | .sub d a b | .min d a b | .max d a b => alu d [a, b] tyAdd
  | .mul d a b | .mad d a b => alu d [a, b] tyMul
  | .mulhi d a b => alu d [a, b] tyMulhi
  | .abs d a | .neg d a => alu d [a] tyAbs
  | .andB d a b | .orB d a b | .xorB d a b | .shl d a b | .shr d a b => alu d [a, b] tyLogic
  | .notB d a => alu d [a] tyLogic
  | .bfx d a b | .bfi d a b | .addw d a b => alu d [a, b] tyInt32
  | .popc d a | .clz d a | .brev d a => alu d [a] tyInt32
  | .dot d a b => alu d [a, b] tyDot
  | .cvt d a _ => alu d [a] fun ty => ty != 14
  | .ldexp d a b => alu d [a, b] tyF
  | .roundi d a | .fract d a | .rcp d a | .rsq d a | .sqrt d a | .exp2 d a | .log2 d a | .sin d a | .cos d a => alu d [a] tyF
  | .cmpun _ _ _ | .classF _ _ _ => { typeOk := isFloat }
  | .shfl _ _ _ | .shflx _ _ _ | .rdlane _ _ _ | .wrlane _ _ _ | .matchLanes _ _ => { typeOk := tyNot64 }
  | .scan _ _ => { typeOk := tyScan }
  | .reduce _ _ b => { typeOk := fun ty => match b with | .int k => if k.val < 3 then tyScan ty else tyBits ty | _ => true }
  | .rebal _ _ _ => { typeOk := tyInt32 }
  | .regroup _ _ => { illegal := fun c => c.w.keyed.isSome }
  | .aadd _ _ _ => atomic .add
  | .amin _ _ _ => atomic .min
  | .amax _ _ _ => atomic .max
  | .aand _ _ _ => atomic .and
  | .aor _ _ _ => atomic .or
  | .axor _ _ _ => atomic .xor
  | .axchg _ _ _ => atomic .xchg
  | .acas _ _ _ => atomic .cas
  | .ainc _ _ _ => atomic .inc
  | .cpy _ _ _ | .cpy2d _ _ _ => { roleOk := copyRole }
  | .gath _ a _ | .scat _ a _ => sliceChecks a
  | .bar a b => barChecks s a b true
  | .bara a b => barChecks s a b false
  | .mxclaim _ _ | .mxrel _ | .mxfill _ _ _ | .mxzero _ _ | .mxmma _ _ _ | .mxmmas _ _ _ | .mxmmasp _ _ _ | .mxldacc _ _ _
  | .mxstacc _ _ _ | .mxlist _ _ _ => mxChecks
  | .kpush d a _ => { illegal := fun c => !(pendingReg c a) && (pushBinding s c d a).isNone, roleOk := fun r => r != 1 }
  | .kyield | .kend => { illegal := fun c => c.w.keyed.isNone }
  | .triemit _ => { illegal := fun c => !(((s.launch? c.w.launch).bind (·.bind)).isSome), roleOk := fun r => r != 1 }
  | _ => {}

/-- The word names a register that its own split awaits, r the first in field order (04 R79). -/
def Awaits (i : Instr) (s : State) (c : Ctx) (r : Nat) : Prop :=
  (wordCodes s c i).find? (fun r => (c.w.sbOf c.sp.num).contains r) = some r

/-! ## The issue of a word -/

/-- It is the turn of split x, number k of wave w, in its issue slot: it waits for nothing, nothing holds it back, and it issues from
bundle ws, which it has entered or which the fetch gives it and the check of a bundle passes (03 R39, R420, 04 R76). s1 is the machine
then. -/
def Issues (s s1 : State) (wi k : Nat) (w : Wave) (x : Split) (ws : List Word) : Prop :=
  s.nextTurn.1 = .issue wi k ∧ s.nextTurn.2.wave? wi = some w ∧ w.split? k = some x ∧
    s.nextTurn.2.waveRuns w = true ∧ s.nextTurn.2.holdsSlot wi w k = true ∧ x.park = .none ∧ w.trap = none ∧
    s.nextTurn.2.heldBack wi w k = false ∧ w.reservedPc = false ∧ x.pc % 4 = 0 ∧ x.pc < Config.vaEnd ∧ w.arriving k = false ∧
    ((x.entered = some (x.pc / 32, ws) ∧ s1 = s.nextTurn.2) ∨
      ((∀ e, x.entered = some e → e.1 ≠ x.pc / 32) ∧
        s.nextTurn.2.fetch w.core (s.nextTurn.2.asidOf w.part) (resumePc x.pc) = .code ws s1 ∧
        bundleOk ws = true ∧ isLit ws (slotOf (resumePc x.pc)) = false))

/-- s2 is s1 with the word in the split's slot in the course of issuing; the split keeps the bundle. -/
def Issued (s1 s2 : State) (wi k : Nat) (w : Wave) (x : Split) (ws : List Word) : Prop :=
  s2.ctx?.map (fun c => (c.wi, c.sp.num, c.pc, c.next, c.marked)) =
      some (wi, k, resumePc x.pc, nextPc ws (resumePc x.pc), isMarked ws (slotOf (resumePc x.pc))) ∧
    s2.wave? wi = some (w.modSplit k fun y => { y with pc := resumePc x.pc, entered := some (x.pc / 32, ws) }) ∧
    (∀ v, v ≠ wi → s2.wave? v = s1.wave? v) ∧ { s2 with issue := s1.issue, waves := s1.waves } = s1

/-- The word in a split's slot of a bundle, decoded with the slot after it. -/
def wordIn (ws : List Word) (pc : Nat) : Except Reject Instr :=
  decode (slotWord ws (slotOf (resumePc pc))) (literalOf ws (slotOf (resumePc pc)))

/-! ## What a word leaves -/

/-- Nothing of the machine but the issuing wave has changed. -/
def OnlyWave (c : Ctx) (s t : State) : Prop := (∀ v, v ≠ c.wi → t.wave? v = s.wave? v) ∧ { t with waves := s.waves } = s

/-- The issuing split has gone on at a PC, or is parked there at its switch marker (03 R41, 04 R79); the other splits stay. -/
def WentOn (c : Ctx) (s : State) (w : Wave) (pc : Nat) (branch : Bool) : Prop :=
  w.splits = c.w.splits.map fun x => if x.num = c.sp.num then
    { x.goTo pc with park := w.marker c.marked c.sp.num, parkedAt := s.seq, entered := if branch then none else x.entered } else x

/-- Operand d names vector register r as one of n. -/
def namesV (d : Operand) (n r : Nat) : Bool := match d with | .v x => decide (x.val ≤ r) && decide (r < x.val + n) | _ => false

/-- Operand d names scalar register r as one of n. -/
def namesS (d : Operand) (n r : Nat) : Bool := match d with | .s x => decide (x.val ≤ r) && decide (r < x.val + n) | _ => false

/-- The first register of an operand. -/
def baseOf (d : Operand) : Nat := match d with | .v x => x.val | .s x => x.val | _ => 0

/-- The wave has received f k l in lane l of the k-th of n registers that d names, in the lanes of a mask (a scalar register takes
f k 0), and fl in its exception flags; every other register and everything else of the wave but its splits is as before. -/
def Received (w0 w : Wave) (d : Operand) (mask : Word) (n : Nat) (f : Nat → Nat → Word) (fl : Flags) : Prop :=
  (∀ r l, r < 128 → l < 32 → w.readV r l = if namesV d n r && bit mask l then f (r - baseOf d) l else w0.readV r l) ∧
  (∀ r, r < 64 → w.readS r = if namesS d n r then f (r - baseOf d) 0 else w0.readS r) ∧
  w.fpflags = w0.fpflags ||| fl ∧
  { w with v := w0.v, s := w0.s, fpflags := w0.fpflags, splits := w0.splits } = w0

/-- A word that writes registers at once: the issuing wave has received them and its split has gone on; nothing else has changed. -/
def Wrote (c : Ctx) (s t : State) (d : Operand) (mask : Word) (n : Nat) (f : Nat → Nat → Word) (fl : Flags) : Prop :=
  OnlyWave c s t ∧ ∃ w, t.wave? c.wi = some w ∧ Received c.w w d mask n f fl ∧ WentOn c s w c.next false

/-- A word that writes a predicate, or a scalar register, or nothing. -/
def WroteP (c : Ctx) (s t : State) (d : Operand) (x : Word) (fl : Flags) : Prop :=
  OnlyWave c s t ∧ ∃ w, t.wave? c.wi = some w ∧
    (∀ r, r < 8 → w.readP r = match d with | .p k => if r = k.val ∧ r ≠ 0 then x else c.w.readP r | _ => c.w.readP r) ∧
    (∀ r, r < 64 → w.readS r = match d with | .s k => if r = k.val then x else c.w.readS r | _ => c.w.readS r) ∧
    w.fpflags = c.w.fpflags ||| fl ∧
    { w with p := c.w.p, s := c.w.s, fpflags := c.w.fpflags, splits := c.w.splits } = c.w ∧ WentOn c s w c.next false

/-- A destination that an empty ACT leaves alone. -/
def liveD (c : Ctx) (d : Operand) : Operand := if c.act = 0 then .int 0 else d

/-- The lanes whose flags an arithmetic word gathers: those of ACT, or one for the split when D is scalar or no source is a vector
and the result is discarded (22 R290). -/
def flagLanes (c : Ctx) (d : Operand) (srcs : List Operand) : List Nat :=
  actLanes (if isV d then false else if isDiscard d then !(srcs.any isVecSrc) else true) c.act

/-- The word computes f lane by lane into the register or registers of D (22 R290). -/
def Computes (i : Instr) (k : Checks) (d : Operand) (srcs : List Operand) (n : Nat → Nat) (f : Ctx → Nat → Nat × Flags) : Prop :=
  ∀ s c, Ready i k s c → ∃ t, exec i s = .next t ∧
    Wrote c s t (liveD c d) c.act (n (mType c.sp.mode)) (fun j l => groupWord (f c l).1 j)
      (orFlags ((flagLanes c d srcs).map fun l => (f c l).2))

/-- The value an operand supplies to a lane under the split's TYPE (03 R54). -/
def val (c : Ctx) (o : Operand) (l : Nat) : Nat := valLane c (mType c.sp.mode) o l

/-- An element function of A under TYPE, RND and SAT, over all elements of a lane (11 R162). -/
def lane1 (f : Nat → Nat → Bool → Nat → Nat × Flags) (a : Operand) (c : Ctx) (l : Nat) : Nat × Flags :=
  let ty := mType c.sp.mode
  perElem ty fun k => f ty (mRnd c.sp.mode) (mSat c.sp.mode) (elem (elemWidth ty) k (val c a l))

/-- An element function of A and B. -/
def lane2 (f : Nat → Nat → Bool → Nat → Nat → Nat × Flags) (a b : Operand) (c : Ctx) (l : Nat) : Nat × Flags :=
  let ty := mType c.sp.mode
  perElem ty fun k => f ty (mRnd c.sp.mode) (mSat c.sp.mode) (elem (elemWidth ty) k (val c a l)) (elem (elemWidth ty) k (val c b l))

/-- An element function of A, B and D's old value. -/
def lane3 (f : Nat → Nat → Bool → Nat → Nat → Nat → Nat × Flags) (a b d : Operand) (c : Ctx) (l : Nat) : Nat × Flags :=
  let ty := mType c.sp.mode
  perElem ty fun k => f ty (mRnd c.sp.mode) (mSat c.sp.mode) (elem (elemWidth ty) k (val c a l)) (elem (elemWidth ty) k (val c b l))
    (elem (elemWidth ty) k (val c d l))

/-- The word writes, in each lane of ACT, one bit of predicate D (f of the lane, or f 0 for the split when no source is a vector), and
gathers flags; the predicate's other bits and everything else are as before (22 R313). -/
def Compares (i : Instr) (ty : Nat → Bool) (d : Operand) (srcs : List Operand) (f : Ctx → Nat → Bool × Flags) : Prop :=
  ∀ s c, Ready i { typeOk := ty } s c → ∃ t w, exec i s = .next t ∧ OnlyWave c s t ∧ t.wave? c.wi = some w ∧
    (∀ r l, r < 8 → l < 32 → bit (w.readP r) l =
      if d = .p (Fin.ofNat 8 r) ∧ r ≠ 0 ∧ bit c.act l = true then (f c (if srcs.any isVecSrc then l else 0)).1 else bit (c.w.readP r) l) ∧
    w.fpflags = c.w.fpflags ||| orFlags ((actLanes (!(srcs.any isVecSrc)) c.act).map fun l => (f c l).2) ∧
    { w with p := c.w.p, fpflags := c.w.fpflags, splits := c.w.splits } = c.w ∧ WentOn c s w c.next false

/-- The results of a long-latency word are on their way: their registers are pending and nothing else of the wave has changed but its
flags (04 R78). -/
def Sent (c : Ctx) (s t : State) (ps : List Pend) (fl : Flags) : Prop :=
  { t with waves := s.waves, seq := s.seq, free := s.free } = s ∧ (∀ v, v ≠ c.wi → t.wave? v = s.wave? v) ∧
  ∃ w, t.wave? c.wi = some w ∧ w.pend = c.w.pend ++ ps ∧ w.fpflags = c.w.fpflags ||| fl ∧
    { w with pend := c.w.pend, fpflags := c.w.fpflags, splits := c.w.splits } = c.w ∧
    ∃ x, w.split? c.sp.num = some x ∧ x.pc = c.next ∧ x.live = c.sp.live ∧ x.exec = c.sp.exec ∧ x.mode = c.sp.mode

/-- The running sums of SCAN over the lanes of ACT: lane, value, flags (24 R395). -/
def scanOf (c : Ctx) (a : Operand) : List (Nat × Nat × Flags) :=
  let ty := mType c.sp.mode
  scanLanes (fun x => perElem ty fun k => quietElem ty (elem (elemWidth ty) k x)) (fun x y => perElem ty fun k =>
    addElem ty (mRnd c.sp.mode) (mSat c.sp.mode) (elem (elemWidth ty) k x) (elem (elemWidth ty) k y)) (val c a) none (lanesOf c.act)

/-- REDUCE's result of an operation code over the lanes of ACT, element by element (24 R387). -/
def reduceOf (c : Ctx) (a : Operand) (op : Nat) : Nat × Flags :=
  let ty := mType c.sp.mode
  perElem ty fun j => reduceElem op ty (mRnd c.sp.mode) (mSat c.sp.mode) c.act fun l => elem (elemWidth ty) j (rawLane c a l).toNat

/-- The word has changed nothing but its split, which is now f of what it was and has gone on. -/
def SplitNow (c : Ctx) (s t : State) (f : Split → Split) : Prop :=
  OnlyWave c s t ∧ ∃ w, t.wave? c.wi = some w ∧ { w with splits := c.w.splits } = c.w ∧
    w.splits = c.w.splits.map fun x => if x.num = c.sp.num then
      { (f x).goTo c.next with park := c.w.marker c.marked c.sp.num, parkedAt := s.seq } else x

/-- The word has left the wave as w1, but for its split, which has gone on. -/
def LeftWave (c : Ctx) (s t : State) (w1 : Wave) : Prop :=
  OnlyWave c s t ∧ ∃ w, t.wave? c.wi = some w ∧ { w with splits := c.w.splits } = { w1 with splits := c.w.splits } ∧
    WentOn c s w c.next false

/-- The split has moved to slot 1 of a bundle, and nothing else has changed (03 R42, R43). -/
def Jumped (c : Ctx) (s t : State) (bundle : Nat) : Prop :=
  OnlyWave c s t ∧ ∃ w, t.wave? c.wi = some w ∧ { w with splits := c.w.splits } = c.w ∧ WentOn c s w (bundle + 4) true

/-- The bundle that OFF16 names, counted from the branch's own bundle modulo 2^64 (03 R42). -/
def targetOf (c : Ctx) (off : BitVec 16) : Nat :=
  ((32 * ((c.pc / 32 : Nat) : Int) + 32 * off.toInt) % 18446744073709551616).toNat

/-! ## Float values (11 R163 to R166) -/

/-- The sign of an element. -/
def negF (f : Fmt) (x : Nat) : Bool := decide (x / f.signBit % 2 = 1)

/-- Its biased exponent. -/
def expF (f : Fmt) (x : Nat) : Nat := x / 2 ^ f.mbits % 2 ^ f.ebits

/-- Its mantissa. -/
def manF (f : Fmt) (x : Nat) : Nat := x % 2 ^ f.mbits

/-- NaN (11 Table 11.2). -/
def nanF (f : Fmt) (x : Nat) : Bool :=
  match f.special with
  | .ieee => expF f x == 2 ^ f.ebits - 1 && manF f x != 0
  | .f8a => expF f x == 2 ^ f.ebits - 1 && manF f x == 2 ^ f.mbits - 1
  | .none => false

/-- A signalling NaN: its mantissa's most significant bit is 0; F8A has none (11 R166). -/
def snanF (f : Fmt) (x : Nat) : Bool := nanF f x && f.special == .ieee && decide (manF f x < 2 ^ (f.mbits - 1))

/-- An infinity (11 Table 11.2). -/
def infF (f : Fmt) (x : Nat) : Bool := f.special == .ieee && expF f x == 2 ^ f.ebits - 1 && manF f x == 0

/-- The value of a finite element (11 R163); of an infinity, a number beyond every finite value of its sign. -/
def realF (f : Fmt) (x : Nat) : ℚ :=
  (if negF f x then -1 else 1) *
    (if expF f x = 0 then (manF f x : ℚ) * 2 ^ (1 - (f.bias : ℤ) - f.mbits)
     else (2 ^ f.mbits + manF f x : ℚ) * 2 ^ ((expF f x : ℤ) - f.bias - f.mbits))

/-- A finite element. -/
def finF (f : Fmt) (x : Nat) : Prop := nanF f x = false ∧ infF f x = false

/-- The numbers that have the format's precision, the exponent unbounded above, and below too where no lowest quantum is given. -/
def OnGrid (f : Fmt) (lowest : Option ℤ) (u : ℚ) : Prop :=
  ∃ k t : ℤ, |k| < 2 ^ (f.mbits + 1) ∧ (∀ l, lowest = some l → l ≤ t) ∧ u = k * 2 ^ t

/-- u is q rounded into a set of numbers under RND: 1 towards zero, 2 towards +∞, 3 towards −∞, 4 to nearest with ties away from zero, 0 to
nearest with ties to an even multiple of the gap (11 R164). -/
def Nearest (rnd : Nat) (S : ℚ → Prop) (q : ℝ) (u : ℚ) : Prop :=
  S u ∧ match rnd with
    | 1 => 0 ≤ u * q ∧ |(u : ℝ)| ≤ |q| ∧ ∀ g : ℚ, S g → 0 ≤ g * q → |(g : ℝ)| ≤ |q| → |g| ≤ |u|
    | 2 => q ≤ u ∧ ∀ g : ℚ, S g → q ≤ g → u ≤ g
    | 3 => (u : ℝ) ≤ q ∧ ∀ g : ℚ, S g → (g : ℝ) ≤ q → g ≤ u
    | 4 => ∀ g : ℚ, S g → |u - q| ≤ |g - q| ∧ (|u - q| = |g - q| → |g| ≤ |u|)
    | _ => ∀ g : ℚ, S g → |u - q| ≤ |g - q| ∧ (|u - q| = |g - q| → g ≠ u → ∃ n : ℤ, u = 2 * n * (u - g))

/-- r is the exact result q rounded once to a format, with its flags (11 R164, Tables 11.3, 11.4); zneg is the sign of an exact zero. -/
def RoundedTo (f : Fmt) (rnd : Nat) (sat zneg : Bool) (q : ℝ) (r : Nat × Flags) : Prop :=
  (q = 0 → r = (f.signed zneg 0, 0)) ∧
  (q ≠ 0 → ∃ (u t : ℚ) (neg ix uf : Bool), Nearest rnd (OnGrid f (some (1 - (f.bias : ℤ) - f.mbits))) q u ∧
    Nearest rnd (OnGrid f none) q t ∧ (neg = true ↔ q < 0) ∧ (ix = true ↔ (u : ℝ) ≠ q) ∧
    (uf = true ↔ |t| < 2 ^ (1 - (f.bias : ℤ)) ∧ (u : ℝ) ≠ q) ∧
    (realF f f.maxCode < |u| → r = (overflowed f rnd sat neg, Flag.of ||| Flag.ix)) ∧
    (|u| ≤ realF f f.maxCode → r.1 < 2 * f.signBit ∧ finF f r.1 ∧ negF f r.1 = neg ∧ realF f r.1 = u ∧
      r.2 = (if ix then Flag.ix else 0) ||| (if uf then Flag.uf else 0)))

/-! ## Memory words -/

/-- Every lane of an access lies where it may and has its rights in the core (06 R107 to R109, 18 R253). -/
def AllGranted (c : Ctx) (s : State) (width : Nat) (stores : Bool) (need : Need) (ls : List (Nat × Nat)) : Prop :=
  (∀ e ∈ ls, addrCause s c.w width stores e.2 = none) ∧
  ∀ g ∈ granulesOf ls, ∃ r, s.access c.w.core (s.asidOf c.w.part) (g * 65536) need = .granted r

/-- LD128 or ST128 is ready: while it resumes with progress its own registers are not looked at (18 Table 18.2). -/
def ReadyProg (i : Instr) (s : State) (c : Ctx) : Prop :=
  s.ctx? = some c ∧ decodesFor i c = true ∧ ∀ r ∈ progCodes i c, r ∉ c.w.pend.flatMap (·.codes)

/-- The pending record of a load: none when no lane loads (04 R78, 08 R147). -/
def loadPend (c : Ctx) (d : Operand) (width n : Nat) (acq : Option Nat) (promote : Bool) (ls : List (Nat × Nat)) : List Pend :=
  if ls = [] then []
  else [Pend.mk n c.sp.num ((upTo (max 1 (width / 4))).map (regCode d + ·)) (.load
    { seq := n, after := c.sp.acq, width := width, dst := regCode d, signed := mType c.sp.mode == 0, cpol := mCpol c.sp.mode
      lanes := ls.map fun e => { lane := e.1, addr := e.2, atHome := c.w.behindAtomic e.2 width, got := none }
      acq := acq, promote := promote })]

/-- The issuing wave has entered these writes into its store buffer, in this order, each held by `holds` and by the fences before it; its
split has gone on, and memory and every other wave are as before (08 R147, R152). -/
def Entered (c : Ctx) (s t : State) (es : List (Nat × Payload)) (tag : Bool) (holds : List Nat) : Prop :=
  SameMemory s t ∧ (∀ v, v ≠ c.wi → t.wave? v = s.wave? v) ∧ ∃ w new, t.wave? c.wi = some w ∧ w.wsb = c.w.wsb ++ new ∧
    new.map (fun e => (e.addr, e.payload)) = es ∧
    (∀ e ∈ new, e.wave = c.wi ∧ e.tag = tag ∧ e.holds = holds ++ c.w.relHolds ∧ e.read = false ∧ e.cpol = mCpol c.sp.mode) ∧
    w.v = c.w.v ∧ w.s = c.w.s ∧ w.p = c.w.p ∧ w.h = c.w.h ∧ w.alive = c.w.alive ∧ w.stack = c.w.stack ∧
    ∃ x, w.split? c.sp.num = some x ∧ x.pc = c.next ∧ x.exec = c.sp.exec ∧ x.live = c.sp.live ∧ x.mode = c.sp.mode

/-- The stores of the lanes of an access: of lanes with one address the highest counts (06 R111). -/
def storesOf (c : Ctx) (d : Operand) (width : Nat) (ls : List (Nat × Nat)) : List (Nat × Payload) :=
  (lastLanes ls).map fun e => (e.2, .store (storeBytes c d width e.1))

/-- The atomic of a lane (22 R291 to R294). -/
def atomicOf (op : AtomicOp) (d b : Operand) (c : Ctx) (n : Nat) (e : Nat × Nat) : Nat × Payload :=
  let wide := mType c.sp.mode == 14
  (e.2, .atomic { op := op, type := mType c.sp.mode, rnd := mRnd c.sp.mode, use := mAuse c.sp.mode, width := if wide then 8 else 4
                  data := atomicData c d b wide e.1, expect := atomicExpect c d wide e.1, lane := e.1
                  ret := if isDiscard d then none else some (n, regCode d), qsize := c.w.qsize })

/-! ## Words of the engines and the synchronization units -/

/-- The issuing wave is w: its split has gone on with its LIVE, EXEC and MODE, and its registers and stack are as before. -/
def Onward (c : Ctx) (t : State) (w : Wave) : Prop :=
  t.wave? c.wi = some w ∧ w.v = c.w.v ∧ w.s = c.w.s ∧ w.p = c.w.p ∧ w.stack = c.w.stack ∧ w.alive = c.w.alive ∧
  ∃ x, w.split? c.sp.num = some x ∧ x.pc = c.next ∧ x.live = c.sp.live ∧ x.exec = c.sp.exec ∧ x.mode = c.sp.mode

/-- The word has left the issuing wave as w0 with n registers of D written in the lanes of ACT, and its split has gone on; no other
wave has changed. -/
def Took (c : Ctx) (s t : State) (w0 : Wave) (d : Operand) (n : Nat) (f : Nat → Nat → Word) : Prop :=
  (∀ v, v ≠ c.wi → t.wave? v = s.wave? v) ∧ ∃ w, t.wave? c.wi = some w ∧ Received w0 w d c.act n f 0 ∧ WentOn c s w c.next false

/-- The word has written one value to D, ended the region of a flashback and left the issuing wave's block as b; nothing else of the
machine has changed. -/
def TookB (c : Ctx) (s t : State) (d : Operand) (v : Word) (b : Block) : Prop :=
  Took c s t c.w.unmark d 1 (fun _ _ => v) ∧ { t with waves := s.waves, blocks := s.blocks } = s ∧
  t.block? c.w.block = some b ∧ ∀ k, k ≠ c.w.block → t.block? k = s.block? k

/-- The split is parked at its own PC in a wait (18 R419). -/
def Waits (c : Ctx) (t : State) (f : WaitFor) : Prop :=
  ∃ w x, t.wave? c.wi = some w ∧ w.split? c.sp.num = some x ∧ x.pc = c.pc ∧ x.park = .wait f c.next c.marked

/-- The split waits at its next PC for the instruction's own work (18 R419). -/
def Finishes (c : Ctx) (t : State) (f : Waiting) : Prop :=
  ∃ w x, t.wave? c.wi = some w ∧ w.split? c.sp.num = some x ∧ x.pc = c.next ∧ x.park = .completing c.pc f c.marked

/-- The word's return is an acquire of its split (08 R149): t is u with it. -/
def Acquired (c : Ctx) (s u t : State) : Prop :=
  t = u.modSplit c.wi c.sp.num fun x => { x with acq := s.seq }

/-- No operation is pending under the handle that D names. -/
def HandleFree (c : Ctx) (d : Operand) : Prop := isH d = true → (handleState c.w d).isPending = false

/-- The handle that D names is in a state. -/
def HandleIs (w : Wave) (d : Operand) (st : HState) : Prop := ∀ r, d = .h r → vget w.h r.val .empty = st

/-- An access of n bytes that a word makes on its own behalf at issue gives these bytes, and leaves the machine as s1. -/
def ReadsNow (c : Ctx) (s : State) (va align n : Nat) (bs : List Byte) (s1 : State) : Prop :=
  s.rangeOk c.w va n = true ∧ va % align = 0 ∧
  (inAperture va = true → (s.block? c.w.block).bind (fun b => b.absentIn (va - Config.aperture) n) = none) ∧
  (inAperture va = false → ∀ i < (va + n - 1) / 65536 - va / 65536 + 1, ∃ r,
    s.access c.w.core (s.asidOf c.w.part) ((va / 65536 + i) * 65536) .read = .granted r) ∧
  s.readNow c va n = some (bs, s1)

end Sys2Proof.Safety
end

