-- ==== Sys2Proof/Certificates/Slice0/Obligations.lean ====
section
/-! DEFINITION. The statements for the provers, one Prop each; OBLIGATIONS.json says what each claims and which rules of spec/ it
formalises. Words are stated of a split that is ready to run them (`Safety.Ready`), events of a state in which they can happen. -/

open Sys2Proof Sys2Proof.Machine Sys2Proof.Safety


/-! ## Encoding -/

/-- Words that the spec writes out, decoded (02 Table 2.5, 22 R297, 23 R361, 24 R401, 14 R197): ALU words, memory words, an immediate
word, a branch, a word of a block's ring. -/
def Obligations.DecodeSpecWords : Prop :=
  decode 0x3E00D8E2#32 0 = .ok (.shl (.v 0) .laneid (.int 2)) ∧
  decode 0x738680E0#32 0 = .ok (.lds64 (.s 6) (.s 0) (.int 0)) ∧
  decode 0x6A018600#32 0 = .ok (.ld32 (.v 1) (.s 6) (.v 0)) ∧
  decode 0x310101FF#32 0x64#32 = .ok (.add (.v 1) (.v 1) (.lit 0x64#32)) ∧
  decode 0x6F018600#32 0 = .ok (.st32 (.v 1) (.s 6) (.v 0)) ∧
  decode 0x0B000000#32 0 = .ok .exit ∧
  decode 0x34010203#32 0 = .ok (.mulhi (.v 1) (.v 2) (.v 3)) ∧
  decode 0xC000E588#32 0 = .ok (.kbind (.int 5) (.s 8)) ∧
  decode 0x1C0000FF#32 0x140#32 = .ok (.fmark 0x140#32) ∧
  decode 0x10000B13#32 0 = .ok (.modea 0x0B13#16) ∧
  decode 0x02970002#32 0 = .ok (.brz (.s 23) 2#16) ∧
  decode 0xA386E000#32 0 = .ok (.racq (.s 6) (.int 0))

/-- No bit of an encoding is dropped: every well-formed instruction that has a word is what its word decodes to, whatever stands in the
next slot of an instruction that takes no literal (03 R46 to R51). The model's own choices here: log entries 11, 32, 33. -/
def Obligations.EncodeThenDecode : Prop :=
  ∀ (i : Instr) (w : Word) (l : Option Word) (x : Word), i.wellFormed = true → encode i = some (w, l) → decode w (l.getD x) = .ok i

/-- A word that decodes is the word of the instruction it decodes to, which is well formed: reserved bits, reserved codes and reserved
opcodes are refused (03 R49, R50, R59). The model's own choices here: log entries 11, 32, 33. -/
def Obligations.DecodeOnlyEncodings : Prop :=
  ∀ (w lit : Word) (i : Instr), decode w lit = .ok i → i.wellFormed = true ∧ ∃ l, encode i = some (w, l)

/-! ## The machine -/

/-- A step runs the decoded instruction: when the agent that moves is a split in its issue slot that waits for nothing and is held back by
nothing, and it issues from its PC's bundle, which it has entered or which the fetch gives it and the check of a bundle passes (03 R39,
R420), the step is exec of the instruction in the PC's slot with the split's PC and next PC in `issue`; the split keeps the bundle, and no
split issues afterwards (03 R39 to R45, 04 R76). The model's own choices here: log entry 1. -/
def Obligations.StepRunsDecoded : Prop :=
  ∀ (s s1 : State) (wi k : Nat) (w : Wave) (x : Split) (ws : List Word) (i : Instr),
    Issues s s1 wi k w x ws → wordIn ws x.pc = .ok i →
    ∃ s2, Issued s1 s2 wi k w x ws ∧ step s = (match exec i s2 with | .next t => .next { t with issue := none } | r => r)

/-- The machine never stops: however long a run is followed from any state, each step answers a next state. Every trap, fault and stop of
the manual is a state of the machine. The model's own choices here: log entries 1, 75. -/
def Obligations.EveryRunGoesOn : Prop := ∀ s : State, SafeRun s

/-- The canonical form of every memory is kept by every step: the device's memories, scratch, tiles, staging slots and the progress of the
matrix commands. The model's own choices here: log entry 5. -/
def Obligations.StepKeepsMemory : Prop := ∀ s t : State, MemoryOk s = true → step s = .next t → MemoryOk t = true

/-- What reset leaves. Every memory is canonical: nothing is listed. Where the spec gives the value: the core's counters at 0 (22 R311),
every partition stopped with REASON 0 (21 start-up), SCRUB 1 (21 Table 21.1), empty queues and a link without sink or frame (15 Tables
15.9, 15.10). The model's own choices here: log entries 5, 7. -/
def Obligations.ResetState : Prop :=
  MemoryOk State.reset = true ∧
  (∀ c, (State.reset.core c).clk = 0 ∧ (State.reset.core c).gated = false ∧ (State.reset.core c).l1 = []) ∧
  (∀ p, (State.reset.part p).state = 2 ∧ (State.reset.part p).reason = 0) ∧
  State.reset.module.scrub = true ∧ State.reset.module.cmd = none ∧
  (∀ q, (State.reset.quad q).slots = List.replicate 8 none ∧ (State.reset.quad q).mxq = []) ∧
  (∀ l, (State.reset.link l).shown = 0xFFFFFFFF ∧ (State.reset.link l).newest = 0xFFFFFFFF ∧ (State.reset.link l).hpd = false ∧
    (State.reset.link l).active = false ∧ (State.reset.link l).reproj = 0 ∧ (State.reset.link l).drops = 0) ∧
  State.reset.waves = [] ∧ State.reset.launches = []

/-! ## Refusing a word, and traps -/

/-- A word that fails decoding raises ILLEGAL with FADDR 0 and FMASK the split's EXEC, whatever ACT holds, and performs nothing: a step of
a split whose slot holds a word that decodes to nothing, a word of an instruction that does not decode for the wave, and a reserved opcode. -/
def Obligations.BadWordRaisesIllegal : Prop :=
  (∀ (i : Instr) (s : State) (c : Ctx), (encode i).isSome = true → s.ctx? = some c → decodesFor i c = false →
    exec i s = .next (s.raise c.wi c.sp.num Cause.illegal 0 c.sp.exec c.pc)) ∧
  (∀ (w : Word) (s : State) (c : Ctx), s.ctx? = some c →
    exec (.reservedOpcode w) s = .next (s.raise c.wi c.sp.num Cause.illegal 0 c.sp.exec c.pc)) ∧
  (∀ (s s1 : State) (wi k : Nat) (w : Wave) (x : Split) (ws : List Word) (e : Reject),
    Issues s s1 wi k w x ws → wordIn ws x.pc = .error e →
    ∃ s2, Issued s1 s2 wi k w x ws ∧
      step s = .next { s2.raise wi x.num Cause.illegal 0 x.exec (resumePc x.pc) with issue := none })

/-- A word that names a register which its own split awaits performs nothing: it raises HAZARD with FADDR the operand code of the first
such register in field order, unless a cause of lower rank number is found: ILLEGAL, ILLCONV or ROLE, by what `Safety.checksOf` says of
the word, with FADDR 0. The model's own choices here: log entry 34. -/
def Obligations.PendingRegisterRaisesHazard : Prop :=
  ∀ (i : Instr) (s : State) (c : Ctx) (r : Nat), (encode i).isSome = true → s.ctx? = some c → decodesFor i c = true → Awaits i s c r →
    let k := checksOf s i
    let raises (cause faddr : Nat) : Prop := exec i s = .next (s.raise c.wi c.sp.num cause faddr c.sp.exec c.pc)
    ((k.typeOk (mType c.sp.mode) = false ∨ k.illegal c = true) → raises Cause.illegal 0) ∧
    (k.typeOk (mType c.sp.mode) = true → k.illegal c = false →
      (k.illConv c = true → raises Cause.illConv 0) ∧
      (k.illConv c = false → k.roleOk c.w.role = false → raises Cause.role 0) ∧
      (k.illConv c = false → k.roleOk c.w.role = true → raises Cause.hazard r))

/-- Trap entry: with every scoreboard clear, no completion awaited and no split in a wait, KS0 to KS3 receive s60 to s63, CAUSE, FADDR and
FMASK describe the trap, PROG takes the frame's progress, and the one handler's split starts at TBASE + 4 with MODE 0 and EXEC the
trapping split's LIVE; the other splits become kind 2 entries in ascending number, a kind 3 frame holds the trapping split and its PC, and
every other register is unchanged. The model's own choices here: log entry 37. -/
def Obligations.TrapEntryState : Prop :=
  ∀ (s : State) (w : Wave) (x : Split) (wi cause faddr : Nat) (fmask : Word) (pc : Nat),
    s.wave? wi = some w → w.split? x.num = some x → w.trap = none → w.trapReady = true →
    (∀ y ∈ w.splits, ∀ f n m, y.park ≠ .wait f n m) → cause ≠ Cause.preempt →
    (s.part w.part).special = false → w.stack.length + w.splits.length ≤ 32 →
    ∃ w', (s.raise wi x.num cause faddr fmask pc).wave? wi = some w' ∧
      w'.ks = #v[w.readS 60, w.readS 61, w.readS 62, w.readS 63] ∧ w'.cause = cause ∧ w'.faddr = BitVec.ofNat 64 faddr ∧
      w'.fmask = fmask ∧ w'.prog = x.prog ∧ w'.rewindable = false ∧ w'.trap = none ∧
      (∃ y, w'.splits = [y] ∧ y.num = x.num ∧ y.pc = w.tbase.toNat + 4 ∧ y.live = w.alive ∧ y.exec = x.live ∧ y.mode = 0 ∧
        y.join = none ∧ y.park = .none) ∧
      w'.v = w.v ∧ w'.s = w.s ∧ w'.p = w.p ∧ w'.h = w.h ∧ w'.fpflags = w.fpflags ∧ w'.tbase = w.tbase ∧
      ∃ e, w'.stack = e :: ((w.splits.filter fun y => y.num ≠ x.num).map fun y => splitEntry y y.pc 2 0).reverse ++ w.stack ∧
        e.kind = 3 ∧ e.pc = pc ∧ e.mask = x.live ∧ e.mode = x.mode ∧ e.owner = x.num ∧ e.cause = cause ∧ e.prog = x.prog ∧
        e.exec = x.exec

/-- Without room on the stack no handler runs: the partition begins to stop with REASON 7 and the wave's token as the detail. -/
def Obligations.TrapWithoutRoomStops : Prop :=
  ∀ (s : State) (w : Wave) (x : Split) (wi cause faddr : Nat) (fmask : Word) (pc : Nat),
    s.wave? wi = some w → w.split? x.num = some x → w.trap = none → w.trapReady = true →
    (∀ y ∈ w.splits, ∀ f n m, y.park ≠ .wait f n m) → 32 < w.stack.length + w.splits.length → (s.part w.part).special = false →
    (s.part w.part).state ≠ 2 → (s.part w.part).stopping = none →
    ((s.raise wi x.num cause faddr fmask pc).part w.part).stopping = some (7, w.token * 4 + x.num)

/-- RETT returns from a frame that holds every live lane: the frame leaves the stack, s60 to s63 are restored from KS0 to KS3, and the
split resumes at the frame's PC with the frame's LIVE, EXEC, MODE and JOIN. The model's own choices here: log entries 13, 36. -/
def Obligations.RettResumesFrame : Prop :=
  ∀ (s : State) (c : Ctx) (e : Entry) (rest : List Entry),
    Ready .rett {} s c → (s.part c.w.part).special = false → c.w.trap = none → c.w.stack = e :: rest → e.kind = 3 →
    (∀ g ∈ rest.head?, g.kind ≠ 2) → (∀ g ∈ rest, g.kind < 2 → g.owner = e.owner ∧ g.orphan = false) →
    modeOk e.mode.toNat = true → e.prog = 0 → e.owner < 4 → c.w.alive ≠ 0 → e.mask = c.w.alive →
    pcCause (fun pc => s.codeAt c.w.core (s.asidOf c.w.part) pc) e.pc = none →
    ∃ t w', exec .rett s = .next t ∧ t.wave? c.wi = some w' ∧ w'.stack = rest ∧
      (∃ y, w'.splits = [y] ∧ y.num = e.owner ∧ y.pc = resumePc e.pc ∧ y.live = c.w.alive ∧ y.exec = e.exec &&& c.w.alive ∧
        y.mode = e.mode ∧ y.join = e.join ∧ y.park = .none) ∧
      (∀ r, r < 60 → w'.readS r = c.w.readS r) ∧ w'.readS 60 = vget c.w.ks 0 0 ∧ w'.readS 61 = vget c.w.ks 1 0 ∧
      w'.readS 62 = vget c.w.ks 2 0 ∧ w'.readS 63 = vget c.w.ks 3 0 ∧
      w'.v = c.w.v ∧ w'.p = c.w.p ∧ w'.h = c.w.h ∧ w'.fpflags = c.w.fpflags ∧ SameMemory s t

/-- TRAP k, BRK and a reserved opcode raise their causes at their own PC, with FADDR 0 and FMASK EXEC, whatever ACT holds, and change
nothing else; a TRAP word with a nonzero D or IMM16 [15:4] decodes to nothing. -/
def Obligations.SoftwareTraps : Prop :=
  (∀ x, decode 0x0E000000#32 x = .ok .brk) ∧ (∀ (k : BitVec 4) x, decode (0x0C000000#32 ||| k.setWidth 32) x = .ok (.trap (k.setWidth 16))) ∧
  (∀ (w : BitVec 24) x, w.toNat / 16 ≠ 0 → ∃ e, decode (0x0C000000#32 ||| w.setWidth 32) x = .error e) ∧
  (∀ s c imm, Ready (.trap imm) {} s c →
    exec (.trap imm) s = .next (s.raise c.wi c.sp.num (0x10 + imm.toNat) 0 c.sp.exec c.pc)) ∧
  (∀ s c, Ready .brk {} s c → exec .brk s = .next (s.raise c.wi c.sp.num 0x0C 0 c.sp.exec c.pc)) ∧
  (∀ s c w, s.ctx? = some c → exec (.reservedOpcode w) s = .next (s.raise c.wi c.sp.num 0x01 0 c.sp.exec c.pc))

/-- In start-up, test and recovery mode a trap pushes nothing: s62:s63 receive the frame PC and s61 the trapping split's LIVE, the registers
below are unchanged, and KS, CAUSE, FADDR, FMASK, PROG and the handler's split are as everywhere. -/
def Obligations.SpecialTrapPushesNothing : Prop :=
  ∀ (s : State) (w : Wave) (x : Split) (wi cause faddr : Nat) (fmask : Word) (pc : Nat),
    s.wave? wi = some w → w.split? x.num = some x → w.trap = none → w.trapReady = true →
    (∀ y ∈ w.splits, ∀ f n m, y.park ≠ .wait f n m) → cause ≠ Cause.preempt → (s.part w.part).special = true →
    ∃ w', (s.raise wi x.num cause faddr fmask pc).wave? wi = some w' ∧ w'.stack = [] ∧
      w'.readS 61 = x.live ∧ w'.readS 62 = word pc ∧ w'.readS 63 = word (pc / 4294967296) ∧
      (∀ r, r < 61 → w'.readS r = w.readS r) ∧ w'.ks = #v[w.readS 60, w.readS 61, w.readS 62, w.readS 63] ∧ w'.cause = cause ∧
      w'.faddr = BitVec.ofNat 64 faddr ∧ w'.fmask = fmask ∧ w'.prog = x.prog ∧ w'.v = w.v ∧ w'.p = w.p ∧ w'.h = w.h ∧
      (∃ y, w'.splits = [y] ∧ y.num = x.num ∧ y.pc = w.tbase.toNat + 4 ∧ y.live = w.alive ∧ y.exec = x.live ∧ y.mode = 0)

/-! ## Arithmetic and bits -/

/-- MOV, ADD, SUB, MUL, MULHI, MAD, MIN, MAX, ABS and NEG compute element by element under TYPE, RND and SAT into D, in the lanes of ACT,
once for the split when every source is scalar; MOV copies bits; MAD reads D's old value as the addend. The model's own choices here: log
entry 31. -/
def Obligations.ArithmeticWords : Prop :=
  ∀ d a b : Operand,
    Computes (.mov d a) { illegal := fun _ => vectorToScalar d [a] } d [a] (fun ty => spanLen ty .val)
      (fun c l => (valLane c (mType c.sp.mode) a l, 0)) ∧
    Computes (.add d a b) { typeOk := tyAdd, illegal := fun _ => vectorToScalar d [a, b] } d [a, b] (fun ty => spanLen ty .val)
      (lane2 addElem a b) ∧
    Computes (.sub d a b) { typeOk := tyAdd, illegal := fun _ => vectorToScalar d [a, b] } d [a, b] (fun ty => spanLen ty .val)
      (lane2 subElem a b) ∧
    Computes (.mul d a b) { typeOk := tyMul, illegal := fun _ => vectorToScalar d [a, b] } d [a, b] (fun ty => spanLen ty .val)
      (lane2 mulElem a b) ∧
    Computes (.mulhi d a b) { typeOk := tyMulhi, illegal := fun _ => vectorToScalar d [a, b] } d [a, b] (fun ty => spanLen ty .val)
      (lane2 mulhiElem a b) ∧
    Computes (.mad d a b) { typeOk := tyMul, illegal := fun _ => vectorToScalar d [a, b] } d [a, b] (fun ty => spanLen ty .val)
      (lane3 madElem a b d) ∧
    Computes (.min d a b) { typeOk := tyAdd, illegal := fun _ => vectorToScalar d [a, b] } d [a, b] (fun ty => spanLen ty .val)
      (lane2 (fun ty _ _ x y => minmaxElem false ty x y) a b) ∧
    Computes (.max d a b) { typeOk := tyAdd, illegal := fun _ => vectorToScalar d [a, b] } d [a, b] (fun ty => spanLen ty .val)
      (lane2 (fun ty _ _ x y => minmaxElem true ty x y) a b) ∧
    Computes (.abs d a) { typeOk := tyAbs, illegal := fun _ => vectorToScalar d [a] } d [a] (fun ty => spanLen ty .val)
      (lane1 absElem a) ∧
    Computes (.neg d a) { typeOk := tyAbs, illegal := fun _ => vectorToScalar d [a] } d [a] (fun ty => spanLen ty .val)
      (lane1 negElem a)

/-- Integer results of ADD, SUB, MUL, MAD, ABS, NEG and DOT wrap modulo 2^w and, under SAT, clamp the exact result once to the type's
range (ABS and NEG to the signed one: −2^(w−1) gives −2^(w−1), or 2^(w−1) − 1 under SAT; DOT to 32 bits); MULHI is the high half of the exact
product, the w bits above those that MUL keeps; no flag is set. -/
def Obligations.IntegerResults : Prop :=
  ∀ (ty rnd x y z : Nat), isFloat ty = false →
    let w := elemWidth ty
    let v := intVal (isSigned ty) w
    let clamp (n : Int) : Int := max (intMin (isSigned ty) w) (min (intMax (isSigned ty) w) n)
    (addElem ty rnd false x y = (((v x + v y) % (2 ^ w : Nat)).toNat, 0)) ∧
    (subElem ty rnd false x y = (((v x - v y) % (2 ^ w : Nat)).toNat, 0)) ∧
    (mulElem ty rnd false x y = (((v x * v y) % (2 ^ w : Nat)).toNat, 0)) ∧
    (madElem ty rnd false x y z = (((v x * v y + v z) % (2 ^ w : Nat)).toNat, 0)) ∧
    (v (addElem ty rnd true x y).1 = clamp (v x + v y)) ∧ (v (subElem ty rnd true x y).1 = clamp (v x - v y)) ∧
    (v (mulElem ty rnd true x y).1 = clamp (v x * v y)) ∧ (v (madElem ty rnd true x y z).1 = clamp (v x * v y + v z)) ∧
    (addElem ty rnd true x y).2 = 0 ∧ (subElem ty rnd true x y).2 = 0 ∧ (mulElem ty rnd true x y).2 = 0 ∧
    (madElem ty rnd true x y z).2 = 0 ∧
    (let v := intVal true w
     let clamp (n : Int) : Int := max (intMin true w) (min (intMax true w) n)
     absElem ty rnd false x = ((((v x).natAbs : Int) % (2 ^ w : Nat)).toNat, 0) ∧ v (absElem ty rnd true x).1 = clamp (v x).natAbs ∧
     negElem ty rnd false x = ((-(v x) % (2 ^ w : Nat)).toNat, 0) ∧ v (negElem ty rnd true x).1 = clamp (-(v x)) ∧
     (absElem ty rnd true x).2 = 0 ∧ (negElem ty rnd true x).2 = 0) ∧
    (let sum : Int := (upTo (elemCount ty)).foldl (fun n k => n + v (elem w k x) * v (elem w k y)) (intVal (isSigned ty) 32 z)
     dotLane ty rnd false x y z = ((sum % (2 ^ 32 : Nat)).toNat, 0) ∧ (dotLane ty rnd true x y z).2 = 0 ∧
     intVal (isSigned ty) 32 (dotLane ty rnd true x y z).1 = max (intMin (isSigned ty) 32) (min (intMax (isSigned ty) 32) sum)) ∧
    ∀ sat, ((mulhiElem ty rnd sat x y).1 : Int) * (2 ^ w : Nat) + (mulElem ty rnd false x y).1 = (v x * v y) % (2 ^ (2 * w) : Nat) ∧
      (mulhiElem ty rnd sat x y).2 = 0

/-- AND, OR, XOR, NOT, SHL, SHR, BFX, BFI, POPC, CLZ and BREV compute bit by bit or element by element into D; they set no flag. The
model's own choices here: log entry 31. -/
def Obligations.BitWords : Prop :=
  ∀ d a b : Operand,
    let k2 (ty : Nat → Bool) : Checks := { typeOk := ty, illegal := fun _ => vectorToScalar d [a, b] }
    let k1 (ty : Nat → Bool) : Checks := { typeOk := ty, illegal := fun _ => vectorToScalar d [a] }
    Computes (.andB d a b) (k2 tyLogic) d [a, b] (fun ty => spanLen ty .val) (fun c l => (val c a l &&& val c b l, 0)) ∧
    Computes (.orB d a b) (k2 tyLogic) d [a, b] (fun ty => spanLen ty .val) (fun c l => (val c a l ||| val c b l, 0)) ∧
    Computes (.xorB d a b) (k2 tyLogic) d [a, b] (fun ty => spanLen ty .val) (fun c l => (val c a l ^^^ val c b l, 0)) ∧
    Computes (.notB d a) (k1 tyLogic) d [a] (fun ty => spanLen ty .val) (fun c l => (18446744073709551615 - val c a l, 0)) ∧
    Computes (.shl d a b) (k2 tyLogic) d [a, b] (fun ty => spanLen ty .val) (shiftLane true a b) ∧
    Computes (.shr d a b) (k2 tyLogic) d [a, b] (fun ty => spanLen ty .val) (shiftLane false a b) ∧
    Computes (.bfx d a b) (k2 tyInt32) d [a, b] (fun _ => 1) (fun c l =>
      let p := (rawLane c b l).toNat % 32
      let n := min ((rawLane c b l).toNat / 256 % 32) (32 - p)
      let f := val c a l / 2 ^ p % 2 ^ n
      (if n = 0 then 0 else if mType c.sp.mode = 0 then wrap 32 (toSigned n f) else f, 0)) ∧
    Computes (.bfi d a b) (k2 tyInt32) d [a, b] (fun _ => 1) (fun c l =>
      let p := (rawLane c b l).toNat % 32
      let n := min ((rawLane c b l).toNat / 256 % 32) (32 - p)
      (val c d l % 2 ^ p + 2 ^ p * (val c a l % 2 ^ n) + 2 ^ (p + n) * (val c d l / 2 ^ (p + n)), 0)) ∧
    Computes (.popc d a) (k1 tyInt32) d [a] (fun _ => 1) (fun c l => (popcount (word (val c a l)), 0)) ∧
    Computes (.clz d a) (k1 tyInt32) d [a] (fun _ => 1) (fun c l => (if val c a l = 0 then 32 else 31 - Nat.log2 (val c a l), 0)) ∧
    Computes (.brev d a) (k1 tyInt32) d [a] (fun _ => 1)
      (fun c l => ((maskOf fun k => bit (word (val c a l)) (31 - k)).toNat, 0))

/-- ADDW, DOT, CVT, ROUNDI, FRACT, LDEXP and SCALEX compute into D, and CSEL takes B in the lanes of ACT whose bit of A is set. What the
float operations of these and of the arithmetic words answer for f32, f16x2 and bf16x2: ADD, SUB, MUL, MAD, FRACT and LDEXP form the exact
result and round it once (R164) with its flags (R165); a NaN operand gives the canonical NaN and, signalling, IV; infinities, signed zeros
and invalid operations are as each entry says; MIN and MAX answer an operand; ABS and NEG touch the sign alone; ROUNDI takes the integer
that RND selects and keeps the sign; CVT follows Table 11.6 for every pair of types but n64; DOT rounds its exact sum once to f32.
Overflow takes the values of Table 11.3. The model's own choices here: log entry 31. -/
def Obligations.MixedArithmeticWords : Prop :=
  (∀ d a b : Operand,
     let k2 (ty : Nat → Bool) : Checks := { typeOk := ty, illegal := fun _ => vectorToScalar d [a, b] }
     let k1 (ty : Nat → Bool) : Checks := { typeOk := ty, illegal := fun _ => vectorToScalar d [a] }
     Computes (.addw d a b) (k2 tyInt32) d [a, b] (fun _ => 2) (fun c l =>
       let x := (groupLane c a 0 l).toNat + 4294967296 * (groupLane c a 1 l).toNat
       let y := val c b l
       ((x + (if mType c.sp.mode = 0 ∧ 0x80000000 ≤ y then y + 18446744069414584320 else y)) % 18446744073709551616, 0)) ∧
     Computes (.dot d a b) (k2 tyDot) d [a, b] (fun _ => 1) (fun c l =>
       dotLane (mType c.sp.mode) (mRnd c.sp.mode) (mSat c.sp.mode) (val c a l) (val c b l) (rawLane c d l).toNat) ∧
     Computes (.cvt d a b) (k1 fun ty => ty != 14) d [a] (fun ty => (cvtRegs ty (cvtTarget b)).2) (fun c l =>
       cvtLane (mType c.sp.mode) (cvtTarget b) (mRnd c.sp.mode) (mSat c.sp.mode) fun i =>
         match a with | .v _ | .s _ => (groupLane c a i l).toNat | _ => val c a l) ∧
     Computes (.roundi d a) (k1 tyF) d [a] (fun ty => spanLen ty .val) (lane1 roundiElem a) ∧
     Computes (.fract d a) (k1 tyF) d [a] (fun ty => spanLen ty .val) (lane1 fractElem a) ∧
     Computes (.ldexp d a b) (k2 tyF) d [a, b] (fun _ => 1) (fun c l =>
       perElem (mType c.sp.mode) fun k => ldexpElem (mType c.sp.mode) (mRnd c.sp.mode) (toSigned 32 (rawLane c b l).toNat)
         (elem (elemWidth (mType c.sp.mode)) k (val c a l))) ∧
     Computes (.scalex d a b) (k2 fun _ => true) d [a, b] (fun _ => 1) (fun c l =>
       (scalexWord ((rawLane c a l).toNat / 2 ^ (8 * ((rawLane c b l).toNat % 4)) % 256), 0)) ∧
     (∀ s c, Ready (.csel d a b) {} s c → ∃ t, exec (.csel d a b) s = .next t ∧
       Wrote c s t d (c.act &&& rawU c a) (spanLen (mType c.sp.mode) .val) (fun j l => groupWord (val c b l) j) 0)) ∧
  (∀ (rnd : Nat) (sat neg : Bool), rnd < 5 →
    (∀ f ∈ [fmtF32, fmtF16, fmtBf16, fmtF8B], overflowed f rnd sat neg = f.signed neg
      (if sat || rnd == 1 || (rnd == 2 && neg) || (rnd == 3 && !neg) then f.maxCode else f.infCode)) ∧
    overflowed fmtF8A rnd sat neg = (if sat then fmtF8A.signed neg 0x7E else 0x7F) ∧
    overflowed fmtF4 rnd sat neg = fmtF4.signed neg 7) ∧
  (∀ (ty rnd : Nat) (sat : Bool) (x y z : Nat), (ty = 2 ∨ ty = 3 ∨ ty = 4) → rnd < 5 →
    let f := fmtOf ty
    let iv (b : Bool) : Flags := if b then Flag.iv else 0
    let sum (a b : Nat) (q : ℚ) (r : Nat × Flags) : Prop :=
      RoundedTo f rnd false (if negF f a = negF f b then negF f a else decide (rnd = 3)) q r
    -- one operand
    (∀ r, r ∈ [absElem ty rnd sat x, negElem ty rnd sat x, roundiElem ty rnd sat x, fractElem ty rnd sat x, ldexpElem ty rnd 1 x] →
      nanF f x = true → r = (f.nan, iv (snanF f x))) ∧
    (nanF f x = false → absElem ty rnd sat x = (x % f.signBit, 0) ∧ negElem ty rnd sat x = ((x + f.signBit) % (2 * f.signBit), 0)) ∧
    (infF f x = true → roundiElem ty rnd sat x = (f.signed (negF f x) f.infCode, 0) ∧ fractElem ty rnd sat x = (f.nan, Flag.iv) ∧
      ∀ n, ldexpElem ty rnd n x = (f.signed (negF f x) f.infCode, 0)) ∧
    (finF f x →
      ((roundiElem ty rnd sat x).2 = 0 ∧ finF f (roundiElem ty rnd sat x).1 ∧ negF f (roundiElem ty rnd sat x).1 = negF f x ∧
        Nearest rnd (fun u => ∃ n : ℤ, u = n) (realF f x) (realF f (roundiElem ty rnd sat x).1)) ∧
      RoundedTo f rnd false (decide (rnd = 3)) ((realF f x - ⌊realF f x⌋ : ℚ) : ℝ) (fractElem ty rnd sat x) ∧
      ∀ n : ℤ, RoundedTo f rnd false (negF f x) ((realF f x * 2 ^ n : ℚ) : ℝ) (ldexpElem ty rnd n x)) ∧
    -- sums
    subElem ty rnd sat x y = addElem ty rnd sat x ((y + f.signBit) % (2 * f.signBit)) ∧
    ((nanF f x || nanF f y) = true → addElem ty rnd sat x y = (f.nan, iv (snanF f x || snanF f y))) ∧
    ((nanF f x || nanF f y) = false →
      (infF f x = true → infF f y = true → negF f x ≠ negF f y → addElem ty rnd sat x y = (f.nan, Flag.iv)) ∧
      (infF f x = true → (infF f y = true → negF f x = negF f y) →
        addElem ty rnd sat x y = (f.signed (negF f x) f.infCode, 0)) ∧
      (infF f x = false → infF f y = true → addElem ty rnd sat x y = (f.signed (negF f y) f.infCode, 0))) ∧
    (finF f x → finF f y → sum x y (realF f x + realF f y) (addElem ty rnd sat x y)) ∧
    -- products
    (let zero (a : Nat) : Bool := decide (realF f a = 0)
     let bad := (infF f x && zero y) || (zero x && infF f y)
     let neg := negF f x != negF f y
     ((nanF f x || nanF f y) = true → mulElem ty rnd sat x y = (f.nan, iv (snanF f x || snanF f y))) ∧
     ((nanF f x || nanF f y) = false → (infF f x || infF f y) = true →
       mulElem ty rnd sat x y = if bad then (f.nan, Flag.iv) else (f.signed neg f.infCode, 0)) ∧
     (finF f x → finF f y → RoundedTo f rnd false neg ((realF f x * realF f y : ℚ) : ℝ) (mulElem ty rnd sat x y)) ∧
     ((nanF f x || nanF f y || nanF f z) = true →
       madElem ty rnd sat x y z = (f.nan, iv (snanF f x || snanF f y || snanF f z || bad))) ∧
     ((nanF f x || nanF f y || nanF f z) = false → (infF f x || infF f y || infF f z) = true →
       madElem ty rnd sat x y z =
         if bad || ((infF f x || infF f y) && infF f z && negF f z != neg) then (f.nan, Flag.iv)
         else (f.signed (if infF f z then negF f z else neg) f.infCode, 0)) ∧
     (finF f x → finF f y → finF f z →
       RoundedTo f rnd false (if neg = negF f z then neg else decide (rnd = 3))
         ((realF f x * realF f y + realF f z : ℚ) : ℝ) (madElem ty rnd sat x y z))) ∧
    -- MIN and MAX
    (∀ isMax : Bool,
      (nanF f x = true → nanF f y = true → minmaxElem isMax ty x y = (f.nan, iv (snanF f x || snanF f y))) ∧
      (nanF f x = true → nanF f y = false → minmaxElem isMax ty x y = (y, iv (snanF f x))) ∧
      (nanF f x = false → nanF f y = true → minmaxElem isMax ty x y = (x, iv (snanF f y))) ∧
      (nanF f x = false → nanF f y = false →
        let less := decide (realF f x < realF f y) || (decide (realF f x = realF f y) && negF f x && !(negF f y))
        minmaxElem isMax ty x y = (if less != isMax then x else y, 0)))) ∧
  -- conversions
  (∀ (src dst rnd : Nat) (sat : Bool) (x : Nat), src < 14 → dst < 14 → rnd < 5 →
    let fs := fmtOf src
    let fd := fmtOf dst
    let lo := intMin (isSigned dst) (elemWidth dst)
    let hi := intMax (isSigned dst) (elemWidth dst)
    let i := intVal (isSigned src) (elemWidth src) x
    let bits (n : Int) : Nat := (n % (2 ^ elemWidth dst : Nat)).toNat
    let toFloat (zneg : Bool) (q : ℚ) (r : Nat × Flags) : Prop := ∃ r0, RoundedTo fd rnd sat zneg q r0 ∧
      r = (r0.1, r0.2 ||| if dst = 9 ∧ nanF fd r0.1 = true then Flag.iv else 0)
    (isFloat src = true → isFloat dst = true →
      (nanF fs x = true → cvtElem src dst rnd sat x = if dst = 13 then (0, Flag.iv) else (fd.nan, if snanF fs x then Flag.iv else 0)) ∧
      (infF fs x = true → cvtElem src dst rnd sat x =
        if dst = 13 then (fd.signed (negF fs x) 7, Flag.iv)
        else if dst = 9 then (if sat then (fd.signed (negF fs x) 0x7E, 0) else (0x7F, Flag.iv))
        else (fd.signed (negF fs x) fd.infCode, 0)) ∧
      (finF fs x → toFloat (negF fs x) (realF fs x) (cvtElem src dst rnd sat x))) ∧
    (isFloat src = true → isFloat dst = false →
      (nanF fs x = true → cvtElem src dst rnd sat x = (0, Flag.iv)) ∧
      (infF fs x = true → cvtElem src dst rnd sat x = (bits (if negF fs x then lo else hi), Flag.iv)) ∧
      (finF fs x → ∃ n : ℤ, Nearest rnd (fun u => ∃ n : ℤ, u = n) (realF fs x) n ∧
        cvtElem src dst rnd sat x =
          if n < lo then (bits lo, Flag.iv) else if hi < n then (bits hi, Flag.iv)
          else (bits n, if realF fs x = n then 0 else Flag.ix))) ∧
    (isFloat src = false → isFloat dst = true → toFloat false i (cvtElem src dst rnd sat x)) ∧
    (isFloat src = false → isFloat dst = false →
      cvtElem src dst rnd sat x = (bits (if sat then max lo (min hi i) else i), 0)) ∧
    ∀ reg : Nat → Nat,
      let el (j : Nat) : Nat × Flags := cvtElem src dst rnd sat (elem (elemWidth src) (j % elemCount src) (reg (j / elemCount src)))
      (∀ j, j < max (elemCount src) (elemCount dst) → elem (elemWidth dst) j (cvtLane src dst rnd sat reg).1 = (el j).1) ∧
      (cvtLane src dst rnd sat reg).2 = orFlags ((upTo (max (elemCount src) (elemCount dst))).map fun j => (el j).2)) ∧
  -- DOT
  ∀ (ty rnd : Nat) (sat : Bool) (x y z : Nat), isFloat ty = true → ty ≠ 2 → rnd < 5 →
    let f := fmtOf ty
    let ks := upTo (elemCount ty)
    let a (k : Nat) : Nat := elem (elemWidth ty) k x
    let b (k : Nat) : Nat := elem (elemWidth ty) k y
    let bad (k : Nat) : Bool := (infF f (a k) && decide (realF f (b k) = 0)) || (decide (realF f (a k) = 0) && infF f (b k))
    let neg (k : Nat) : Bool := negF f (a k) != negF f (b k)
    let nan := nanF fmtF32 z || ks.any fun k => nanF f (a k) || nanF f (b k)
    let inf (s : Bool) : Bool := (infF fmtF32 z && negF fmtF32 z == s) || ks.any fun k => (infF f (a k) || infF f (b k)) && neg k == s
    (nan = true ∨ ks.any bad = true → dotLane ty rnd sat x y z = (fmtF32.nan,
      if snanF fmtF32 z || ks.any fun k => (bad k && !(nanF f (a k)) && !(nanF f (b k))) || snanF f (a k) || snanF f (b k)
      then Flag.iv else 0)) ∧
    (nan = false → ks.any bad = false →
      (inf true = true → inf false = true → dotLane ty rnd sat x y z = (fmtF32.nan, Flag.iv)) ∧
      (∀ s, inf s = true → inf (!s) = false → dotLane ty rnd sat x y z = (fmtF32.signed s fmtF32.infCode, 0)) ∧
      (inf true = false → inf false = false →
        let same (s : Bool) : Bool := negF fmtF32 z == s && ks.all fun k => neg k == s
        RoundedTo fmtF32 rnd false (if same true then true else if same false then false else decide (rnd = 3))
          (((ks.map fun k => realF f (a k) * realF f (b k)).sum + realF fmtF32 z : ℚ) : ℝ) (dotLane ty rnd sat x y z)))

/-- RCP, RSQ, SQRT, EXP2, LOG2, SIN and COS send a result on its way: the registers of D are pending and receive, element by element, the
special function of A; nothing is sent when ACT is empty. The function (R174, Table 11.8): the special values; RCP and SQRT correctly
rounded under RND; the exact cases of RSQ, EXP2, LOG2, SIN and COS; RSQ of f32 faithful; and, for f32, EXP2, LOG2, SIN and COS within 2
ulp, or 2^−21, of the exact result as the model approximates it with 256 fractional bits (`approxOf`; DESIGN CHOICE, log 9), whatever the
free value that stands for what the spec leaves open. The model's own choices here: log entries 2, 9. -/
def Obligations.SpecialFunctionWords : Prop :=
  (∀ (d a : Operand) (i : Instr) (op : SfuOp),
     (i, op) ∈ [(Instr.rcp d a, SfuOp.rcp), (.rsq d a, .rsq), (.sqrt d a, .sqrt), (.exp2 d a, .exp2), (.log2 d a, .log2), (.sin d a, .sin),
       (.cos d a, .cos)] →
     ∀ s c, Ready i { typeOk := tyF, illegal := fun _ => vectorToScalar d [a] } s c →
       let ty := mType c.sp.mode
       let f (l : Nat) : Nat × Flags := perElem ty fun k =>
         sfuElem op (fmtOf ty) (mRnd c.sp.mode) (elem (elemWidth ty) k (val c a l)) (Config.sfuResult (s.free * 64 + l * 2 + k))
       (c.act ≠ 0 → ∃ t, exec i s = .next t ∧
         Sent c s t (if isDiscard d then [] else [Pend.mk s.seq c.sp.num (codesOf ty (d, .one))
             (.ready (groupWrites d c.act 1 fun _ l => word (f (if isVecSrc a then l else 0)).1))])
           (orFlags ((actLanes (!(isVecSrc a)) c.act).map fun l => (f l).2))) ∧
       (c.act = 0 → ∃ t, exec i s = .next t ∧ Wrote c s t (.int 0) 0 0 (fun _ _ => 0) 0)) ∧
  ∀ (op : SfuOp) (f : Fmt) (rnd x free : Nat), f ∈ [fmtF32, fmtF16, fmtBf16] → rnd < 5 →
    let r := sfuElem op f rnd x free
    let neg := negF f x
    let one := f.bias * 2 ^ f.mbits
    let q := realF f x
    let invalid : Prop := r = (f.nan, Flag.iv)
    (nanF f x = true → r = (f.nan, if snanF f x then Flag.iv else 0)) ∧
    (infF f x = true → match op with
      | .rcp => r = (f.signed neg 0, 0)
      | .rsq => if neg then invalid else r = (0, 0)
      | .sqrt => if neg then invalid else r = (f.infCode, 0)
      | .exp2 => r = (if neg then 0 else f.infCode, 0)
      | .log2 => if neg then invalid else r = (f.infCode, 0)
      | .sin | .cos => invalid) ∧
    (finF f x → q = 0 → match op with
      | .rcp | .rsq => r = (f.signed neg f.infCode, Flag.dz)
      | .sqrt | .sin => r = (f.signed neg 0, 0)
      | .exp2 | .cos => r = (one, 0)
      | .log2 => r = (f.signed true f.infCode, Flag.dz)) ∧
    (finF f x → q < 0 → (op = .rsq ∨ op = .sqrt ∨ op = .log2) → invalid) ∧
    (finF f x → q ≠ 0 → op = .rcp → RoundedTo f rnd false false ((1 / q : ℚ) : ℝ) r) ∧
    (finF f x → 0 < q → op = .sqrt → RoundedTo f rnd false false (Real.sqrt q) r) ∧
    (finF f x → q ≠ 0 → ∀ n : ℤ,
      (op = .rsq → q = 4 ^ n → finF f r.1 ∧ realF f r.1 = 2 ^ (-n) ∧ r.2 = 0) ∧
      (op = .exp2 → q = n → RoundedTo f (if f = fmtF32 then 0 else rnd) false false ((2 ^ n : ℚ) : ℝ) r) ∧
      (op = .log2 → q = 2 ^ n → RoundedTo f rnd false false (n : ℝ) r) ∧
      (op = .sin → 4 * q = n → r = (if n % 4 = 1 then one else if n % 4 = 3 then f.signed true one else 0, 0)) ∧
      (op = .cos → 4 * q = n → r = (if n % 4 = 0 then one else if n % 4 = 2 then f.signed true one else 0, 0))) ∧
    (finF f x → f = fmtF32 → op = .rsq → 0 < q →
      let y := realF f r.1
      finF f r.1 ∧ 0 < y ∧ ((y ^ 2 * q ≤ 1 ∧ ∀ z, finF f z → y < realF f z → 1 < realF f z ^ 2 * q) ∨
        (1 ≤ y ^ 2 * q ∧ ∀ z, finF f z → 0 ≤ realF f z → realF f z < y → realF f z ^ 2 * q < 1))) ∧
    (finF f x → f = fmtF32 → ∀ (s : Bool) (m : Nat) (e : Int), unpack f x = .fin s m e →
      ((op = .exp2 ∧ (∀ n : ℤ, q ≠ n) ∧ -126 ≤ q ∧ q < 128) ∨ (op = .log2 ∧ 0 < q ∧ ∀ n : ℤ, q ≠ 2 ^ n) ∨
        ((op = .sin ∨ op = .cos) ∧ |q| < 65536 ∧ ∀ n : ℤ, 4 * q ≠ n)) →
      let ap := approxOf op s m e
      ∃ u, inUnits ap.exp (unpack f r.1) = some u ∧ (u - ap.num).natAbs ≤ ap.bound) ∧
    (finF f x → (op = .sin ∨ op = .cos) → 65536 ≤ |q| → finF f r.1 ∧ |realF f r.1| ≤ 1)

/-! ## Compares and predicates -/

/-- CMPEQ, CMPNE, CMPLT, CMPLE, CMPGT, CMPGE, CMPUN and CLASS write in each lane of ACT whether the relation holds of every element, and
leave the other bits of the predicate. -/
def Obligations.CompareWords : Prop :=
  ∀ (d a b : Operand),
    (∀ i r, (i, r) ∈ [(Instr.cmpeq d a b, Rel.eq), (.cmpne d a b, .ne), (.cmplt d a b, .lt), (.cmple d a b, .le), (.cmpgt d a b, .gt),
        (.cmpge d a b, .ge), (.cmpun d a b, .un)] →
      Compares i (if r = .un then isFloat else fun _ => true) d [a, b] (fun c l => r.onLane (mType c.sp.mode) (val c a l) (val c b l))) ∧
    Compares (.classF d a b) isFloat d [a] (fun c l =>
      ((upTo (elemCount (mType c.sp.mode))).all fun k =>
        bit (rawU c b) (classOf (fmtOf (mType c.sp.mode)) (elem (elemWidth (mType c.sp.mode)) k (val c a l))), 0))

/-- PAND, POR, PXOR, PNOT, PCNT, PMOV, MSAVE, BALLOT, VANY and VALL write their word to a predicate or a scalar register whatever EXEC and
the guard; a write to p0 is ignored. -/
def Obligations.PredicateWords : Prop :=
  ∀ (d a b : Operand) (s : State) (c : Ctx),
    (Ready (.pand d a b) {} s c → ∃ t, exec (.pand d a b) s = .next t ∧ WroteP c s t d (rawU c a &&& rawU c b) 0) ∧
    (Ready (.por d a b) {} s c → ∃ t, exec (.por d a b) s = .next t ∧ WroteP c s t d (rawU c a ||| rawU c b) 0) ∧
    (Ready (.pxor d a b) {} s c → ∃ t, exec (.pxor d a b) s = .next t ∧ WroteP c s t d (rawU c a ^^^ rawU c b) 0) ∧
    (Ready (.pnot d a) {} s c → ∃ t, exec (.pnot d a) s = .next t ∧ WroteP c s t d (~~~(rawU c a)) 0) ∧
    (Ready (.pcnt d a) {} s c → ∃ t, exec (.pcnt d a) s = .next t ∧ WroteP c s t d (word (popcount (rawU c a &&& c.sp.exec))) 0) ∧
    (Ready (.pmov d a) {} s c → ∃ t, exec (.pmov d a) s = .next t ∧ WroteP c s t d (rawU c a) 0) ∧
    (Ready (.msave d) {} s c → ∃ t, exec (.msave d) s = .next t ∧ WroteP c s t d c.sp.exec 0) ∧
    (Ready (.ballot d a) {} s c → ∃ t, exec (.ballot d a) s = .next t ∧
      WroteP c s t d (maskOf fun l => bit c.act l && rawLane c a l != 0) 0) ∧
    (Ready (.vany d a) {} s c → ∃ t, exec (.vany d a) s = .next t ∧ WroteP c s t d (if rawU c a &&& c.act = 0 then 0 else 1) 0) ∧
    (Ready (.vall d a) {} s c → ∃ t, exec (.vall d a) s = .next t ∧ WroteP c s t d (if rawU c a &&& c.act = c.act then 1 else 0) 0)

/-! ## Cross-lane words -/

/-- SHFL, SHFLX, MATCH, SCAN, REDUCE and REBAL send a result over the lanes of ACT; REBAL writes a pair; with an empty ACT nothing is
sent. DEDUCED (log 84): the first lane's element enters SCAN and REDUCE as a result of float arithmetic, a NaN as the canonical one
(`quietElem`). The model's own choices here: log entries 75, 84. -/
def Obligations.CrossLaneResults : Prop :=
  ∀ (d a b : Operand) (s : State) (c : Ctx), isDiscard d = false →
    let p (cs : List Nat) (n : Nat) (f : Nat → Nat → Word) : List Pend :=
      [{ n := s.seq, split := c.sp.num, codes := cs, op := .ready (groupWrites d c.act n f) }]
    let one := codesOf 0 (d, .one)
    (c.act ≠ 0 →
      (Ready (.shfl d a b) { typeOk := tyNot64 } s c → ∃ t, exec (.shfl d a b) s = .next t ∧
        Sent c s t (p one 1 fun _ l => pickLane c a ((rawLane c b l).toNat % 32)) 0) ∧
      (Ready (.shflx d a b) { typeOk := tyNot64 } s c → ∃ t, exec (.shflx d a b) s = .next t ∧
        Sent c s t (p one 1 fun _ l => pickLane c a (Nat.xor l ((rawLane c b l).toNat % 32))) 0) ∧
      (Ready (.matchLanes d a) { typeOk := tyNot64 } s c → ∃ t, exec (.matchLanes d a) s = .next t ∧
        Sent c s t (p one 1 fun _ l => maskOf fun m => bit c.act m && rawLane c a m == rawLane c a l) 0) ∧
      (Ready (.scan d a) { typeOk := tyScan } s c → ∃ t, exec (.scan d a) s = .next t ∧
        Sent c s t (p one 1 fun _ l => word ((((scanOf c a).find? fun r => r.1 == l).map (·.2.1)).getD 0))
          (orFlags ((scanOf c a).map (·.2.2)))) ∧
      (∀ k : Fin 16, b = .int k →
        Ready (.reduce d a b) { typeOk := if k.val < 3 then tyScan else tyBits } s c → ∃ t, exec (.reduce d a b) s = .next t ∧
          Sent c s t (p one 1 fun _ _ => word (reduceOf c a k.val).1) (reduceOf c a k.val).2) ∧
      (Ready (.rebal d a b) { typeOk := tyInt32 } s c → ∃ t, exec (.rebal d a b) s = .next t ∧
        Sent c s t (p ((upTo 2).flatMap fun k => one.map (· + k)) 2 fun i l =>
          match rebalItem c.act (fun m => (rawLane c a m).toNat) (rawN c b + l) with
          | some (r, o) => if i = 0 then word r else word o
          | none => if i = 0 then 0xFFFFFFFF#32 else 0) 0)) ∧
    (c.act = 0 → ∀ i k, (i, k) ∈ [(Instr.shfl d a b, tyNot64), (.shflx d a b, tyNot64), (.matchLanes d a, tyNot64), (.scan d a, tyScan),
        (.rebal d a b, tyInt32)] ++ (match b with | .int n => [(.reduce d a b, if n.val < 3 then tyScan else tyBits)] | _ => []) →
      Ready i { typeOk := k } s c → ∃ t, exec i s = .next t ∧ Wrote c s t (.int 0) 0 0 (fun _ _ => 0) 0)

/-- SENSE sends the reading that B selects: 0 the core's temperature, 1 the droop events since the partition's last such read (which it
restarts), 2 the die's process monitor, 3 the die's hottest sensor. The model's own choices here: log entry 75. -/
def Obligations.SenseReadings : Prop :=
  ∀ (d b : Operand) (s : State) (c : Ctx), Ready (.sense d b) {} s c → c.act ≠ 0 →
    let p (v : Word) : List Pend :=
      [{ n := s.seq, split := c.sp.num, codes := codesOf 0 (d, .one), op := .ready (groupWrites d c.act 1 fun _ _ => v) }]
    (rawN c b = 0 → ∃ t, exec (.sense d b) s = .next t ∧ Sent c s t (p (wordInt (s.core c.w.core).temp)) 0) ∧
    (rawN c b = 1 → ∃ t, exec (.sense d b) s = .next t ∧
      Sent c { s with cores := t.cores } t (p (word ((s.core c.w.core).droop - ((s.core c.w.core).droopSeen.find c.w.part).getD 0))) 0 ∧
      (t.core c.w.core).droopSeen.find c.w.part = some (s.core c.w.core).droop) ∧
    (rawN c b = 2 → ∃ t, exec (.sense d b) s = .next t ∧ Sent c s t (p (wordInt (vget s.module.procmon (dieOf c.w.core) 0))) 0) ∧
    (rawN c b = 3 → ∃ t, exec (.sense d b) s = .next t ∧ Sent c s t (p (wordInt (s.hottest (dieOf c.w.core)))) 0)

/-- RDLANE, WRLANE, RANK, MODESV, SRD and CLK write their registers at once: RDLANE a live lane's value, WRLANE one live lane whatever
EXEC and the guard, RANK the number of lower lanes of ACT, MODESV the MODE, SRD the special register that B names, CLK the core's
counter as a pair. -/
def Obligations.ImmediateRegisterWords : Prop :=
  ∀ (d a b : Operand) (s : State) (c : Ctx),
    (Ready (.rdlane d a b) { typeOk := tyNot64 } s c → ∃ t, exec (.rdlane d a b) s = .next t ∧
      Wrote c s t (liveD c d) c.act 1 (fun _ _ => if bit c.sp.live (rawN c b % 32) then rawLane c a (rawN c b % 32) else 0) 0) ∧
    (Ready (.wrlane d a b) { typeOk := tyNot64 } s c → ∃ t, exec (.wrlane d a b) s = .next t ∧
      Wrote c s t d (laneBit (rawN c b % 32) &&& c.sp.live) 1 (fun _ _ => rawU c a) 0) ∧
    (Ready (.rank d) {} s c → ∃ t, exec (.rank d) s = .next t ∧
      Wrote c s t d c.act 1 (fun _ l => word (popcount (maskOf fun m => bit c.act m && decide (m < l)))) 0) ∧
    (Ready (.modesv d) {} s c → ∃ t, exec (.modesv d) s = .next t ∧ Wrote c s t d c.act 1 (fun _ _ => c.sp.mode) 0) ∧
    (Ready (.srd d a b) {} s c → ∃ t, exec (.srd d a b) s = .next t ∧
      Wrote c s t d c.act 1 (fun _ l => specialValue s c a ((specialIndex b).getD 0) l) 0) ∧
    (Ready (.clk d) {} s c → ∃ t, exec (.clk d) s = .next t ∧
      Wrote c s t (liveD c d) c.act 2 (fun i _ => if i = 0 then word (s.core c.w.core).clk.toNat
        else word ((s.core c.w.core).clk.toNat / 4294967296)) 0)

/-! ## MODE, EXEC, special registers, the stack -/

/-- MODEA and MODEM write their fields of MODE and leave the others, MODELD the whole of it when no field is reserved; MSET, MAND and MANDN
write EXEC, MSET within LIVE. Nothing else changes. -/
def Obligations.ModeAndMaskWords : Prop :=
  ∀ (a : Operand) (imm : BitVec 16) (s : State) (c : Ctx),
    (Ready (.modea imm) {} s c → ∃ t, exec (.modea imm) s = .next t ∧
      SplitNow c s t fun x => { x with mode := (c.sp.mode &&& 0xFFFFF000#32) ||| imm.setWidth 32 }) ∧
    (Ready (.modem imm) {} s c → ∃ t, exec (.modem imm) s = .next t ∧
      SplitNow c s t fun x => { x with mode := (c.sp.mode &&& 0xFFE00FFF#32) ||| (imm.setWidth 32 <<< 12) }) ∧
    (Ready (.modeld a) {} s c → modeOk (rawN c a) = true → ∃ t, exec (.modeld a) s = .next t ∧
      SplitNow c s t fun x => { x with mode := rawU c a }) ∧
    (Ready (.mset a) {} s c → ∃ t, exec (.mset a) s = .next t ∧ SplitNow c s t fun x => { x with exec := rawU c a &&& c.sp.live }) ∧
    (Ready (.mand a) {} s c → ∃ t, exec (.mand a) s = .next t ∧ SplitNow c s t fun x => { x with exec := c.sp.exec &&& rawU c a }) ∧
    (Ready (.mandn a) {} s c → ∃ t, exec (.mandn a) s = .next t ∧
      SplitNow c s t fun x => { x with exec := c.sp.exec &&& ~~~(rawU c a) })

/-- MODELD of a value with a reserved field raises ILLEGAL and leaves MODE as it is. -/
def Obligations.ReservedModeRefused : Prop :=
  ∀ (a : Operand) (s : State) (c : Ctx), Ready (.modeld a) {} s c → modeOk (rawN c a) = false →
    exec (.modeld a) s = .next (s.raise c.wi c.sp.num Cause.illegal 0 c.sp.exec c.pc)

/-- SWR writes the special register that B names: EXEC within LIVE; the halves of TBASE, the low one a multiple of 32; KS0 to KS3; PROG in
the top trap frame; FPFLAGS below 32; QSIZE from 1 to 4096. Any other value raises ILLEGAL and writes nothing. -/
def Obligations.SpecialRegisterWrites : Prop :=
  ∀ (a b : Operand) (s : State) (c : Ctx), Ready (.swr a b) {} s c →
    let i := (specialIndex b).getD 0
    let v := rawU c a
    (i = 0x09 → ∃ t, exec (.swr a b) s = .next t ∧ SplitNow c s t fun x => { x with exec := v &&& c.sp.live }) ∧
    (i = 0x10 → v.toNat % 32 = 0 → ∃ t, exec (.swr a b) s = .next t ∧
      LeftWave c s t { c.w with tbase := c.w.tbase.extractLsb' 32 32 ++ v }) ∧
    (i = 0x11 → ∃ t, exec (.swr a b) s = .next t ∧ LeftWave c s t { c.w with tbase := v ++ c.w.tbase.setWidth 32 }) ∧
    (∀ k, k < 4 → i = 0x12 + k → ∃ t, exec (.swr a b) s = .next t ∧ LeftWave c s t { c.w with ks := vset c.w.ks k v }) ∧
    (i = 0x16 → c.w.bruin = [] → ∀ e es, c.w.stack = e :: es → e.kind = 3 → ∃ t, exec (.swr a b) s = .next t ∧
      LeftWave c s t { c.w with prog := v, stack := { e with prog := v } :: es }) ∧
    (i = 0x17 → v.toNat < 32 → ∃ t, exec (.swr a b) s = .next t ∧ LeftWave c s t { c.w with fpflags := v.setWidth 5 }) ∧
    (i = 0x1A → 1 ≤ v.toNat → v.toNat ≤ 4096 → ∃ t, exec (.swr a b) s = .next t ∧ LeftWave c s t { c.w with qsize := v.toNat }) ∧
    (((i = 0x10 ∧ v.toNat % 32 ≠ 0) ∨ (i = 0x17 ∧ 32 ≤ v.toNat) ∨ (i = 0x1A ∧ (v = 0 ∨ 4096 < v.toNat)) ∨
        (i = 0x16 ∧ c.w.bruin = [] ∧ c.w.stack = [])) →
      exec (.swr a b) s = .next (s.raise c.wi c.sp.num Cause.illegal 0 c.sp.exec c.pc))

/-- STKRD reads the eight words of the entry A names, STKWR overwrites an entry or pushes one at the index of the depth, FMARK marks a
single split without a stack, SUCCGO sets its mark; in start-up, test and recovery mode STKRD and STKWR raise ILLEGAL. The model's own
choices here: log entry 13. -/
def Obligations.StackAndMarkWords : Prop :=
  ∀ (d a b : Operand) (off : Word) (s : State) (c : Ctx),
    (Ready (.stkrd d a) {} s c → (s.part c.w.part).special = false → ∀ e, c.w.stack[rawN c a]? = some e →
      ∃ t, exec (.stkrd d a) s = .next t ∧ Wrote c s t d c.act 8 (fun i _ => nth e.words i 0) 0) ∧
    (Ready (.stkwr a b) {} s c → (s.part c.w.part).special = false → ∀ e, Entry.ofWords ((upTo 8).map fun k => groupLane c a k 0) = some e →
      rawN c b < c.w.stack.length → ∃ t, exec (.stkwr a b) s = .next t ∧
        LeftWave c s t { c.w with stack := setAt c.w.stack (rawN c b) e }) ∧
    (Ready (.stkwr a b) {} s c → (s.part c.w.part).special = false → ∀ e, Entry.ofWords ((upTo 8).map fun k => groupLane c a k 0) = some e →
      rawN c b = c.w.stack.length → c.w.stack.length < 32 → ∃ t, exec (.stkwr a b) s = .next t ∧
        LeftWave c s t { c.w with stack := e :: c.w.stack }) ∧
    (Ready (.stkrd d a) {} s c → (s.part c.w.part).special = true →
      exec (.stkrd d a) s = .next (s.raise c.wi c.sp.num Cause.illegal 0 c.sp.exec c.pc)) ∧
    (Ready (.stkwr a b) {} s c → (s.part c.w.part).special = true →
      exec (.stkwr a b) s = .next (s.raise c.wi c.sp.num Cause.illegal 0 c.sp.exec c.pc)) ∧
    (Ready (.fmark off) {} s c → c.w.splits.length ≤ 1 → c.w.stack = [] →
      let m := Mark.mk ((c.w.kbase.toNat + off.toNat) % 18446744073709551616) c.next c.sp.exec c.sp.mode
      ∃ t, exec (.fmark off) s = .next t ∧ LeftWave c s t { c.w with rewindable := true, mark := some m }) ∧
    (Ready (.succgo) {} s c → ∃ t, exec .succgo s = .next t ∧ LeftWave c s t { c.w with succgo := true, rewindable := false })

/-! ## Control -/

/-- NOP changes nothing and the split goes on; JMP, and BRZ, BRNZ, BANY and BALL when taken, move the whole split to slot 1 of the bundle
OFF16 bundles away; not taken, the split goes on; CALL also writes the address of the bundle after its own to its pair; RET and JMPR move
to the address in their pair. The model's own choices here: log entries 33, 36. -/
def Obligations.BranchWords : Prop :=
  ∀ (a : Operand) (off : BitVec 16) (s : State) (c : Ctx),
    let same (t : State) : Prop := Wrote c s t (.int 0) 0 0 (fun _ _ => 0) 0
    (Ready .nop {} s c → ∃ t, exec .nop s = .next t ∧ same t) ∧
    (Ready (.jmp off) {} s c → targetOf c off < Config.vaEnd → ∃ t, exec (.jmp off) s = .next t ∧ Jumped c s t (targetOf c off)) ∧
    (∀ i taken, (i, taken) ∈ [(Instr.brz a off, decide (rawU c a = 0)), (.brnz a off, decide (rawU c a ≠ 0)),
        (.bany a off, decide (rawU c a &&& c.sp.exec ≠ 0)), (.ball a off, decide (rawU c a &&& c.sp.exec = c.sp.exec))] →
      Ready i {} s c →
        (taken = true → targetOf c off < Config.vaEnd → ∃ t, exec i s = .next t ∧ Jumped c s t (targetOf c off)) ∧
        (taken = false → ∃ t, exec i s = .next t ∧ same t)) ∧
    (Ready (.call a off) {} s c → targetOf c off < Config.vaEnd → ∃ t w, exec (.call a off) s = .next t ∧ OnlyWave c s t ∧
      t.wave? c.wi = some w ∧ WentOn c s w (targetOf c off + 4) true ∧
      Received c.w w a c.act 2 (fun i _ => if i = 0 then word (32 * (c.pc / 32) + 32)
        else word ((32 * (c.pc / 32) + 32) % 18446744073709551616 / 4294967296)) 0) ∧
    (∀ i, i ∈ [Instr.ret a, .jmpr a] → Ready i {} s c → pairN c a % 32 = 0 → pairN c a < Config.vaEnd →
      ∃ t, exec i s = .next t ∧ Jumped c s t (pairN c a))

/-- A branch never leaves the address space: a taken branch whose target has a nonzero upper byte raises APERTURE there, CALL without
writing its pair; a BRX that divides its split checks its rejoin PC too, after the target (DESIGN CHOICE, log 36); RET and JMPR off a
multiple of 32 raise BADTARGET; each with the target as FADDR. A branch that is not taken raises nothing, whatever its target. The model's
own choices here: log entry 36. -/
def Obligations.BranchTargetsChecked : Prop :=
  ∀ (a : Operand) (off : BitVec 16) (rj : Word) (s : State) (c : Ctx),
    let raises (i : Instr) (cause faddr : Nat) : Prop := exec i s = .next (s.raise c.wi c.sp.num cause faddr c.sp.exec c.pc)
    let same (i : Instr) : Prop := ∃ t, exec i s = .next t ∧ Wrote c s t (.int 0) 0 0 (fun _ _ => 0) 0
    let target := targetOf c off
    (∀ i, i ∈ [Instr.jmp off, .call a off] → Ready i {} s c → Config.vaEnd ≤ target → raises i Cause.aperture target) ∧
    (∀ i taken, (i, taken) ∈ [(Instr.brz a off, decide (rawU c a = 0)), (.brnz a off, decide (rawU c a ≠ 0)),
        (.bany a off, decide (rawU c a &&& c.sp.exec ≠ 0)), (.ball a off, decide (rawU c a &&& c.sp.exec = c.sp.exec))] →
      Ready i {} s c → Config.vaEnd ≤ target → if taken = true then raises i Cause.aperture target else same i) ∧
    (Ready (.brx a off rj) {} s c → c.w.sbOf c.sp.num = [] →
      let rejoin := targetOf c (rj.setWidth 16)
      (c.sp.exec &&& rawU c a = 0 → same (.brx a off rj)) ∧
      (c.sp.exec &&& rawU c a ≠ 0 → Config.vaEnd ≤ target → raises (.brx a off rj) Cause.aperture target) ∧
      (c.sp.exec &&& rawU c a ≠ 0 → c.sp.exec &&& ~~~(rawU c a) ≠ 0 → target < Config.vaEnd → Config.vaEnd ≤ rejoin →
        raises (.brx a off rj) Cause.aperture rejoin)) ∧
    (∀ i, i ∈ [Instr.ret a, .jmpr a] → Ready i {} s c →
      (pairN c a % 32 ≠ 0 → raises i Cause.badTarget (pairN c a)) ∧
      (pairN c a % 32 = 0 → Config.vaEnd ≤ pairN c a → raises i Cause.aperture (pairN c a)))

/-- BRX with results outstanding waits: it performs nothing. With no lane to take it goes on, with every lane it moves the whole split.
When both arms have lanes it pushes one kind 0 entry that holds its LIVE and MODE and names the rejoin bundle, and the lanes it takes
become a new split of the lowest free number at slot 1 of the target, whose JOIN is that entry; without a free number they wait in a kind
1 entry above. A push beyond a depth of 28 raises STACKOVF and pushes nothing. The model's own choices here: log entry 35. -/
def Obligations.DivergentBranch : Prop :=
  ∀ (r : Operand) (off : BitVec 16) (rj : Word) (s : State) (c : Ctx), Ready (.brx r off rj) {} s c →
    let t0 := c.sp.exec &&& rawU c r
    let n0 := c.sp.exec &&& ~~~(rawU c r)
    let x0 := targetOf c (rj.setWidth 16)
    let e : Entry := { pc := c.pc, rejoin := x0, mask := c.sp.live, mode := c.sp.mode, kind := 0, owner := c.sp.num, cause := 0,
                       prog := 0, orphan := false }
    let full := decide (4 ≤ c.w.splits.length) || c.w.freeNum.isNone
    let depth := c.w.stack.length + (if full then 2 else 1)
    (c.w.sbOf c.sp.num ≠ [] → exec (.brx r off rj) s = .next s) ∧
    (c.w.sbOf c.sp.num = [] →
      (t0 = 0 → ∃ t, exec (.brx r off rj) s = .next t ∧ Wrote c s t (.int 0) 0 0 (fun _ _ => 0) 0) ∧
      (t0 ≠ 0 → n0 = 0 → targetOf c off < Config.vaEnd → ∃ t, exec (.brx r off rj) s = .next t ∧ Jumped c s t (targetOf c off)) ∧
      (t0 ≠ 0 → n0 ≠ 0 → targetOf c off < Config.vaEnd → x0 < Config.vaEnd →
        (28 < depth → exec (.brx r off rj) s = .next (s.raise c.wi c.sp.num Cause.stackOvf 0 c.sp.exec c.pc)) ∧
        (depth ≤ 28 → ∃ t w, exec (.brx r off rj) s = .next t ∧ OnlyWave c s t ∧ t.wave? c.wi = some w ∧
          (∃ y, w.split? c.sp.num = some y ∧ y.pc = c.next ∧ y.live = c.sp.live &&& ~~~t0 ∧ y.exec = n0 ∧ y.mode = c.sp.mode) ∧
          (∀ k, c.w.splits.length < 4 → c.w.freeNum = some k → w.stack = e :: c.w.stack ∧
            ∃ y, w.split? k = some y ∧ y.pc = targetOf c off + 4 ∧ y.live = t0 ∧ y.exec = t0 ∧ y.mode = c.sp.mode ∧
              y.join = some c.w.stack.length ∧ y.park = .none) ∧
          (full = true → w.splits.length = c.w.splits.length ∧
            w.stack = { e with pc := targetOf c off, mask := t0, kind := 1 } :: e :: c.w.stack) ∧
          w.v = c.w.v ∧ w.s = c.w.s ∧ w.p = c.w.p ∧ w.alive = c.w.alive)))

/-- JOINW whose lanes all lie in the split goes on; otherwise the split parks at it with its condition, and merges at once where every
condition at that JOINW holds. EXIT of a wave that is neither keyed nor a PREEMPT handler ends the lanes of EXEC: they leave the wave's
live lanes and every stack entry's mask. YIELD gives the slot to the pending split that became ready first. The model's own choices here:
log entries 25, 49. -/
def Obligations.JoinExitYield : Prop :=
  (∀ a s c, Ready (.joinw a) {} s c → c.w.sbOf c.sp.num = [] →
    (rawU c a &&& c.w.alive &&& ~~~c.sp.live = 0 → ∃ t, exec (.joinw a) s = .next t ∧ Wrote c s t (.int 0) 0 0 (fun _ _ => 0) 0) ∧
    (rawU c a &&& c.w.alive &&& ~~~c.sp.live ≠ 0 → exec (.joinw a) s =
      .next ((s.modSplit c.wi c.sp.num fun x => { x.parkAs (.joinw (rawU c a)) s.seq with pc := c.pc }).settle c.wi 64))) ∧
  (∀ s c, Ready .exit {} s c → c.w.sbOf c.sp.num = [] → c.sp.exec ≠ 0 → c.w.keyed = none →
    (c.w.alive &&& ~~~c.sp.exec ≠ 0 ∨ c.w.preemptArea = none) →
    exec .exit s = .next ((s.goOn c c.next false).exitLanes c.wi c.sp.num c.sp.exec)) ∧
  (∀ (w : Wave) k m, (∃ x, w.split? k = some x ∧ x.live &&& ~~~m ≠ 0) → (w.exitLanes k m).alive = w.alive &&& ~~~m ∧
    (w.exitLanes k m).stack = w.stack.map (fun e => { e with mask := e.mask &&& ~~~m }) ∧
    ∀ x, w.split? k = some x → (w.exitLanes k m).split? k = some { x with live := x.live &&& ~~~m, exec := x.exec &&& ~~~m }) ∧
  (∀ s c, s.ctx? = some c → ∀ e i, s.nextPending c.w.quad = some e →
    (s.quad c.w.quad).slots.findIdx? (· == some (c.wi, c.sp.num)) = some i → ∃ t, exec .yield s = .next t ∧
      (t.quad c.w.quad).slots = setAt (s.quad c.w.quad).slots i (some e) ∧
      ∃ w x, t.wave? c.wi = some w ∧ w.split? c.sp.num = some x ∧ x.pc = c.next ∧ x.readyAt = s.seq)

/-! ## Memory words -/

/-- LD8 to LD64, LDS32 to LDS128, LDACQ and ACQR, with every lane's address in order and its page readable, are issued: their registers
are pending, one record holds each lane's address, and no value is taken yet; LDACQ acquires at MODE.SCOPE and ACQR at device scope with
promotion once satisfied. The model's own choices here: log entry 2. -/
def Obligations.LoadWords : Prop :=
  ∀ (d a b : Operand) (s : State) (c : Ctx), ∀ i width acq promote,
    (i, width, acq, promote) ∈ [(Instr.ld8 d a b, 1, (none : Option Nat), false), (.ld16 d a b, 2, none, false),
      (.ld32 d a b, 4, none, false), (.ld64 d a b, 8, none, false), (.lds32 d a b, 4, none, false), (.lds64 d a b, 8, none, false),
      (.lds128 d a b, 16, none, false), (.ldacq d a b, 4, some (mScope c.sp.mode), false), (.acqr d a b, 4, some 0, true)] →
    Ready i {} s c → AllGranted c s width false .read (accessLanes c (!(isV d)) a b) →
    ∃ t, exec i s = .next t ∧ Sent c s t (loadPend c d width s.seq acq promote (accessLanes c (!(isV d)) a b)) 0

/-- LD128 and ST128 take the lanes that PROG does not hold: LD128 issues a load of four registers a lane, ST128 enters 16 bytes a lane.
The model's own choices here: log entry 2. -/
def Obligations.QuadWords : Prop :=
  ∀ (d a b : Operand) (s : State) (c : Ctx),
    let ls := (accessLanes c false a b).filter fun e => !(bit c.sp.prog e.1)
    (ReadyProg (.ld128 d a b) s c → AllGranted c s 16 false .read ls →
      ∃ t, exec (.ld128 d a b) s = .next t ∧ Sent c s t (loadPend c d 16 s.seq none false ls) 0) ∧
    (ReadyProg (.st128 d a b) s c → AllGranted c s 16 true .write ls →
      ∃ t, exec (.st128 d a b) s = .next t ∧ Entered c s t (storesOf c d 16 ls) false [])

/-- ST8 to ST64 and STS32 run in every lane that may store: they enter their bytes, low word first, into the wave's store buffer, one
entry for each distinct address, and change no memory; the only other effect is a delivery to the other members of a mirrored window.
STREL starts a release at MODE.SCOPE that covers what the wave, and at device scope and wider its block, has buffered, holds its own write
behind that release, tags it at block scope, and ends a rewindable region; with an empty ACT it does nothing. The model's own choices
here: log entry 2. -/
def Obligations.StoreWords : Prop :=
  ∀ (d a b : Operand) (s : State) (c : Ctx),
    let ls := accessLanes c (!(isV d)) a b
    (∀ i width,
      (i, width) ∈ [(Instr.st8 d a b, 1), (.st16 d a b, 2), (.st32 d a b, 4), (.st64 d a b, 8), (.sts32 d a b, 4)] →
      Ready i {} s c → AllGranted c s width true .write ls →
      ∃ t, exec i s = .next t ∧ Entered c s t (storesOf c d width ls) false [] ∧
        { t with waves := s.waves, seq := s.seq, deliveries := s.deliveries } = s) ∧
    (Ready (.strel d a b) {} s c → c.act = 0 → exec (.strel d a b) s = .next (s.goOn c c.next false)) ∧
    (Ready (.strel d a b) {} s c → c.act ≠ 0 → AllGranted c s 4 true .write ls →
      let scope := mScope c.sp.mode
      let wsb := (c.w.wsb.filter WEntry.counts).map (·.seq)
      let oq := (s.block? c.w.block).elim [] fun b => (b.oq.filter WEntry.counts).map (·.seq)
      let covers := if scope = 1 then [] else if scope = 2 then wsb else wsb ++ oq
      ∃ t w, exec (.strel d a b) s = .next t ∧ t.wave? c.wi = some w ∧ w.rewindable = false ∧
        Entered c s t (storesOf c d 4 ls) (scope == 2) [s.seq] ∧ { t with waves := s.waves, seq := s.seq, blocks := s.blocks } = s ∧
        ((∃ x, w.releases = c.w.releases ++ [x] ∧ x.n = s.seq ∧ x.scope = scope ∧ x.wave = c.wi ∧ x.seqs = covers ∧ x.fault = none) ∨
          (w.releases = c.w.releases ∧ covers = [])))

/-- An access whose lane leaves the address space or the declared scratch raises APERTURE, and a misaligned one MISALIGN when no lane has
the former: no lane performs, FADDR is the address of the lowest lane that has the cause, FMASK holds those lanes (ACT for a uniform
access). -/
def Obligations.AddressCauses : Prop :=
  ∀ (d a b : Operand) (s : State) (c : Ctx), ∀ i width,
    (i, width) ∈ [(Instr.ld16 d a b, 2), (.ld32 d a b, 4), (.ld64 d a b, 8), (.st16 d a b, 2), (.st32 d a b, 4), (.st64 d a b, 8),
      (.lds32 d a b, 4), (.lds64 d a b, 8), (.lds128 d a b, 16), (.sts32 d a b, 4)] →
    Ready i {} s c → s.scratchOf c.w ≤ 524288 →
    let ls := accessLanes c (!(isV d)) a b
    let out (va : Nat) : Bool := !(decide (va < Config.aperture)) && !(decide (va < Config.aperture + s.scratchOf c.w))
    let mask (f : Nat × Nat → Bool) : Word := if isV d then (ls.filter f).foldl (fun m e => m ||| laneBit e.1) 0 else c.act
    (∀ e ∈ (ls.filter fun e => out e.2).head?,
      exec i s = .next (s.raise c.wi c.sp.num Cause.aperture e.2 (mask fun e => out e.2) c.pc)) ∧
    ((ls.filter fun e => out e.2) = [] → ∀ e ∈ (ls.filter fun e => decide (e.2 % width ≠ 0)).head?,
      exec i s = .next (s.raise c.wi c.sp.num Cause.misalign e.2 (mask fun e => decide (e.2 % width ≠ 0)) c.pc))

/-- The atomics with a TYPE and a use that allow them enter one entry for each lane, with the data and, for ACAS, the expected value read
at issue; with a result their registers are pending until the entries are performed. Under unpaired and quantum at global addresses, and
where no two lanes share an address, the entries stand in ascending lane order, else in some order. The region of a flashback ends, but
under spec at global addresses. The model's own choices here: log entries 2, 38. -/
def Obligations.AtomicWords : Prop :=
  ∀ (d a b : Operand) (s : State) (c : Ctx), ∀ i op,
    (i, op) ∈ [(Instr.aadd d a b, AtomicOp.add), (.amin d a b, .min), (.amax d a b, .max), (.aand d a b, .and), (.aor d a b, .or),
      (.axor d a b, .xor), (.axchg d a b, .xchg), (.acas d a b, .cas), (.ainc d a b, .inc)] →
    Ready i { typeOk := atomicTypes op, illegal := fun c => !(useAllows (mAuse c.sp.mode) (mType c.sp.mode) op) } s c →
    let ls := (actLanes (!(isV d)) c.act).map fun l => (l, match b with | .lit _ => pairN c a | _ => laneAddr c a b l)
    c.act ≠ 0 → AllGranted c s (if mType c.sp.mode = 14 then 8 else 4) true .both ls →
    ∃ t w new, exec i s = .next t ∧ t.wave? c.wi = some w ∧ SameMemory s t ∧ w.wsb = c.w.wsb ++ new ∧
      (new.map fun e => (e.addr, e.payload)).Perm (ls.map (atomicOf op d b c s.seq)) ∧
      (((mAuse c.sp.mode = 1 ∨ mAuse c.sp.mode = 3) ∧ (∀ e ∈ ls, inAperture e.2 = false) ∨ duplicated ls = false) →
        (new.map fun e => (e.addr, e.payload)) = ls.map (atomicOf op d b c s.seq)) ∧
      w.pend = c.w.pend ++ (if isDiscard d then [] else
        [Pend.mk s.seq c.sp.num ((upTo ((if mType c.sp.mode = 14 then 8 else 4) / 4)).map (regCode d + ·)) (.atomic (ls.map (·.1)))]) ∧
      w.rewindable = (if mAuse c.sp.mode = 4 ∧ ∀ e ∈ ls, inAperture e.2 = false then c.w.rewindable else false) ∧ w.v = c.w.v ∧ w.s = c.w.s ∧ w.p = c.w.p ∧
      ∃ x, w.split? c.sp.num = some x ∧ x.pc = c.next

/-- FENCE: acq acts as an acquire at MODE.SCOPE, rel starts a release that holds every later write, ar does both, and sc also lets the
acquire wait for the release, but at wave and block scope acts as ar; at device scope and wider the split waits while its stash
write-backs are under way; with a release part the rewindable region ends. PREF fetches each lane's line where it may, UNPIN unpins a
line, CINV drops the owner's L1 lines of a range, CWB of no bytes only ends the rewindable region. -/
def Obligations.FenceAndCacheWords : Prop :=
  ∀ (a b : Operand) (s : State) (c : Ctx),
    let sc := mScope c.sp.mode
    (Ready (.fence b) {} s c → c.act ≠ 0 →
      (rawN c b = 0 → exec (.fence b) s = .next ((s.fenceAcquire c.wi sc none false).goOn c c.next false)) ∧
      (let r := (s.unmark c.wi).fenceRelease c.wi sc
       ∀ s1, (rawN c b = 1 ∧ s1 = r.2) ∨ (rawN c b = 2 ∧ s1 = r.2.fenceAcquire c.wi sc none false) ∨
          (rawN c b = 3 ∧ s1 = if sc = 1 ∨ sc = 2 then r.2.fenceAcquire c.wi sc none false else r.2.fenceAcquire c.wi sc (some r.1) true) →
        ((wideScope sc && s1.stashPending c.wi r.1) = false → exec (.fence b) s = .next (s1.goOn c c.next false)) ∧
        ((wideScope sc && s1.stashPending c.wi r.1) = true → ∃ t, exec (.fence b) s = .next t ∧ Finishes c t (.stash r.1)))) ∧
    (Ready (.pref a b) {} s c →
      (∀ e ∈ (accessLanes c false a b).filter fun e => isGlobal e.2, (s.right? c.w.core (s.asidOf c.w.part) e.2).isSome = true) →
      exec (.pref a b) s = .next ((((accessLanes c false a b).filter fun e => isGlobal e.2).foldl (fun s e => prefetchOne c s e.2) s).goOn
        c c.next false)) ∧
    (Ready (.unpin a b) {} s c → c.act ≠ 0 → laneAddr c a b 0 < Config.aperture → ∃ t, exec (.unpin a b) s = .next t ∧
      (∀ l, s.line? (s.asidOf c.w.part) (laneAddr c a b 0 / 256) = some l →
        ∃ l', t.line? (s.asidOf c.w.part) (laneAddr c a b 0 / 256) = some l' ∧ l'.pinned = false ∧ l'.valid = l.valid ∧ l'.dirty = l.dirty) ∧
      SameMemory s t) ∧
    (Ready (.cinv a b) {} s c → c.act ≠ 0 → rawN c b ≠ 0 → pairN c a + rawN c b ≤ Config.aperture → ∃ t, exec (.cinv a b) s = .next t ∧
      (∀ l ∈ (t.core c.w.core).l1, l ∈ (s.core c.w.core).l1 ∧ ¬(l.asid = s.asidOf c.w.part ∧
        ((s.block? l.block).any fun x => x.part == c.w.part) = true ∧ l.line * 64 < pairN c a + rawN c b ∧ pairN c a < l.line * 64 + 64)) ∧
      SameMemory s t) ∧
    (Ready (.cwb a b) {} s c → c.act ≠ 0 → rawN c b = 0 →
      ∃ t, exec (.cwb a b) s = .next t ∧ LeftWave c s t { c.w with rewindable := false })

/-- PIN writes 1 for a line that is pinned now, fetched whole, or was already, 0 for an address in scratch, for a page that is uncached or
lies with the host or a peer, and where every way of the line's set is pinned; the region of a flashback ends. It has written D when it
issues (DEDUCED, log 53). CWB with nothing dirty in its range goes on at once, and otherwise its split waits at the next PC for the write-
backs it has started. The model's own choices here: log entries 15, 19, 20, 53. -/
def Obligations.PinAndWriteBack : Prop :=
  (∀ (d a b : Operand) (s : State) (c : Ctx), Ready (.pin d a b) {} s c → c.act ≠ 0 →
    let va := laneAddr c a b 0
    let asid := s.asidOf c.w.part
    let line := va / 256
    let gives (v : Word) : Prop := ∃ t w, exec (.pin d a b) s = .next t ∧ t.wave? c.wi = some w ∧ OnlyWave c s t ∧
      Received { c.w with rewindable := false } w d c.act 1 (fun _ _ => v) 0
    (inAperture va = true → gives 0) ∧
    (AllGranted c s 1 false .read [(0, va)] → va < Config.aperture →
      ((∃ l, s.line? asid line = some l ∧ l.pinned = true) → gives 1) ∧
      (((s.line? asid line).any fun l => l.pinned) = false → ∀ r, s.trans asid va = some r →
        ((r.attr = 2 ∨ r.tgt ≠ 0) → gives 0) ∧
        (∀ p, l2Prio 0 r.attr = some p → r.tgt = 0 →
          (s.inL2 asid line = false → s.takeWay asid line (r.linePa line) p = none → gives 0) ∧
          (∀ s1, (s.inL2 asid line = true ∧ s1 = s) ∨ (s.inL2 asid line = false ∧ s.takeWay asid line (r.linePa line) p = some s1) →
            ∃ t w l', exec (.pin d a b) s = .next t ∧ t.wave? c.wi = some w ∧
              (∀ r, r < 64 → w.readS r = if namesS d 1 r then 1 else c.w.readS r) ∧ w.v = c.w.v ∧ w.p = c.w.p ∧ w.h = c.w.h ∧
              w.fpflags = c.w.fpflags ∧ w.rewindable = false ∧
              t.line? asid line = some l' ∧ l'.pinned = true ∧ l'.valid = 15))))) ∧
  (∀ (a b : Operand) (s : State) (c : Ctx), Ready (.cwb a b) {} s c → c.act ≠ 0 → rawN c b ≠ 0 →
    pairN c a + rawN c b ≤ Config.aperture →
    let r := (s.unmark c.wi).startWriteBack c.wi 6 (s.dirtyStashIn (s.asidOf c.w.part) (pairN c a) (rawN c b))
      (s.dirtyL2In (s.asidOf c.w.part) (pairN c a) (rawN c b))
    ∃ t w x, exec (.cwb a b) s = .next t ∧ t.wave? c.wi = some w ∧ w.split? c.sp.num = some x ∧ x.pc = c.next ∧
      (r.2.isReleasing c.wi r.1 = true → x.park = .completing c.pc (.release r.1 .proceed) c.marked) ∧
      (r.2.isReleasing c.wi r.1 = false → t = r.2.goOn c c.next false))

/-- MON arms the split's monitor on the 64-byte line of its address; MWAIT returns at once with the status of a monitor that has fired
(1), was evicted (3), was saved (4) or does not exist (0), disarming it, and otherwise parks with the core's CLK and its timeout; MCANCEL
disarms. The model's own choices here: log entry 37. -/
def Obligations.MonitorWords : Prop :=
  ∀ (d a b : Operand) (s : State) (c : Ctx),
    (Ready (.mon a b) {} s c → c.act ≠ 0 → AllGranted c s 1 false .read [(0, laneAddr c a b 0)] → laneAddr c a b 0 < Config.aperture →
      Table.wfFrom none s.waves = true → (s.monitorsOf c.w.part c.w.core).length < 16 → ∃ t w, exec (.mon a b) s = .next t ∧ t.wave? c.wi = some w ∧
        w.mons.find c.sp.num = some { asid := s.asidOf c.w.part, line := laneAddr c a b 0 / 64, seq := s.seq, st := .armed } ∧
        w.rewindable = false ∧ SameMemory s t) ∧
    (Ready (.mwait d a) {} s c → c.act ≠ 0 →
      (∀ v, s.monitorStatus c.w c.sp.num (s.core c.w.core).clk.toNat 0 = some v → ∃ t w, exec (.mwait d a) s = .next t ∧
        t.wave? c.wi = some w ∧ OnlyWave c s t ∧ w.mons.find c.sp.num = none ∧
        (∀ r, r < 64 → w.readS r = if namesS d 1 r then word v else c.w.readS r) ∧ w.v = c.w.v) ∧
      (s.monitorStatus c.w c.sp.num (s.core c.w.core).clk.toNat 0 = none → ∃ t w x, exec (.mwait d a) s = .next t ∧
        t.wave? c.wi = some w ∧ w.split? c.sp.num = some x ∧ x.pc = c.pc ∧
        x.park = .wait (.monitor (s.core c.w.core).clk.toNat (rawN c a) (regCode d - 0x80)) c.next c.marked)) ∧
    (Ready .mcancel {} s c → c.act ≠ 0 → ∃ t, exec .mcancel s = .next t ∧
      LeftWave c s t { c.w with mons := c.w.mons.drop c.sp.num, rewindable := false })

/-! ## Stash windows, mirrored windows, copies -/

/-- STMAP writes the lowest free window number and maps the range with every line ABSENT, or writes 0xFFFFFFFF when the owner's windows
are in use, 0xFFFFFFFE for an overlap. STFLUSH and STUNMAP write a window's dirty sectors back and wait for that; STUNMAP then releases
the window. The model's own choices here: log entries 20, 21, 22. -/
def Obligations.StashWindowWords : Prop :=
  ∀ (d a b : Operand) (s : State) (c : Ctx) (bk : Block), s.block? c.w.block = some bk → c.act ≠ 0 →
    (Ready (.stmap d a b) {} s c →
      let g := pairN c a
      let o := (groupLane c b 0 0).toNat
      let n := (groupLane c b 1 0).toNat
      let used := s.windowsOf c.w.part c.w.core
      let share := ((s.part c.w.part).shareIn c.w.core).elim 0 (·.stash)
      o + n ≤ bk.record.scratch → g + n ≤ Config.aperture → g % 256 = 0 → o % 256 = 0 → n % 256 = 0 → n ≠ 0 →
      (share ≤ used.length → ∃ t, exec (.stmap d a b) s = .next t ∧ TookB c s t d 0xFFFFFFFF bk) ∧
      (used.length < share → (∃ x ∈ bk.windows, o < x.off + x.len ∧ x.off < o + n) →
        ∃ t, exec (.stmap d a b) s = .next t ∧ TookB c s t d 0xFFFFFFFE bk) ∧
      (used.length < share → (∀ x ∈ bk.windows, ¬(o < x.off + x.len ∧ x.off < o + n)) →
        ∀ i < 16, (∀ x ∈ used, x.id ≠ i) → (∀ j < i, ∃ x ∈ used, x.id = j) →
        ∃ t, exec (.stmap d a b) s = .next t ∧ TookB c s t d (word i) { bk with windows := bk.windows ++
          [{ id := i, off := o, len := n, base := g, lines := List.replicate (n / 256) StashLine.absent }] })) ∧
    (∀ wd, bk.window? (rawN c a) = some wd → c.w.bufferedFor wd = false →
      let r := (s.unmark c.wi).startWriteBack c.wi 0 ((bk.dirtyStash c.w.block).filter fun x => x.2.1 == rawN c a) []
      (Ready (.stflush a) {} s c →
        (r.2.isReleasing c.wi r.1 = false → exec (.stflush a) s = .next (r.2.goOn c c.next false)) ∧
        (r.2.isReleasing c.wi r.1 = true → ∃ t, exec (.stflush a) s = .next t ∧ Finishes c t (.release r.1 .proceed))) ∧
      (Ready (.stunmap a) {} s c →
        (r.2.isReleasing c.wi r.1 = false →
          exec (.stunmap a) s = .next ((r.2.unmapWindow c.w.block (rawN c a)).goOn c c.next false)) ∧
        (r.2.isReleasing c.wi r.1 = true → ∃ t, exec (.stunmap a) s = .next t ∧ Finishes c t (.release r.1 (.unmap (rawN c a))))))

/-- MWBIND, with the range and the id that it read at issue, binds a scratch range to a group under the group's current use, replacing the
block's binding of that id, or parks while it must wait. MWUNBIND ends the block's binding, at once or when its last delivery has been
performed. CPY and CPY2D append a copy of 1 or a number of rows to the core's queue. CPCLOSE closes the wave's open copies into its next
batch, whose number D receives. CPWAIT goes on at once when no copy of a batch up to A is left, raises ENGFAIL for a failed batch, and
parks otherwise. The model's own choices here: log entry 16. -/
def Obligations.MirrorAndCopyWords : Prop :=
  ∀ (d a b : Operand) (s : State) (c : Ctx) (bk : Block), s.block? c.w.block = some bk → c.act ≠ 0 →
    (Ready (.mwbind a b) {} s c →
      ∀ id off len, (∃ n m, c.sp.park = .wait (.mirror id off len) n m) ∨ (∀ i o l n m, c.sp.park ≠ .wait (.mirror i o l) n m) ∧
        id = rawN c b ∧ off = (groupLane c a 0 0).toNat ∧ len = (groupLane c a 1 0).toNat →
      let live := (s.mirrorsOf c.w.part (sectorOf c.w.core) id).filter fun e => !e.2.ended && e.1.launch == c.w.launch
      let use := (live.head?).elim s.seq fun e => e.2.use
      id ≤ 63 → off + len ≤ bk.record.scratch → off % 32 = 0 → len % 32 = 0 → 32 ≤ len → len ≤ 65536 →
      (s.mirrorBusy c.w id = true → ∃ t, exec (.mwbind a b) s = .next t ∧ Waits c t (.mirror id off len)) ∧
      (s.mirrorBusy c.w id = false → ∃ t w, exec (.mwbind a b) s = .next t ∧ Onward c t w ∧ SameMemory s t ∧
        t.block? c.w.block = some { bk with mirrors := bk.mirrors.filter (fun y => y.id != id) ++
          [{ id := id, off := off, len := len, use := use, ended := false, at_ := s.seq }] })) ∧
    (Ready (.mwunbind a) {} s c → rawN c a ≤ 63 →
      ((∀ m ∈ bk.mirrors, m.id ≠ rawN c a) → ∃ t, exec (.mwunbind a) s = .next t ∧ TookB c s t (.int 0) 0 bk) ∧
      ((∃ m ∈ bk.mirrors, m.id = rawN c a) → s.outgoing c.w.block (rawN c a) = false →
        ∃ t, exec (.mwunbind a) s = .next t ∧ TookB c s t (.int 0) 0 { bk with mirrors := bk.mirrors.filter fun m => m.id != rawN c a }) ∧
      ((∃ m ∈ bk.mirrors, m.id = rawN c a) → s.outgoing c.w.block (rawN c a) = true →
        ∃ t, exec (.mwunbind a) s = .next t ∧ Finishes c t (.deliveries (rawN c a)))) ∧
    (let free := ((s.core c.w.core).copyQ.filter fun o => o.part == c.w.part).length <
        ((s.part c.w.part).shareIn c.w.core).elim 0 (·.cpq)
     let put (i : Instr) (rows n dp sp : Nat) : Prop :=
        stridedOk s c.w (pairN c a) rows n dp = true → stridedOk s c.w (pairN c b) rows n sp = true →
        ∃ t w x, exec i s = .next t ∧ Onward c t w ∧ SameMemory s t ∧ (t.core c.w.core).copyQ = (s.core c.w.core).copyQ ++ [x] ∧
          x.dst = pairN c a ∧ x.src = pairN c b ∧ x.rows = rows ∧ x.rowBytes = n ∧ x.dpitch = dp ∧ x.spitch = sp ∧ x.moved = 0 ∧
          x.batch = none ∧ x.wave = c.wi ∧ x.block = c.w.block ∧ x.part = c.w.part ∧ x.st = .ready ∧
          (∀ k, k ≠ c.w.core → t.core k = s.core k) ∧ ∀ v, v ≠ c.wi → t.wave? v = s.wave? v
     free →
      (Ready (.cpy d a b) { roleOk := fun r => r == 0 || r == 1 } s c → put (.cpy d a b) 1 (rawN c d) 0 0) ∧
      (Ready (.cpy2d d a b) { roleOk := fun r => r == 0 || r == 1 } s c →
        put (.cpy2d d a b) (groupLane c d 0 0).toNat (groupLane c d 1 0).toNat (groupLane c d 2 0).toNat (groupLane c d 3 0).toNat)) ∧
    (Ready (.cpclose d) {} s c →
      let n := if c.w.lastBatch = 4294967295 then 1 else c.w.lastBatch + 1
      ∃ t, exec (.cpclose d) s = .next t ∧ Took c s t { c.w with lastBatch := n } d 1 (fun _ _ => word n) ∧
        (t.core c.w.core).copyQ = (s.core c.w.core).copyQ.map fun o =>
          if o.wave = c.wi ∧ o.batch = none then { o with batch := some n } else o) ∧
    (Ready (.cpwait a) {} s c →
      let n := rawN c a
      (n = 0 → exec (.cpwait a) s = .next ((s.acquireBy c.wi c.sp.num 0).goOn c c.next false)) ∧
      (n ≠ 0 → c.w.lastBatch ≠ 0 → covered c.w.lastBatch n = true →
        (∀ o ∈ (s.core c.w.core).copyQ, o.wave = c.wi → ∀ k, o.batch = some k → covered n k = false) →
        ((∀ k ∈ c.w.failedBatches, covered n k = false) →
          exec (.cpwait a) s = .next ((s.acquireBy c.wi c.sp.num 0).goOn c c.next false)) ∧
        (∀ k rest, c.w.failedBatches = k :: rest → covered n k = true →
          exec (.cpwait a) s = .next (s.raise c.wi c.sp.num 0x0F k c.sp.exec c.pc))) ∧
      (n ≠ 0 → c.w.lastBatch ≠ 0 → covered c.w.lastBatch n = true →
        (∃ o ∈ (s.core c.w.core).copyQ, o.wave = c.wi ∧ ∃ k, o.batch = some k ∧ covered n k = true) →
        ∃ t, exec (.cpwait a) s = .next t ∧ Waits c t (.copies n)))

/-- GATH and SCAT append to the block's slice queue an operation with the bases, the count and the element size of its operands, under a
handle that becomes pending, and with the index entries read so far, how many at a time the manual does not say; while some are left the
instruction issues again with PROG counting those sent, and goes on with its operation from there. With no entries the handle is done at
once. QFENCE waits for every operation in the queues that it names and for its issuer's earlier writes; with an empty mask its handle is
done at once. The model's own choices here: log entry 53. -/
def Obligations.SliceAndFenceWords : Prop :=
  ∀ (d a b : Operand) (s : State) (c : Ctx), c.act ≠ 0 →
    (∀ i gather, (i, gather) ∈ [(Instr.gath d a b, true), (.scat d a b, false)] → Ready i (sliceChecks a) s c →
      let g (k : Nat) : Nat := (groupLane c a k 0).toNat
      let some_ (o : SliceOp) : Nat := 1 + Config.freeNat s.free % (o.count - o.next)
      let leaves (o : SliceOp) (t : State) (w : Wave) : Prop :=
        if o.next < o.count then w.split? c.sp.num = some { c.sp with prog := word o.next } else Onward c t w
      (c.sp.prog = 0 → HandleFree c d → sliceCause s c (g 0) (g 1) (g 2) (g 3) (pairN c b) = none →
        (g 1 = 0 → ∃ t w, exec i s = .next t ∧ Onward c t w ∧ HandleIs w d .done ∧ t.sliceQ = s.sliceQ) ∧
        (g 1 ≠ 0 → ∀ xs s1, s.drawn.readIndices c (g 0) (1 + Config.freeNat s.free % g 1) = .some xs s1 →
          ∃ t w x, exec i s = .next t ∧ t.wave? c.wi = some w ∧ leaves x t w ∧ SameMemory s1 t ∧ t.sliceQ = s.sliceQ ++ [x] ∧
            HandleIs w d (.pending x.tag) ∧ x.tag = (s.takeTag c.w.part).1 ∧ x.list = g 0 ∧ x.count = g 1 ∧ x.elem = g 2 ∧
            x.data = g 3 ∧ x.base = pairN c b ∧ x.gather = gather ∧ x.done = [] ∧ x.cancelled = false ∧ x.block = c.w.block ∧
            x.href = hrefOf c d ∧ x.next = xs.length ∧ x.sent.map (·.2) = xs ∧ x.sent.map (·.1) = upTo xs.length)) ∧
      (c.sp.prog ≠ 0 → ∀ o, s.stoppedSlice c d = some o → ∀ xs s1,
        (s.unmark c.wi).drawn.readIndices c (o.list + 4 * o.next) (some_ o) = .some xs s1 →
        ∃ t w x, exec i s = .next t ∧ t.wave? c.wi = some w ∧ leaves x t w ∧ x.next = o.next + xs.length ∧ x.tag = o.tag ∧
          x.sent = o.sent ++ (xs.zip (upTo xs.length)).map (fun e => (o.next + e.2, e.1)) ∧
          t.sliceQ = s.sliceQ.map fun y => if y.tag = o.tag ∧ y.block = o.block then x else y)) ∧
    (Ready (.qfence d a) {} s c → HandleFree c d →
      (rawN c a = 0 → ∃ t w, exec (.qfence d a) s = .next t ∧ Onward c t w ∧ HandleIs w d .done ∧ t.qfences = s.qfences) ∧
      (rawN c a < 32 → rawN c a ≠ 0 → ((rawN c a).testBit 2 = true → s.mxFill c.w.quad < 64) →
        let r := (s.unmark c.wi).startRelease c.wi 2
        (s.opsIn c.w (rawN c a) = [] → r.2.isReleasing c.wi r.1 = false →
          ∃ t w, exec (.qfence d a) s = .next t ∧ Onward c t w ∧ HandleIs w d .done) ∧
        (s.opsIn c.w (rawN c a) ≠ [] → ∃ t w f, exec (.qfence d a) s = .next t ∧ Onward c t w ∧ f ∈ t.qfences ∧
          f.mask = rawN c a ∧ f.href = hrefOf c d ∧ f.tag = (s.takeTag c.w.part).1 ∧ (∀ o ∈ s.opsIn c.w (rawN c a), o ∈ f.waits) ∧
          f.block = c.w.block ∧ f.launch = c.w.launch)))

/-! ## Rings and barriers -/

/-- RACQ claims the slot at the producer cursor and RGET takes the slot at the consumer cursor, moving the cursor on; each gives D the
slot's number, or parks behind those that wait. RPUB makes a claimed slot FULL with the parity of its claim, RREL a taken slot EMPTY. A
slot that is in another state raises ILLEGAL with FADDR the slot. The model's own choices here: log entries 16, 17. -/
def Obligations.RingWords : Prop :=
  (∀ r : Ring, r.slots.length = 8 → r.prod < 8 → r.cons < 8 →
    (r.claim.slot r.prod = { r.slot r.prod with st := .claimed, lap := r.prodLap } ∧ (∀ j, j ≠ r.prod → r.claim.slot j = r.slot j) ∧
      r.claim.prod = (r.prod + 1) % 8 ∧ r.claim.prodLap = (if r.prod = 7 then !r.prodLap else r.prodLap) ∧ r.claim.cons = r.cons) ∧
    (r.take.slot r.cons = { r.slot r.cons with st := .taken } ∧ (∀ j, j ≠ r.cons → r.take.slot j = r.slot j) ∧
      r.take.cons = (r.cons + 1) % 8 ∧ r.take.consLap = (if r.cons = 7 then !r.consLap else r.consLap) ∧ r.take.prod = r.prod)) ∧
  ∀ (d a b : Operand) (s : State) (c : Ctx) (bk : Block) (r : Ring), c.act ≠ 0 → s.block? c.w.block = some bk →
    bk.rings[rawN c a]? = some r →
    (Ready (.racq d a) {} s c →
      ((r.slot r.prod).st = .empty → r.acqs = [] → ∃ t, exec (.racq d a) s = .next t ∧
        TookB c s t d (word r.prod) (bk.modRing (rawN c a) fun _ => r.claim)) ∧
      ((r.slot r.prod).st ≠ .empty ∨ r.acqs ≠ [] → ∃ t, exec (.racq d a) s = .next t ∧ Waits c t (.racq (rawN c a) (regCode d - 0x80)) ∧
        t.block? c.w.block = some (bk.modRing (rawN c a) fun r => { r with acqs := r.acqs ++ [(c.wi, c.sp.num)] }))) ∧
    (Ready (.rget d a) {} s c →
      ((r.slot r.cons).st = .full → (r.slot r.cons).phase = r.consLap → r.gets = [] → ∃ u t, exec (.rget d a) s = .next t ∧
        TookB c s u d (word r.cons) (bk.modRing (rawN c a) fun _ => r.take) ∧ Acquired c s u t) ∧
      ((r.slot r.cons).st ≠ .full ∨ (r.slot r.cons).phase ≠ r.consLap ∨ r.gets ≠ [] → ∃ t, exec (.rget d a) s = .next t ∧
        Waits c t (.rget (rawN c a) (regCode d - 0x80)) ∧
        t.block? c.w.block = some (bk.modRing (rawN c a) fun r => { r with gets := r.gets ++ [(c.wi, c.sp.num)] }))) ∧
    (Ready (.rpub a b) {} s c → rawN c b < 8 →
      ((r.slot (rawN c b)).st ≠ .claimed →
        exec (.rpub a b) s = .next (s.raise c.wi c.sp.num 0x01 (rawN c b) c.sp.exec c.pc)) ∧
      ((r.slot (rawN c b)).st = .claimed → c.w.flushed = true →
        let put := (s.unmark c.wi).modBlock c.w.block fun x => x.modRing (rawN c a) fun r =>
          r.modSlot (rawN c b) fun y => { y with st := .full, phase := y.lap }
        exec (.rpub a b) s = .next ((put.serveRing c.w.block (rawN c a) 16).goOn c c.next false) ∧
        (r.acqs = [] → r.gets = [] → exec (.rpub a b) s = .next (put.goOn c c.next false)))) ∧
    (Ready (.rrel a b) {} s c → rawN c b < 8 →
      ((r.slot (rawN c b)).st ≠ .taken →
        exec (.rrel a b) s = .next (s.raise c.wi c.sp.num 0x01 (rawN c b) c.sp.exec c.pc)) ∧
      ((r.slot (rawN c b)).st = .taken →
        let put := (s.unmark c.wi).modBlock c.w.block fun x => x.modRing (rawN c a) fun r =>
          r.modSlot (rawN c b) fun y => { y with st := .empty }
        exec (.rrel a b) s = .next ((put.serveRing c.w.block (rawN c a) 16).goOn c c.next false) ∧
        (r.acqs = [] → r.gets = [] → exec (.rrel a b) s = .next (put.goOn c c.next false))))

/-- BARA and BAR arrive once at a barrier's open phase with the count n: the phase completes when n waves have arrived, or every wave of
the block that has not exited with count 0, and the next phase opens. BARA goes on at once, BAR when the phase is complete and otherwise
after a wait; BARW waits for the phase of the wave's last arrival and goes on at once without one. The model's own choices here: log entry
17. -/
def Obligations.BarrierWords : Prop :=
  ∀ (a b : Operand) (s : State) (c : Ctx) (bk : Block) (x : Barrier), s.block? c.w.block = some bk → bk.bars[rawN c a]? = some x →
    (let n := rawN c b
     let y : Barrier := { x with arrivals := x.arrivals + 1, expected := n, fixed := true, who := x.who ++ [c.wi] }
     let full := if n = 0 then y.arrivals = (s.liveWaves bk).length else n ≤ y.arrivals
     let after (z : Barrier) (t : State) (w : Wave) : Prop :=
        (t.block? c.w.block).bind (fun q => q.bars[rawN c a]?) = some z ∧ w.barPhase.find (rawN c a) = some x.phase
     let next : Barrier := { arrivals := 0, expected := 0, fixed := false, phase := x.phase + 1, who := [] }
     n ≤ 128 → c.w.splits.length ≤ 1 → c.wi ∉ x.who → (x.fixed = true → x.expected = n) → c.w.flushed = true → c.sp.prog = 0 →
      (Ready (.bara a b) (barChecks s a b false) s c →
        (full → ∃ t w, exec (.bara a b) s = .next t ∧ Onward c t w ∧ after next t w) ∧
        (¬full → ∃ t w, exec (.bara a b) s = .next t ∧ Onward c t w ∧ after y t w)) ∧
      (Ready (.bar a b) (barChecks s a b true) s c →
        (full → ∃ t w, exec (.bar a b) s = .next t ∧ Onward c t w ∧ after next t w) ∧
        (¬full → ∃ t, exec (.bar a b) s = .next (t.checkDeadlock c.w.block) ∧ Waits c t (.barrier (rawN c a)) ∧
          ∃ w, t.wave? c.wi = some w ∧ after y t w))) ∧
    (Ready (.barw a) {} s c → rawN c a < 16 →
      ((c.w.barPhase.find (rawN c a) = none ∨ ∃ ph, c.w.barPhase.find (rawN c a) = some ph ∧ x.phase ≠ ph) →
        ∃ u t, exec (.barw a) s = .next t ∧ LeftWave c s u c.w.unmark ∧ Acquired c s u t) ∧
      (c.w.barPhase.find (rawN c a) = some x.phase → ∃ t, exec (.barw a) s = .next (t.checkDeadlock c.w.block) ∧
        Waits c t (.barrier (rawN c a))))

/-! ## Handles, predecessors, groups, children -/

/-- HTEST writes 0 for a pending handle, 1 for an empty or done one, 2 for a cancelled, 3 for a failed one. HWAIT goes on at once with 1
or 2 and acquires at device scope, raises ENGFAIL with FADDR the handle's code for a failed one, and parks while it is pending. HMOV reads
a handle's code and tag, or writes a state that is not pending. HCANCEL drops what of a pending operation has not begun. PREDWAIT goes on
with a device-scope acquire once the launch's predecessor is complete, and parks until then. The model's own choices here: log entry 16.
-/
def Obligations.HandleWords : Prop :=
  ∀ (d a : Operand) (s : State) (c : Ctx), c.act ≠ 0 →
    (Ready (.htest d a) {} s c → ∃ t, exec (.htest d a) s = .next t ∧
      Wrote c s t d c.act 1 (fun _ _ => match handleState c.w a with
        | .pending _ => 0 | .empty | .done => 1 | .cancelled => 2 | .failed => 3) 0) ∧
    (∀ r : Fin 16, a = .h r → Ready (.hwait d a) {} s c →
      (∀ v, (handleState c.w a = .empty ∧ v = 1) ∨ (handleState c.w a = .done ∧ v = 1) ∨ (handleState c.w a = .cancelled ∧ v = 2) →
        exec (.hwait d a) s = .next ((((match d with | .s k => s.setWave c.wi (c.w.writeS k.val (word v)) | _ => s)).acquireBy
          c.wi c.sp.num 0).goOn c c.next false)) ∧
      (handleState c.w a = .failed →
        exec (.hwait d a) s = .next (s.raise c.wi c.sp.num 0x0F (0xC8 + r.val) c.sp.exec c.pc)) ∧
      (∀ n, handleState c.w a = .pending n → ∃ t, exec (.hwait d a) s = .next t ∧ ∃ dst, Waits c t (.handle r.val dst))) ∧
    (isH d = false → Ready (.hmov d a) {} s c → ∃ t, exec (.hmov d a) s = .next t ∧
      Wrote c s t d c.act 2 (fun k _ => match handleState c.w a with
        | .empty => 0 | .pending n => if k = 0 then 1 else word n | .done => if k = 0 then 2 else 0
        | .cancelled => if k = 0 then 3 else 0 | .failed => if k = 0 then 4 else 0) 0) ∧
    (∀ (r : Fin 16) (n : Nat) (st : HState), d = .h r → HandleFree c d → rawN c a = n →
      (n, st) ∈ [(0, HState.empty), (2, .done), (3, .cancelled), (4, .failed)] → Ready (.hmov d a) {} s c →
      ∃ t, exec (.hmov d a) s = .next t ∧ LeftWave c s t { c.w with h := vset c.w.h r.val st }) ∧
    (Ready (.hcancel a) {} s c →
      ((∀ n, handleState c.w a ≠ .pending n) → ∃ t, exec (.hcancel a) s = .next t ∧ LeftWave c s t c.w) ∧
      (∀ n, handleState c.w a = .pending n → exec (.hcancel a) s = .next ((s.cancelOp c.w.part n).goOn c c.next false))) ∧
    (Ready .predwait {} s c →
      (s.predDone c.w.launch = true → exec .predwait s = .next ((s.acquireBy c.wi c.sp.num 0).goOn c c.next false)) ∧
      (s.predDone c.w.launch = false → ∃ t, exec .predwait s = .next t ∧ Waits c t .pred))

/-- REGROUP: a wave of one split with an empty stack and no pending handle joins the open group of its tag, or opens one, and waits there.
SPAWN creates a child for each lane of ACT and SPAWNW one, from the launch record that it read at issue; the handle is pending until the
children have completed, and the children wait for the release of the issuer's earlier writes. A bad record leaves the handle failed;
where the partition has no room for all the children the split parks. The model's own choices here: log entries 54, 58. -/
def Obligations.GroupAndChildWords : Prop :=
  ∀ (d a b : Operand) (s : State) (c : Ctx) (bk : Block), s.block? c.w.block = some bk →
    (Ready (.regroup a b) { illegal := fun c => c.w.keyed.isSome } s c → rawN c b ≤ 128 → c.sp.prog = 0 → c.w.sbOf c.sp.num = [] →
      c.w.splits.length ≤ 1 → c.w.stack = [] → (∀ k < 16, (vget c.w.h k .empty).isPending = false) →
      let live := (s.liveWaves bk).length
      (∀ g, bk.openGroup live (rawN c a) = some g → g.role = c.w.role ∧ g.n = rawN c b) →
      ∃ t, exec (.regroup a b) s = .next (t.checkDeadlock c.w.block) ∧ Waits c t (.regroup (rawN c a)) ∧ SameMemory s t ∧
        t.block? c.w.block = some (bk.joinGroup live (rawN c a) (rawN c b) c.w.role c.wi)) ∧
    (∀ i xs, (i, xs) ∈ [(Instr.spawn d a b, (lanesOf c.act).map (rawLane c b)), (.spawnw d a b, [rawU c b])] → Ready i {} s c →
      c.act ≠ 0 → HandleFree c d → ∀ bs args s1, ((∃ n m, c.sp.park = .wait (.room bs args) n m) ∧ s1 = s ∨
        (∀ v ys n m, c.sp.park ≠ .wait (.room v ys) n m) ∧ args = xs ∧ ReadsNow c s (pairN c a) 64 64 bs s1) →
      let depth := (s1.block? c.w.block).elim 0 fun x => x.child.elim 0 (·.depth)
      let cls := (s1.launch? c.w.launch).elim 0 (·.record.cls)
      depth < 8 →
      (parseRecord bs cls = none → ∃ t w, exec i s = .next t ∧ t.wave? c.wi = some w ∧ HandleIs w d .failed ∧
        (t.part c.w.part).children = (s1.part c.w.part).children) ∧
      (∀ r, parseRecord bs cls = some r → r.blocks = 1 → r.waves = 1 → (s1.part c.w.part).children.length + args.length ≤ 4096 →
        ∃ t w x, exec i s = .next t ∧ t.wave? c.wi = some w ∧ HandleIs w d (.pending (s1.takeTag c.w.part).1) ∧
          w.split? c.sp.num = some x ∧ x.pc = c.next ∧ (x.park = .none ∨ x.park = .marker ∨ ∃ n, x.park = .completing c.pc (.release n .quiet) c.marked) ∧
          ∃ new, (t.part c.w.part).children = (s1.part c.w.part).children ++ new ∧ new.map (·.info.arg) = args ∧
            ∀ k, k ∈ new → k.record = r ∧ k.wave = c.wi ∧ k.launch = c.w.launch ∧ k.info.depth = depth + 1 ∧ k.info.count = args.length ∧
              k.info.tag = (s1.takeTag c.w.part).1) ∧
      (∀ r, parseRecord bs cls = some r → r.blocks = 1 → r.waves = 1 → 4096 < (s1.part c.w.part).children.length + args.length →
        ∃ t, exec i s = .next t ∧ Waits c t (.room bs args)))

/-! ## Matrix words -/

/-- MXCLAIM gives D a FREE slot, now CLAIMED with every byte 0, or 0xFFFFFFFF; MXREL queues a slot's release. MXFILL, MXZERO, MXMMA,
MXMMAS, MXMMASP, MXLDACC and MXSTACC enter the quadrant's queue one command with the values of their operands, MXLIST the commands of its
list; the handle is pending under the command's tag. The model's own choices here: log entry 24. -/
def Obligations.MatrixWords : Prop :=
  ∀ (d a b : Operand) (s : State) (c : Ctx),
    let entered (s0 t : State) (ops : List MxOp) (href : Option HRef) : Prop :=
      ∃ x, (t.quad c.w.quad).mxq = (s0.quad c.w.quad).mxq ++ [x] ∧ x.ops = ops ∧ x.wave = c.wi ∧ x.block = c.w.block ∧
        x.launch = c.w.launch ∧ x.tag = (s0.takeTag c.w.part).1 ∧ x.href = href ∧ x.started = false ∧ x.done = false ∧
        x.prog = 0 ∧ x.st = .ready ∧ (t.quad c.w.quad).lease = (s0.quad c.w.quad).lease.or (some c.w.launch) ∧
        ∀ q, q ≠ c.w.quad → t.quad q = s0.quad q
    (Ready (.mxclaim d a) mxChecks s c →
      (∀ i x, (rawN c a = 0 ∧ c.w.slots.findIdx? (fun x => !x.claimed) = some i ∨ rawN c a = i + 1 ∧ i < 32) → c.w.slots[i]? = some x →
        x.claimed = false → ∃ t, exec (.mxclaim d a) s = .next t ∧ OnlyWave c s t ∧
          Took c s t { c.w with slots := c.w.slots.modify i fun _ => { claimed := true, relQueued := false, data := [] } } d 1
            (fun _ _ => word i)) ∧
      (rawN c a = 0 → (∀ x ∈ c.w.slots, x.claimed = true) → ∃ t, exec (.mxclaim d a) s = .next t ∧ OnlyWave c s t ∧
        Took c s t c.w d 1 (fun _ _ => 0xFFFFFFFF))) ∧
    (Ready (.mxrel a) mxChecks s c → s.mxFill c.w.quad < 64 →
      (∃ x, c.w.slots[rawN c a]? = some x ∧ x.claimed = true ∧ x.relQueued = false) →
      ∃ t w, exec (.mxrel a) s = .next t ∧ Onward c t w ∧ SameMemory s t ∧ entered s t [.rel (rawN c a)] none ∧
        (w.slots[rawN c a]?).any (·.relQueued) = true) ∧
    (HandleFree c d → s.mxFill c.w.quad < 64 → ∀ i op,
      (i, op) ∈ [(Instr.mxfill d a b, MxOp.fill (rawU c a) (groupLane c b 1 0) (groupLane c b 0 0).toNat), (.mxzero d a, .zero (rawN c a)),
        (.mxmma d a b, .mma 0 (rawU c a) (groupLane c b 0 0) (groupLane c b 1 0)),
        (.mxmmas d a b, .mma 1 (rawU c a) (groupLane c b 0 0) (groupLane c b 1 0)),
        (.mxmmasp d a b, .mma 2 (rawU c a) (groupLane c b 0 0) (groupLane c b 1 0)), (.mxldacc d a b, .ldacc (rawN c a) (rawN c b)),
        (.mxstacc d a b, .stacc (rawN c a) (rawU c b))] →
      Ready i mxChecks s c → mxCause c.w (s.scratchOf c.w) op = none →
      ∃ t w, exec i s = .next t ∧ Onward c t w ∧ SameMemory s t ∧ entered s t [op] (hrefOf c d) ∧
        HandleIs w d (.pending (s.takeTag c.w.part).1)) ∧
    (HandleFree c d → Ready (.mxlist d a b) mxChecks s c → rawN c b ≤ 256 →
      ∀ bs s1, ReadsNow c s (Config.aperture + rawN c a) 16 (16 * rawN c b) bs s1 → rawN c a % 16 = 0 →
      let ops := (upTo (rawN c b)).map fun i => listOp ((bs.drop (16 * i)).take 16)
      listFails c.w (s1.scratchOf c.w) ops = false → s1.mxFill c.w.quad < 64 →
      (rawN c b = 0 → ∃ t w, exec (.mxlist d a b) s = .next t ∧ t.wave? c.wi = some w ∧ HandleIs w d .done ∧ t.quads = s1.quads) ∧
      (rawN c b ≠ 0 → ∃ t w, exec (.mxlist d a b) s = .next t ∧ t.wave? c.wi = some w ∧ entered s1 t (ops.filterMap id) (hrefOf c d) ∧
        HandleIs w d (.pending (s1.takeTag c.w.part).1)))

/-! ## Keyed words -/

/-- KBIND, with the descriptor's bytes that it read at issue, binds a stage with the homes of its launch once the count of homes that it
writes into the descriptor has been performed; it goes on at once where the launch has bound the id to the same descriptor, raises ILLEGAL
where to another, and parks where another launch holds the id; the region of a flashback ends. KPUSH sends one record a lane of ACT to the
stage and waits until its home has accepted each. KYIELD saves and KEND ends the contexts of its lanes, which then exit. KDRAIN adds a
drain over every home of the stage under its handle. The model's own choices here: log entries 25, 46, 47. -/
def Obligations.KeyedWords : Prop :=
  (∀ (a b : Operand) (s : State) (c : Ctx), Ready (.kbind a b) {} s c → c.act ≠ 0 → ∀ id addr bs s1,
    ((∃ n m, c.sp.park = .wait (.stage id addr bs) n m) ∧ s1 = s ∨
      (∀ i v xs n m, c.sp.park ≠ .wait (.stage i v xs) n m) ∧ id = rawN c a ∧ addr = pairN c b ∧ id ≤ 63 ∧ addr % 64 = 0 ∧
        inAperture addr = false ∧ ReadsNow c s addr 64 28 bs s1) →
    let s2 := s1.unmark c.wi
    ∀ x, parseStage bs addr c.w.launch (s2.asidOf c.w.part) (s2.homeSet c.w.launch) none id = some x →
    (∀ y, s2.binding? c.w.part id = some y →
      (y.launch = c.w.launch → y.desc = addr → exec (.kbind a b) s = .next (s2.goOn c c.next false)) ∧
      (y.launch = c.w.launch → y.desc ≠ addr →
        exec (.kbind a b) s = .next (s.raise c.wi c.sp.num Cause.illegal 0 c.sp.exec c.pc)) ∧
      (y.launch ≠ c.w.launch → ∃ t, exec (.kbind a b) s = .next t ∧ Waits c t (.stage id addr bs))) ∧
    (s2.binding? c.w.part id = none → AllGranted c s2 4 true .write [(0, addr + 0x1C)] →
      ∃ t n w, exec (.kbind a b) s = .next t ∧ Finishes c t (.kbind n id addr) ∧
        (t.part c.w.part).bindings = (s2.part c.w.part).bindings ++ [{ x with waiting := some n }] ∧ t.wave? c.wi = some w ∧
        ∃ e ∈ w.wsb, e.addr = addr + 0x1C ∧ e.payload = .store (leBytes (s2.homeSet c.w.launch).length 4))) ∧
  (∀ (d a b : Operand) (s : State) (c : Ctx) (x : Binding), s.ctx? = some c → decodesFor (.kpush d a b) c = true → c.w.role ≠ 1 →
    rawN c a ≤ 63 → s.binding? c.w.part (rawN c a) = some x → regCode d + x.recWords ≤ c.w.footprint →
    (∀ r ∈ instrCodes (.kpush d a b) (mType c.sp.mode) ++ groupCodes d x.recWords, r ∉ c.w.pend.flatMap (·.codes)) → c.act ≠ 0 →
    ∃ t recs y, exec (.kpush d a b) s = .next t ∧ Finishes c t (.records (recs.map (·.n))) ∧
      recs.map (·.key) = (lanesOf c.act).map (keyOf c b) ∧
      recs.map (·.words) = (lanesOf c.act).map (fun l => (upTo x.recWords).map fun k => groupLane c d k l) ∧
      t.binding? c.w.part x.stage = some y ∧ y.inFlight = x.inFlight ++ recs) ∧
  (∀ (s : State) (c : Ctx) (i : Instr) (yield : Bool), (i, yield) ∈ [(Instr.kyield, true), (.kend, false)] →
    Ready i { illegal := fun c => c.w.keyed.isNone } s c → c.w.sbOf c.sp.num = [] →
    (c.act = 0 → exec i s = .next (s.goOn c c.next false)) ∧
    (c.act ≠ 0 → s.allPerformed c.w = true →
      exec i s = .next ((((s.unmark c.wi).leaveLanes c yield c.act).goOn c c.next false).exitLanes c.wi c.sp.num c.act))) ∧
  (∀ (d a : Operand) (s : State) (c : Ctx) (x : Binding), Ready (.kdrain d a) {} s c → c.act ≠ 0 → HandleFree c d → rawN c a ≤ 63 →
    s.binding? c.w.part (rawN c a) = some x → x.launch = c.w.launch →
    ∃ t w y r, exec (.kdrain d a) s = .next t ∧ Onward c t w ∧ HandleIs w d (.pending (s.takeTag c.w.part).1) ∧
      t.binding? c.w.part (rawN c a) = some y ∧ y.drains = x.drains ++ [r] ∧ y.homes.map (·.core) = x.homes.map (·.core) ∧ r.left = x.homes.map (·.core) ∧
      r.tag = (s.takeTag c.w.part).1 ∧ r.href = hrefOf c d ∧ r.pending = [])

/-! ## Snapshot words -/

/-- SNAP, once the wave's earlier writes have been performed, opens a level: of the lowest FREE region, token that region, where no open
region meets the range; of the region that the range lies in, with its next level in the token; 0xFFFFFFFF with no FREE region, 0xFFFFFFFE
with four levels open. SACC accepts and SREJ rejects the innermost level of a token, SREJ acquiring at device scope; SQRY writes the
region's status. DEDUCED (log 51): an SREJ whose restore cannot be made yet waits at its point. The model's own choices here: log entries
20, 51. -/
def Obligations.SnapshotWords : Prop :=
  (∀ (k : Fin 64) (a b : Operand) (s : State) (c : Ctx), Ready (.snap (.s k) a b) {} s c → c.act ≠ 0 →
    let base := pairN c a
    let n := rawN c b
    let x := s.part c.w.part
    let r := (s.unmark c.wi).startRelease c.wi 0
    let gives (v : Word) (t : State) : Prop :=
      exec (.snap (.s k) a b) s = .next t ∧ ∃ w, t.wave? c.wi = some w ∧ ∀ j, j < 64 → w.readS j = if j = k.val then v else c.w.readS j
    base + n ≤ Config.aperture → base % 256 = 0 → n % 256 = 0 → n ≠ 0 → x.regions.length = 16 →
    (r.2.isReleasing c.wi r.1 = true →
      ∃ t, exec (.snap (.s k) a b) s = .next t ∧ Finishes c t (.release r.1 (.snap k.val base n))) ∧
    (r.2.isReleasing c.wi r.1 = false →
      ((∀ g < 16, (x.region g).meets (s.asidOf c.w.part) base n = false) →
        (∀ g < 16, (x.region g).isOpen = false → (∀ j < g, (x.region j).isOpen = true) → ∃ t, gives (word g) t ∧
          (t.part c.w.part).region g = { x.region g with
            asid := s.asidOf c.w.part, levels := [{ base := base, len := n }], exhausted := false }) ∧
        ((∀ g < 16, (x.region g).isOpen = true) → ∃ t, gives 0xFFFFFFFF t)) ∧
      (∀ g < 16, (x.region g).meets (s.asidOf c.w.part) base n = true → (∀ j < g, (x.region j).meets (s.asidOf c.w.part) base n = false) →
        (x.region g).within base n = true →
        ((x.region g).levels.length < 4 → ∃ t, gives (word (g + 16 * (x.region g).levels.length)) t ∧
          ((t.part c.w.part).region g).levels = (x.region g).levels ++ [{ base := base, len := n }]) ∧
        (4 ≤ (x.region g).levels.length → ∃ t, gives 0xFFFFFFFE t)))) ∧
  (∀ (a : Operand) (s : State) (c : Ctx), Ready (.sacc a) {} s c → c.act ≠ 0 →
    ∀ g r, s.innermost c.w.part (rawU c a) = some (g, r) →
    exec (.sacc a) s = .next (((s.unmark c.wi).modRegion c.w.part g Region.accept).goOn c c.next false)) ∧
  (∀ (a : Operand) (s : State) (c : Ctx), Ready (.srej a) {} s c → c.act ≠ 0 → (rawU c a).toNat < 64 →
    let r := (s.unmark c.wi).startRelease c.wi 0
    (r.2.isReleasing c.wi r.1 = true → ∃ t, exec (.srej a) s = .next t ∧ Finishes c t (.release r.1 (.srej (rawU c a)))) ∧
    (r.2.isReleasing c.wi r.1 = false →
      (∀ s1, r.2.rejectLevel c.w.part (rawU c a) = .ok s1 →
        exec (.srej a) s = .next ((s1.acquireBy c.wi c.sp.num 0).goOn c c.next false)) ∧
      (r.2.rejectLevel c.w.part (rawU c a) = .waits →
        ∃ t, exec (.srej a) s = .next t ∧ Finishes c t (.release r.1 (.srej (rawU c a)))))) ∧
  (∀ (d a : Operand) (s : State) (c : Ctx), Ready (.sqry d a) {} s c → c.act ≠ 0 → (rawU c a).toNat < 64 →
    ∃ t, exec (.sqry d a) s = .next t ∧ OnlyWave c s t ∧ Took c s t c.w.unmark d 1 (fun _ _ =>
      word (((s.part c.w.part).region ((rawU c a).toNat % 16)).status ((rawU c a).toNat / 16))))

/-! ## Sampling and presentation words -/

/-- SSBUILD queues a build of the set that its descriptor describes, SSBIND binds a built set to a stage for the launch, TRIEMIT queues a
triangle for each lane of ACT, DRAWEND closes the open draw under its handle, PRESENT queues the frame of an image descriptor behind a
device-scope release. The model's own choices here: log entry 29. -/
def Obligations.SamplingWords : Prop :=
  (∀ (d a : Operand) (s : State) (c : Ctx), Ready (.ssbuild d a) {} s c → c.act ≠ 0 → HandleFree c d → pairN c a % 64 = 0 →
    pairN c a + 64 ≤ Config.aperture → ∀ bs s1, ReadsNow c s (pairN c a) 64 64 bs s1 → setOk bs = true →
    s.setBound c.w.part (pairN c a) = false → (SampleSet.read bs).outside = none →
    ∃ t w x, exec (.ssbuild d a) s = .next t ∧ t.wave? c.wi = some w ∧ HandleIs w d (.pending (s1.takeTag c.w.part).1) ∧
      t.builds = s1.builds ++ [x] ∧ x.desc = pairN c a ∧ x.samples = field bs 0 8 ∧ x.count = field bs 8 4 ∧ x.index = field bs 0x18 8 ∧
      x.leafCap = field bs 0xC 1 ∧ x.started = false ∧ x.sector = sectorOf c.w.core ∧ x.part = c.w.part ∧ x.href = hrefOf c d) ∧
  (∀ (a b : Operand) (s : State) (c : Ctx) (l : Launch) (k : Binding), Ready (.ssbind a b) {} s c → c.act ≠ 0 →
    rawN c b ≤ 63 → s.binding? c.w.part (rawN c b) = some k → k.recWords = 4 →
    ((s.launch? c.w.launch).bind (·.bind)).any (·.emitted) = false → pairN c a + 64 ≤ Config.aperture →
    ∀ bs s1, ReadsNow c s (pairN c a) 1 64 bs s1 → setReservedOk bs = true → field bs 0x34 4 = 1 →
    20 * (SampleSet.read bs).cells + 32 ≤ (SampleSet.read bs).arenaSize →
    ∀ hdr s2, ReadsNow c s1 (SampleSet.read bs).index 1 64 hdr s2 → headerReservedOk hdr = true → s2.launch? c.w.launch = some l →
    20 * field hdr 0xC 4 * field hdr 0x10 4 + 32 ≤ (SampleSet.read bs).arenaSize →
    ∃ t w y, exec (.ssbind a b) s = .next t ∧ t.wave? c.wi = some w ∧ (t.launch? c.w.launch).bind (·.bind) = some y ∧
      y.desc = pairN c a ∧ y.stage = rawN c b ∧ y.stageLaunch = k.launch ∧ y.gw = field hdr 0xC 4 ∧ y.gh = field hdr 0x10 4 ∧
      y.index = (SampleSet.read bs).index ∧ y.arena = (SampleSet.read bs).arena ∧ y.queue = [] ∧ y.bins = [] ∧ y.prim = 0 ∧ y.drawNo = 0) ∧
  (∀ (d : Operand) (s : State) (c : Ctx) (l : Launch) (x : SampleBind), s.launch? c.w.launch = some l → l.bind = some x → c.act ≠ 0 →
    (Ready (.triemit d) { illegal := fun c => !(((s.launch? c.w.launch).bind (·.bind)).isSome), roleOk := fun r => r != 1 } s c →
      ∃ t y, exec (.triemit d) s = .next t ∧ (t.launch? c.w.launch).bind (·.bind) = some y ∧
        y.queue.map (·.tri) = x.queue.map (·.tri) ++ (lanesOf c.act).map (triOf c d) ∧
        (x.flushing = none → ∃ w, Onward c t w) ∧ (x.flushing ≠ none → Finishes c t (.flush c.w.launch))) ∧
    (Ready (.drawend d) {} s c → HandleFree c d → x.queue = [] → x.flushing = none →
      exec (.drawend d) s = .next (State.goOn ((((((s.unmark c.wi).takeTag c.w.part).2.pendHandle c d (s.takeTag c.w.part).1).modBind c.w.launch
        fun b => b.close (hrefOf c d) (s.takeTag c.w.part).1).reachBoundary c.w.launch).settleDraws c.w.launch) c c.next false))) ∧
  (∀ (a b : Operand) (s : State) (c : Ctx), Ready (.present a b) {} s c → c.act ≠ 0 → pairN c a % 32 = 0 →
    ∀ bs s1 l f, ReadsNow c s (pairN c a) 32 32 bs s1 → parseImage bs (rawN c b) (s1.asidOf c.w.part) c.w.part = some (l, f) →
    s1.linkOwner l = some c.w.part → ∃ t w x, exec (.present a b) s = .next t ∧ t.wave? c.wi = some w ∧
      t.presenting = s1.presenting ++ [x] ∧ x.link = l ∧ x.frame = f ∧ f.no = rawN c b ∧ x.wave = c.wi ∧
      ∃ y, w.split? c.sp.num = some y ∧ y.pc = c.next)

/-! ## Events of the pipeline -/

/-- The steps of the barrel: SPLIT_SWAP puts the split that became ready first into the slot to take; RESULT_WRITE writes a result's
registers, clears its pending bits and lets a split at its switch marker go on. A split that arrives at its governing entry (04 R73) parks
at a rejoin; with its last lanes the entry is popped and its owner, if it takes part, goes on with the lanes of all participants of its
MODE and the held lanes; at a deferred arm the split takes that arm, and its lanes are held by the kind 0 entry it pushed. CONVDEAD raises
its cause in the split with the lowest live lane (DESIGN CHOICE, log 93: a lane that an entry holds is in no split); TRAP_ENTRY enters a
waiting trap; REGROUP_RESUME packs the lanes of a complete group, ascending by WAVEID, into its first waves and ends the others;
MWAIT_TIMEOUT returns 2; CORE_CLOCK_GATE and CORE_WAKE stop and start a core's clock. The model's own choices here: log entries 1, 16, 54,
93. -/
def Obligations.PipelineEvents : Prop :=
  (∀ (s : State) (q i : Nat) (e : Nat × Nat), s.nextPending q = some e → s.slotToTake q = some i →
    ∃ t, exec (.splitSwap q) s = .next t ∧ (t.quad q).slots = setAt (s.quad q).slots i (some e) ∧ (t.quad q).mxq = (s.quad q).mxq ∧
      (∀ k, k ≠ q → t.quad k = s.quad k) ∧ { t with quads := s.quads } = s) ∧
  (∀ (s : State) (wi n : Nat) (w : Wave) (p : Pend) (ws : List RegWrite), s.wave? wi = some w → w.trap = none →
    w.ready? n = some p → p.op = .ready ws → ∃ t w', exec (.resultWrite wi n) s = .next t ∧ t.wave? wi = some w' ∧
      w'.pend = w.pend.filter (fun x => x.n != n) ∧ w'.v = (ws.foldl Wave.apply w).v ∧ w'.s = (ws.foldl Wave.apply w).s ∧
      w'.p = (ws.foldl Wave.apply w).p ∧ w'.stack = w.stack ∧ SameMemory s t ∧
      w'.splits = (if w'.sbOf p.split = [] then w.splits.map fun x =>
        if x.num = p.split ∧ x.park = .marker then { x with park := .none, readyAt := s.seq } else x else w.splits)) ∧
  (∀ (s : State) (wi k : Nat) (w : Wave), s.wave? wi = some w → w.arriving k = true → s.waveRuns w = true → s.heldBack wi w k = false →
    exec (.rejoinArrival wi k) s = .next (s.arrive wi k 8)) ∧
  (∀ (s : State) (wi k pos : Nat) (w : Wave) (x : Split) (g : Entry), s.wave? wi = some w → w.arriving k = true →
    s.waveRuns w = true → s.heldBack wi w k = false → w.split? k = some x → w.governing k = some (pos, g) → w.splitNums.Nodup →
    let w1 := w.modSplit k fun y => { y.parkAs (.rejoin pos) s.seq with pc := g.rejoin }
    let parts := w1.splits.filter fun y => y.park == .rejoin pos
    let lanes := parts.foldl (fun m y => m ||| y.live) (w.held pos g)
    (g.kind = 0 → w1.settleOnce s.seq = .none → ∃ t, exec (.rejoinArrival wi k) s = .next t ∧ t.wave? wi = some w1) ∧
    (g.kind = 0 → g.orphan = false → w.frameDepth ≤ pos → w.stack.length = pos + 1 → (∀ y ∈ parts, y.mode = x.mode) →
      (w.held pos g = 0 ∨ g.mode = x.mode) → g.mask &&& ~~~lanes = 0 →
      ∃ sv w2 y, (parts.find? fun z => z.num == g.owner).or parts.head? = some sv ∧
        exec (.rejoinArrival wi k) s = .next (State.settle ((s.setWave wi w1).setWave wi w2) wi 63) ∧
        w2.split? sv.num = some y ∧ y.live = lanes ∧ y.exec = lanes ∧ y.mode = x.mode ∧ y.pc = g.rejoin + 4 ∧ y.park = .none ∧
        (∀ z ∈ parts, z.num ≠ sv.num → w2.split? z.num = none) ∧ w2.stack.map (·.mask) = (w.stack.drop 1).map (·.mask) ∧
        ∀ z ∈ w.splits, (∀ p ∈ parts, p.num ≠ z.num) → ∃ z' ∈ w2.splits, z'.num = z.num ∧ z'.live = z.live ∧ z'.exec = z.exec ∧ z'.pc = z.pc) ∧
    (∀ q e, g.kind = 1 →
      w.positions.find? (fun pe => decide (pe.1 < pos) && pe.2.kind == 0 && w.owns k pe.1 pe.2) = some (q, e) →
      (x.live &&& ~~~e.mask ≠ 0 →
        exec (.rejoinArrival wi k) s = .next (s.raise wi k Cause.illConv 0 x.exec g.rejoin)) ∧
      (x.live &&& ~~~e.mask = 0 → g.mask ≠ 0 →
        ∃ t w' y, exec (.rejoinArrival wi k) s = .next t ∧ t.wave? wi = some w' ∧ w'.split? k = some y ∧ y.live = g.mask ∧
          y.exec = g.mask ∧ y.mode = g.mode ∧ y.pc = g.pc + 4 ∧ y.park = .none ∧ w'.stack.length + 1 = w.stack.length ∧
          (q, { e with mode := x.mode }) ∈ w'.positions))) ∧
  (∀ (s : State) (wi l : Nat) (w : Wave) (x : Split), s.wave? wi = some w → w.exited = false → w.trap = none →
    (∀ y ∈ w.splits, (∃ pos, y.park = .rejoin pos) ∨ ∃ m, y.park = .joinw m) → w.settleOnce s.seq = .none → l < 32 →
    w.splits.find? (fun y => bit y.live l) = some x → (∀ j < l, ∀ y ∈ w.splits, bit y.live j = false) →
    exec (.convdead wi) s = .next (s.raise wi x.num 0x09 x.pc x.exec x.pc)) ∧
  (∀ (s : State) (wi : Nat) (w : Wave) (x : Split) (tr : TrapReq), s.wave? wi = some w → w.trap = some tr → w.trapReady = true →
    (∀ y ∈ w.splits, ∀ f n m, y.park ≠ .wait f n m) → w.split? tr.split = some x → (s.part w.part).special = false →
    w.stack.length + w.splits.length ≤ 32 →
    ∃ t, exec (.trapEntry wi) s = .next t ∧ t.wave? wi = some (w.enterTrap { tr with pc := tr.framePc x } x s.seq) ∧ SameMemory s t) ∧
  (∀ (s : State) (b tag : Nat) (bk : Block) (g : Group), s.block? b = some bk →
    bk.groups.find? (fun g => g.tag == tag && g.completes (s.liveWaves bk).length) = some g →
    (∀ wi ∈ g.waves, (s.groupNext tag wi).isSome = true) →
    let ws := (g.waves.filterMap fun wi => (s.wave? wi).map fun w => (wi, w)).foldl (fun xs e => insertByWaveId e xs) []
    let all := ws.flatMap fun e => (lanesOf ((e.2.splits.head?).elim 0 (·.exec))).map fun l => (e.2, l)
    let parts (full : Bool) := (ws.zip (upTo ws.length)).filter fun e => (decide (32 * e.2 < all.length)) == full
    let packed := (parts true).foldl (fun s e =>
      s.setWave e.1.1 (e.1.2.takeLanes ((all.drop (32 * e.2)).take 32) ((s.groupNext tag e.1.1).getD 0) s.seq))
      (s.modBlock b fun y => { y with groups := y.groups.erase g })
    exec (.regroupResume b tag) s = .next ((parts false).foldl (fun s e => s.waveEnd e.1.1) packed)) ∧
  (∀ (s : State) (wi k t0 tm d next : Nat) (marked : Bool) (w : Wave) (x : Split), s.wave? wi = some w → w.split? k = some x →
    x.park = .wait (.monitor t0 tm d) next marked → w.trap = none → s.monitorStatus w k t0 tm = some 2 →
    ∃ t w' y, exec (.mwaitTimeout wi k) s = .next t ∧ t.wave? wi = some w' ∧ w'.s = vset w.s d 2 ∧ w'.mons.find k = none ∧
      w'.split? k = some y ∧ y.pc = next ∧ SameMemory s t) ∧
  (∀ (s : State) (c : Nat),
    (c < Config.cores → s.mayGate c = true → ∃ t, exec (.coreClockGate c) s = .next t ∧ t.core c = { s.core c with gated := true } ∧
      (∀ k, k ≠ c → t.core k = s.core k)) ∧
    ((s.core c).gated = true → (∃ e ∈ s.waves, e.2.core = c ∧ e.2.exited = false ∧ e.2.res = .resident ∧
      ∃ x ∈ e.2.splits, s.mayIssue e.1 e.2 x = true) →
      ∃ t, exec (.coreWake c) s = .next t ∧ t.core c = { s.core c with gated := false } ∧ ∀ k, k ≠ c → t.core k = s.core k))

/-! ## Events of the memory -/

/-- DRAIN takes the oldest entry for a line out of the store buffer: to the end of the block's outbound queue when it is for global memory
and no filled stash line takes it, into scratch outside windows, or into the stash line, with the releases that cover it going on; an
atomic on scratch is performed there. SATISFY gives a lane of a load the bytes of its sources, after which the load is a result once every
lane has its own. STASH_FILL fetches an ABSENT line from its home when an access waits for it. MW_DELIVERY writes the oldest delivery
between two blocks into the member's scratch, or drops it when its binding is gone or too short. DESIGN CHOICE (log 80, in
`State.inStash`): for a sector-scope release a write that reaches a stash line counts as performed there. The model's own choices here:
log entries 12, 18, 80. -/
def Obligations.CoreMemoryEvents : Prop :=
  (∀ (s : State) (wi line : Nat) (w : Wave) (b : Block) (e : WEntry), s.wave? wi = some w → s.block? w.block = some b →
    w.wsb.find? (fun x => lineOf x.addr == line) = some e → w.mayDrain e = true →
    let s0 := s.modWave wi fun x => { x with wsb := x.wsb.filter fun y => y.seq != e.seq }
    let put (r : State × List (Nat × Nat × Nat × Nat)) : State := if r.2 = [] then r.1.inScratch e.seq else r.1.inStash e.seq r.2
    (inAperture e.addr = false → (b.stashOf e.addr = none ∨ ∃ a, e.payload = .atomic a) →
      ∃ t w', exec (.drain wi line) s = .next t ∧ t.wave? wi = some w' ∧ w'.wsb = w.wsb.filter (fun x => x.seq != e.seq) ∧
        (t.block? w.block).map (·.oq) = some (b.oq ++ [e]) ∧ SameMemory s t) ∧
    (∀ bs, e.payload = .store bs →
      (inAperture e.addr = true → b.stashAt (e.addr - Config.aperture) = none → ∃ t w', exec (.drain wi line) s = .next t ∧
        t.wave? wi = some w' ∧ w'.wsb = w.wsb.filter (fun x => x.seq != e.seq) ∧
        (t.block? w.block).map (·.scratch) = some (b.scratch.write (e.addr - Config.aperture) bs) ∧ SameMemory s t) ∧
      (∀ r, inAperture e.addr = true → s0.scratchPut w.block (e.addr - Config.aperture) bs [e.wave] = some r →
        exec (.drain wi line) s = .next (put r).settleReleases) ∧
      (∀ x k off r, inAperture e.addr = false → b.stashOf e.addr = some (x, k, off) → s0.scratchPut w.block off bs [e.wave] = some r →
        exec (.drain wi line) s = .next (r.1.inStash e.seq r.2).settleReleases)) ∧
    (∀ a xs, e.payload = .atomic a → inAperture e.addr = true → b.scratchRead (e.addr - Config.aperture) a.width = some xs →
      let old := leValue xs
      (atomicValue a old = old → exec (.drain wi line) s = .next ((s0.inScratch e.seq).atomicReturn e.wave a old).settleReleases) ∧
      (∀ r, atomicValue a old ≠ old →
        s0.scratchPut w.block (e.addr - Config.aperture) (leBytes (atomicValue a old) a.width) [e.wave] = some r →
        exec (.drain wi line) s = .next ((put r).atomicReturn e.wave a old).settleReleases))) ∧
  (∀ (s : State) (wi n lane : Nat) (w : Wave) (b : Block) (p : Pend) (l : LoadOp) (x : LaneLoad),
    s.wave? wi = some w → s.block? w.block = some b → w.pend.find? (fun p => p.n == n) = some p → p.op = .load l →
    l.lanes.find? (fun x => x.lane == lane && x.got.isNone) = some x → w.maySatisfy p l.after l.width x.addr = true →
    (∀ s1 s2, s.beforeRead wi w b n l x = some s1 → s1.satisfyLane wi n l x = some s2 → exec (.satisfy wi n lane) s = .next s2) ∧
    (∀ xs, l.promote = false → s.sources wi w b (l.readAt n x) 0 x.addr l.width = some xs →
      let l' := { l with lanes := l.lanes.map fun y => if y.lane = lane then { y with got := some (xs.map (·.1)) } else y }
      ∃ t w' p', exec (.satisfy wi n lane) s = .next t ∧ t.wave? wi = some w' ∧ w'.pend.find? (fun p => p.n == n) = some p' ∧
        p'.codes = p.codes ∧ w'.v = w.v ∧ w'.s = w.s ∧
        p'.op = (if ∀ y ∈ l'.lanes, y.got.isSome = true then .ready l'.writes else .load l'))) ∧
  (∀ (s : State) (b i k : Nat) (bk : Block) (w : Window), s.block? b = some bk → bk.window? i = some w → s.wantsLine b w k = true →
    exec (.stashFill b i k) s = .next (s.fillFor b i k) ∧
    ∀ (r : Right) (bs : List (Byte × Nat)), (w.line k).present = false → (w.line k).parked = none → k < w.lines.length →
      s.access bk.core (s.asidOf bk.part) (w.base + 256 * k) .read = .granted r →
      s.homeRead (s.asidOf bk.part) (w.base + 256 * k) 256 = some bs →
      ∃ t bk' w', exec (.stashFill b i k) s = .next t ∧ t.block? b = some bk' ∧ bk'.window? i = some w' ∧ (w'.line k).present = true ∧
        (w'.line k).dirty = 0 ∧ bk'.scratch = bk.scratch.write (w.off + 256 * k) (bs.map (·.1))) ∧
  (∀ (s : State) (src dst : Nat) (d : Delivery), s.deliveries.find? (fun x => x.src == src && x.dst == dst) = some d →
    s.storeLeft d = true →
    let s0 := ({ s with deliveries := s.deliveries.erase d } : State).freeMirrors src
    let binding (m : MirrorBind) : Bool := m.id == d.id && m.use == d.use && decide (m.at_ < d.seq)
    (∀ b m s2, s.block? dst = some b → b.mirrors.find? binding = some m → d.off + d.bytes.length ≤ m.len →
      s0.scratchWrite dst (m.off + d.off) d.bytes = some s2 → exec (.mwDelivery src dst) s = .next s2) ∧
    ((∀ b, s.block? dst = some b → ∀ m, b.mirrors.find? binding = some m → m.len < d.off + d.bytes.length) →
      exec (.mwDelivery src dst) s = .next s0))

/-- PERFORM performs what comes next of a line of a block's outbound queue at its home: a store's bytes are there afterwards when L2 holds
the line or takes it in, and on a hit every other byte of the home is as before (while no acquire is under way, which may drop clean
lines, and where the line lies where its translation says); an atomic's old value goes to its register, and commute f32 additions are
summed under a free association. FORWARDED_ACCESS sends a store for host or peer memory to its port, and PORT delivers the oldest write of
a port, to a doorbell if the host has a kick page there. FILL_L1 and FILL_COPY make copies of a line; EVICT drops one, or the home line
that is the victim of its set, or a line of an SRAM cache; CONSUME takes the oldest invalidation of a sector and drops the copy it names;
WRITE_BACK writes a dirty sector of L2 to the physical tiers, or one of a stash window to its home. The model's own choices here: log
entries 12, 42, 52. -/
def Obligations.HomeEvents : Prop :=
  (∀ (s : State) (b line n p : Nat) (bk : Block) (e : WEntry) (r : Right), s.block? b = some bk → s.due bk line n = [e] →
    s.partOfAsid (s.asidOf bk.part) = some p → s.trans (s.asidOf bk.part) e.addr = some r → r.tgt = 0 →
    let asid := s.asidOf bk.part
    let k := lkey asid (lineOf e.addr)
    (∀ bs, e.payload = .store bs → bs ≠ [] → e.addr % 256 + bs.length ≤ 256 → s.shadowDue asid (lineOf e.addr) = none →
      s.ownerOf asid (lineOf e.addr) = none → MemoryOk s = true →
      ∃ t, exec (.perform b line n) s = .next t ∧ t.host = s.host ∧ t.peers = s.peers ∧ t.portWrites = s.portWrites ∧
        ((s.inL2 asid (lineOf e.addr) = true ∨ (l2Prio e.cpol r.attr ≠ none ∧ s.setPinned (s.keySlice k) k = false)) →
          t.ownerOf asid (lineOf e.addr) = none → ∀ i < bs.length, (t.homeByte asid (e.addr + i)).map (·.1) = bs[i]?) ∧
        (s.inL2 asid (lineOf e.addr) = true → t.pt = s.pt ∧ t.sram = s.sram ∧
          (∀ a, (a < gkey asid (lineOf e.addr * 256) ∨ gkey asid (lineOf e.addr * 256) + 256 ≤ a) → t.home.get a = s.home.get a) ∧
          ((∀ x ∈ s.waves, x.2.acquires = []) → (s.line? asid (lineOf e.addr)).map (·.pa) = some (r.linePa (lineOf e.addr)) →
            ∀ a, (a < e.addr ∨ e.addr + bs.length ≤ a) → (t.homeByte asid a).map (·.1) = (s.homeByte asid a).map (·.1))) ∧
        ∃ bk', t.block? b = some bk' ∧ ∀ x ∈ bk'.oq, x.seq ≠ e.seq) ∧
    (∀ bs s1, e.payload = .store bs →
      s.stamp.2.writeHome asid e.addr bs s.seq e.seq [e.wave] (if e.tag = true then some b else none) e.cpol = some s1 →
      s.viaPort asid e.addr = none → exec (.perform b line n) s = .next (s1.afterPerform b bk.core asid e s.seq).settleReleases) ∧
    (∀ a old s1, e.payload = .atomic a → sumOf [e] = none → s.stamp.2.performAtomic b asid e a s.seq = some (old, s1) →
      exec (.perform b line n) s =
        .next (((s1.afterPerform b bk.core asid e s.seq).atomicReturn e.wave a old).settleReleases))) ∧
  (∀ (s s1 : State) (b line n : Nat) (bk : Block) (e : WEntry) (es : List WEntry) (xs : List (WEntry × AtomicReq)),
    s.block? b = some bk → s.due bk line n = e :: es → s.viaPort (s.asidOf bk.part) e.addr = none → sumOf (e :: es) = some xs →
    s.stamp.2.performSum b bk.core (s.asidOf bk.part) s.seq xs = some s1 →
    exec (.perform b line n) s = .next s1.settleReleases) ∧
  (∀ (s : State) (b line n p : Nat) (bk : Block) (e : WEntry) (r : Right) (bs : List Byte), s.block? b = some bk →
    s.due bk line 1 = [e] → s.partOfAsid (s.asidOf bk.part) = some p → s.viaPort (s.asidOf bk.part) e.addr = some r →
    e.payload = .store bs → bs ≠ [] → s.halfWay r.tgt (r.pa + e.addr % 65536) bs.length = false →
    ∃ t x, exec (.forwardedAccess b line n) s = .next t ∧ t.portWrites = s.portWrites ++ [x] ∧ x.tgt = r.tgt ∧ x.peer = r.peer ∧
      x.addr = r.pa + e.addr % 65536 ∧ x.bytes = bs ∧ x.waves = [e.wave] ∧ t.home = s.home ∧ t.host = s.host ∧ t.peers = s.peers) ∧
  (∀ (s : State) (x : PortWrite) (port : Port),
    s.portWrites.find? (fun p => match port with | .fabric => p.tgt == 2 && s.reaches p.peer | .system => p.tgt == 1) = some x →
    (port = .system → s.barAt x.addr = none) →
    ∃ t, exec (.port port) s = .next t ∧ t.portWrites = s.portWrites.erase x ∧ t.pt = s.pt ∧ t.sram = s.sram ∧ t.home = s.home ∧
      (match port with
       | .system => t.host = s.host.write x.addr x.bytes ∧ t.peers = s.peers
       | .fabric => t.peers = s.peers.write (peerKey x.peer x.addr) x.bytes ∧ t.host = s.host)) ∧
  (∀ (s : State) (x : PortWrite) (p q : Nat), s.portWrites.find? (fun p => p.tgt == 1) = some x → s.barAt x.addr = some (p, 8 * q) →
    q < 64 → x.bytes.length = 8 →
    ∃ t, exec (.doorbell p q (BitVec.ofNat 64 (leValue x.bytes))) { s with portWrites := s.portWrites.erase x } = .next t ∧
      exec (.port .system) s =
        .next (((t.fire x.asid x.va 8).modReleases fun r => { r with ports := r.ports.filter (· ≠ x.seq) }).settleReleases)) ∧
  (∀ (s : State) (b line : Nat) (bk : Block) (r : Right) (xs : List (Byte × Nat)), s.block? b = some bk →
    (∃ e, (s.part bk.part).shareIn bk.core = some e ∧ e.l1w ≠ 0) → s.access bk.core (s.asidOf bk.part) (line * 64) .read = .granted r →
    r.attr = 0 → s.fillBytes bk (s.asidOf bk.part) line = some xs →
    ∃ t, exec (.fillL1 b line) s = .next t ∧ SameMemory s t ∧
      ∃ l ∈ (t.core bk.core).l1, l.block = b ∧ l.asid = s.asidOf bk.part ∧ l.line = line ∧ l.bytes = xs) ∧
  (∀ (s s1 : State) (sec asid line p prio sl way : Nat) (r : Right) (xs : List (Byte × Nat)), s.partOfAsid asid = some p →
    s.trans asid (line * 256) = some r → sec < 6 → s.homedOutside p asid line sec = true → l2Prio 0 r.attr = some prio →
    (r.tgt = 0 ∨ r.tgt = 2) → s.copySlice p sec line = some sl → s.setPinned sl (lkey asid line) = false →
    s.homeRead asid (line * 256) 256 = some xs →
    let s0 := s.dropCopy sec (lkey asid line)
    s0.freeWay sl (setOf (lkey asid line)) (s0.copyWays sl (setOf (lkey asid line))) = some (way, s1) →
    ∃ t, exec (.fillCopy sec asid line) s = .next t ∧ SameMemory s1 t ∧
      t.copies = s1.copies ++ [{ sec := sec, asid := asid, line := line, bytes := xs, peer := r.tgt == 2, way := way, prio := prio
                                 used := s.seq }] ∧
      ((∃ v ∈ s0.copyWays sl (setOf (lkey asid line)), ∀ x ∈ s0.occupants sl (setOf (lkey asid line)), x.way ≠ v) → SameMemory s t) ∧
      (r.tgt = 0 → (t.line? asid line).any (fun l => l.copies.contains sec) = true)) ∧
  (∀ (s : State) (c p sec asid line bundle : Nat),
    (∃ t, exec (.evict (.l1 c p asid line)) s = .next t ∧ SameMemory s t ∧ ∀ l ∈ (t.core c).l1, l ∈ (s.core c).l1 ∧
      ¬(l.asid = asid ∧ l.line = line ∧ ((s.block? l.block).any fun b => b.part == p) = true)) ∧
    (∃ t, exec (.evict (.copy sec asid line)) s = .next t ∧ SameMemory s t ∧
      ∀ x ∈ t.copies, x ∈ s.copies ∧ ¬(x.sec = sec ∧ x.asid = asid ∧ x.line = line)) ∧
    (s.isVictim (lkey asid line) = true → ∃ t, exec (.evict (.home asid line)) s = .next t ∧
      ∀ l', t.line? asid line = some l' → l'.valid = 0 ∧ l'.dirty = 0 ∧ l'.way = none) ∧
    (s.isVictim (lkey asid line) = false → exec (.evict (.home asid line)) s = .next s) ∧
    (∀ l, s.sram.find line = some l → l.bytes.length = 256 → s.pt.wf = true →
      ∃ t, exec (.evict (.sram line)) s = .next t ∧ t.sram = s.sram.drop line ∧ t.home = s.home ∧ t.host = s.host ∧ t.peers = s.peers ∧
        ∀ a, a / 256 = line → t.pt.get a = if l.dirty.getLsbD (a / 64 % 4) = true then nth l.bytes (a % 256) 0 else s.pt.get a) ∧
    (∃ t, exec (.evict (.code c asid bundle)) s = .next t ∧ SameMemory s t ∧ (t.core c).icache.find (ckey asid (bundle * 32)) = none)) ∧
  (∀ (s : State) (sec : Nat) (m : Inval), s.invals.find? (fun m => m.sec == sec) = some m →
    ∃ t, exec (.consume sec) s = .next t ∧ SameMemory s t ∧ (∀ i ∈ t.invals, i ∈ s.invals.erase m) ∧
      ∀ x ∈ t.copies, x ∈ s.copies ∧ ¬(x.sec = sec ∧ x.asid = m.asid ∧ x.line = m.line)) ∧
  (∀ (s : State) (asid line k : Nat) (l : L2Line), s.line? asid line = some l → k < 4 → l.dirty.getLsbD k = true →
    (l.pinned = false ∨ ∃ e ∈ s.waves, ∃ r ∈ e.2.releases, (lkey asid line, k) ∈ r.l2) →
    let u := s.ptWrite (l.pa + 64 * k) (s.home.read (gkey asid (line * 256 + 64 * k)) 64)
    ∃ t, exec (.writeBack (.home asid line k)) s = .next t ∧ t.pt = u.pt ∧ t.sram = u.sram ∧ t.host = s.host ∧ t.peers = s.peers ∧
      t.home = s.home ∧ ∀ l', t.line? asid line = some l' → l'.dirty.getLsbD k = false) ∧
  (∀ (s s1 : State) (b i k j : Nat) (bk : Block), s.block? b = some bk → (∀ w, bk.window? i = some w → (w.line k).parked = none) →
    s.stashBack b i k j = .done s1 → exec (.writeBack (.stash b i k j)) s = .next (s1.settleReleases.tryEndBlock b))

/-! ## Events of the engines -/

/-- ENGINE makes the head operation of a queue take its step. COPY_STEP moves the next bytes of the oldest copy, within a line of each
side, or ends it; SLICE_ELEMENT gathers or scatters one element of the head operation; MATRIX_COMMAND takes the next command of a launch
once the lease allows it; MATRIX_COMMAND_DONE ends the handle; LEASE_PASS gives the engine to a waiting launch. The model's own choices
here: log entries 43, 45, 53. -/
def Obligations.CopyAndMatrixEvents : Prop :=
  (∀ (s : State) (c p b sec q : Nat),
    exec (.engine (.copy c p)) s = exec (.copyStep c p) s ∧ exec (.engine (.lynx sec p)) s = exec (.lynxBuild sec p) s ∧
    exec (.engine (.keyed b)) s = .next (s.keyedQueueStep b) ∧
    (∀ x xs, (s.quad q).mxq = x :: xs → exec (.engine (.matrix q)) s =
      if x.done = true then exec (.matrixCommandDone q x.tag) s else exec (.matrixCommand q x.tag) s) ∧
    (∀ o e, s.sliceQ.find? (fun o => o.block == b) = some o → o.finished = false → o.sent.head? = some e →
      exec (.engine (.slice b)) s = exec (.sliceElement b o.tag e.1) s)) ∧
  (∀ (s : State) (core p : Nat) (o : CopyOp), (s.core core).copyQ.find? (fun o => o.part == p) = some o → o.st = .ready →
    s.opFree o.rel o.fences = true →
    (o.rows * o.rowBytes ≤ o.moved → exec (.copyStep core p) s = .next ((s.setCopy core o none).endOp o.tag)) ∧
    (o.moved < o.rows * o.rowBytes →
      let dst := o.dst + o.moved / o.rowBytes * o.dpitch + o.moved % o.rowBytes
      let src := o.src + o.moved / o.rowBytes * o.spitch + o.moved % o.rowBytes
      let n := min (o.rowBytes - o.moved % o.rowBytes) (min (64 - dst % 64) (64 - src % 64))
      ∀ bs s1 s2, s.engRead o.block src n = .ok (bs, s1) → s1.engWrite o.block dst bs = .ok s2 →
        exec (.copyStep core p) s = .next (if o.rows * o.rowBytes ≤ o.moved + n then ((s2.setCopy core o none).endOp o.tag).settleReleases
          else (s2.setCopy core o (some { o with moved := o.moved + n })).settleReleases))) ∧
  (∀ (s : State) (bi i index : Nat) (o : SliceOp) (b : Block), s.sliceQ.find? (fun o => o.block == bi) = some o →
    s.block? bi = some b → o.st = .ready → s.opFree o.rel o.fences = true → (o.sent.find? fun e => e.1 == i) = some (i, index) →
    (o.gather = false → ∀ e ∈ o.sent, e.1 < i → e.2 ≠ index) →
    let o2 : SliceOp := { o with done := insertNat i o.done, sent := o.sent.filter fun e => e.1 != i }
    let finish (s : State) : State := if o2.finished = true then s.endSlice o2 else s.setSlice o (some o2)
    let va := o.addr index
    (∀ bs s2, o.gather = true → s.engCheck b.part b.core (s.asidOf b.part) va .read = .go → s.engineRead (s.asidOf b.part) va o.elem = some bs →
      s.engWrite bi (Config.aperture + (o.data + o.elem * i)) bs = .ok s2 →
      exec (.sliceElement bi o.tag i) s = .next (finish s2).settleReleases) ∧
    (∀ bs s1 s2, o.gather = false → s.engCheck b.part b.core (s.asidOf b.part) va .write = .go →
      s.engRead bi (Config.aperture + (o.data + o.elem * i)) o.elem = .ok (bs, s1) →
      s1.stamp.2.engineWrite (s.asidOf b.part) va bs s1.seq = some s2 →
      exec (.sliceElement bi o.tag i) s = .next (finish s2).settleReleases)) ∧
  (∀ (s s1 : State) (q : Nat) (x : MxCmd) (op : MxOp) (ops : List MxOp), ((s.quad q).mxq.find? fun y => y.tag == x.tag) = some x →
    x.ops = op :: ops → ((s.quad q).firstOf x.launch).map (·.tag) = some x.tag → x.st ≠ .parked → s.opFree x.rel x.fences = true →
    (x.started = true ∨ s.leaseAllows q x.launch = true) →
    op.run none x.wave x.block x.prog x.chains (if x.started = true then s else s.leaseCount q) = .done s1 →
    exec (.matrixCommand q x.tag) s = .next (s1.mxNext q x).settleReleases) ∧
  (∀ (s : State) (q n : Nat) (x : MxCmd), ((s.quad q).mxq.find? fun x => x.tag == n && x.done) = some x →
    exec (.matrixCommandDone q n) s = .next ((s.setMx q x none).endHandle x.href x.tag
      (if x.dropped = true then .cancelled else if x.failed = true then .failed else .done))) ∧
  (∀ (s : State) (q l : Nat), s.leaseHeir q = some l →
    (∀ x ∈ (s.quad q).mxq, x.done = false → (s.quad q).lease = some x.launch → x.started = false) →
    ((∀ x ∈ (s.quad q).mxq, x.done = false → (s.quad q).lease ≠ some x.launch) ∨ (s.quad q).lease = none ∨
      ∃ h, (s.quad q).lease = some h ∧ s.leaseOf h ≤ (s.quad q).leaseUsed) →
    ∃ t, exec (.leasePass q) s = .next t ∧ t.quad q = { s.quad q with lease := some l, leaseUsed := 0 } ∧
      { t with quads := s.quads } = s)

/-- RECORD_ACCEPT puts a record into its home's buffer, behind the drains of its block's queue; REFILL reads a runnable context back from
its spill slot or from the save pool; KEYED_WAVE_FORM places a keyed wave of runnable contexts of one PC, at the template's PC with those
that it creates first; STAGE_DRAIN adds the device's drain of a stage and DRAIN_COMPLETE ends one that waits for nothing. LYNX_BUILD
starts the head build with status 0 and then writes the index and its final status, after which BUILD_HANDLE_DONE ends the handle.
BINNER_RECEIVE receives a wave's oldest triangle, RASTER_WORK_ITEM makes a phase's items or takes a step of one, FRAGMENT_PUSH gives a
fragment record to its home, or drops it and fails its draw when the stage is not bound. The model's own choices here: log entries 47, 50,
73. -/
def Obligations.KeyedAndSamplingEvents : Prop :=
  (∀ (s : State) (p n : Nat) (b : Binding) (r : KRec), (s.part p).bindings.find? (fun b => b.inFlight.any fun r => r.n == n) = some b →
    b.inFlight.find? (fun r => r.n == n) = some r →
    (∀ x ∈ b.inFlight, x.src = r.src → x.n < n → b.homeOf x.key ≠ b.homeOf r.key) →
    (s.part p).drainAhead r.block n (b.homeOf r.key) = false → (s.part p).running = true →
    (s.part p).canAccept (b.homeOf r.key) = true → s.opFree r.rel r.fences = true →
    exec (.recordAccept p n) s =
      .next ((s.modBinding p b.stage fun x => x.accept (b.homeOf r.key) r).endWaits fun t => t == 4294967296 + n)) ∧
  (∀ (s s1 : State) (p stage key : Nat) (b : Binding) (h : Home) (c : KCtx) (bs : List Byte), s.binding? p stage = some b →
    b.home? (b.homeOf key) = some h → (h.ctxs.find? fun c => c.key == key) = some c → (b.why h c).isSome = true →
    (s.part p).running = true → s.settEntry p (b.homeOf key) = .ok s1 →
    (∀ j, c.st = .spilled j → c.parked = none → s1.engCheck p (b.homeOf key) b.asid (b.spillBase + 64 * j) .read = .go →
      s1.engineRead b.asid (b.spillBase + 64 * j) 64 = some bs →
      exec (.refill p stage key) s = .next ((s1.modCtx p stage (b.homeOf key) key fun x => x.refill b.words bs).modBinding p stage fun x =>
        { x with refills := x.refills + 1 })) ∧
    (∀ addr, c.st = .pooled addr → s1.engineRead (s1.asidOf p) addr 64 = some bs →
      exec (.refill p stage key) s = .next ((s1.freeArea p addr).modCtx p stage (b.homeOf key) key fun x => x.refill b.words bs))) ∧
  (∀ (s : State) (p stage core pc : Nat) (b0 b : Binding) (h0 h : Home) (l : Launch) (ls : List KeyLane), s.binding? p stage = some b0 →
    s.launch? b0.launch = some l → b0.home? core = some h0 → s.placing p = true →
    (s.roomFor p core (l.record.keyedForm pc) 1).isSome = true →
    let s0 := if pc = b0.template then (h0.unseen.take 32).foldl (fun s k => s.newCtx p core b0 k) s else s
    s0.binding? p stage = some b → b.home? core = some h → b.formsAt h pc (s0.core core).clk.toNat = true →
    b.lanesOfKeys h (b.lanesFor h pc) = ls → ls ≠ [] →
    let s1 := s0.modBinding p stage fun x => x.deliver core ls
    exec (.keyedWaveForm p stage core pc) s = .next (((((((s1.wakeCore core).placeBlock p b.launch core
      ((l.record.blocks + l.keyedBlocks) % 4294967296) l.record.waves 0 1 (l.record.keyedForm pc) none).modBlock s1.seq
        fun x => { x with keyed := true }).modLaunch b.launch fun x => { x with keyedBlocks := x.keyedBlocks + 1 })).modWave (s1.seq + 1)
          fun w => w.keyedRegs b ls).acquireAt (s1.seq + 1) 0 false)) ∧
  (∀ (s : State) (p stage : Nat) (b : Binding), s.binding? p stage = some b → b.holds = true → (∀ d ∈ b.drains, d.block ≠ none) →
    (s.part p).running = true → s.unkeyedGone b.launch = true → s.allPlaced b.launch = true → s.drawsDone b.launch = true →
    ∃ t y d, exec (.stageDrain p stage) s = .next t ∧ t.binding? p stage = some y ∧ d ∈ y.drains ∧ d.block = none ∧ d.href = none ∧
      d.n = s.seq ∧ y.drains.length = b.drains.length + 1 ∧ SameMemory s t) ∧
  (∀ (s s1 : State) (p stage : Nat) (b : Binding) (d : DrainRec), s.binding? p stage = some b →
    b.drains.find? (fun d => b.drained d && d.st == .ready) = some d → s.writeCounters p b = .ok s1 →
    exec (.drainComplete p stage) s = .next (s1.endDrain p stage d .done)) ∧
  (∀ (s s1 : State) (sec p : Nat) (b : BuildOp), s.headBuild sec p = some b → b.st = .ready → s.opFree b.rel b.fences = true →
    s.mayBuild b = true →
    (b.started = false → s.writeChecked p (s.coreOf b.block) b.asid (b.desc + 0x34) (List.replicate 8 0) = .ok s1 →
      exec (.lynxBuild sec p) s = .next (s1.setBuild b (some { b with started := true }))) ∧
    (∀ xs, b.started = true → s.readSamples p (s.coreOf b.block) b (upTo b.count) = .ok xs →
      exec (.lynxBuild sec p) s = .next (s.finishBuild b (b.build xs)))) ∧
  (∀ (s : State) (p n : Nat) (b : BuildOp), s.builds.find? (fun b => b.part == p && b.tag == n && b.written) = some b →
    exec (.buildHandleDone p n) s = .next ((s.setBuild b none).endHandle b.href b.tag .done)) ∧
  (∀ (s : State) (l wi : Nat) (x : Launch) (b : SampleBind) (e : Emitted), s.launch? l = some x → x.bind = some b → b.flushing = none →
    b.parked = none → b.queue.find? (fun e => e.wave == wi) = some e → s.releasing e.rel = false →
    exec (.binnerReceive l wi) s = .next (s.receive x.part l b e) ∧
    (b.cells { e.tri with prim := b.prim } = [] → ∃ t y, exec (.binnerReceive l wi) s = .next t ∧ (t.launch? l).bind (·.bind) = some y ∧
      y.queue = b.queue.erase e ∧ y.prim = (b.prim + 1) % 4294967296 ∧ y.openTris = b.openTris + 1 ∧ y.bins = b.bins)) ∧
  (∀ (s : State) (l wi : Nat) (x : Launch) (b : SampleBind) (e : Emitted), s.launch? l = some x → x.bind = some b →
    b.parked = none → b.flushing = some e →
    ((∃ d ∈ b.draws, d.flush = true) → exec (.binnerReceive l wi) s = .next s) ∧
    ((∀ d ∈ b.draws, d.flush = false) →
      exec (.binnerReceive l wi) s = .next (s.binTriangle x.part l e.wave { b with flushing := none } e.tri))) ∧
  (∀ (s : State) (c p : Nat), (s.part p).running = true → s.heldOf c p < 64 →
    (∀ l b d, s.unmade c p = some (l, b, d) → exec (.rasterWorkItem c p) s = .next (s.makeItems c p l b d)) ∧
    (∀ w x b, s.unmade c p = none → (s.core c).readyItems s p = [w] → s.launch? w.launch = some x →
      x.binds.find? (fun b => b.gen == w.gen) = some b → exec (.rasterWorkItem c p) s = .next (s.drawn.itemStep c w b))) ∧
  (∀ (s : State) (c home : Nat) (h : Nat × KRec) (hs : List (Nat × KRec)) (x : Launch) (b : SampleBind), s.heldFor c home = h :: hs →
    s.launch? h.2.launch = some x → x.binds.find? (fun b => b.gen == h.2.gen) = some b →
    let gone := s.modCore c fun k => { k with held := k.held.erase h }
    (∀ k, s.binding? x.part b.stage = some k → k.launch = b.stageLaunch → (s.part x.part).running = true →
      (s.part x.part).canAccept h.1 = true →
      exec (.fragmentPush c home) s = .next ((gone.modBinding x.part b.stage fun y => y.accept h.1 h.2).settleDraws h.2.launch)) ∧
    (s.binding? x.part b.stage = none →
      exec (.fragmentPush c home) s = .next ((gone.failDraw h.2.launch h.2.gen (h.2.draw.getD 0)).settleDraws h.2.launch)))

/-! ## Events of the presentation links -/

/-- FRAME_COMPLETE makes an image the newest complete frame or counts it as dropped; PRESENTATION_DEADLINE, DEADLINE lines before the
vertical blank, shows a newer frame that can be read or counts a re-projection; MODEGO_APPLY sets ERR to the first of no sink, a bad mode
block, failed training, too high a rate, and else accepts the mode, which starts at the frame boundary after the blank lines, or at once
where none is sent; VERTICAL_BLANK comes after the active lines with vector 3; MODEGO_STOP and a lost sink end the output. The sideband
events start a transaction unless one is in progress, answer a bad request with status 4, and end a transaction by its reply or a timeout.
The model's own choices here: log entries 30, 62, 99, 101. -/
def Obligations.LinkEvents : Prop :=
  (∀ (s : State) (link : Nat) (x : Presenting), s.presenting.find? (fun x => x.link == link && !(s.releasing x.rel)) = some x →
    s.readImage x.frame = .ok () → ∃ t, exec (.frameComplete link) s = .next t ∧ t.presenting = s.presenting.erase x ∧
      t.link link = (if (s.link link).frame.isSome = true ∧ ¬(1 ≤ (x.frame.no + 4294967296 - (s.link link).newest) % 4294967296 ∧
          (x.frame.no + 4294967296 - (s.link link).newest) % 4294967296 ≤ 2147483647)
        then { s.link link with drops := ((s.link link).drops + 1) % 4294967296 }
        else { s.link link with frame := some x.frame, newest := x.frame.no })) ∧
  (∀ (s : State) (link : Nat),
    let x := s.link link
    x.active = true → x.lineAfter = x.deadlineAt → (x.lineAfter ≠ 0 ∨ x.pendingMode = none) →
    (x.parked = [] → (∀ f, (x.frame = some f ∨ x.image = some f) → s.readImage f = .ok ()) →
      ∃ t, exec (.presentationDeadline link) s = .next t ∧ (t.link link).line = x.deadlineAt ∧
        (∀ f, x.frame = some f → (x.image = none ∨ newer f.no x.shown = true) →
          (t.link link).shown = f.no ∧ (t.link link).image = some f ∧ (t.link link).output = some f ∧ (t.link link).reprojected = false ∧
          (t.link link).reproj = x.reproj) ∧
        ((∀ f, x.frame = some f → x.image ≠ none ∧ newer f.no x.shown = false) →
          (t.link link).reproj = (x.reproj + 1) % 4294967296 ∧ (t.link link).output = x.image ∧ (t.link link).shown = x.shown ∧
          (t.link link).reprojected = true)) ∧
    (∀ f s1 va ty, x.frame = some f → (x.image = none ∨ newer f.no x.shown = true) → s.readImage f = .refuse s1 va ty →
      ∃ t tag, exec (.presentationDeadline link) s = .next t ∧ (t.link link).frame = none ∧ (tag, f, false) ∈ (t.link link).parked ∧
        (t.link link).reproj = (x.reproj + 1) % 4294967296 ∧ (t.link link).shown = x.shown)) ∧
  (∀ (s : State) (link p : Nat) (present : Bool), link < Config.links → s.linkOwner link = some p →
    let x := s.link link
    let now (i : Instr) (y : Link) : Prop := ∃ t, exec i s = .next t ∧ t.link link = y ∧ { t with links := s.links } = s
    (x.hpd ≠ present → ∃ t, exec (.hpdChange link present) s = .next t ∧ (t.link link).hpd = present ∧ (t.link link).hpdchg = true ∧
      (present = false → (t.link link).trained = false ∧ (t.link link).active = false)) ∧
    (∀ lanes rate,
      (x.hpd = false → now (.modegoApply link lanes rate) { x with err := 1 }) ∧
      (x.hpd = true → modeInRange x.mode = false → now (.modegoApply link lanes rate) { x with err := 4 }) ∧
      (x.hpd = true → modeInRange x.mode = true → x.trained = false → trainOk lanes rate = false →
        now (.modegoApply link lanes rate) { x with err := 2 }) ∧
      (x.hpd = true → modeInRange x.mode = true → x.trained = true → payloadOk x.lanes x.rate (vget x.mode 5 0).toNat = true →
        now (.modegoApply link lanes rate) { x with err := 0, pendingMode := some x.mode }) ∧
      (x.hpd = true → modeInRange x.mode = true → x.trained = true → payloadOk x.lanes x.rate (vget x.mode 5 0).toNat = false →
        now (.modegoApply link lanes rate) { x with err := 3 })) ∧
    now (.modegoStop link) { x with active := false, pendingMode := none } ∧ now (.hpdchgClear link) { x with hpdchg := false } ∧
    (∀ v, now (.deadlineWrite link v) { x with deadline := v.toNat % 256 }) ∧
    (∀ i code addr len, (i, code) ∈ [(Instr.auxNativeWrite link addr len, 8), (.auxNativeRead link addr len, 9),
        (.auxI2cWrite link addr len, 0), (.auxI2cRead link addr len, 1), (.auxI2cWriteMot link addr len, 4), (.auxI2cReadMot link addr len, 5)] →
      (x.auxBusy = false → now i { x with
        auxBusy := true, auxCmd := word (code + 16 * (addr % 1048576) + 16777216 * (len % 16)), auxDefers := 0 }) ∧
      (x.auxBusy = true → now i x)) ∧
    (∀ w, ¬(w.toNat % 16 ∈ [8, 9, 0, 1, 4, 5] ∧ w.toNat < 268435456) → x.auxBusy = false →
      now (.auxInvalidRequest link w) { x with auxCmd := w, auxStat := 4, auxCount := 0 }) ∧
    (x.auxBusy = true →
      now (.auxTimeout link) { x with auxBusy := false, auxStat := 3, auxCount := 0 } ∧
      (x.hpd = true → ∀ data,
        (x.auxIsRead = true → now (.auxReply link .ack data) { x with
          auxBusy := false, auxStat := 0, auxCount := (data.take x.auxLen).length, auxData := loadData x.auxData (data.take x.auxLen) }) ∧
        (x.auxIsRead = false → now (.auxReply link .ack data) { x with auxBusy := false, auxStat := 0, auxCount := x.auxLen }) ∧
        now (.auxReply link .nack data) { x with
          auxBusy := false, auxStat := 1, auxCount := if x.auxIsRead = true then 0 else (data.take x.auxLen).length } ∧
        now (.auxReply link .defer data) (if x.auxDefers < 7 then { x with auxDefers := x.auxDefers + 1 }
          else { x with auxBusy := false, auxStat := 2, auxCount := 0 }))) ∧
    (x.active = true →
      (x.lineAfter = modeV x.sentMode → ∃ t, exec (.verticalBlank link) s = .next t ∧ t.module.msix = s.module.msix ++ [(p + 1, 3)] ∧
        t.link link = { x with line := modeV x.sentMode } ∧ { t with links := s.links, module := s.module } = s) ∧
      (x.lineAfter ≠ modeV x.sentMode → exec (.verticalBlank link) s = .next s)) ∧
    (∀ m, x.pendingMode = some m →
      (x.active = false → now (.verticalBlank link) (x.startMode m)) ∧
      (x.active = true → x.lineAfter = 0 → x.output = none → (s.scan link 1).link link = x.startMode m) ∧
      (x.startMode m).sentMode = m ∧ (x.startMode m).pendingMode = none ∧ (x.startMode m).active = true))

/-! ## Events of the dispatcher -/

/-- DOORBELL serves, latches or ignores a tail by STATE; QUEUE_ENABLE and QUEUE_DISABLE write a queue's control word; LAUNCH_FETCH reads
and checks the next record; BLOCK_PLACE and CHILD_PLACE place a block or a child where one fits, or set ERR to 3 when none ever could;
LAUNCH_COMPLETE completes a launch and advances HEAD; LAUNCH_PREEMPT makes a launch yield. WAVE_SAVE saves a wave whose window to leave is
open, MARK_WINDOW_EXPIRY raises PREEMPT after 60,000 cycles, PREEMPT_HANDLER_TIMEOUT stops the partition with REASON 5, WAVE_RESTORE
brings a wave back. The model's own choices here: log entries 57, 58, 60, 61. -/
def Obligations.DispatchEvents : Prop :=
  (∀ (s : State) (p q : Nat) (v : BitVec 64), q < 64 → (s.part p).state ≠ 2 → (s.part p).stopping = none →
    let t := v.toNat % 4294967296
    let x := (s.part p).queue q
    ((s.part p).state = 1 → ∃ u, exec (.doorbell p q v) s = .next u ∧ (u.part p).latched.find q = some t ∧ (u.part p).queue q = x) ∧
    ((s.part p).state ≠ 1 → ∃ u, exec (.doorbell p q v) s = .next u ∧ { u with parts := s.parts } = s ∧
      (u.part p).queue q = (if x.en = false then x else if 2 ^ x.logn < (t + 4294967296 - x.head % 4294967296) % 4294967296
        then { x with err := 4 } else { x with tail := t }))) ∧
  (∀ (s : State) (p q : Nat) (v : Word), q < 64 → (s.part p).kickable = true →
    let x := (s.part p).queue q
    let y : Queue := { x with logn := v.toNat % 32, prio := v.toNat / 512 % 4, cls := v.toNat / 2048 % 2 }
    (v.getLsbD 8 = true → x.en = false → 1 ≤ v.toNat % 32 → v.toNat % 32 ≤ 16 →
      ∃ t, exec (.queueEnable p q v) s = .next t ∧ (t.part p).queue q = { y with en := true }) ∧
    (v.getLsbD 8 = true → (x.en = true ∨ v.toNat % 32 = 0 ∨ 16 < v.toNat % 32) →
      ∃ t, exec (.queueEnable p q v) s = .next t ∧ (t.part p).queue q = y) ∧
    (v.getLsbD 8 = false → ∃ t, exec (.queueDisable p q v) s = .next t ∧
      (t.part p).queue q = { y with en := false, err := 0, head := 0, fetched := 0, tail := 0 })) ∧
  (∀ (s : State) (p q : Nat) (x : Queue) (bs : List Byte), (s.part p).running = true → (s.part p).nextQueue = some (q, x) →
    (s.part p).queues.find q = some x →
    s.deviceCheck p (s.asidOf p) (x.base + 64 * (x.fetched % 2 ^ x.logn)) .read = .go →
    s.engineRead (s.asidOf p) (x.base + 64 * (x.fetched % 2 ^ x.logn)) 64 = some bs →
    (parseRecord bs x.cls = none → ∃ t, exec (.launchFetch p) s = .next t ∧
      (t.part p).queue q = { x with fetched := (x.fetched + 1) % 4294967296, err := 1 } ∧ t.launches = s.launches) ∧
    (∀ r, parseRecord bs x.cls = some r → ∃ t l, exec (.launchFetch p) s = .next t ∧
      (t.part p).queue q = { x with fetched := (x.fetched + 1) % 4294967296 } ∧ t.launch? s.seq = some l ∧ l.record = r ∧ l.part = p ∧
      l.queue = q ∧ l.nextBlock = 0 ∧ l.complete = false ∧ l.id = (q + 1) * 16777216 + x.fetched % 16777216)) ∧
  (∀ (s : State) (l : Nat) (x : Launch), s.launch? l = some x → s.placing x.part = true →
    ((x.yielded = true ∨ x.yielding = true) → s.outranked x = false →
      exec (.blockPlace l) s = .next (s.modLaunch l fun y => { y with yielding := false, yielded := false })) ∧
    (x.yielded = false → x.yielding = false → s.wantsPlace l x = true → s.looks x.part x.nextBlock x.skipped = true →
    ((∀ c ∈ (s.part x.part).coreList, s.everFits x.part c x.record x.record.waves = false) → ∃ t, exec (.blockPlace l) s = .next t ∧
      (t.launch? l).map (·.halted) = some true ∧ ((t.part x.part).queue x.queue).err = 3) ∧
    ((∃ c ∈ (s.part x.part).coreList, s.everFits x.part c x.record x.record.waves = true) →
      s.placeFor x.part x.record x.record.waves x.nextBlock = none →
      ∃ t, exec (.blockPlace l) s = .next t ∧ (t.launch? l).map (·.skipped) = some (some s.seq) ∧ t.blocks = s.blocks) ∧
    (∀ core pos, (∃ c ∈ (s.part x.part).coreList, s.everFits x.part c x.record x.record.waves = true) →
      s.placeFor x.part x.record x.record.waves x.nextBlock = some (core, pos) →
      ∃ t b, exec (.blockPlace l) s = .next t ∧ (t.launch? l).map (·.nextBlock) = some (x.nextBlock + 1) ∧ t.block? s.seq = some b ∧
        b.core = core ∧ b.pos = pos ∧ b.launch = l ∧ b.blockId = x.nextBlock ∧ b.waves.length = x.record.waves ∧ b.child = none))) ∧
  (∀ (s : State) (p core pos : Nat) (c : Child), s.placing p = true →
    (s.part p).children.find? (fun c => (s.launch? c.launch).all fun l => !l.yielded && !l.halted) = some c →
    s.releasing c.rel = false → s.looks p (s.part p).childCounter (s.part p).childSkipped = true →
    (∀ l, s.neverFits p c.record 1 = true → s.launch? c.launch = some l → exec (.childPlace p) s = .next (s.haltLaunch c.launch l)) ∧
    (s.neverFits p c.record 1 = false → s.placeFor p c.record 1 (s.part p).childCounter = some (core, pos) →
    ∃ t b, exec (.childPlace p) s = .next t ∧ (t.part p).children = (s.part p).children.erase c ∧ t.block? s.seq = some b ∧
      b.core = core ∧ b.pos = pos ∧ b.launch = c.launch ∧ b.child = some c.info)) ∧
  (∀ (s s1 s2 : State) (l : Nat) (x : Launch), s.launch? l = some x → (s.part x.part).running = true → s.completeChildren l = s1 →
    (s1.launchDone l x = false → exec (.launchComplete l) s = .next s1) ∧
    (s1.launchDone l x = true → s1.endBindings x.part l = .ok s2 →
      exec (.launchComplete l) s = .next (if s2.launchReleased l x = true then s2.completeLaunch l x else s2))) ∧
  (∀ (s : State) (l h : Nat) (x : Launch), s.launch? l = some x → s.placing x.part = true → s.beneficiary l x = some h →
    ∃ t, exec (.launchPreempt l) s = .next t ∧
      (x.record.cls = 1 → (t.launch? l).map (·.yielding) = some true ∧ t.waves = s.waves) ∧
      (x.record.cls ≠ 1 → (t.launch? l).map (·.yielded) = some true ∧ ∀ wi w, s.wave? wi = some w → w.launch = l → w.res = .resident → w.exited = false → w.preempt = .none →
        (t.wave? wi).map (·.preempt) = some (.window (s.core w.core).clk.toNat))) ∧
  (∀ (s s1 : State) (wi t0 : Nat) (w : Wave) (b : Block), s.wave? wi = some w → s.block? w.block = some b →
    w.res = .resident → w.exited = false → (s.part w.part).running = true →
    (∀ m, w.preempt = .window t0 → w.rewindable = true → w.mark = some m →
      (∀ r, s.recipe w m = .ok r → s.saveWaits wi w = false → exec (.waveSave wi) s = .next (s.saveRewound wi w b r m)) ∧
      (s.recipe w m = .wait s1 → exec (.waveSave wi) s = .next s1) ∧
      (s.recipe w m = .bad → w.trap = none → exec (.waveSave wi) s = .next (s.saveOrFreeze wi w b t0))) ∧
    (w.preempt = .window t0 → (w.rewindable = false ∨ w.mark = none) → w.trap = none → s.allParked wi w = true →
      exec (.waveSave wi) s = .next (s.saveOrFreeze wi w b t0)) ∧
    (w.preempt = .saving t0 → w.trap = none → exec (.waveSave wi) s = .next (s.saveOrFreeze wi w b t0)) ∧
    (w.pend = [] → (∀ x ∈ w.splits, x.isCompleting = false) → s.saveWaits wi w = false → s.saveOrFreeze wi w b t0 = s.saveWhole wi w b)) ∧
  (∀ (s s1 : State) (wi t0 addr : Nat) (w : Wave) (x : Split), s.wave? wi = some w → w.preempt = .window t0 → w.lowest = some x →
    w.res = .resident → w.exited = false → w.trap = none → w.rewindable = false → (s.part w.part).running = true →
    60000 ≤ s.since w.core t0 → s.allParked wi w = false → x.isCompleting = false →
    (s.allocArea w = some (addr, s1) → exec (.markWindowExpiry wi) s = .next ((s1.modWave wi fun y =>
      { y with preempt := .raised addr (s.core w.core).clk.toNat w.splits.length }).preempt wi x addr)) ∧
    (s.allocArea w = none → exec (.markWindowExpiry wi) s = .next (s.beginStop w.part 8 (w.token * 4 + x.num)))) ∧
  (∀ (s : State) (wi addr t0 n : Nat) (w : Wave) (x : Split), s.wave? wi = some w → w.preempt = .raised addr t0 n → w.exited = false →
    w.exiting = false →
    w.res = .resident → 240000 ≤ s.since w.core t0 → w.lowest = some x →
    exec (.preemptHandlerTimeout wi) s = .next (s.beginStop w.part 5 (w.token * 4 + x.num))) ∧
  (∀ (s : State) (wi addr : Nat) (w : Wave), s.wave? wi = some w → s.placing w.part = true → w.exited = false → w.res ≠ .resident →
    (∀ b, s.block? w.block = some b → b.saved = true → exec (.waveRestore wi) s = .next (s.replaceBlock w.block)) ∧
    ((∀ b, s.block? w.block = some b → b.saved = false) → s.fitsAgain w = true → s.mayReturn w = true →
      (w.res = .handler addr →
        exec (.waveRestore wi) s = .next ((s.returns wi addr (w.restoreByHandler 0x0D addr s.seq)).acquireAt wi 0 false)) ∧
      (∀ bs rew, w.res = .saved addr rew → s.engineRead (s.asidOf w.part) addr w.areaSize = some bs →
        (areaOk bs w rew = false →
          exec (.waveRestore wi) s = .next ((s.returns wi addr (w.restoreByHandler 0x01 addr s.seq)).acquireAt wi 0 false)) ∧
        (rew = false → areaOk bs w rew = true → exec (.waveRestore wi) s = .next (s.returns wi addr (w.restoreWhole bs s.seq))) ∧
        (rew = true → areaOk bs w rew = true →
          let r := s.freeBytes (4096 * w.tileCount)
          exec (.waveRestore wi) s = .next (r.2.returns wi addr (w.restoreRewound bs r.1 s.seq))))))

/-! ## Faults and snapshots -/

/-- FAULT_RECORD writes the oldest record into the fault ring and raises vector 0, waits with a full ring, and stops the partition with
REASON 9 on one it cannot use. TRANSLATION_WALK answers a core from the home's TLB or by walking; STAGE2_FAULT makes Bruin's entries and
restarts what waited, or stops the partition with REASON 6; PAGE_MIGRATION of a page that no snapshot meets puts its bytes, as its old
place holds them once nothing of it is cached or in transit, at the new place and the new leaf in the table, and leaves no translation of
it in a TLB (DESIGN CHOICE, log 41: the old place is not cleared). WAVE_RESUME restarts the parked split that a TOKEN names, ENGINE_RETRY
and ENGINE_FAIL a parked operation. SHADOW_COPY keeps a line's old value, RESERVE_MOVE moves a shadow to the pool, COPY_BACK frees one
whose line it can read; a pool line that cannot be used stops the partition with REASON 4. The pool's registers take an allowed value. The
model's own choices here: log entries 39, 41, 51. -/
def Obligations.FaultAndShadowEvents : Prop :=
  (∀ (s : State) (p : Nat) (f : FaultRec) (fs : List FaultRec), (s.part p).faults = f :: fs → (s.part p).state ≠ 2 →
    (s.part p).stopping = none →
    let ring := (s.part p).entry.ring
    (s.ringLog p = none → exec (.faultRecord p) s = .next (s.beginStop p 9 ((ring + 8) / 65536))) ∧
    ∀ n, s.ringLog p = some n →
    ((n < 4 ∨ 16 < n) → exec (.faultRecord p) s = .next (s.beginStop p 9 0)) ∧
    (4 ≤ n → n ≤ 16 → s.guestRead p (ring + 4) 4 = none → exec (.faultRecord p) s = .next (s.beginStop p 9 ((ring + 4) / 65536))) ∧
    (∀ hd, 4 ≤ n → n ≤ 16 → s.guestRead p (ring + 4) 4 = some hd →
      let s0 := s.modPart p fun y => { y with ringLogn := some n }
      let used := ((s.part p).ringTail + 4294967296 - leValue hd) % 4294967296
      let at_ := ring + 64 + 32 * ((s.part p).ringTail % 2 ^ n)
      (used = 2 ^ n → exec (.faultRecord p) s = .next s0) ∧
      (used ≠ 2 ^ n → s0.guestWrite p at_ f.bytes = none → exec (.faultRecord p) s = .next (s.beginStop p 9 (at_ / 65536))) ∧
      (∀ s1, used ≠ 2 ^ n → s0.guestWrite p at_ f.bytes = some s1 →
        (s1.guestWrite p ring (leBytes (((s.part p).ringTail + 1) % 4294967296) 4) = none →
          exec (.faultRecord p) s = .next (s.beginStop p 9 (ring / 65536))) ∧
        ∀ s2, s1.guestWrite p ring (leBytes (((s.part p).ringTail + 1) % 4294967296) 4) = some s2 →
          exec (.faultRecord p) s = .next ((s2.modPart p fun y =>
            { y with ringTail := ((s.part p).ringTail + 1) % 4294967296, faults := fs }).raiseMsix (p + 1) 0)))) ∧
  (∀ (s : State) (c asid g p : Nat), s.partOfAsid asid = some p → s.right? c asid (g * 65536) = none →
    (∀ r, s.tlb.find (rkey asid (g * 65536)) = some r →
      exec (.translationWalk c asid g) s = .next (s.putRight c asid (g * 65536) r)) ∧
    (s.tlb.find (rkey asid (g * 65536)) = none →
      (∀ r, s.walk p asid (g * 65536) = .ok r →
        exec (.translationWalk c asid g) s = .next ((s.putTlb asid (g * 65536) r).putRight c asid (g * 65536) r)) ∧
      (s.walk p asid (g * 65536) = .unmapped →
        exec (.translationWalk c asid g) s = .next (s.putRight c asid (g * 65536) Right.unmapped)) ∧
      (∀ ipa, s.walk p asid (g * 65536) = .stage2 ipa →
        exec (.translationWalk c asid g) s = .next (s.putRight c asid (g * 65536) (Right.refused ipa))))) ∧
  (∀ (s : State) (p : Nat) (f : S2Fault) (fs : List S2Fault), (s.part p).s2faults = f :: fs →
    exec (.stage2Fault p .stopPartition) s = .next (s.beginStop p 6 f.granule) ∧
    ∀ es, exec (.stage2Fault p (.mapPage es)) s = .next ((((es.foldl (fun s e => s.ptWrite e.1 (leBytes e.2.toNat 8)) s).modPart p
      fun x => { x with s2faults := fs }).resumeStage2 p f))) ∧
  (∀ (s : State) (p ipa at_ e1 : Nat) (leaf : BitVec 64) (l : LevelShape),
    leafAt (fun a => s.ptLe a 8) ipa tableLevels (s.part p).entry.s2root = some (at_, e1, l) →
    let n := 2 ^ l.shift
    let new := leafAddr leaf.toNat l.shift 0
    leaf.toNat % 4 = 3 → leafOk true l leaf.toNat = true →
    (leafTgt leaf.toNat ≠ 0 ∨ (modulePaOk new = true ∧ modulePaOk (new + n - 1) = true)) → s.snapMeets p (ipa / n * n) n = false →
    let u := s.pageAtRest p e1 leaf.toNat n
    let byteAt (s : State) (tgt peer a : Nat) : Byte :=
      if tgt = 0 then s.pt.get a else if tgt = 1 then s.host.get a else s.peers.get (peerKey peer a)
    ∃ t, exec (.pageMigration p ipa leaf) s = .next t ∧
      (MemoryOk s = true → (∀ e ∈ s.sram, e.2.bytes.length = 256) → t.ptLe at_ 8 = leaf.toNat ∧
        ∀ i < n, (leafTgt leaf.toNat = 0 → new + i < at_ ∨ at_ + 8 ≤ new + i) →
          byteAt t (leafTgt leaf.toNat) (leafPeer p leaf.toNat) (new + i) =
            byteAt u (leafTgt e1) (leafPeer p e1) (leafAddr e1 l.shift 0 + i)) ∧
      ∀ e ∈ t.tlb, e ∈ s.tlb ∧ (s.partOfAsid (e.1 / 1099511627776) = some p → e.2.ipa < ipa / n * n ∨ ipa / n * n + n ≤ e.2.ipa)) ∧
  (∀ (s : State) (p wi token : Nat) (fail : Bool) (v : BitVec 64) (w : Wave), resumeWord v = some (token, fail, 0) →
    (s.part p).kickable = true →
    s.waves.find? (fun e => e.2.part == p && e.2.res == .resident && !e.2.exited && e.2.token == token / 4 &&
      e.2.splits.any fun x => x.num == token % 4 && x.park == .fault) = some (wi, w) →
    exec (.waveResume p v) s = .next (s.modSplit wi (token % 4) fun x => { x with park := .none, readyAt := s.seq })) ∧
  (∀ (s : State) (p tag kind : Nat) (fail : Bool) (v : BitVec 64) (x : Parked), resumeWord v = some (tag, fail, kind) →
    (s.part p).kickable = true → s.parkedOp p kind tag = some x →
    (fail = false → exec (.engineRetry p v) s = .next (s.retryOp p tag x)) ∧
    (fail = true → exec (.engineFail p v) s = .next (s.failOp p tag x))) ∧
  (∀ (s : State) (asid line p g k : Nat) (bs : List Byte), s.shadowDue asid line = some (p, g, k) → s.writeComing p asid line = true →
    (s.part p).stopping = none → s.l2Line asid line = some bs →
    exec (.shadowCopy asid line) s = .next (s.makeShadow p g k asid line bs)) ∧
  (∀ (s : State) (p g : Nat) (y : Shadow), (s.part p).oldestReserved = some (g, y) → (s.part p).poolUsed < (s.part p).poolSize →
    (s.part p).running = true →
    let j := (s.part p).freeLine s.free
    (s.drawn.guestWrite p ((s.part p).poolBase + 256 * j) y.bytes = none → exec (.reserveMove p) s = .next (s.beginStop p 4 j)) ∧
    ∀ s1, s.drawn.guestWrite p ((s.part p).poolBase + 256 * j) y.bytes = some s1 →
      exec (.reserveMove p) s = .next (s1.modRegion p g fun r => ({ r with shadows := r.shadows.map fun z =>
        if z.seq = y.seq then { z with pool := some j, bytes := [] } else z } : Region).relieve)) ∧
  (∀ (s : State) (p n : Nat),
    let freed := ((s.part p).regions.flatMap (·.shadows)).filter fun y => y.seq == n && y.copyBack
    (s.lostShadow p freed = none → ∃ t, exec (.copyBack p n) s = .next t ∧ SameMemory s t ∧
      ∀ r ∈ (t.part p).regions, ∀ y ∈ r.shadows, ¬(y.seq = n ∧ y.copyBack = true)) ∧
    ∀ x, s.lostShadow p freed = some x → exec (.copyBack p n) s = .next (s.beginStop p 4 (x.pool.getD 0))) ∧
  (∀ (s : State) (p : Nat) (v : BitVec 64), (s.part p).kickable = true → (s.part p).poolUsed = 0 → v.toNat % 65536 = 0 →
    ∃ t, exec (.shadowPoolBaseWrite p v) s = .next t ∧ t.part p = { s.part p with poolBase := v.toNat }) ∧
  (∀ (s : State) (p : Nat) (v : Word), (s.part p).kickable = true → v.toNat ≤ (s.part p).entry.quota → (s.part p).poolUsed ≤ v.toNat →
    ∃ t, exec (.shadowPoolSizeWrite p v) s = .next t ∧ t.part p = { s.part p with poolSize := v.toNat })

/-! ## Events of the module -/

/-- The commands of the physical function start unless one is in progress: ACTIVATE, RESCHED, DESCHED, STOP, INVAL, DIRTY, and an unknown
op, each with its error or its first effect; COMMAND_COMPLETE ends one. PARTITION_STOP leaves STATE 2 with the reason and its interrupts.
The register writes take effect within their limits; the accesses through a window of BAR4 or over the fabric read and write at the homes;
a failed flit is replayed 16 times; MACHINE_CHECK stops its partitions with REASON 2; MODULE_RESET leaves the reset state but for what
lies outside the module. The model's own choices here: log entries 55, 64, 65, 67, 68, 69, 70. -/
def Obligations.ModuleEvents : Prop :=
  (∀ (s : State) (p : Nat), s.module.booted = true → s.module.cmd = none → p < 64 →
    let x := s.part p
    let begun (i : Instr) (op err : Nat) : Prop := ∃ t, exec i s = .next t ∧ t.module.cmd = some (op, p) ∧ t.module.cmdErr = err
    (x.state ≠ 2 → begun (.activate p) 1 1) ∧
    (∀ xs, x.state = 2 → s.entryErrs p ++ s.quadErrs p = [] → s.colourList (s.partEntry p).colour = some xs →
      ∃ t, exec (.activate p) s = .next t ∧ t.module.cmd = some (1, p) ∧ t.module.cmdErr = 0 ∧ (t.part p).state = 1 ∧
        (t.part p).slices = xs ∧ (t.part p).quads = s.quadsOf p ∧ (t.part p).reason = 0 ∧ (t.part p).queues = [] ∧
        (p + 1, 1) ∈ t.module.msix) ∧
    (x.state ≠ 1 → begun (.resched p) 2 1) ∧
    (x.state = 1 → x.stopping = none → s.quadErrs p = [] → (∀ e ∈ s.blocks, e.2.part = p → e.2.saved = false) →
      ∃ t, exec (.resched p) s = .next t ∧ t.module.cmd = some (2, p) ∧ (t.part p).state = (if x.entry.mode = 0 then 0 else 3) ∧
        (t.part p).quads = s.quadsOf p ∧ (t.part p).latched = [] ∧ (p + 1, 1) ∈ t.module.msix) ∧
    (x.state ≠ 0 → x.state ≠ 3 → begun (.desched p) 3 1) ∧
    ((x.state = 0 ∨ x.state = 3) → begun (.desched p) 3 0) ∧
    (x.state = 2 → begun (.stop p) 4 1) ∧
    (x.state ≠ 2 → x.stopping = none → ∃ t, exec (.stop p) s = .next t ∧ t.module.cmd = some (4, p) ∧
      (t.part p).stopping = some (1, 0)) ∧
    (∃ t, exec (.inval p) s = .next t ∧ t.module.cmd = some (5, p) ∧ SameMemory s t ∧
      ∀ e ∈ t.tlb, e ∈ s.tlb ∧ x.entry.hasAsid (e.1 / 1099511627776) = false) ∧
    (x.state = 2 → begun (.dirty p) 6 1) ∧
    (x.state ≠ 2 → ∃ t, exec (.dirty p) s = .next t ∧ t.module.cmd = some (6, p) ∧ (t.part p).dirty = [] ∧ t.pt = s.pt) ∧
    (∀ v : BitVec 64, v.toNat < 16384 → v.toNat / 256 = p → (v.toNat % 256 = 0 ∨ 6 < v.toNat % 256) →
      begun (.cmdUnknownOp v) (v.toNat % 256) 7)) ∧
  (∀ (s : State) (op p : Nat), s.module.cmd = some (op, p) →
    (s.module.cmdErr ≠ 0 ∨ op = 1 ∨ op = 2 ∨ op = 6 ∨ (op = 4 ∧ (s.part p).state = 2) ∨
        (op = 5 ∧ s.performedBefore p s.module.cmdAt = true)) →
    ∃ t, exec .commandComplete s = .next t ∧ t.module.cmd = none ∧ t.module.msix = s.module.msix ++ [(0, 1)] ∧
      { t with module := s.module } = s) ∧
  (∀ (s : State) (p reason detail : Nat), (s.part p).stopping = some (reason, detail) → ∃ t, exec (.partitionStop p) s = .next t ∧
    (t.part p).state = 2 ∧ (t.part p).reason = reason ∧ (t.part p).stopping = none ∧ (t.part p).quads = [] ∧
    (∀ e ∈ t.waves, e.2.part ≠ p) ∧ (∀ e ∈ t.blocks, e.2.part ≠ p) ∧ (∀ e ∈ t.launches, e.2.part ≠ p) ∧
    (p + 1, 1) ∈ t.module.msix ∧ (0, 2) ∈ t.module.msix) ∧
  (∀ (s : State) (q : Nat) (v : BitVec 64) (w : Word), s.module.booted = true →
    (q < Config.quads → (∀ k, k = (s.quadEntry q).part ∨ k = v.toNat % 64 → (s.part k).state ≠ 0 ∧ (s.part k).state ≠ 3) →
      ∃ t, exec (.quadrantEntryWrite q v) s = .next t ∧ t.module.entries = s.module.entries.writeLe (quadOff q) 8 v.toNat ∧
        { t with module := s.module } = s) ∧
    (600 ≤ w.toNat → w.toNat ≤ 1500 → ∃ t, exec (.powerlimitWrite w) s = .next t ∧ t.module = { s.module with powerLimit := w.toNat } ∧
      { t with module := s.module } = s) ∧
    (∃ t, exec (.scrubWrite w) s = .next t ∧ t.module = { s.module with scrub := w.getLsbD 0 } ∧ { t with module := s.module } = s)) ∧
  (∀ (s : State) (p off : Nat) (b : Byte),
    (s.module.booted = true → 0x108 ≤ off → off < 0x110 → ∃ t, exec (.registerWrite .pf off [b]) s = .next t ∧
      t.module.cmdArg.toNat / 256 ^ (off - 0x108) % 256 = b.toNat ∧ t.module.entries = s.module.entries) ∧
    ((s.part p).kickable = true → off < 64 → ∃ t, exec (.registerWrite (.kick p) (0x400 + 32 * off) [b]) s = .next t ∧
      ((t.part p).queue off).base % 256 = b.toNat / 64 * 64 ∧
      ((t.part p).queue off).base / 256 = ((s.part p).queue off).base / 256) ∧
    (off < 0x20 → ∃ t, exec (.registerWrite (.attest p) off [b]) s = .next t ∧
      (t.part p).attest.nonce.toNat / 256 ^ off % 256 = b.toNat ∧ (t.part p).attest.dest = (s.part p).attest.dest) ∧
    (p < 64 → b.toNat < 4 → ∃ t, exec (.registerWrite (.bruin p) 3 [b]) s = .next t ∧
      t.module.entries = s.module.entries.set (0x10000 + 256 * p + 3) b) ∧
    (∀ l bs, l < Config.links → (s.linkOwner l).isSome = true → bs.length = 4 → ∃ t, exec (.registerWrite (.link l) 0x40 bs) s = .next t ∧
      t.link l = { s.link l with poseSeq := word (leValue bs) })) ∧
  (∀ (s : State) (p : Nat), s.module.booted = true →
    ((s.part p).attest.status ≠ 1 → ∃ t, exec (.attestationRequest p 1) s = .next t ∧
      (t.part p).attest = { (s.part p).attest with status := 1, busyNonce := (s.part p).attest.nonce }) ∧
    ((s.part p).attest.status = 1 →
      (1048576 ≤ s.module.sigIndex → ∃ t, exec (.attestationDone p) s = .next t ∧ (t.part p).attest.status = 3) ∧
      (∀ s1, s.module.sigIndex < 1048576 → s.guestWriteAll p (s.part p).attest.dest.toNat (s.reportBody p ++
          xmssSignature s.module.sigIndex (s.reportBody p)) = some s1 → ∃ t, exec (.attestationDone p) s = .next t ∧
        (t.part p).attest.status = 2 ∧ t.module.sigIndex = s.module.sigIndex + 1))) ∧
  (∀ (s : State) (p off n : Nat) (bs : List Byte), s.module.booted = true →
    let asid := (s.part p).entry.winAsid
    let va := (s.part p).entry.winVa + off
    (off + n ≤ 68719476736 → s.windowOk p va n .read = true → s.engineRead asid va n = some bs →
      ∃ t, exec (.bar4Read p off n) s = .next t ∧ t.module.reply = some bs ∧ SameMemory s t) ∧
    (off + n ≤ 68719476736 → s.windowOk p va n .read = false →
      ∃ t, exec (.bar4Read p off n) s = .next t ∧ t.module.reply = none ∧ SameMemory s t) ∧
    (off + bs.length ≤ 68719476736 → exec (.bar4Write p off bs) s = .next ((s.answer none).windowWrite p off bs)) ∧
    (∀ op, off + pcieWidth op ≤ 68719476736 → exec (.bar4Atomic p off op) s = .next ((s.answer none).windowAtomic p off op)) ∧
    exec (.fabricAccess p off (.read n)) s = .next (s.windowRead p off n) ∧
    exec (.fabricAccess p off (.write bs)) s = .next ((s.answer none).windowWrite p off bs) ∧
    ∀ op, exec (.fabricAccess p off (.atomic op)) s = .next ((s.answer none).windowAtomic p off op)) ∧
  (∀ (s : State) (port unit num c st kind : Nat) (site : FaultSite) (ok : Bool),
    (port < 8 → (s.pzPort port).up = true → ∃ t, exec (.flitCrcError port) s = .next t ∧
      ((s.pzPort port).replays < 16 → (t.pzPort port).up = true ∧
        ((t.pzPort port).replays = (s.pzPort port).replays + 1 ∨ (t.pzPort port).replays = 1)) ∧
      (16 ≤ (s.pzPort port).replays → (t.pzPort port).up = false ∨ (t.pzPort port).replays = 1)) ∧
    (s.module.booted = true → ∃ t, exec (.machineCheck unit num site) s = .next t ∧ t.module.mcheck = some { unit := unit, num := num } ∧
      (0, 0) ∈ t.module.msix ∧ ∀ p ∈ s.affected site, (s.part p).state ≠ 2 → (s.part p).stopping = none →
        ∃ d, (t.part p).stopping = some (2, d)) ∧
    (c < Config.cores → st < 3 → ∃ t, exec (.clockStateChange c st) s = .next t ∧ t.core c = { s.core c with clock := st }) ∧
    (c < Config.cores → ∃ t, exec (.droopEvent c) s = .next t ∧ (t.core c).droop = (s.core c).droop + 1 ∧ (t.core c).clk = (s.core c).clk) ∧
    (s.module.booted = true → s.module.scrub = true → ∃ t, exec (.patrolScrub kind st) s = .next t ∧
      t.module.corrected.find kind = some ((s.module.corrected.find kind).getD 0 + 1) ∧
      (st < 64 → (t.part st).corrected = (s.part st).corrected + 1)) ∧
    (∃ t, exec (.moduleReset ok) s = .next t ∧ t.module.booted = ok ∧ t.waves = [] ∧ t.blocks = [] ∧ t.launches = [] ∧ t.parts = [] ∧
      t.pt = [] ∧ t.home = [] ∧ t.host = s.host ∧ t.peers = s.peers ∧ t.module.scrub = true ∧ t.module.cmd = none ∧
      t.module.sigIndex = s.module.sigIndex ∧ (∀ c, (t.core c).clk = 0 ∧ (t.core c).temp = (s.core c).temp) ∧
      ∀ l, (t.link l).hpd = (s.link l).hpd ∧ (t.link l).active = false ∧ (t.link l).shown = 0xFFFFFFFF))
end

