-- ==== Sys2Proof/Laws/Memory.lean ====
section
/-! SUPPORT. The laws of the two kinds of plain data: a memory reads back what was written, and every operation on it keeps the
canonical form; a table finds what was put. -/

namespace Sys2Proof.Machine

/-! ## Reading after writing -/

theorem Memory.get_above (m : Memory) : ∀ lo a, Memory.wfFrom (some lo) m = true → a ≤ lo → m.get a = Memory.blank := by
  induction m with
  | nil => intros; rfl
  | cons c m ih =>
    intro lo a h ha
    obtain ⟨b, x⟩ := c
    simp only [Memory.wfFrom, Bool.and_eq_true, decide_eq_true_eq] at h
    have : a < b := by omega
    simp [Memory.get, Nat.ne_of_lt this, this]

@[simp] theorem Memory.get_nil (a : Nat) : Memory.get [] a = Memory.blank := rfl

/-- A byte written is the byte read. -/
theorem Memory.get_set_self (m : Memory) (a : Nat) (x : Byte) (h : m.wf = true) : (m.set a x).get a = x := by
  suffices H : ∀ lo, Memory.wfFrom lo m = true → (m.set a x).get a = x from H none h
  clear h
  induction m with
  | nil =>
    intro lo _
    by_cases hx : x = Memory.blank <;> simp [Memory.set, Memory.get, hx]
  | cons c m ih =>
    intro lo h
    obtain ⟨b, y⟩ := c
    simp only [Memory.wfFrom, Bool.and_eq_true] at h
    by_cases h1 : a < b
    · by_cases hx : x = Memory.blank <;> simp [Memory.set, Memory.get, h1, hx, Nat.ne_of_lt h1]
    · by_cases h2 : a = b
      · subst h2
        by_cases hx : x = Memory.blank
        · simp only [Memory.set, Nat.lt_irrefl, if_false, if_true, hx]
          exact Memory.get_above m a a h.2 (Nat.le_refl a)
        · simp [Memory.set, Memory.get, hx]
      · simp only [Memory.set, h1, h2, if_false, Memory.get]
        exact ih _ h.2

/-- A write of one byte leaves every other byte alone. -/
theorem Memory.get_set_other (m : Memory) (a b : Nat) (x : Byte) (h : m.wf = true) (hne : b ≠ a) : (m.set a x).get b = m.get b := by
  suffices H : ∀ lo, Memory.wfFrom lo m = true → (m.set a x).get b = m.get b from H none h
  clear h
  induction m with
  | nil =>
    intro lo _
    by_cases hx : x = Memory.blank <;> simp [Memory.set, Memory.get, hx, hne]
  | cons c m ih =>
    intro lo h
    obtain ⟨k, y⟩ := c
    simp only [Memory.wfFrom, Bool.and_eq_true] at h
    by_cases h1 : a < k
    · by_cases hx : x = Memory.blank
      · simp [Memory.set, h1, hx]
      · by_cases hb : b < a
        · have : b < k := by omega
          simp [Memory.set, Memory.get, h1, hx, hne, hb, Nat.ne_of_lt this, this]
        · simp [Memory.set, Memory.get, h1, hx, hne, hb]
    · by_cases h2 : a = k
      · subst h2
        by_cases hx : x = Memory.blank
        · by_cases hb : b < a
          · have := Memory.get_above m a b h.2 (by omega)
            simp [Memory.set, hx, Memory.get, hne, hb, this]
          · simp [Memory.set, hx, Memory.get, hne, hb]
        · simp [Memory.set, hx, Memory.get, hne]
      · have := ih _ h.2
        simp [Memory.set, h1, h2, Memory.get, this]

/-! ## The canonical form -/

theorem Memory.wfFrom_weaken (m : Memory) (lo : Nat) (lo' : Option Nat) (h : Memory.wfFrom (some lo) m = true)
    (hl : ∀ k, lo' = some k → k ≤ lo) : Memory.wfFrom lo' m = true := by
  cases m with
  | nil => simp [Memory.wfFrom]
  | cons c m =>
    obtain ⟨a, x⟩ := c
    simp only [Memory.wfFrom, Bool.and_eq_true, decide_eq_true_eq] at h ⊢
    refine ⟨⟨?_, h.1.2⟩, h.2⟩
    cases lo' with
    | none => rfl
    | some k =>
      have := hl k rfl
      have := h.1.1
      exact decide_eq_true (by omega)

/-- Writing a byte keeps the canonical form. -/
theorem Memory.set_wfFrom (m : Memory) (a : Nat) (x : Byte) : ∀ lo, Memory.wfFrom lo m = true → (∀ k, lo = some k → k < a) →
    Memory.wfFrom lo (m.set a x) = true := by
  induction m with
  | nil =>
    intro lo _ hl
    by_cases hx : x = Memory.blank
    · simp [Memory.set, hx, Memory.wfFrom]
    · cases lo with
      | none => simp [Memory.set, hx, Memory.wfFrom]
      | some k => simp [Memory.set, hx, Memory.wfFrom, hl k rfl]
  | cons c m ih =>
    intro lo h hl
    obtain ⟨b, y⟩ := c
    have h' := h
    simp only [Memory.wfFrom, Bool.and_eq_true, decide_eq_true_eq] at h'
    by_cases h1 : a < b
    · by_cases hx : x = Memory.blank
      · simpa [Memory.set, h1, hx] using h
      · simp only [Memory.set, h1, hx, if_true, if_false, Memory.wfFrom, Bool.and_eq_true, decide_eq_true_eq]
        refine ⟨⟨?_, hx⟩, ⟨trivial, h'.1.2⟩, h'.2⟩
        cases lo with
        | none => rfl
        | some k => exact decide_eq_true (hl k rfl)
    · by_cases h2 : a = b
      · subst h2
        by_cases hx : x = Memory.blank
        · simp only [Memory.set, Nat.lt_irrefl, hx, if_true, if_false]
          exact Memory.wfFrom_weaken m a lo h'.2 (fun k hk => Nat.le_of_lt (hl k hk))
        · simp only [Memory.set, Nat.lt_irrefl, hx, if_true, if_false, Memory.wfFrom, Bool.and_eq_true, decide_eq_true_eq]
          exact ⟨⟨h'.1.1, hx⟩, h'.2⟩
      · simp only [Memory.set, h1, h2, if_false, Memory.wfFrom, Bool.and_eq_true, decide_eq_true_eq]
        exact ⟨h'.1, ih _ h'.2 (fun k hk => by cases hk; omega)⟩

/-- Writing a byte keeps the canonical form. -/
theorem Memory.set_wf (m : Memory) (a : Nat) (x : Byte) (h : m.wf = true) : (m.set a x).wf = true :=
  Memory.set_wfFrom m a x none h (fun _ hk => by cases hk)

/-- Writing bytes keeps the canonical form. -/
theorem Memory.write_wf (xs : List Byte) : ∀ (m : Memory) (a : Nat), m.wf = true → (m.write a xs).wf = true := by
  induction xs with
  | nil => intro m a h; exact h
  | cons x xs ih => intro m a h; exact ih _ _ (Memory.set_wf m a x h)

/-- Writing cells keeps the canonical form. -/
theorem Memory.writeCells_wf (cs : List Host.Cell) : ∀ m : Memory, m.wf = true → (m.writeCells cs).wf = true := by
  induction cs with
  | nil => intro m h; exact h
  | cons c cs ih => intro m h; exact ih _ (Memory.set_wf m c.1 c.2 h)

/-- Writing a number keeps the canonical form. -/
theorem Memory.writeLe_wf (m : Memory) (a n v : Nat) (h : m.wf = true) : (m.writeLe a n v).wf = true := Memory.write_wf _ _ _ h

/-- Keeping the cells that satisfy a condition keeps the canonical form. -/
theorem Memory.filter_wfFrom (f : Host.Cell → Bool) : ∀ (m : Memory) (lo : Option Nat), Memory.wfFrom lo m = true →
    Memory.wfFrom lo (m.filter f) = true := by
  intro m
  induction m with
  | nil => intro lo h; exact h
  | cons c m ih =>
    intro lo h
    obtain ⟨a, x⟩ := c
    have h' := h
    simp only [Memory.wfFrom, Bool.and_eq_true, decide_eq_true_eq] at h'
    by_cases hf : f (a, x) = true
    · simp only [List.filter_cons, hf, if_true, Memory.wfFrom, Bool.and_eq_true, decide_eq_true_eq]
      exact ⟨h'.1, ih _ h'.2⟩
    · simp only [List.filter_cons, hf]
      refine Memory.wfFrom_weaken _ a lo (ih _ h'.2) (fun k hk => ?_)
      subst hk
      have := h'.1.1
      exact Nat.le_of_lt (of_decide_eq_true this)

/-- Keeping the cells that satisfy a condition keeps the canonical form. -/
theorem Memory.filter_wf (f : Host.Cell → Bool) (m : Memory) (h : m.wf = true) : Memory.wf (m.filter f) = true :=
  Memory.filter_wfFrom f m none h

/-- Forgetting a range keeps the canonical form. -/
theorem Memory.clear_wf (m : Memory) (lo n : Nat) (h : m.wf = true) : (m.clear lo n).wf = true := Memory.filter_wf _ m h

/-- Right after reset every memory is canonical. -/
theorem State.reset_wf : State.reset.pt.wf = true ∧ State.reset.host.wf = true ∧ State.reset.peers.wf = true ∧
    State.reset.home.wf = true ∧ State.reset.module.entries.wf = true := by decide

/-! ## Tables -/

@[simp] theorem Table.find_nil {α : Type} (i : Nat) : Table.find ([] : Table α) i = none := rfl

/-- What was put is found. -/
@[simp] theorem Table.find_put_self {α : Type} (t : Table α) (i : Nat) (x : α) : (t.put i x).find i = some x := by
  induction t with
  | nil => simp [Table.put, Table.find]
  | cons e t ih =>
    obtain ⟨k, y⟩ := e
    by_cases h1 : i < k
    · simp [Table.put, h1, Table.find]
    · by_cases h2 : i = k
      · simp [Table.put, h2, Table.find]
      · simp [Table.put, h1, h2, Table.find, ih]

/-- Putting a record leaves the others. -/
theorem Table.find_put_other {α : Type} (t : Table α) (i j : Nat) (x : α) (h : j ≠ i) : (t.put i x).find j = t.find j := by
  induction t with
  | nil => simp [Table.put, Table.find, h]
  | cons e t ih =>
    obtain ⟨k, y⟩ := e
    by_cases h1 : i < k
    · by_cases h3 : j < i
      · have : j < k := by omega
        simp [Table.put, h1, Table.find, h, h3, Nat.ne_of_lt this, this]
      · simp [Table.put, h1, Table.find, h, h3]
    · by_cases h2 : i = k
      · subst h2; simp [Table.put, Table.find, h]
      · simp [Table.put, h1, h2, Table.find, ih]

/-- A changed record is found changed. -/
@[simp] theorem Table.find_modify_self {α : Type} (t : Table α) (i : Nat) (f : α → α) : (t.modify i f).find i = (t.find i).map f := by
  induction t with
  | nil => rfl
  | cons e t ih =>
    obtain ⟨k, y⟩ := e
    have ih' : Table.find (List.map (fun e => if e.1 = i then (e.1, f e.2) else e) t) i = (Table.find t i).map f := ih
    by_cases h2 : k = i
    · subst h2; simp [Table.modify, Table.find]
    · have h2' : ¬ i = k := fun h => h2 h.symm
      by_cases h1 : i < k
      · simp [Table.modify, Table.find, h2, h2', h1]
      · simp [Table.modify, Table.find, h2, h2', h1, ih']

/-- Changing a record leaves the others. -/
theorem Table.find_modify_other {α : Type} (t : Table α) (i j : Nat) (f : α → α) (h : j ≠ i) : (t.modify i f).find j = t.find j := by
  induction t with
  | nil => rfl
  | cons e t ih =>
    obtain ⟨k, y⟩ := e
    have ih' : Table.find (List.map (fun e => if e.1 = i then (e.1, f e.2) else e) t) j = Table.find t j := ih
    by_cases h2 : k = i
    · subst h2; simp [Table.modify, Table.find, h, ih']
    · simp [Table.modify, Table.find, h2, ih']

end Sys2Proof.Machine
end

