-- ==== Sys2Proof/Laws/State.lean ====
section
/-! SUPPORT. What each named update of State does to each field: one lemma per field, true by definition. -/

namespace Sys2Proof.Machine

@[simp] theorem State.setCore_free (s : State) (c : Nat) (x : Core) : (s.setCore c x).free = s.free := rfl
@[simp] theorem State.setCore_seq (s : State) (c : Nat) (x : Core) : (s.setCore c x).seq = s.seq := rfl
@[simp] theorem State.setCore_turns (s : State) (c : Nat) (x : Core) : (s.setCore c x).turns = s.turns := rfl
@[simp] theorem State.setCore_issue (s : State) (c : Nat) (x : Core) : (s.setCore c x).issue = s.issue := rfl
@[simp] theorem State.setCore_module (s : State) (c : Nat) (x : Core) : (s.setCore c x).module = s.module := rfl
@[simp] theorem State.setCore_parts (s : State) (c : Nat) (x : Core) : (s.setCore c x).parts = s.parts := rfl
@[simp] theorem State.setCore_cores (s : State) (c : Nat) (x : Core) : (s.setCore c x).cores = s.cores.put c x := rfl
@[simp] theorem State.setCore_quads (s : State) (c : Nat) (x : Core) : (s.setCore c x).quads = s.quads := rfl
@[simp] theorem State.setCore_launches (s : State) (c : Nat) (x : Core) : (s.setCore c x).launches = s.launches := rfl
@[simp] theorem State.setCore_blocks (s : State) (c : Nat) (x : Core) : (s.setCore c x).blocks = s.blocks := rfl
@[simp] theorem State.setCore_waves (s : State) (c : Nat) (x : Core) : (s.setCore c x).waves = s.waves := rfl
@[simp] theorem State.setCore_links (s : State) (c : Nat) (x : Core) : (s.setCore c x).links = s.links := rfl
@[simp] theorem State.setCore_presenting (s : State) (c : Nat) (x : Core) : (s.setCore c x).presenting = s.presenting := rfl
@[simp] theorem State.setCore_builds (s : State) (c : Nat) (x : Core) : (s.setCore c x).builds = s.builds := rfl
@[simp] theorem State.setCore_sliceQ (s : State) (c : Nat) (x : Core) : (s.setCore c x).sliceQ = s.sliceQ := rfl
@[simp] theorem State.setCore_qfences (s : State) (c : Nat) (x : Core) : (s.setCore c x).qfences = s.qfences := rfl
@[simp] theorem State.setCore_deliveries (s : State) (c : Nat) (x : Core) : (s.setCore c x).deliveries = s.deliveries := rfl
@[simp] theorem State.setCore_pt (s : State) (c : Nat) (x : Core) : (s.setCore c x).pt = s.pt := rfl
@[simp] theorem State.setCore_host (s : State) (c : Nat) (x : Core) : (s.setCore c x).host = s.host := rfl
@[simp] theorem State.setCore_peers (s : State) (c : Nat) (x : Core) : (s.setCore c x).peers = s.peers := rfl
@[simp] theorem State.setCore_home (s : State) (c : Nat) (x : Core) : (s.setCore c x).home = s.home := rfl
@[simp] theorem State.setCore_sram (s : State) (c : Nat) (x : Core) : (s.setCore c x).sram = s.sram := rfl
@[simp] theorem State.setCore_stamps (s : State) (c : Nat) (x : Core) : (s.setCore c x).stamps = s.stamps := rfl
@[simp] theorem State.setCore_sums (s : State) (c : Nat) (x : Core) : (s.setCore c x).sums = s.sums := rfl
@[simp] theorem State.setCore_lines (s : State) (c : Nat) (x : Core) : (s.setCore c x).lines = s.lines := rfl
@[simp] theorem State.setCore_copies (s : State) (c : Nat) (x : Core) : (s.setCore c x).copies = s.copies := rfl
@[simp] theorem State.setCore_invals (s : State) (c : Nat) (x : Core) : (s.setCore c x).invals = s.invals := rfl
@[simp] theorem State.setCore_portWrites (s : State) (c : Nat) (x : Core) : (s.setCore c x).portWrites = s.portWrites := rfl
@[simp] theorem State.setCore_tlb (s : State) (c : Nat) (x : Core) : (s.setCore c x).tlb = s.tlb := rfl
@[simp] theorem State.setCore_roots (s : State) (c : Nat) (x : Core) : (s.setCore c x).roots = s.roots := rfl
@[simp] theorem State.setCore_bars (s : State) (c : Nat) (x : Core) : (s.setCore c x).bars = s.bars := rfl

@[simp] theorem State.setQuad_free (s : State) (q : Nat) (x : Quad) : (s.setQuad q x).free = s.free := rfl
@[simp] theorem State.setQuad_seq (s : State) (q : Nat) (x : Quad) : (s.setQuad q x).seq = s.seq := rfl
@[simp] theorem State.setQuad_turns (s : State) (q : Nat) (x : Quad) : (s.setQuad q x).turns = s.turns := rfl
@[simp] theorem State.setQuad_issue (s : State) (q : Nat) (x : Quad) : (s.setQuad q x).issue = s.issue := rfl
@[simp] theorem State.setQuad_module (s : State) (q : Nat) (x : Quad) : (s.setQuad q x).module = s.module := rfl
@[simp] theorem State.setQuad_parts (s : State) (q : Nat) (x : Quad) : (s.setQuad q x).parts = s.parts := rfl
@[simp] theorem State.setQuad_cores (s : State) (q : Nat) (x : Quad) : (s.setQuad q x).cores = s.cores := rfl
@[simp] theorem State.setQuad_quads (s : State) (q : Nat) (x : Quad) : (s.setQuad q x).quads = s.quads.put q x := rfl
@[simp] theorem State.setQuad_launches (s : State) (q : Nat) (x : Quad) : (s.setQuad q x).launches = s.launches := rfl
@[simp] theorem State.setQuad_blocks (s : State) (q : Nat) (x : Quad) : (s.setQuad q x).blocks = s.blocks := rfl
@[simp] theorem State.setQuad_waves (s : State) (q : Nat) (x : Quad) : (s.setQuad q x).waves = s.waves := rfl
@[simp] theorem State.setQuad_links (s : State) (q : Nat) (x : Quad) : (s.setQuad q x).links = s.links := rfl
@[simp] theorem State.setQuad_presenting (s : State) (q : Nat) (x : Quad) : (s.setQuad q x).presenting = s.presenting := rfl
@[simp] theorem State.setQuad_builds (s : State) (q : Nat) (x : Quad) : (s.setQuad q x).builds = s.builds := rfl
@[simp] theorem State.setQuad_sliceQ (s : State) (q : Nat) (x : Quad) : (s.setQuad q x).sliceQ = s.sliceQ := rfl
@[simp] theorem State.setQuad_qfences (s : State) (q : Nat) (x : Quad) : (s.setQuad q x).qfences = s.qfences := rfl
@[simp] theorem State.setQuad_deliveries (s : State) (q : Nat) (x : Quad) : (s.setQuad q x).deliveries = s.deliveries := rfl
@[simp] theorem State.setQuad_pt (s : State) (q : Nat) (x : Quad) : (s.setQuad q x).pt = s.pt := rfl
@[simp] theorem State.setQuad_host (s : State) (q : Nat) (x : Quad) : (s.setQuad q x).host = s.host := rfl
@[simp] theorem State.setQuad_peers (s : State) (q : Nat) (x : Quad) : (s.setQuad q x).peers = s.peers := rfl
@[simp] theorem State.setQuad_home (s : State) (q : Nat) (x : Quad) : (s.setQuad q x).home = s.home := rfl
@[simp] theorem State.setQuad_sram (s : State) (q : Nat) (x : Quad) : (s.setQuad q x).sram = s.sram := rfl
@[simp] theorem State.setQuad_stamps (s : State) (q : Nat) (x : Quad) : (s.setQuad q x).stamps = s.stamps := rfl
@[simp] theorem State.setQuad_sums (s : State) (q : Nat) (x : Quad) : (s.setQuad q x).sums = s.sums := rfl
@[simp] theorem State.setQuad_lines (s : State) (q : Nat) (x : Quad) : (s.setQuad q x).lines = s.lines := rfl
@[simp] theorem State.setQuad_copies (s : State) (q : Nat) (x : Quad) : (s.setQuad q x).copies = s.copies := rfl
@[simp] theorem State.setQuad_invals (s : State) (q : Nat) (x : Quad) : (s.setQuad q x).invals = s.invals := rfl
@[simp] theorem State.setQuad_portWrites (s : State) (q : Nat) (x : Quad) : (s.setQuad q x).portWrites = s.portWrites := rfl
@[simp] theorem State.setQuad_tlb (s : State) (q : Nat) (x : Quad) : (s.setQuad q x).tlb = s.tlb := rfl
@[simp] theorem State.setQuad_roots (s : State) (q : Nat) (x : Quad) : (s.setQuad q x).roots = s.roots := rfl
@[simp] theorem State.setQuad_bars (s : State) (q : Nat) (x : Quad) : (s.setQuad q x).bars = s.bars := rfl

@[simp] theorem State.setPart_free (s : State) (p : Nat) (x : Part) : (s.setPart p x).free = s.free := rfl
@[simp] theorem State.setPart_seq (s : State) (p : Nat) (x : Part) : (s.setPart p x).seq = s.seq := rfl
@[simp] theorem State.setPart_turns (s : State) (p : Nat) (x : Part) : (s.setPart p x).turns = s.turns := rfl
@[simp] theorem State.setPart_issue (s : State) (p : Nat) (x : Part) : (s.setPart p x).issue = s.issue := rfl
@[simp] theorem State.setPart_module (s : State) (p : Nat) (x : Part) : (s.setPart p x).module = s.module := rfl
@[simp] theorem State.setPart_parts (s : State) (p : Nat) (x : Part) : (s.setPart p x).parts = s.parts.put p x := rfl
@[simp] theorem State.setPart_cores (s : State) (p : Nat) (x : Part) : (s.setPart p x).cores = s.cores := rfl
@[simp] theorem State.setPart_quads (s : State) (p : Nat) (x : Part) : (s.setPart p x).quads = s.quads := rfl
@[simp] theorem State.setPart_launches (s : State) (p : Nat) (x : Part) : (s.setPart p x).launches = s.launches := rfl
@[simp] theorem State.setPart_blocks (s : State) (p : Nat) (x : Part) : (s.setPart p x).blocks = s.blocks := rfl
@[simp] theorem State.setPart_waves (s : State) (p : Nat) (x : Part) : (s.setPart p x).waves = s.waves := rfl
@[simp] theorem State.setPart_links (s : State) (p : Nat) (x : Part) : (s.setPart p x).links = s.links := rfl
@[simp] theorem State.setPart_presenting (s : State) (p : Nat) (x : Part) : (s.setPart p x).presenting = s.presenting := rfl
@[simp] theorem State.setPart_builds (s : State) (p : Nat) (x : Part) : (s.setPart p x).builds = s.builds := rfl
@[simp] theorem State.setPart_sliceQ (s : State) (p : Nat) (x : Part) : (s.setPart p x).sliceQ = s.sliceQ := rfl
@[simp] theorem State.setPart_qfences (s : State) (p : Nat) (x : Part) : (s.setPart p x).qfences = s.qfences := rfl
@[simp] theorem State.setPart_deliveries (s : State) (p : Nat) (x : Part) : (s.setPart p x).deliveries = s.deliveries := rfl
@[simp] theorem State.setPart_pt (s : State) (p : Nat) (x : Part) : (s.setPart p x).pt = s.pt := rfl
@[simp] theorem State.setPart_host (s : State) (p : Nat) (x : Part) : (s.setPart p x).host = s.host := rfl
@[simp] theorem State.setPart_peers (s : State) (p : Nat) (x : Part) : (s.setPart p x).peers = s.peers := rfl
@[simp] theorem State.setPart_home (s : State) (p : Nat) (x : Part) : (s.setPart p x).home = s.home := rfl
@[simp] theorem State.setPart_sram (s : State) (p : Nat) (x : Part) : (s.setPart p x).sram = s.sram := rfl
@[simp] theorem State.setPart_stamps (s : State) (p : Nat) (x : Part) : (s.setPart p x).stamps = s.stamps := rfl
@[simp] theorem State.setPart_sums (s : State) (p : Nat) (x : Part) : (s.setPart p x).sums = s.sums := rfl
@[simp] theorem State.setPart_lines (s : State) (p : Nat) (x : Part) : (s.setPart p x).lines = s.lines := rfl
@[simp] theorem State.setPart_copies (s : State) (p : Nat) (x : Part) : (s.setPart p x).copies = s.copies := rfl
@[simp] theorem State.setPart_invals (s : State) (p : Nat) (x : Part) : (s.setPart p x).invals = s.invals := rfl
@[simp] theorem State.setPart_portWrites (s : State) (p : Nat) (x : Part) : (s.setPart p x).portWrites = s.portWrites := rfl
@[simp] theorem State.setPart_tlb (s : State) (p : Nat) (x : Part) : (s.setPart p x).tlb = s.tlb := rfl
@[simp] theorem State.setPart_roots (s : State) (p : Nat) (x : Part) : (s.setPart p x).roots = s.roots := rfl
@[simp] theorem State.setPart_bars (s : State) (p : Nat) (x : Part) : (s.setPart p x).bars = s.bars := rfl

@[simp] theorem State.setLink_free (s : State) (l : Nat) (x : Link) : (s.setLink l x).free = s.free := rfl
@[simp] theorem State.setLink_seq (s : State) (l : Nat) (x : Link) : (s.setLink l x).seq = s.seq := rfl
@[simp] theorem State.setLink_turns (s : State) (l : Nat) (x : Link) : (s.setLink l x).turns = s.turns := rfl
@[simp] theorem State.setLink_issue (s : State) (l : Nat) (x : Link) : (s.setLink l x).issue = s.issue := rfl
@[simp] theorem State.setLink_module (s : State) (l : Nat) (x : Link) : (s.setLink l x).module = s.module := rfl
@[simp] theorem State.setLink_parts (s : State) (l : Nat) (x : Link) : (s.setLink l x).parts = s.parts := rfl
@[simp] theorem State.setLink_cores (s : State) (l : Nat) (x : Link) : (s.setLink l x).cores = s.cores := rfl
@[simp] theorem State.setLink_quads (s : State) (l : Nat) (x : Link) : (s.setLink l x).quads = s.quads := rfl
@[simp] theorem State.setLink_launches (s : State) (l : Nat) (x : Link) : (s.setLink l x).launches = s.launches := rfl
@[simp] theorem State.setLink_blocks (s : State) (l : Nat) (x : Link) : (s.setLink l x).blocks = s.blocks := rfl
@[simp] theorem State.setLink_waves (s : State) (l : Nat) (x : Link) : (s.setLink l x).waves = s.waves := rfl
@[simp] theorem State.setLink_links (s : State) (l : Nat) (x : Link) : (s.setLink l x).links = s.links.put l x := rfl
@[simp] theorem State.setLink_presenting (s : State) (l : Nat) (x : Link) : (s.setLink l x).presenting = s.presenting := rfl
@[simp] theorem State.setLink_builds (s : State) (l : Nat) (x : Link) : (s.setLink l x).builds = s.builds := rfl
@[simp] theorem State.setLink_sliceQ (s : State) (l : Nat) (x : Link) : (s.setLink l x).sliceQ = s.sliceQ := rfl
@[simp] theorem State.setLink_qfences (s : State) (l : Nat) (x : Link) : (s.setLink l x).qfences = s.qfences := rfl
@[simp] theorem State.setLink_deliveries (s : State) (l : Nat) (x : Link) : (s.setLink l x).deliveries = s.deliveries := rfl
@[simp] theorem State.setLink_pt (s : State) (l : Nat) (x : Link) : (s.setLink l x).pt = s.pt := rfl
@[simp] theorem State.setLink_host (s : State) (l : Nat) (x : Link) : (s.setLink l x).host = s.host := rfl
@[simp] theorem State.setLink_peers (s : State) (l : Nat) (x : Link) : (s.setLink l x).peers = s.peers := rfl
@[simp] theorem State.setLink_home (s : State) (l : Nat) (x : Link) : (s.setLink l x).home = s.home := rfl
@[simp] theorem State.setLink_sram (s : State) (l : Nat) (x : Link) : (s.setLink l x).sram = s.sram := rfl
@[simp] theorem State.setLink_stamps (s : State) (l : Nat) (x : Link) : (s.setLink l x).stamps = s.stamps := rfl
@[simp] theorem State.setLink_sums (s : State) (l : Nat) (x : Link) : (s.setLink l x).sums = s.sums := rfl
@[simp] theorem State.setLink_lines (s : State) (l : Nat) (x : Link) : (s.setLink l x).lines = s.lines := rfl
@[simp] theorem State.setLink_copies (s : State) (l : Nat) (x : Link) : (s.setLink l x).copies = s.copies := rfl
@[simp] theorem State.setLink_invals (s : State) (l : Nat) (x : Link) : (s.setLink l x).invals = s.invals := rfl
@[simp] theorem State.setLink_portWrites (s : State) (l : Nat) (x : Link) : (s.setLink l x).portWrites = s.portWrites := rfl
@[simp] theorem State.setLink_tlb (s : State) (l : Nat) (x : Link) : (s.setLink l x).tlb = s.tlb := rfl
@[simp] theorem State.setLink_roots (s : State) (l : Nat) (x : Link) : (s.setLink l x).roots = s.roots := rfl
@[simp] theorem State.setLink_bars (s : State) (l : Nat) (x : Link) : (s.setLink l x).bars = s.bars := rfl

@[simp] theorem State.setWave_free (s : State) (w : Nat) (x : Wave) : (s.setWave w x).free = s.free := rfl
@[simp] theorem State.setWave_seq (s : State) (w : Nat) (x : Wave) : (s.setWave w x).seq = s.seq := rfl
@[simp] theorem State.setWave_turns (s : State) (w : Nat) (x : Wave) : (s.setWave w x).turns = s.turns := rfl
@[simp] theorem State.setWave_issue (s : State) (w : Nat) (x : Wave) : (s.setWave w x).issue = s.issue := rfl
@[simp] theorem State.setWave_module (s : State) (w : Nat) (x : Wave) : (s.setWave w x).module = s.module := rfl
@[simp] theorem State.setWave_parts (s : State) (w : Nat) (x : Wave) : (s.setWave w x).parts = s.parts := rfl
@[simp] theorem State.setWave_cores (s : State) (w : Nat) (x : Wave) : (s.setWave w x).cores = s.cores := rfl
@[simp] theorem State.setWave_quads (s : State) (w : Nat) (x : Wave) : (s.setWave w x).quads = s.quads := rfl
@[simp] theorem State.setWave_launches (s : State) (w : Nat) (x : Wave) : (s.setWave w x).launches = s.launches := rfl
@[simp] theorem State.setWave_blocks (s : State) (w : Nat) (x : Wave) : (s.setWave w x).blocks = s.blocks := rfl
@[simp] theorem State.setWave_waves (s : State) (w : Nat) (x : Wave) : (s.setWave w x).waves = s.waves.put w x := rfl
@[simp] theorem State.setWave_links (s : State) (w : Nat) (x : Wave) : (s.setWave w x).links = s.links := rfl
@[simp] theorem State.setWave_presenting (s : State) (w : Nat) (x : Wave) : (s.setWave w x).presenting = s.presenting := rfl
@[simp] theorem State.setWave_builds (s : State) (w : Nat) (x : Wave) : (s.setWave w x).builds = s.builds := rfl
@[simp] theorem State.setWave_sliceQ (s : State) (w : Nat) (x : Wave) : (s.setWave w x).sliceQ = s.sliceQ := rfl
@[simp] theorem State.setWave_qfences (s : State) (w : Nat) (x : Wave) : (s.setWave w x).qfences = s.qfences := rfl
@[simp] theorem State.setWave_deliveries (s : State) (w : Nat) (x : Wave) : (s.setWave w x).deliveries = s.deliveries := rfl
@[simp] theorem State.setWave_pt (s : State) (w : Nat) (x : Wave) : (s.setWave w x).pt = s.pt := rfl
@[simp] theorem State.setWave_host (s : State) (w : Nat) (x : Wave) : (s.setWave w x).host = s.host := rfl
@[simp] theorem State.setWave_peers (s : State) (w : Nat) (x : Wave) : (s.setWave w x).peers = s.peers := rfl
@[simp] theorem State.setWave_home (s : State) (w : Nat) (x : Wave) : (s.setWave w x).home = s.home := rfl
@[simp] theorem State.setWave_sram (s : State) (w : Nat) (x : Wave) : (s.setWave w x).sram = s.sram := rfl
@[simp] theorem State.setWave_stamps (s : State) (w : Nat) (x : Wave) : (s.setWave w x).stamps = s.stamps := rfl
@[simp] theorem State.setWave_sums (s : State) (w : Nat) (x : Wave) : (s.setWave w x).sums = s.sums := rfl
@[simp] theorem State.setWave_lines (s : State) (w : Nat) (x : Wave) : (s.setWave w x).lines = s.lines := rfl
@[simp] theorem State.setWave_copies (s : State) (w : Nat) (x : Wave) : (s.setWave w x).copies = s.copies := rfl
@[simp] theorem State.setWave_invals (s : State) (w : Nat) (x : Wave) : (s.setWave w x).invals = s.invals := rfl
@[simp] theorem State.setWave_portWrites (s : State) (w : Nat) (x : Wave) : (s.setWave w x).portWrites = s.portWrites := rfl
@[simp] theorem State.setWave_tlb (s : State) (w : Nat) (x : Wave) : (s.setWave w x).tlb = s.tlb := rfl
@[simp] theorem State.setWave_roots (s : State) (w : Nat) (x : Wave) : (s.setWave w x).roots = s.roots := rfl
@[simp] theorem State.setWave_bars (s : State) (w : Nat) (x : Wave) : (s.setWave w x).bars = s.bars := rfl

@[simp] theorem State.setBlock_free (s : State) (b : Nat) (x : Block) : (s.setBlock b x).free = s.free := rfl
@[simp] theorem State.setBlock_seq (s : State) (b : Nat) (x : Block) : (s.setBlock b x).seq = s.seq := rfl
@[simp] theorem State.setBlock_turns (s : State) (b : Nat) (x : Block) : (s.setBlock b x).turns = s.turns := rfl
@[simp] theorem State.setBlock_issue (s : State) (b : Nat) (x : Block) : (s.setBlock b x).issue = s.issue := rfl
@[simp] theorem State.setBlock_module (s : State) (b : Nat) (x : Block) : (s.setBlock b x).module = s.module := rfl
@[simp] theorem State.setBlock_parts (s : State) (b : Nat) (x : Block) : (s.setBlock b x).parts = s.parts := rfl
@[simp] theorem State.setBlock_cores (s : State) (b : Nat) (x : Block) : (s.setBlock b x).cores = s.cores := rfl
@[simp] theorem State.setBlock_quads (s : State) (b : Nat) (x : Block) : (s.setBlock b x).quads = s.quads := rfl
@[simp] theorem State.setBlock_launches (s : State) (b : Nat) (x : Block) : (s.setBlock b x).launches = s.launches := rfl
@[simp] theorem State.setBlock_blocks (s : State) (b : Nat) (x : Block) : (s.setBlock b x).blocks = s.blocks.put b x := rfl
@[simp] theorem State.setBlock_waves (s : State) (b : Nat) (x : Block) : (s.setBlock b x).waves = s.waves := rfl
@[simp] theorem State.setBlock_links (s : State) (b : Nat) (x : Block) : (s.setBlock b x).links = s.links := rfl
@[simp] theorem State.setBlock_presenting (s : State) (b : Nat) (x : Block) : (s.setBlock b x).presenting = s.presenting := rfl
@[simp] theorem State.setBlock_builds (s : State) (b : Nat) (x : Block) : (s.setBlock b x).builds = s.builds := rfl
@[simp] theorem State.setBlock_sliceQ (s : State) (b : Nat) (x : Block) : (s.setBlock b x).sliceQ = s.sliceQ := rfl
@[simp] theorem State.setBlock_qfences (s : State) (b : Nat) (x : Block) : (s.setBlock b x).qfences = s.qfences := rfl
@[simp] theorem State.setBlock_deliveries (s : State) (b : Nat) (x : Block) : (s.setBlock b x).deliveries = s.deliveries := rfl
@[simp] theorem State.setBlock_pt (s : State) (b : Nat) (x : Block) : (s.setBlock b x).pt = s.pt := rfl
@[simp] theorem State.setBlock_host (s : State) (b : Nat) (x : Block) : (s.setBlock b x).host = s.host := rfl
@[simp] theorem State.setBlock_peers (s : State) (b : Nat) (x : Block) : (s.setBlock b x).peers = s.peers := rfl
@[simp] theorem State.setBlock_home (s : State) (b : Nat) (x : Block) : (s.setBlock b x).home = s.home := rfl
@[simp] theorem State.setBlock_sram (s : State) (b : Nat) (x : Block) : (s.setBlock b x).sram = s.sram := rfl
@[simp] theorem State.setBlock_stamps (s : State) (b : Nat) (x : Block) : (s.setBlock b x).stamps = s.stamps := rfl
@[simp] theorem State.setBlock_sums (s : State) (b : Nat) (x : Block) : (s.setBlock b x).sums = s.sums := rfl
@[simp] theorem State.setBlock_lines (s : State) (b : Nat) (x : Block) : (s.setBlock b x).lines = s.lines := rfl
@[simp] theorem State.setBlock_copies (s : State) (b : Nat) (x : Block) : (s.setBlock b x).copies = s.copies := rfl
@[simp] theorem State.setBlock_invals (s : State) (b : Nat) (x : Block) : (s.setBlock b x).invals = s.invals := rfl
@[simp] theorem State.setBlock_portWrites (s : State) (b : Nat) (x : Block) : (s.setBlock b x).portWrites = s.portWrites := rfl
@[simp] theorem State.setBlock_tlb (s : State) (b : Nat) (x : Block) : (s.setBlock b x).tlb = s.tlb := rfl
@[simp] theorem State.setBlock_roots (s : State) (b : Nat) (x : Block) : (s.setBlock b x).roots = s.roots := rfl
@[simp] theorem State.setBlock_bars (s : State) (b : Nat) (x : Block) : (s.setBlock b x).bars = s.bars := rfl

@[simp] theorem State.setLaunch_free (s : State) (l : Nat) (x : Launch) : (s.setLaunch l x).free = s.free := rfl
@[simp] theorem State.setLaunch_seq (s : State) (l : Nat) (x : Launch) : (s.setLaunch l x).seq = s.seq := rfl
@[simp] theorem State.setLaunch_turns (s : State) (l : Nat) (x : Launch) : (s.setLaunch l x).turns = s.turns := rfl
@[simp] theorem State.setLaunch_issue (s : State) (l : Nat) (x : Launch) : (s.setLaunch l x).issue = s.issue := rfl
@[simp] theorem State.setLaunch_module (s : State) (l : Nat) (x : Launch) : (s.setLaunch l x).module = s.module := rfl
@[simp] theorem State.setLaunch_parts (s : State) (l : Nat) (x : Launch) : (s.setLaunch l x).parts = s.parts := rfl
@[simp] theorem State.setLaunch_cores (s : State) (l : Nat) (x : Launch) : (s.setLaunch l x).cores = s.cores := rfl
@[simp] theorem State.setLaunch_quads (s : State) (l : Nat) (x : Launch) : (s.setLaunch l x).quads = s.quads := rfl
@[simp] theorem State.setLaunch_launches (s : State) (l : Nat) (x : Launch) : (s.setLaunch l x).launches = s.launches.put l x := rfl
@[simp] theorem State.setLaunch_blocks (s : State) (l : Nat) (x : Launch) : (s.setLaunch l x).blocks = s.blocks := rfl
@[simp] theorem State.setLaunch_waves (s : State) (l : Nat) (x : Launch) : (s.setLaunch l x).waves = s.waves := rfl
@[simp] theorem State.setLaunch_links (s : State) (l : Nat) (x : Launch) : (s.setLaunch l x).links = s.links := rfl
@[simp] theorem State.setLaunch_presenting (s : State) (l : Nat) (x : Launch) : (s.setLaunch l x).presenting = s.presenting := rfl
@[simp] theorem State.setLaunch_builds (s : State) (l : Nat) (x : Launch) : (s.setLaunch l x).builds = s.builds := rfl
@[simp] theorem State.setLaunch_sliceQ (s : State) (l : Nat) (x : Launch) : (s.setLaunch l x).sliceQ = s.sliceQ := rfl
@[simp] theorem State.setLaunch_qfences (s : State) (l : Nat) (x : Launch) : (s.setLaunch l x).qfences = s.qfences := rfl
@[simp] theorem State.setLaunch_deliveries (s : State) (l : Nat) (x : Launch) : (s.setLaunch l x).deliveries = s.deliveries := rfl
@[simp] theorem State.setLaunch_pt (s : State) (l : Nat) (x : Launch) : (s.setLaunch l x).pt = s.pt := rfl
@[simp] theorem State.setLaunch_host (s : State) (l : Nat) (x : Launch) : (s.setLaunch l x).host = s.host := rfl
@[simp] theorem State.setLaunch_peers (s : State) (l : Nat) (x : Launch) : (s.setLaunch l x).peers = s.peers := rfl
@[simp] theorem State.setLaunch_home (s : State) (l : Nat) (x : Launch) : (s.setLaunch l x).home = s.home := rfl
@[simp] theorem State.setLaunch_sram (s : State) (l : Nat) (x : Launch) : (s.setLaunch l x).sram = s.sram := rfl
@[simp] theorem State.setLaunch_stamps (s : State) (l : Nat) (x : Launch) : (s.setLaunch l x).stamps = s.stamps := rfl
@[simp] theorem State.setLaunch_sums (s : State) (l : Nat) (x : Launch) : (s.setLaunch l x).sums = s.sums := rfl
@[simp] theorem State.setLaunch_lines (s : State) (l : Nat) (x : Launch) : (s.setLaunch l x).lines = s.lines := rfl
@[simp] theorem State.setLaunch_copies (s : State) (l : Nat) (x : Launch) : (s.setLaunch l x).copies = s.copies := rfl
@[simp] theorem State.setLaunch_invals (s : State) (l : Nat) (x : Launch) : (s.setLaunch l x).invals = s.invals := rfl
@[simp] theorem State.setLaunch_portWrites (s : State) (l : Nat) (x : Launch) : (s.setLaunch l x).portWrites = s.portWrites := rfl
@[simp] theorem State.setLaunch_tlb (s : State) (l : Nat) (x : Launch) : (s.setLaunch l x).tlb = s.tlb := rfl
@[simp] theorem State.setLaunch_roots (s : State) (l : Nat) (x : Launch) : (s.setLaunch l x).roots = s.roots := rfl
@[simp] theorem State.setLaunch_bars (s : State) (l : Nat) (x : Launch) : (s.setLaunch l x).bars = s.bars := rfl

@[simp] theorem State.modCore_free (s : State) (c : Nat) (f : Core → Core) : (s.modCore c f).free = s.free := rfl
@[simp] theorem State.modCore_seq (s : State) (c : Nat) (f : Core → Core) : (s.modCore c f).seq = s.seq := rfl
@[simp] theorem State.modCore_turns (s : State) (c : Nat) (f : Core → Core) : (s.modCore c f).turns = s.turns := rfl
@[simp] theorem State.modCore_issue (s : State) (c : Nat) (f : Core → Core) : (s.modCore c f).issue = s.issue := rfl
@[simp] theorem State.modCore_module (s : State) (c : Nat) (f : Core → Core) : (s.modCore c f).module = s.module := rfl
@[simp] theorem State.modCore_parts (s : State) (c : Nat) (f : Core → Core) : (s.modCore c f).parts = s.parts := rfl
@[simp] theorem State.modCore_cores (s : State) (c : Nat) (f : Core → Core) : (s.modCore c f).cores = s.cores.put c (f (s.core c)) := rfl
@[simp] theorem State.modCore_quads (s : State) (c : Nat) (f : Core → Core) : (s.modCore c f).quads = s.quads := rfl
@[simp] theorem State.modCore_launches (s : State) (c : Nat) (f : Core → Core) : (s.modCore c f).launches = s.launches := rfl
@[simp] theorem State.modCore_blocks (s : State) (c : Nat) (f : Core → Core) : (s.modCore c f).blocks = s.blocks := rfl
@[simp] theorem State.modCore_waves (s : State) (c : Nat) (f : Core → Core) : (s.modCore c f).waves = s.waves := rfl
@[simp] theorem State.modCore_links (s : State) (c : Nat) (f : Core → Core) : (s.modCore c f).links = s.links := rfl
@[simp] theorem State.modCore_presenting (s : State) (c : Nat) (f : Core → Core) : (s.modCore c f).presenting = s.presenting := rfl
@[simp] theorem State.modCore_builds (s : State) (c : Nat) (f : Core → Core) : (s.modCore c f).builds = s.builds := rfl
@[simp] theorem State.modCore_sliceQ (s : State) (c : Nat) (f : Core → Core) : (s.modCore c f).sliceQ = s.sliceQ := rfl
@[simp] theorem State.modCore_qfences (s : State) (c : Nat) (f : Core → Core) : (s.modCore c f).qfences = s.qfences := rfl
@[simp] theorem State.modCore_deliveries (s : State) (c : Nat) (f : Core → Core) : (s.modCore c f).deliveries = s.deliveries := rfl
@[simp] theorem State.modCore_pt (s : State) (c : Nat) (f : Core → Core) : (s.modCore c f).pt = s.pt := rfl
@[simp] theorem State.modCore_host (s : State) (c : Nat) (f : Core → Core) : (s.modCore c f).host = s.host := rfl
@[simp] theorem State.modCore_peers (s : State) (c : Nat) (f : Core → Core) : (s.modCore c f).peers = s.peers := rfl
@[simp] theorem State.modCore_home (s : State) (c : Nat) (f : Core → Core) : (s.modCore c f).home = s.home := rfl
@[simp] theorem State.modCore_sram (s : State) (c : Nat) (f : Core → Core) : (s.modCore c f).sram = s.sram := rfl
@[simp] theorem State.modCore_stamps (s : State) (c : Nat) (f : Core → Core) : (s.modCore c f).stamps = s.stamps := rfl
@[simp] theorem State.modCore_sums (s : State) (c : Nat) (f : Core → Core) : (s.modCore c f).sums = s.sums := rfl
@[simp] theorem State.modCore_lines (s : State) (c : Nat) (f : Core → Core) : (s.modCore c f).lines = s.lines := rfl
@[simp] theorem State.modCore_copies (s : State) (c : Nat) (f : Core → Core) : (s.modCore c f).copies = s.copies := rfl
@[simp] theorem State.modCore_invals (s : State) (c : Nat) (f : Core → Core) : (s.modCore c f).invals = s.invals := rfl
@[simp] theorem State.modCore_portWrites (s : State) (c : Nat) (f : Core → Core) : (s.modCore c f).portWrites = s.portWrites := rfl
@[simp] theorem State.modCore_tlb (s : State) (c : Nat) (f : Core → Core) : (s.modCore c f).tlb = s.tlb := rfl
@[simp] theorem State.modCore_roots (s : State) (c : Nat) (f : Core → Core) : (s.modCore c f).roots = s.roots := rfl
@[simp] theorem State.modCore_bars (s : State) (c : Nat) (f : Core → Core) : (s.modCore c f).bars = s.bars := rfl

@[simp] theorem State.modQuad_free (s : State) (q : Nat) (f : Quad → Quad) : (s.modQuad q f).free = s.free := rfl
@[simp] theorem State.modQuad_seq (s : State) (q : Nat) (f : Quad → Quad) : (s.modQuad q f).seq = s.seq := rfl
@[simp] theorem State.modQuad_turns (s : State) (q : Nat) (f : Quad → Quad) : (s.modQuad q f).turns = s.turns := rfl
@[simp] theorem State.modQuad_issue (s : State) (q : Nat) (f : Quad → Quad) : (s.modQuad q f).issue = s.issue := rfl
@[simp] theorem State.modQuad_module (s : State) (q : Nat) (f : Quad → Quad) : (s.modQuad q f).module = s.module := rfl
@[simp] theorem State.modQuad_parts (s : State) (q : Nat) (f : Quad → Quad) : (s.modQuad q f).parts = s.parts := rfl
@[simp] theorem State.modQuad_cores (s : State) (q : Nat) (f : Quad → Quad) : (s.modQuad q f).cores = s.cores := rfl
@[simp] theorem State.modQuad_quads (s : State) (q : Nat) (f : Quad → Quad) : (s.modQuad q f).quads = s.quads.put q (f (s.quad q)) := rfl
@[simp] theorem State.modQuad_launches (s : State) (q : Nat) (f : Quad → Quad) : (s.modQuad q f).launches = s.launches := rfl
@[simp] theorem State.modQuad_blocks (s : State) (q : Nat) (f : Quad → Quad) : (s.modQuad q f).blocks = s.blocks := rfl
@[simp] theorem State.modQuad_waves (s : State) (q : Nat) (f : Quad → Quad) : (s.modQuad q f).waves = s.waves := rfl
@[simp] theorem State.modQuad_links (s : State) (q : Nat) (f : Quad → Quad) : (s.modQuad q f).links = s.links := rfl
@[simp] theorem State.modQuad_presenting (s : State) (q : Nat) (f : Quad → Quad) : (s.modQuad q f).presenting = s.presenting := rfl
@[simp] theorem State.modQuad_builds (s : State) (q : Nat) (f : Quad → Quad) : (s.modQuad q f).builds = s.builds := rfl
@[simp] theorem State.modQuad_sliceQ (s : State) (q : Nat) (f : Quad → Quad) : (s.modQuad q f).sliceQ = s.sliceQ := rfl
@[simp] theorem State.modQuad_qfences (s : State) (q : Nat) (f : Quad → Quad) : (s.modQuad q f).qfences = s.qfences := rfl
@[simp] theorem State.modQuad_deliveries (s : State) (q : Nat) (f : Quad → Quad) : (s.modQuad q f).deliveries = s.deliveries := rfl
@[simp] theorem State.modQuad_pt (s : State) (q : Nat) (f : Quad → Quad) : (s.modQuad q f).pt = s.pt := rfl
@[simp] theorem State.modQuad_host (s : State) (q : Nat) (f : Quad → Quad) : (s.modQuad q f).host = s.host := rfl
@[simp] theorem State.modQuad_peers (s : State) (q : Nat) (f : Quad → Quad) : (s.modQuad q f).peers = s.peers := rfl
@[simp] theorem State.modQuad_home (s : State) (q : Nat) (f : Quad → Quad) : (s.modQuad q f).home = s.home := rfl
@[simp] theorem State.modQuad_sram (s : State) (q : Nat) (f : Quad → Quad) : (s.modQuad q f).sram = s.sram := rfl
@[simp] theorem State.modQuad_stamps (s : State) (q : Nat) (f : Quad → Quad) : (s.modQuad q f).stamps = s.stamps := rfl
@[simp] theorem State.modQuad_sums (s : State) (q : Nat) (f : Quad → Quad) : (s.modQuad q f).sums = s.sums := rfl
@[simp] theorem State.modQuad_lines (s : State) (q : Nat) (f : Quad → Quad) : (s.modQuad q f).lines = s.lines := rfl
@[simp] theorem State.modQuad_copies (s : State) (q : Nat) (f : Quad → Quad) : (s.modQuad q f).copies = s.copies := rfl
@[simp] theorem State.modQuad_invals (s : State) (q : Nat) (f : Quad → Quad) : (s.modQuad q f).invals = s.invals := rfl
@[simp] theorem State.modQuad_portWrites (s : State) (q : Nat) (f : Quad → Quad) : (s.modQuad q f).portWrites = s.portWrites := rfl
@[simp] theorem State.modQuad_tlb (s : State) (q : Nat) (f : Quad → Quad) : (s.modQuad q f).tlb = s.tlb := rfl
@[simp] theorem State.modQuad_roots (s : State) (q : Nat) (f : Quad → Quad) : (s.modQuad q f).roots = s.roots := rfl
@[simp] theorem State.modQuad_bars (s : State) (q : Nat) (f : Quad → Quad) : (s.modQuad q f).bars = s.bars := rfl

@[simp] theorem State.modPart_free (s : State) (p : Nat) (f : Part → Part) : (s.modPart p f).free = s.free := rfl
@[simp] theorem State.modPart_seq (s : State) (p : Nat) (f : Part → Part) : (s.modPart p f).seq = s.seq := rfl
@[simp] theorem State.modPart_turns (s : State) (p : Nat) (f : Part → Part) : (s.modPart p f).turns = s.turns := rfl
@[simp] theorem State.modPart_issue (s : State) (p : Nat) (f : Part → Part) : (s.modPart p f).issue = s.issue := rfl
@[simp] theorem State.modPart_module (s : State) (p : Nat) (f : Part → Part) : (s.modPart p f).module = s.module := rfl
@[simp] theorem State.modPart_parts (s : State) (p : Nat) (f : Part → Part) : (s.modPart p f).parts = s.parts.put p (f (s.part p)) := rfl
@[simp] theorem State.modPart_cores (s : State) (p : Nat) (f : Part → Part) : (s.modPart p f).cores = s.cores := rfl
@[simp] theorem State.modPart_quads (s : State) (p : Nat) (f : Part → Part) : (s.modPart p f).quads = s.quads := rfl
@[simp] theorem State.modPart_launches (s : State) (p : Nat) (f : Part → Part) : (s.modPart p f).launches = s.launches := rfl
@[simp] theorem State.modPart_blocks (s : State) (p : Nat) (f : Part → Part) : (s.modPart p f).blocks = s.blocks := rfl
@[simp] theorem State.modPart_waves (s : State) (p : Nat) (f : Part → Part) : (s.modPart p f).waves = s.waves := rfl
@[simp] theorem State.modPart_links (s : State) (p : Nat) (f : Part → Part) : (s.modPart p f).links = s.links := rfl
@[simp] theorem State.modPart_presenting (s : State) (p : Nat) (f : Part → Part) : (s.modPart p f).presenting = s.presenting := rfl
@[simp] theorem State.modPart_builds (s : State) (p : Nat) (f : Part → Part) : (s.modPart p f).builds = s.builds := rfl
@[simp] theorem State.modPart_sliceQ (s : State) (p : Nat) (f : Part → Part) : (s.modPart p f).sliceQ = s.sliceQ := rfl
@[simp] theorem State.modPart_qfences (s : State) (p : Nat) (f : Part → Part) : (s.modPart p f).qfences = s.qfences := rfl
@[simp] theorem State.modPart_deliveries (s : State) (p : Nat) (f : Part → Part) : (s.modPart p f).deliveries = s.deliveries := rfl
@[simp] theorem State.modPart_pt (s : State) (p : Nat) (f : Part → Part) : (s.modPart p f).pt = s.pt := rfl
@[simp] theorem State.modPart_host (s : State) (p : Nat) (f : Part → Part) : (s.modPart p f).host = s.host := rfl
@[simp] theorem State.modPart_peers (s : State) (p : Nat) (f : Part → Part) : (s.modPart p f).peers = s.peers := rfl
@[simp] theorem State.modPart_home (s : State) (p : Nat) (f : Part → Part) : (s.modPart p f).home = s.home := rfl
@[simp] theorem State.modPart_sram (s : State) (p : Nat) (f : Part → Part) : (s.modPart p f).sram = s.sram := rfl
@[simp] theorem State.modPart_stamps (s : State) (p : Nat) (f : Part → Part) : (s.modPart p f).stamps = s.stamps := rfl
@[simp] theorem State.modPart_sums (s : State) (p : Nat) (f : Part → Part) : (s.modPart p f).sums = s.sums := rfl
@[simp] theorem State.modPart_lines (s : State) (p : Nat) (f : Part → Part) : (s.modPart p f).lines = s.lines := rfl
@[simp] theorem State.modPart_copies (s : State) (p : Nat) (f : Part → Part) : (s.modPart p f).copies = s.copies := rfl
@[simp] theorem State.modPart_invals (s : State) (p : Nat) (f : Part → Part) : (s.modPart p f).invals = s.invals := rfl
@[simp] theorem State.modPart_portWrites (s : State) (p : Nat) (f : Part → Part) : (s.modPart p f).portWrites = s.portWrites := rfl
@[simp] theorem State.modPart_tlb (s : State) (p : Nat) (f : Part → Part) : (s.modPart p f).tlb = s.tlb := rfl
@[simp] theorem State.modPart_roots (s : State) (p : Nat) (f : Part → Part) : (s.modPart p f).roots = s.roots := rfl
@[simp] theorem State.modPart_bars (s : State) (p : Nat) (f : Part → Part) : (s.modPart p f).bars = s.bars := rfl

@[simp] theorem State.modLink_free (s : State) (l : Nat) (f : Link → Link) : (s.modLink l f).free = s.free := rfl
@[simp] theorem State.modLink_seq (s : State) (l : Nat) (f : Link → Link) : (s.modLink l f).seq = s.seq := rfl
@[simp] theorem State.modLink_turns (s : State) (l : Nat) (f : Link → Link) : (s.modLink l f).turns = s.turns := rfl
@[simp] theorem State.modLink_issue (s : State) (l : Nat) (f : Link → Link) : (s.modLink l f).issue = s.issue := rfl
@[simp] theorem State.modLink_module (s : State) (l : Nat) (f : Link → Link) : (s.modLink l f).module = s.module := rfl
@[simp] theorem State.modLink_parts (s : State) (l : Nat) (f : Link → Link) : (s.modLink l f).parts = s.parts := rfl
@[simp] theorem State.modLink_cores (s : State) (l : Nat) (f : Link → Link) : (s.modLink l f).cores = s.cores := rfl
@[simp] theorem State.modLink_quads (s : State) (l : Nat) (f : Link → Link) : (s.modLink l f).quads = s.quads := rfl
@[simp] theorem State.modLink_launches (s : State) (l : Nat) (f : Link → Link) : (s.modLink l f).launches = s.launches := rfl
@[simp] theorem State.modLink_blocks (s : State) (l : Nat) (f : Link → Link) : (s.modLink l f).blocks = s.blocks := rfl
@[simp] theorem State.modLink_waves (s : State) (l : Nat) (f : Link → Link) : (s.modLink l f).waves = s.waves := rfl
@[simp] theorem State.modLink_links (s : State) (l : Nat) (f : Link → Link) : (s.modLink l f).links = s.links.put l (f (s.link l)) := rfl
@[simp] theorem State.modLink_presenting (s : State) (l : Nat) (f : Link → Link) : (s.modLink l f).presenting = s.presenting := rfl
@[simp] theorem State.modLink_builds (s : State) (l : Nat) (f : Link → Link) : (s.modLink l f).builds = s.builds := rfl
@[simp] theorem State.modLink_sliceQ (s : State) (l : Nat) (f : Link → Link) : (s.modLink l f).sliceQ = s.sliceQ := rfl
@[simp] theorem State.modLink_qfences (s : State) (l : Nat) (f : Link → Link) : (s.modLink l f).qfences = s.qfences := rfl
@[simp] theorem State.modLink_deliveries (s : State) (l : Nat) (f : Link → Link) : (s.modLink l f).deliveries = s.deliveries := rfl
@[simp] theorem State.modLink_pt (s : State) (l : Nat) (f : Link → Link) : (s.modLink l f).pt = s.pt := rfl
@[simp] theorem State.modLink_host (s : State) (l : Nat) (f : Link → Link) : (s.modLink l f).host = s.host := rfl
@[simp] theorem State.modLink_peers (s : State) (l : Nat) (f : Link → Link) : (s.modLink l f).peers = s.peers := rfl
@[simp] theorem State.modLink_home (s : State) (l : Nat) (f : Link → Link) : (s.modLink l f).home = s.home := rfl
@[simp] theorem State.modLink_sram (s : State) (l : Nat) (f : Link → Link) : (s.modLink l f).sram = s.sram := rfl
@[simp] theorem State.modLink_stamps (s : State) (l : Nat) (f : Link → Link) : (s.modLink l f).stamps = s.stamps := rfl
@[simp] theorem State.modLink_sums (s : State) (l : Nat) (f : Link → Link) : (s.modLink l f).sums = s.sums := rfl
@[simp] theorem State.modLink_lines (s : State) (l : Nat) (f : Link → Link) : (s.modLink l f).lines = s.lines := rfl
@[simp] theorem State.modLink_copies (s : State) (l : Nat) (f : Link → Link) : (s.modLink l f).copies = s.copies := rfl
@[simp] theorem State.modLink_invals (s : State) (l : Nat) (f : Link → Link) : (s.modLink l f).invals = s.invals := rfl
@[simp] theorem State.modLink_portWrites (s : State) (l : Nat) (f : Link → Link) : (s.modLink l f).portWrites = s.portWrites := rfl
@[simp] theorem State.modLink_tlb (s : State) (l : Nat) (f : Link → Link) : (s.modLink l f).tlb = s.tlb := rfl
@[simp] theorem State.modLink_roots (s : State) (l : Nat) (f : Link → Link) : (s.modLink l f).roots = s.roots := rfl
@[simp] theorem State.modLink_bars (s : State) (l : Nat) (f : Link → Link) : (s.modLink l f).bars = s.bars := rfl

@[simp] theorem State.modWave_free (s : State) (w : Nat) (f : Wave → Wave) : (s.modWave w f).free = s.free := rfl
@[simp] theorem State.modWave_seq (s : State) (w : Nat) (f : Wave → Wave) : (s.modWave w f).seq = s.seq := rfl
@[simp] theorem State.modWave_turns (s : State) (w : Nat) (f : Wave → Wave) : (s.modWave w f).turns = s.turns := rfl
@[simp] theorem State.modWave_issue (s : State) (w : Nat) (f : Wave → Wave) : (s.modWave w f).issue = s.issue := rfl
@[simp] theorem State.modWave_module (s : State) (w : Nat) (f : Wave → Wave) : (s.modWave w f).module = s.module := rfl
@[simp] theorem State.modWave_parts (s : State) (w : Nat) (f : Wave → Wave) : (s.modWave w f).parts = s.parts := rfl
@[simp] theorem State.modWave_cores (s : State) (w : Nat) (f : Wave → Wave) : (s.modWave w f).cores = s.cores := rfl
@[simp] theorem State.modWave_quads (s : State) (w : Nat) (f : Wave → Wave) : (s.modWave w f).quads = s.quads := rfl
@[simp] theorem State.modWave_launches (s : State) (w : Nat) (f : Wave → Wave) : (s.modWave w f).launches = s.launches := rfl
@[simp] theorem State.modWave_blocks (s : State) (w : Nat) (f : Wave → Wave) : (s.modWave w f).blocks = s.blocks := rfl
@[simp] theorem State.modWave_waves (s : State) (w : Nat) (f : Wave → Wave) : (s.modWave w f).waves = s.waves.modify w f := rfl
@[simp] theorem State.modWave_links (s : State) (w : Nat) (f : Wave → Wave) : (s.modWave w f).links = s.links := rfl
@[simp] theorem State.modWave_presenting (s : State) (w : Nat) (f : Wave → Wave) : (s.modWave w f).presenting = s.presenting := rfl
@[simp] theorem State.modWave_builds (s : State) (w : Nat) (f : Wave → Wave) : (s.modWave w f).builds = s.builds := rfl
@[simp] theorem State.modWave_sliceQ (s : State) (w : Nat) (f : Wave → Wave) : (s.modWave w f).sliceQ = s.sliceQ := rfl
@[simp] theorem State.modWave_qfences (s : State) (w : Nat) (f : Wave → Wave) : (s.modWave w f).qfences = s.qfences := rfl
@[simp] theorem State.modWave_deliveries (s : State) (w : Nat) (f : Wave → Wave) : (s.modWave w f).deliveries = s.deliveries := rfl
@[simp] theorem State.modWave_pt (s : State) (w : Nat) (f : Wave → Wave) : (s.modWave w f).pt = s.pt := rfl
@[simp] theorem State.modWave_host (s : State) (w : Nat) (f : Wave → Wave) : (s.modWave w f).host = s.host := rfl
@[simp] theorem State.modWave_peers (s : State) (w : Nat) (f : Wave → Wave) : (s.modWave w f).peers = s.peers := rfl
@[simp] theorem State.modWave_home (s : State) (w : Nat) (f : Wave → Wave) : (s.modWave w f).home = s.home := rfl
@[simp] theorem State.modWave_sram (s : State) (w : Nat) (f : Wave → Wave) : (s.modWave w f).sram = s.sram := rfl
@[simp] theorem State.modWave_stamps (s : State) (w : Nat) (f : Wave → Wave) : (s.modWave w f).stamps = s.stamps := rfl
@[simp] theorem State.modWave_sums (s : State) (w : Nat) (f : Wave → Wave) : (s.modWave w f).sums = s.sums := rfl
@[simp] theorem State.modWave_lines (s : State) (w : Nat) (f : Wave → Wave) : (s.modWave w f).lines = s.lines := rfl
@[simp] theorem State.modWave_copies (s : State) (w : Nat) (f : Wave → Wave) : (s.modWave w f).copies = s.copies := rfl
@[simp] theorem State.modWave_invals (s : State) (w : Nat) (f : Wave → Wave) : (s.modWave w f).invals = s.invals := rfl
@[simp] theorem State.modWave_portWrites (s : State) (w : Nat) (f : Wave → Wave) : (s.modWave w f).portWrites = s.portWrites := rfl
@[simp] theorem State.modWave_tlb (s : State) (w : Nat) (f : Wave → Wave) : (s.modWave w f).tlb = s.tlb := rfl
@[simp] theorem State.modWave_roots (s : State) (w : Nat) (f : Wave → Wave) : (s.modWave w f).roots = s.roots := rfl
@[simp] theorem State.modWave_bars (s : State) (w : Nat) (f : Wave → Wave) : (s.modWave w f).bars = s.bars := rfl

@[simp] theorem State.modBlock_free (s : State) (b : Nat) (f : Block → Block) : (s.modBlock b f).free = s.free := rfl
@[simp] theorem State.modBlock_seq (s : State) (b : Nat) (f : Block → Block) : (s.modBlock b f).seq = s.seq := rfl
@[simp] theorem State.modBlock_turns (s : State) (b : Nat) (f : Block → Block) : (s.modBlock b f).turns = s.turns := rfl
@[simp] theorem State.modBlock_issue (s : State) (b : Nat) (f : Block → Block) : (s.modBlock b f).issue = s.issue := rfl
@[simp] theorem State.modBlock_module (s : State) (b : Nat) (f : Block → Block) : (s.modBlock b f).module = s.module := rfl
@[simp] theorem State.modBlock_parts (s : State) (b : Nat) (f : Block → Block) : (s.modBlock b f).parts = s.parts := rfl
@[simp] theorem State.modBlock_cores (s : State) (b : Nat) (f : Block → Block) : (s.modBlock b f).cores = s.cores := rfl
@[simp] theorem State.modBlock_quads (s : State) (b : Nat) (f : Block → Block) : (s.modBlock b f).quads = s.quads := rfl
@[simp] theorem State.modBlock_launches (s : State) (b : Nat) (f : Block → Block) : (s.modBlock b f).launches = s.launches := rfl
@[simp] theorem State.modBlock_blocks (s : State) (b : Nat) (f : Block → Block) : (s.modBlock b f).blocks = s.blocks.modify b f := rfl
@[simp] theorem State.modBlock_waves (s : State) (b : Nat) (f : Block → Block) : (s.modBlock b f).waves = s.waves := rfl
@[simp] theorem State.modBlock_links (s : State) (b : Nat) (f : Block → Block) : (s.modBlock b f).links = s.links := rfl
@[simp] theorem State.modBlock_presenting (s : State) (b : Nat) (f : Block → Block) : (s.modBlock b f).presenting = s.presenting := rfl
@[simp] theorem State.modBlock_builds (s : State) (b : Nat) (f : Block → Block) : (s.modBlock b f).builds = s.builds := rfl
@[simp] theorem State.modBlock_sliceQ (s : State) (b : Nat) (f : Block → Block) : (s.modBlock b f).sliceQ = s.sliceQ := rfl
@[simp] theorem State.modBlock_qfences (s : State) (b : Nat) (f : Block → Block) : (s.modBlock b f).qfences = s.qfences := rfl
@[simp] theorem State.modBlock_deliveries (s : State) (b : Nat) (f : Block → Block) : (s.modBlock b f).deliveries = s.deliveries := rfl
@[simp] theorem State.modBlock_pt (s : State) (b : Nat) (f : Block → Block) : (s.modBlock b f).pt = s.pt := rfl
@[simp] theorem State.modBlock_host (s : State) (b : Nat) (f : Block → Block) : (s.modBlock b f).host = s.host := rfl
@[simp] theorem State.modBlock_peers (s : State) (b : Nat) (f : Block → Block) : (s.modBlock b f).peers = s.peers := rfl
@[simp] theorem State.modBlock_home (s : State) (b : Nat) (f : Block → Block) : (s.modBlock b f).home = s.home := rfl
@[simp] theorem State.modBlock_sram (s : State) (b : Nat) (f : Block → Block) : (s.modBlock b f).sram = s.sram := rfl
@[simp] theorem State.modBlock_stamps (s : State) (b : Nat) (f : Block → Block) : (s.modBlock b f).stamps = s.stamps := rfl
@[simp] theorem State.modBlock_sums (s : State) (b : Nat) (f : Block → Block) : (s.modBlock b f).sums = s.sums := rfl
@[simp] theorem State.modBlock_lines (s : State) (b : Nat) (f : Block → Block) : (s.modBlock b f).lines = s.lines := rfl
@[simp] theorem State.modBlock_copies (s : State) (b : Nat) (f : Block → Block) : (s.modBlock b f).copies = s.copies := rfl
@[simp] theorem State.modBlock_invals (s : State) (b : Nat) (f : Block → Block) : (s.modBlock b f).invals = s.invals := rfl
@[simp] theorem State.modBlock_portWrites (s : State) (b : Nat) (f : Block → Block) : (s.modBlock b f).portWrites = s.portWrites := rfl
@[simp] theorem State.modBlock_tlb (s : State) (b : Nat) (f : Block → Block) : (s.modBlock b f).tlb = s.tlb := rfl
@[simp] theorem State.modBlock_roots (s : State) (b : Nat) (f : Block → Block) : (s.modBlock b f).roots = s.roots := rfl
@[simp] theorem State.modBlock_bars (s : State) (b : Nat) (f : Block → Block) : (s.modBlock b f).bars = s.bars := rfl

@[simp] theorem State.modLaunch_free (s : State) (l : Nat) (f : Launch → Launch) : (s.modLaunch l f).free = s.free := rfl
@[simp] theorem State.modLaunch_seq (s : State) (l : Nat) (f : Launch → Launch) : (s.modLaunch l f).seq = s.seq := rfl
@[simp] theorem State.modLaunch_turns (s : State) (l : Nat) (f : Launch → Launch) : (s.modLaunch l f).turns = s.turns := rfl
@[simp] theorem State.modLaunch_issue (s : State) (l : Nat) (f : Launch → Launch) : (s.modLaunch l f).issue = s.issue := rfl
@[simp] theorem State.modLaunch_module (s : State) (l : Nat) (f : Launch → Launch) : (s.modLaunch l f).module = s.module := rfl
@[simp] theorem State.modLaunch_parts (s : State) (l : Nat) (f : Launch → Launch) : (s.modLaunch l f).parts = s.parts := rfl
@[simp] theorem State.modLaunch_cores (s : State) (l : Nat) (f : Launch → Launch) : (s.modLaunch l f).cores = s.cores := rfl
@[simp] theorem State.modLaunch_quads (s : State) (l : Nat) (f : Launch → Launch) : (s.modLaunch l f).quads = s.quads := rfl
@[simp] theorem State.modLaunch_launches (s : State) (l : Nat) (f : Launch → Launch) : (s.modLaunch l f).launches = s.launches.modify l f := rfl
@[simp] theorem State.modLaunch_blocks (s : State) (l : Nat) (f : Launch → Launch) : (s.modLaunch l f).blocks = s.blocks := rfl
@[simp] theorem State.modLaunch_waves (s : State) (l : Nat) (f : Launch → Launch) : (s.modLaunch l f).waves = s.waves := rfl
@[simp] theorem State.modLaunch_links (s : State) (l : Nat) (f : Launch → Launch) : (s.modLaunch l f).links = s.links := rfl
@[simp] theorem State.modLaunch_presenting (s : State) (l : Nat) (f : Launch → Launch) : (s.modLaunch l f).presenting = s.presenting := rfl
@[simp] theorem State.modLaunch_builds (s : State) (l : Nat) (f : Launch → Launch) : (s.modLaunch l f).builds = s.builds := rfl
@[simp] theorem State.modLaunch_sliceQ (s : State) (l : Nat) (f : Launch → Launch) : (s.modLaunch l f).sliceQ = s.sliceQ := rfl
@[simp] theorem State.modLaunch_qfences (s : State) (l : Nat) (f : Launch → Launch) : (s.modLaunch l f).qfences = s.qfences := rfl
@[simp] theorem State.modLaunch_deliveries (s : State) (l : Nat) (f : Launch → Launch) : (s.modLaunch l f).deliveries = s.deliveries := rfl
@[simp] theorem State.modLaunch_pt (s : State) (l : Nat) (f : Launch → Launch) : (s.modLaunch l f).pt = s.pt := rfl
@[simp] theorem State.modLaunch_host (s : State) (l : Nat) (f : Launch → Launch) : (s.modLaunch l f).host = s.host := rfl
@[simp] theorem State.modLaunch_peers (s : State) (l : Nat) (f : Launch → Launch) : (s.modLaunch l f).peers = s.peers := rfl
@[simp] theorem State.modLaunch_home (s : State) (l : Nat) (f : Launch → Launch) : (s.modLaunch l f).home = s.home := rfl
@[simp] theorem State.modLaunch_sram (s : State) (l : Nat) (f : Launch → Launch) : (s.modLaunch l f).sram = s.sram := rfl
@[simp] theorem State.modLaunch_stamps (s : State) (l : Nat) (f : Launch → Launch) : (s.modLaunch l f).stamps = s.stamps := rfl
@[simp] theorem State.modLaunch_sums (s : State) (l : Nat) (f : Launch → Launch) : (s.modLaunch l f).sums = s.sums := rfl
@[simp] theorem State.modLaunch_lines (s : State) (l : Nat) (f : Launch → Launch) : (s.modLaunch l f).lines = s.lines := rfl
@[simp] theorem State.modLaunch_copies (s : State) (l : Nat) (f : Launch → Launch) : (s.modLaunch l f).copies = s.copies := rfl
@[simp] theorem State.modLaunch_invals (s : State) (l : Nat) (f : Launch → Launch) : (s.modLaunch l f).invals = s.invals := rfl
@[simp] theorem State.modLaunch_portWrites (s : State) (l : Nat) (f : Launch → Launch) : (s.modLaunch l f).portWrites = s.portWrites := rfl
@[simp] theorem State.modLaunch_tlb (s : State) (l : Nat) (f : Launch → Launch) : (s.modLaunch l f).tlb = s.tlb := rfl
@[simp] theorem State.modLaunch_roots (s : State) (l : Nat) (f : Launch → Launch) : (s.modLaunch l f).roots = s.roots := rfl
@[simp] theorem State.modLaunch_bars (s : State) (l : Nat) (f : Launch → Launch) : (s.modLaunch l f).bars = s.bars := rfl

@[simp] theorem State.modSplit_free (s : State) (w k : Nat) (f : Split → Split) : (s.modSplit w k f).free = s.free := rfl
@[simp] theorem State.modSplit_seq (s : State) (w k : Nat) (f : Split → Split) : (s.modSplit w k f).seq = s.seq := rfl
@[simp] theorem State.modSplit_turns (s : State) (w k : Nat) (f : Split → Split) : (s.modSplit w k f).turns = s.turns := rfl
@[simp] theorem State.modSplit_issue (s : State) (w k : Nat) (f : Split → Split) : (s.modSplit w k f).issue = s.issue := rfl
@[simp] theorem State.modSplit_module (s : State) (w k : Nat) (f : Split → Split) : (s.modSplit w k f).module = s.module := rfl
@[simp] theorem State.modSplit_parts (s : State) (w k : Nat) (f : Split → Split) : (s.modSplit w k f).parts = s.parts := rfl
@[simp] theorem State.modSplit_cores (s : State) (w k : Nat) (f : Split → Split) : (s.modSplit w k f).cores = s.cores := rfl
@[simp] theorem State.modSplit_quads (s : State) (w k : Nat) (f : Split → Split) : (s.modSplit w k f).quads = s.quads := rfl
@[simp] theorem State.modSplit_launches (s : State) (w k : Nat) (f : Split → Split) : (s.modSplit w k f).launches = s.launches := rfl
@[simp] theorem State.modSplit_blocks (s : State) (w k : Nat) (f : Split → Split) : (s.modSplit w k f).blocks = s.blocks := rfl
@[simp] theorem State.modSplit_waves (s : State) (w k : Nat) (f : Split → Split) : (s.modSplit w k f).waves = s.waves.modify w fun x => x.modSplit k f := rfl
@[simp] theorem State.modSplit_links (s : State) (w k : Nat) (f : Split → Split) : (s.modSplit w k f).links = s.links := rfl
@[simp] theorem State.modSplit_presenting (s : State) (w k : Nat) (f : Split → Split) : (s.modSplit w k f).presenting = s.presenting := rfl
@[simp] theorem State.modSplit_builds (s : State) (w k : Nat) (f : Split → Split) : (s.modSplit w k f).builds = s.builds := rfl
@[simp] theorem State.modSplit_sliceQ (s : State) (w k : Nat) (f : Split → Split) : (s.modSplit w k f).sliceQ = s.sliceQ := rfl
@[simp] theorem State.modSplit_qfences (s : State) (w k : Nat) (f : Split → Split) : (s.modSplit w k f).qfences = s.qfences := rfl
@[simp] theorem State.modSplit_deliveries (s : State) (w k : Nat) (f : Split → Split) : (s.modSplit w k f).deliveries = s.deliveries := rfl
@[simp] theorem State.modSplit_pt (s : State) (w k : Nat) (f : Split → Split) : (s.modSplit w k f).pt = s.pt := rfl
@[simp] theorem State.modSplit_host (s : State) (w k : Nat) (f : Split → Split) : (s.modSplit w k f).host = s.host := rfl
@[simp] theorem State.modSplit_peers (s : State) (w k : Nat) (f : Split → Split) : (s.modSplit w k f).peers = s.peers := rfl
@[simp] theorem State.modSplit_home (s : State) (w k : Nat) (f : Split → Split) : (s.modSplit w k f).home = s.home := rfl
@[simp] theorem State.modSplit_sram (s : State) (w k : Nat) (f : Split → Split) : (s.modSplit w k f).sram = s.sram := rfl
@[simp] theorem State.modSplit_stamps (s : State) (w k : Nat) (f : Split → Split) : (s.modSplit w k f).stamps = s.stamps := rfl
@[simp] theorem State.modSplit_sums (s : State) (w k : Nat) (f : Split → Split) : (s.modSplit w k f).sums = s.sums := rfl
@[simp] theorem State.modSplit_lines (s : State) (w k : Nat) (f : Split → Split) : (s.modSplit w k f).lines = s.lines := rfl
@[simp] theorem State.modSplit_copies (s : State) (w k : Nat) (f : Split → Split) : (s.modSplit w k f).copies = s.copies := rfl
@[simp] theorem State.modSplit_invals (s : State) (w k : Nat) (f : Split → Split) : (s.modSplit w k f).invals = s.invals := rfl
@[simp] theorem State.modSplit_portWrites (s : State) (w k : Nat) (f : Split → Split) : (s.modSplit w k f).portWrites = s.portWrites := rfl
@[simp] theorem State.modSplit_tlb (s : State) (w k : Nat) (f : Split → Split) : (s.modSplit w k f).tlb = s.tlb := rfl
@[simp] theorem State.modSplit_roots (s : State) (w k : Nat) (f : Split → Split) : (s.modSplit w k f).roots = s.roots := rfl
@[simp] theorem State.modSplit_bars (s : State) (w k : Nat) (f : Split → Split) : (s.modSplit w k f).bars = s.bars := rfl

@[simp] theorem State.goOn_free (s : State) (c : Ctx) (pc : Nat) (b : Bool) : (s.goOn c pc b).free = s.free := rfl
@[simp] theorem State.goOn_seq (s : State) (c : Ctx) (pc : Nat) (b : Bool) : (s.goOn c pc b).seq = s.seq := rfl
@[simp] theorem State.goOn_turns (s : State) (c : Ctx) (pc : Nat) (b : Bool) : (s.goOn c pc b).turns = s.turns := rfl
@[simp] theorem State.goOn_issue (s : State) (c : Ctx) (pc : Nat) (b : Bool) : (s.goOn c pc b).issue = s.issue := rfl
@[simp] theorem State.goOn_module (s : State) (c : Ctx) (pc : Nat) (b : Bool) : (s.goOn c pc b).module = s.module := rfl
@[simp] theorem State.goOn_parts (s : State) (c : Ctx) (pc : Nat) (b : Bool) : (s.goOn c pc b).parts = s.parts := rfl
@[simp] theorem State.goOn_cores (s : State) (c : Ctx) (pc : Nat) (b : Bool) : (s.goOn c pc b).cores = s.cores := rfl
@[simp] theorem State.goOn_quads (s : State) (c : Ctx) (pc : Nat) (b : Bool) : (s.goOn c pc b).quads = s.quads := rfl
@[simp] theorem State.goOn_launches (s : State) (c : Ctx) (pc : Nat) (b : Bool) : (s.goOn c pc b).launches = s.launches := rfl
@[simp] theorem State.goOn_blocks (s : State) (c : Ctx) (pc : Nat) (b : Bool) : (s.goOn c pc b).blocks = s.blocks := rfl
@[simp] theorem State.goOn_links (s : State) (c : Ctx) (pc : Nat) (b : Bool) : (s.goOn c pc b).links = s.links := rfl
@[simp] theorem State.goOn_presenting (s : State) (c : Ctx) (pc : Nat) (b : Bool) : (s.goOn c pc b).presenting = s.presenting := rfl
@[simp] theorem State.goOn_builds (s : State) (c : Ctx) (pc : Nat) (b : Bool) : (s.goOn c pc b).builds = s.builds := rfl
@[simp] theorem State.goOn_sliceQ (s : State) (c : Ctx) (pc : Nat) (b : Bool) : (s.goOn c pc b).sliceQ = s.sliceQ := rfl
@[simp] theorem State.goOn_qfences (s : State) (c : Ctx) (pc : Nat) (b : Bool) : (s.goOn c pc b).qfences = s.qfences := rfl
@[simp] theorem State.goOn_deliveries (s : State) (c : Ctx) (pc : Nat) (b : Bool) : (s.goOn c pc b).deliveries = s.deliveries := rfl
@[simp] theorem State.goOn_pt (s : State) (c : Ctx) (pc : Nat) (b : Bool) : (s.goOn c pc b).pt = s.pt := rfl
@[simp] theorem State.goOn_host (s : State) (c : Ctx) (pc : Nat) (b : Bool) : (s.goOn c pc b).host = s.host := rfl
@[simp] theorem State.goOn_peers (s : State) (c : Ctx) (pc : Nat) (b : Bool) : (s.goOn c pc b).peers = s.peers := rfl
@[simp] theorem State.goOn_home (s : State) (c : Ctx) (pc : Nat) (b : Bool) : (s.goOn c pc b).home = s.home := rfl
@[simp] theorem State.goOn_sram (s : State) (c : Ctx) (pc : Nat) (b : Bool) : (s.goOn c pc b).sram = s.sram := rfl
@[simp] theorem State.goOn_stamps (s : State) (c : Ctx) (pc : Nat) (b : Bool) : (s.goOn c pc b).stamps = s.stamps := rfl
@[simp] theorem State.goOn_sums (s : State) (c : Ctx) (pc : Nat) (b : Bool) : (s.goOn c pc b).sums = s.sums := rfl
@[simp] theorem State.goOn_lines (s : State) (c : Ctx) (pc : Nat) (b : Bool) : (s.goOn c pc b).lines = s.lines := rfl
@[simp] theorem State.goOn_copies (s : State) (c : Ctx) (pc : Nat) (b : Bool) : (s.goOn c pc b).copies = s.copies := rfl
@[simp] theorem State.goOn_invals (s : State) (c : Ctx) (pc : Nat) (b : Bool) : (s.goOn c pc b).invals = s.invals := rfl
@[simp] theorem State.goOn_portWrites (s : State) (c : Ctx) (pc : Nat) (b : Bool) : (s.goOn c pc b).portWrites = s.portWrites := rfl
@[simp] theorem State.goOn_tlb (s : State) (c : Ctx) (pc : Nat) (b : Bool) : (s.goOn c pc b).tlb = s.tlb := rfl
@[simp] theorem State.goOn_roots (s : State) (c : Ctx) (pc : Nat) (b : Bool) : (s.goOn c pc b).roots = s.roots := rfl
@[simp] theorem State.goOn_bars (s : State) (c : Ctx) (pc : Nat) (b : Bool) : (s.goOn c pc b).bars = s.bars := rfl

@[simp] theorem State.drawn_free (s : State) : (s.drawn).free = s.free + 1 := rfl
@[simp] theorem State.drawn_seq (s : State) : (s.drawn).seq = s.seq := rfl
@[simp] theorem State.drawn_turns (s : State) : (s.drawn).turns = s.turns := rfl
@[simp] theorem State.drawn_issue (s : State) : (s.drawn).issue = s.issue := rfl
@[simp] theorem State.drawn_module (s : State) : (s.drawn).module = s.module := rfl
@[simp] theorem State.drawn_parts (s : State) : (s.drawn).parts = s.parts := rfl
@[simp] theorem State.drawn_cores (s : State) : (s.drawn).cores = s.cores := rfl
@[simp] theorem State.drawn_quads (s : State) : (s.drawn).quads = s.quads := rfl
@[simp] theorem State.drawn_launches (s : State) : (s.drawn).launches = s.launches := rfl
@[simp] theorem State.drawn_blocks (s : State) : (s.drawn).blocks = s.blocks := rfl
@[simp] theorem State.drawn_waves (s : State) : (s.drawn).waves = s.waves := rfl
@[simp] theorem State.drawn_links (s : State) : (s.drawn).links = s.links := rfl
@[simp] theorem State.drawn_presenting (s : State) : (s.drawn).presenting = s.presenting := rfl
@[simp] theorem State.drawn_builds (s : State) : (s.drawn).builds = s.builds := rfl
@[simp] theorem State.drawn_sliceQ (s : State) : (s.drawn).sliceQ = s.sliceQ := rfl
@[simp] theorem State.drawn_qfences (s : State) : (s.drawn).qfences = s.qfences := rfl
@[simp] theorem State.drawn_deliveries (s : State) : (s.drawn).deliveries = s.deliveries := rfl
@[simp] theorem State.drawn_pt (s : State) : (s.drawn).pt = s.pt := rfl
@[simp] theorem State.drawn_host (s : State) : (s.drawn).host = s.host := rfl
@[simp] theorem State.drawn_peers (s : State) : (s.drawn).peers = s.peers := rfl
@[simp] theorem State.drawn_home (s : State) : (s.drawn).home = s.home := rfl
@[simp] theorem State.drawn_sram (s : State) : (s.drawn).sram = s.sram := rfl
@[simp] theorem State.drawn_stamps (s : State) : (s.drawn).stamps = s.stamps := rfl
@[simp] theorem State.drawn_sums (s : State) : (s.drawn).sums = s.sums := rfl
@[simp] theorem State.drawn_lines (s : State) : (s.drawn).lines = s.lines := rfl
@[simp] theorem State.drawn_copies (s : State) : (s.drawn).copies = s.copies := rfl
@[simp] theorem State.drawn_invals (s : State) : (s.drawn).invals = s.invals := rfl
@[simp] theorem State.drawn_portWrites (s : State) : (s.drawn).portWrites = s.portWrites := rfl
@[simp] theorem State.drawn_tlb (s : State) : (s.drawn).tlb = s.tlb := rfl
@[simp] theorem State.drawn_roots (s : State) : (s.drawn).roots = s.roots := rfl
@[simp] theorem State.drawn_bars (s : State) : (s.drawn).bars = s.bars := rfl

@[simp] theorem State.raiseMsix_free (s : State) (fn vec : Nat) : (s.raiseMsix fn vec).free = s.free := rfl
@[simp] theorem State.raiseMsix_seq (s : State) (fn vec : Nat) : (s.raiseMsix fn vec).seq = s.seq := rfl
@[simp] theorem State.raiseMsix_turns (s : State) (fn vec : Nat) : (s.raiseMsix fn vec).turns = s.turns := rfl
@[simp] theorem State.raiseMsix_issue (s : State) (fn vec : Nat) : (s.raiseMsix fn vec).issue = s.issue := rfl
@[simp] theorem State.raiseMsix_parts (s : State) (fn vec : Nat) : (s.raiseMsix fn vec).parts = s.parts := rfl
@[simp] theorem State.raiseMsix_cores (s : State) (fn vec : Nat) : (s.raiseMsix fn vec).cores = s.cores := rfl
@[simp] theorem State.raiseMsix_quads (s : State) (fn vec : Nat) : (s.raiseMsix fn vec).quads = s.quads := rfl
@[simp] theorem State.raiseMsix_launches (s : State) (fn vec : Nat) : (s.raiseMsix fn vec).launches = s.launches := rfl
@[simp] theorem State.raiseMsix_blocks (s : State) (fn vec : Nat) : (s.raiseMsix fn vec).blocks = s.blocks := rfl
@[simp] theorem State.raiseMsix_waves (s : State) (fn vec : Nat) : (s.raiseMsix fn vec).waves = s.waves := rfl
@[simp] theorem State.raiseMsix_links (s : State) (fn vec : Nat) : (s.raiseMsix fn vec).links = s.links := rfl
@[simp] theorem State.raiseMsix_presenting (s : State) (fn vec : Nat) : (s.raiseMsix fn vec).presenting = s.presenting := rfl
@[simp] theorem State.raiseMsix_builds (s : State) (fn vec : Nat) : (s.raiseMsix fn vec).builds = s.builds := rfl
@[simp] theorem State.raiseMsix_sliceQ (s : State) (fn vec : Nat) : (s.raiseMsix fn vec).sliceQ = s.sliceQ := rfl
@[simp] theorem State.raiseMsix_qfences (s : State) (fn vec : Nat) : (s.raiseMsix fn vec).qfences = s.qfences := rfl
@[simp] theorem State.raiseMsix_deliveries (s : State) (fn vec : Nat) : (s.raiseMsix fn vec).deliveries = s.deliveries := rfl
@[simp] theorem State.raiseMsix_pt (s : State) (fn vec : Nat) : (s.raiseMsix fn vec).pt = s.pt := rfl
@[simp] theorem State.raiseMsix_host (s : State) (fn vec : Nat) : (s.raiseMsix fn vec).host = s.host := rfl
@[simp] theorem State.raiseMsix_peers (s : State) (fn vec : Nat) : (s.raiseMsix fn vec).peers = s.peers := rfl
@[simp] theorem State.raiseMsix_home (s : State) (fn vec : Nat) : (s.raiseMsix fn vec).home = s.home := rfl
@[simp] theorem State.raiseMsix_sram (s : State) (fn vec : Nat) : (s.raiseMsix fn vec).sram = s.sram := rfl
@[simp] theorem State.raiseMsix_stamps (s : State) (fn vec : Nat) : (s.raiseMsix fn vec).stamps = s.stamps := rfl
@[simp] theorem State.raiseMsix_sums (s : State) (fn vec : Nat) : (s.raiseMsix fn vec).sums = s.sums := rfl
@[simp] theorem State.raiseMsix_lines (s : State) (fn vec : Nat) : (s.raiseMsix fn vec).lines = s.lines := rfl
@[simp] theorem State.raiseMsix_copies (s : State) (fn vec : Nat) : (s.raiseMsix fn vec).copies = s.copies := rfl
@[simp] theorem State.raiseMsix_invals (s : State) (fn vec : Nat) : (s.raiseMsix fn vec).invals = s.invals := rfl
@[simp] theorem State.raiseMsix_portWrites (s : State) (fn vec : Nat) : (s.raiseMsix fn vec).portWrites = s.portWrites := rfl
@[simp] theorem State.raiseMsix_tlb (s : State) (fn vec : Nat) : (s.raiseMsix fn vec).tlb = s.tlb := rfl
@[simp] theorem State.raiseMsix_roots (s : State) (fn vec : Nat) : (s.raiseMsix fn vec).roots = s.roots := rfl
@[simp] theorem State.raiseMsix_bars (s : State) (fn vec : Nat) : (s.raiseMsix fn vec).bars = s.bars := rfl

@[simp] theorem State.beginStop_free (s : State) (p r d : Nat) : (s.beginStop p r d).free = s.free := rfl
@[simp] theorem State.beginStop_seq (s : State) (p r d : Nat) : (s.beginStop p r d).seq = s.seq := rfl
@[simp] theorem State.beginStop_turns (s : State) (p r d : Nat) : (s.beginStop p r d).turns = s.turns := rfl
@[simp] theorem State.beginStop_issue (s : State) (p r d : Nat) : (s.beginStop p r d).issue = s.issue := rfl
@[simp] theorem State.beginStop_module (s : State) (p r d : Nat) : (s.beginStop p r d).module = s.module := rfl
@[simp] theorem State.beginStop_cores (s : State) (p r d : Nat) : (s.beginStop p r d).cores = s.cores := rfl
@[simp] theorem State.beginStop_quads (s : State) (p r d : Nat) : (s.beginStop p r d).quads = s.quads := rfl
@[simp] theorem State.beginStop_launches (s : State) (p r d : Nat) : (s.beginStop p r d).launches = s.launches := rfl
@[simp] theorem State.beginStop_blocks (s : State) (p r d : Nat) : (s.beginStop p r d).blocks = s.blocks := rfl
@[simp] theorem State.beginStop_waves (s : State) (p r d : Nat) : (s.beginStop p r d).waves = s.waves := rfl
@[simp] theorem State.beginStop_links (s : State) (p r d : Nat) : (s.beginStop p r d).links = s.links := rfl
@[simp] theorem State.beginStop_presenting (s : State) (p r d : Nat) : (s.beginStop p r d).presenting = s.presenting := rfl
@[simp] theorem State.beginStop_builds (s : State) (p r d : Nat) : (s.beginStop p r d).builds = s.builds := rfl
@[simp] theorem State.beginStop_sliceQ (s : State) (p r d : Nat) : (s.beginStop p r d).sliceQ = s.sliceQ := rfl
@[simp] theorem State.beginStop_qfences (s : State) (p r d : Nat) : (s.beginStop p r d).qfences = s.qfences := rfl
@[simp] theorem State.beginStop_deliveries (s : State) (p r d : Nat) : (s.beginStop p r d).deliveries = s.deliveries := rfl
@[simp] theorem State.beginStop_pt (s : State) (p r d : Nat) : (s.beginStop p r d).pt = s.pt := rfl
@[simp] theorem State.beginStop_host (s : State) (p r d : Nat) : (s.beginStop p r d).host = s.host := rfl
@[simp] theorem State.beginStop_peers (s : State) (p r d : Nat) : (s.beginStop p r d).peers = s.peers := rfl
@[simp] theorem State.beginStop_home (s : State) (p r d : Nat) : (s.beginStop p r d).home = s.home := rfl
@[simp] theorem State.beginStop_sram (s : State) (p r d : Nat) : (s.beginStop p r d).sram = s.sram := rfl
@[simp] theorem State.beginStop_stamps (s : State) (p r d : Nat) : (s.beginStop p r d).stamps = s.stamps := rfl
@[simp] theorem State.beginStop_sums (s : State) (p r d : Nat) : (s.beginStop p r d).sums = s.sums := rfl
@[simp] theorem State.beginStop_lines (s : State) (p r d : Nat) : (s.beginStop p r d).lines = s.lines := rfl
@[simp] theorem State.beginStop_copies (s : State) (p r d : Nat) : (s.beginStop p r d).copies = s.copies := rfl
@[simp] theorem State.beginStop_invals (s : State) (p r d : Nat) : (s.beginStop p r d).invals = s.invals := rfl
@[simp] theorem State.beginStop_portWrites (s : State) (p r d : Nat) : (s.beginStop p r d).portWrites = s.portWrites := rfl
@[simp] theorem State.beginStop_tlb (s : State) (p r d : Nat) : (s.beginStop p r d).tlb = s.tlb := rfl
@[simp] theorem State.beginStop_roots (s : State) (p r d : Nat) : (s.beginStop p r d).roots = s.roots := rfl
@[simp] theorem State.beginStop_bars (s : State) (p r d : Nat) : (s.beginStop p r d).bars = s.bars := rfl

@[simp] theorem State.stamp_free (s : State) : s.stamp.2.free = s.free := rfl
@[simp] theorem State.stamp_seq (s : State) : s.stamp.2.seq = s.seq + 1 := rfl
@[simp] theorem State.stamp_turns (s : State) : s.stamp.2.turns = s.turns := rfl
@[simp] theorem State.stamp_issue (s : State) : s.stamp.2.issue = s.issue := rfl
@[simp] theorem State.stamp_module (s : State) : s.stamp.2.module = s.module := rfl
@[simp] theorem State.stamp_parts (s : State) : s.stamp.2.parts = s.parts := rfl
@[simp] theorem State.stamp_cores (s : State) : s.stamp.2.cores = s.cores := rfl
@[simp] theorem State.stamp_quads (s : State) : s.stamp.2.quads = s.quads := rfl
@[simp] theorem State.stamp_launches (s : State) : s.stamp.2.launches = s.launches := rfl
@[simp] theorem State.stamp_blocks (s : State) : s.stamp.2.blocks = s.blocks := rfl
@[simp] theorem State.stamp_waves (s : State) : s.stamp.2.waves = s.waves := rfl
@[simp] theorem State.stamp_links (s : State) : s.stamp.2.links = s.links := rfl
@[simp] theorem State.stamp_presenting (s : State) : s.stamp.2.presenting = s.presenting := rfl
@[simp] theorem State.stamp_builds (s : State) : s.stamp.2.builds = s.builds := rfl
@[simp] theorem State.stamp_sliceQ (s : State) : s.stamp.2.sliceQ = s.sliceQ := rfl
@[simp] theorem State.stamp_qfences (s : State) : s.stamp.2.qfences = s.qfences := rfl
@[simp] theorem State.stamp_deliveries (s : State) : s.stamp.2.deliveries = s.deliveries := rfl
@[simp] theorem State.stamp_pt (s : State) : s.stamp.2.pt = s.pt := rfl
@[simp] theorem State.stamp_host (s : State) : s.stamp.2.host = s.host := rfl
@[simp] theorem State.stamp_peers (s : State) : s.stamp.2.peers = s.peers := rfl
@[simp] theorem State.stamp_home (s : State) : s.stamp.2.home = s.home := rfl
@[simp] theorem State.stamp_sram (s : State) : s.stamp.2.sram = s.sram := rfl
@[simp] theorem State.stamp_stamps (s : State) : s.stamp.2.stamps = s.stamps := rfl
@[simp] theorem State.stamp_sums (s : State) : s.stamp.2.sums = s.sums := rfl
@[simp] theorem State.stamp_lines (s : State) : s.stamp.2.lines = s.lines := rfl
@[simp] theorem State.stamp_copies (s : State) : s.stamp.2.copies = s.copies := rfl
@[simp] theorem State.stamp_invals (s : State) : s.stamp.2.invals = s.invals := rfl
@[simp] theorem State.stamp_portWrites (s : State) : s.stamp.2.portWrites = s.portWrites := rfl
@[simp] theorem State.stamp_tlb (s : State) : s.stamp.2.tlb = s.tlb := rfl
@[simp] theorem State.stamp_roots (s : State) : s.stamp.2.roots = s.roots := rfl
@[simp] theorem State.stamp_bars (s : State) : s.stamp.2.bars = s.bars := rfl
@[simp] theorem State.stamp_fst (s : State) : s.stamp.1 = s.seq := rfl

end Sys2Proof.Machine
end

