-- ==== Sys2Proof/Laws/Ops.lean ====
section
/-! SUPPORT. What the shared operations of a word do, said once: finding the issuing split, running a word that nothing refuses, going
on, writing registers, and taking an operation tag. -/

namespace Sys2Proof.Machine

open Safety

/-! ## Waves -/

@[simp] theorem State.wave?_setWave_self (s : State) (w : Nat) (x : Wave) : (s.setWave w x).wave? w = some x := by
  simp [State.wave?]

theorem State.wave?_setWave_other (s : State) (w v : Nat) (x : Wave) (h : v ≠ w) : (s.setWave w x).wave? v = s.wave? v := by
  simp [State.wave?, Table.find_put_other _ _ _ _ h]

@[simp] theorem State.wave?_modWave_self (s : State) (w : Nat) (f : Wave → Wave) : (s.modWave w f).wave? w = (s.wave? w).map f := by
  simp [State.wave?]

theorem State.wave?_modWave_other (s : State) (w v : Nat) (f : Wave → Wave) (h : v ≠ w) : (s.modWave w f).wave? v = s.wave? v := by
  simp [State.wave?, Table.find_modify_other _ _ _ _ h]

/-- The context of an issuing split names its wave and its split. -/
theorem State.ctx?_wave {s : State} {c : Ctx} (h : s.ctx? = some c) : s.wave? c.wi = some c.w := by
  simp only [State.ctx?] at h
  split at h <;> try cases h
  split at h <;> try cases h
  split at h <;> try cases h
  assumption

theorem State.ctx?_split {s : State} {c : Ctx} (h : s.ctx? = some c) : c.w.split? c.sp.num = some c.sp := by
  simp only [State.ctx?] at h
  split at h <;> try cases h
  split at h <;> try cases h
  split at h <;> try cases h
  rename_i hs
  simp only
  have := hs
  simp only [Wave.split?] at this ⊢
  have hn := List.find?_some this
  simp only [beq_iff_eq] at hn
  rw [hn]; exact this

/-! ## The mould -/

/-- A word that nothing refuses runs: its outcome is its effect carried out. -/
theorem runWord_ready {i : Instr} {k : Checks} {s : State} {c : Ctx} (h : Ready i k s c) (body : Ctx → State → Effect) :
    runWord s (decodesFor i) k (fun c => instrCodes i (mType c.sp.mode)) body = .next ((body c s).finish c s) := by
  obtain ⟨hc, hd, ht, hi, hv, hr, hp⟩ := h
  have h1 : (instrCodes i (mType c.sp.mode)).find? (fun r => (c.w.sbOf c.sp.num).contains r) = none := by
    rw [List.find?_eq_none]
    intro r hr1 hr2
    refine hp r hr1 ?_
    simp only [Wave.sbOf, List.contains_iff_mem] at hr2
    obtain ⟨p, hp1, hp2⟩ := List.mem_flatMap.1 hr2
    exact List.mem_flatMap.2 ⟨p, (List.mem_filter.1 hp1).1, hp2⟩
  have h2 : ((instrCodes i (mType c.sp.mode)).any fun r => (c.w.pend.flatMap (·.codes)).contains r) = false := by
    rw [List.any_eq_false]
    intro r hr1 hr2
    exact hp r hr1 (List.contains_iff_mem.1 hr2)
  simp only [runWord, hc, hd, ht, hi, hv, hr, h1, h2, Bool.not_true, Bool.or_self, Bool.false_eq_true, if_false]

/-- Whatever a word meets, a split that issues it leads to a next state (04 R76). -/
theorem runWord_goes (s : State) (d : Ctx → Bool) (k : Checks) (cs : Ctx → List Nat) (body : Ctx → State → Effect) (h : s.ctx? ≠ none) :
    ∃ t, runWord s d k cs body = .next t := by
  cases hc : s.ctx? with
  | none => exact absurd hc h
  | some c =>
    simp only [runWord, hc]
    exact ⟨_, rfl⟩

/-! ## Going on -/

/-- A word that ends .ok after changing only its wave: the wave it leaves, its split gone on. -/
theorem goOn_setWave (s : State) (c : Ctx) (w : Wave) (pc : Nat) (b : Bool) :
    ((s.setWave c.wi w).goOn c pc b).wave? c.wi = some (w.modSplit c.sp.num fun x =>
      { x.goTo pc with park := w.marker c.marked c.sp.num, parkedAt := s.seq, entered := if b then none else x.entered }) := by
  simp [State.goOn]

theorem onlyWave_goOn (s : State) (c : Ctx) (w : Wave) (pc : Nat) (b : Bool) : OnlyWave c s ((s.setWave c.wi w).goOn c pc b) := by
  refine ⟨fun v hv => ?_, rfl⟩
  rw [State.goOn, State.wave?_modWave_other _ _ _ _ hv, State.wave?_setWave_other _ _ _ _ hv]

/-- Going on without any other change. -/
theorem goOn_wave {s : State} {c : Ctx} (h : s.ctx? = some c) (pc : Nat) (b : Bool) :
    (s.goOn c pc b).wave? c.wi = some (c.w.modSplit c.sp.num fun x =>
      { x.goTo pc with park := c.w.marker c.marked c.sp.num, parkedAt := s.seq, entered := if b then none else x.entered }) := by
  simp [State.goOn, State.ctx?_wave h]

theorem onlyWave_goOn' (s : State) (c : Ctx) (pc : Nat) (b : Bool) : OnlyWave c s (s.goOn c pc b) := by
  refine ⟨fun v hv => ?_, rfl⟩
  rw [State.goOn, State.wave?_modWave_other _ _ _ _ hv]

/-! ## Registers -/

theorem vget_vset {α : Type} {n : Nat} (xs : Vector α n) (i j : Nat) (x d : α) (h : j < n) :
    vget (vset xs i x) j d = if j = i then x else vget xs j d := by
  unfold vget vset
  by_cases hij : i = j
  · subst hij; simp [h]
  · have : ¬ j = i := fun h => hij h.symm
    simp [hij, this]

theorem Wave.writeV_readV (w : Wave) (r : Nat) (mask : Word) (f : Nat → Word) (q l : Nat) (hq : q < 128) (hl : l < 32) :
    (w.writeV r mask f).readV q l = if q = r ∧ bit mask l = true then f l else w.readV q l := by
  simp only [Wave.writeV, Wave.readV]
  rw [vget_vset _ _ _ _ _ hq]
  by_cases h : q = r
  · subst h
    by_cases hb : bit mask l = true <;> simp [vget, hl, hb]
  · simp [h]

theorem Wave.writeS_readS (w : Wave) (r q : Nat) (x : Word) (hq : q < 64) :
    (w.writeS r x).readS q = if q = r then x else w.readS q := by
  simp only [Wave.writeS, Wave.readS]
  exact vget_vset _ _ _ _ _ hq

@[simp] theorem Wave.writeV_readS (w : Wave) (r : Nat) (mask : Word) (f : Nat → Word) (q : Nat) :
    (w.writeV r mask f).readS q = w.readS q := rfl
@[simp] theorem Wave.writeS_readV (w : Wave) (r : Nat) (x : Word) (q l : Nat) : (w.writeS r x).readV q l = w.readV q l := rfl

/-- The wave after the first n members of a group have been written. -/
theorem Wave.writeGroup_succ (w : Wave) (d : Operand) (mask : Word) (n : Nat) (f : Nat → Nat → Word) :
    w.writeGroup d mask (n + 1) f = match d with
      | .v r => (w.writeGroup d mask n f).writeV (r.val + n) mask (f n)
      | .s r => (w.writeGroup d mask n f).writeS (r.val + n) (f n 0)
      | _ => w.writeGroup d mask n f := by
  simp only [Wave.writeGroup, upTo, List.range_succ, List.foldl_append, List.foldl_cons, List.foldl_nil]
  cases d <;> rfl

/-- Writing a register group gives each of its registers its value in the lanes of the mask, and changes no other register. -/
theorem Wave.writeGroup_spec (w : Wave) (d : Operand) (mask : Word) (f : Nat → Nat → Word) : ∀ n,
    (∀ r l, r < 128 → l < 32 → (w.writeGroup d mask n f).readV r l =
      if namesV d n r && bit mask l then f (r - baseOf d) l else w.readV r l) ∧
    (∀ r, r < 64 → (w.writeGroup d mask n f).readS r = if namesS d n r then f (r - baseOf d) 0 else w.readS r) ∧
    { w.writeGroup d mask n f with v := w.v, s := w.s } = w := by
  intro n
  induction n with
  | zero =>
    refine ⟨fun r l _ _ => ?_, fun r _ => ?_, rfl⟩
    · cases d <;> simp [namesV, Wave.writeGroup, upTo]
    · cases d <;> simp [namesS, Wave.writeGroup, upTo]
  | succ n ih =>
    obtain ⟨h1, h2, h3⟩ := ih
    rw [Wave.writeGroup_succ]
    cases d with
    | v x =>
      refine ⟨fun r l hr hl => ?_, fun r hr => ?_, ?_⟩
      · simp only [Wave.writeV_readV _ _ _ _ _ _ hr hl, h1 r l hr hl, namesV, baseOf, Bool.and_eq_true, decide_eq_true_eq]
        by_cases hb : bit mask l = true
        · by_cases hx : r = x.val + n
          · subst hx; simp [hb]
          · have : (x.val ≤ r ∧ r < x.val + (n + 1)) ↔ (x.val ≤ r ∧ r < x.val + n) := by omega
            simp [hb, hx, this]
        · simp [hb]
      · simp [Wave.writeV_readS, h2 r hr, namesS]
      · exact h3
    | s x =>
      refine ⟨fun r l hr hl => ?_, fun r hr => ?_, ?_⟩
      · simp [Wave.writeS_readV, h1 r l hr hl, namesV]
      · simp only [Wave.writeS_readS _ _ _ _ hr, h2 r hr, namesS, baseOf, Bool.and_eq_true, decide_eq_true_eq]
        by_cases hx : r = x.val + n
        · subst hx; simp
        · have : (x.val ≤ r ∧ r < x.val + (n + 1)) ↔ (x.val ≤ r ∧ r < x.val + n) := by omega
          simp [hx, this]
      · exact h3
    | _ => exact ⟨h1, h2, h3⟩

/-- A group written and flags gathered. -/
theorem Wave.writeGroup_received (w : Wave) (d : Operand) (mask : Word) (n : Nat) (f : Nat → Nat → Word) (fl : Flags) :
    Received w ((w.writeGroup d mask n f).addFlags fl) d mask n f fl := by
  obtain ⟨h1, h2, h3⟩ := w.writeGroup_spec d mask f n
  refine ⟨h1, h2, ?_, ?_⟩
  · have h := congrArg (fun x : Wave => x.fpflags) h3
    have h4 : (w.writeGroup d mask n f).fpflags = w.fpflags := h
    simp [Wave.addFlags, h4]
  · have h := congrArg (fun x : Wave => { x with fpflags := w.fpflags, splits := w.splits }) h3
    exact h

/-- A group written and no flags. -/
theorem Wave.writeGroup_received' (w : Wave) (d : Operand) (mask : Word) (n : Nat) (f : Nat → Nat → Word) :
    Received w (w.writeGroup d mask n f) d mask n f 0 := by
  obtain ⟨h1, h2, h3⟩ := w.writeGroup_spec d mask f n
  have h := congrArg (fun x : Wave => x.fpflags) h3
  have h4 : (w.writeGroup d mask n f).fpflags = w.fpflags := h
  refine ⟨h1, h2, by simp [h4], ?_⟩
  exact congrArg (fun x : Wave => { x with fpflags := w.fpflags, splits := w.splits }) h3

/-- A wave that has received registers, then gone on: what `Wrote` says of it. -/
theorem wrote_goOn {s : State} {c : Ctx} {d : Operand} {mask : Word} {n : Nat} {f : Nat → Nat → Word} {fl : Flags} {w : Wave}
    (h : Received c.w w d mask n f fl) (hs : w.splits = c.w.splits) :
    Wrote c s ((s.setWave c.wi w).goOn c c.next false) d mask n f fl := by
  refine ⟨onlyWave_goOn s c w c.next false, _, goOn_setWave s c w c.next false, ?_, ?_⟩
  · exact ⟨h.1, h.2.1, h.2.2.1, h.2.2.2⟩
  · simp only [WentOn, Wave.modSplit, hs]
    rfl

/-! ## The ALU mould (22 R290) -/

theorem received_none (w0 : Wave) (mask : Word) (n : Nat) (f : Nat → Nat → Word) (fl : Flags) :
    Received w0 (w0.addFlags fl) (.int 0) mask n f fl := by
  refine ⟨fun r l _ _ => by simp [namesV, Wave.addFlags, Wave.readV], fun r _ => by simp [namesS, Wave.addFlags, Wave.readS], rfl, rfl⟩

theorem received_same (w0 : Wave) (mask : Word) (n : Nat) (f : Nat → Nat → Word) : Received w0 w0 (.int 0) mask n f 0 :=
  ⟨fun r l _ _ => by simp [namesV], fun r _ => by simp [namesS], by simp, rfl⟩

theorem Wave.writeGroup_splits (w : Wave) (d : Operand) (mask : Word) (n : Nat) (f : Nat → Nat → Word) :
    (w.writeGroup d mask n f).splits = w.splits := by
  have h := congrArg (fun x : Wave => x.splits) (w.writeGroup_spec d mask f n).2.2
  exact h

/-- A word that changes nothing but goes on. -/
theorem wrote_goOn_same {s : State} {c : Ctx} (h : s.ctx? = some c) {mask : Word} {n : Nat} {f : Nat → Nat → Word} :
    Wrote c s (s.goOn c c.next false) (.int 0) mask n f 0 :=
  ⟨onlyWave_goOn' s c c.next false, _, goOn_wave h c.next false, received_same c.w mask n f, rfl⟩

/-- A word that writes a group at once and sets no flag. -/
theorem wrote_group (s : State) (c : Ctx) (d : Operand) (mask : Word) (n : Nat) (f : Nat → Nat → Word) :
    Wrote c s ((s.setWave c.wi (c.w.writeGroup d mask n f)).goOn c c.next false) d mask n f 0 :=
  wrote_goOn (c.w.writeGroup_received' d mask n f) (c.w.writeGroup_splits d mask n f)

theorem isDiscard_eq {d : Operand} (h : isDiscard d = true) : d = .int 0 := by
  cases d <;> simp [isDiscard] at h
  exact congrArg Operand.int h

/-- Everything an ALU word that is ready does. -/
theorem aluWord_computes (i : Instr) (d : Operand) (srcs : List Operand) (ty : Nat → Bool) (n : Nat → Nat) (f : Ctx → Nat → Nat × Flags)
    (s : State) (c : Ctx) (h : Ready i { typeOk := ty, illegal := fun _ => vectorToScalar d srcs } s c)
    (hd : isV d = true ∨ isS d = true ∨ isDiscard d = true) :
    ∃ t, aluWord i d srcs ty n f s = .next t ∧ Wrote c s t (liveD c d) c.act (n (mType c.sp.mode)) (fun j l => groupWord (f c l).1 j)
      (orFlags ((flagLanes c d srcs).map fun l => (f c l).2)) := by
  rw [aluWord, runWord_ready h]
  refine ⟨_, rfl, ?_⟩
  by_cases hx : isDiscard d = true
  · have := isDiscard_eq hx; subst this
    simp only [hx, if_true, aluDiscard, Effect.finish, flagLanes, liveD, ite_self, isV, Bool.false_eq_true, if_false]
    exact wrote_goOn (received_none c.w _ _ _ _) rfl
  · by_cases ha : c.act = 0
    · have hl : flagLanes c d srcs = [] := by
        simp only [flagLanes, ha, actLanes]; split <;> simp [lanesOf, bit]
      rw [hl]
      simp only [hx, aluWrite, ha, if_true, if_false, Effect.finish, liveD, Bool.false_eq_true]
      exact wrote_goOn_same h.1
    · simp only [hx, aluWrite, ha, if_false, Effect.finish, liveD, flagLanes, Bool.false_eq_true, actLanes]
      have hs : (c.w.writeGroup d c.act (n (mType c.sp.mode)) fun j l => groupWord (f c l).1 j).splits = c.w.splits :=
        c.w.writeGroup_splits _ _ _ _
      rcases hd with hd | hd | hd
      · simp only [hd, if_true, if_false, Bool.false_eq_true]
        exact wrote_goOn (c.w.writeGroup_received _ _ _ _ _) hs
      · have hv : isV d = false := by cases d <;> simp [isS, isV] at hd ⊢
        simp only [hv, Bool.false_eq_true, if_false, if_true]
        exact wrote_goOn (c.w.writeGroup_received _ _ _ _ _) hs
      · exact absurd hd hx

/-! ## Operation tags -/

/-- The k-th tag after t. -/
theorem tagAfter_iterate (t k : Nat) (h1 : 1 ≤ t) (h2 : t ≤ 4294967295) : tagAfter^[k] t = (t - 1 + k) % 4294967295 + 1 := by
  induction k with
  | zero => simp only [Function.iterate_zero, id]; omega
  | succ k ih =>
    rw [Function.iterate_succ_apply', ih]
    unfold tagAfter
    split <;> omega

/-- A search for a free tag that ends on one that is held has found every tag on its way held. -/
theorem freeTag_held (held : List Nat) : ∀ n t, freeTag held n t ∈ held → ∀ k ≤ n, tagAfter^[k] t ∈ held
  | 0, t, h, k, hk => by
    rw [Nat.le_zero.mp hk]; exact h
  | n + 1, t, h, k, hk => by
    unfold freeTag at h
    split at h
    · rename_i hc
      cases k with
      | zero => exact List.contains_iff_mem.mp hc
      | succ k => exact freeTag_held held n _ h k (by omega)
    · rename_i hc
      exact absurd (List.contains_iff_mem.mpr h) hc

/-- The tag that an operation takes is none that an operation of its partition still holds (22 R330). -/
theorem State.takeTag_free (s : State) (p : Nat) (h1 : 1 ≤ (s.part p).tagCounter) (h2 : (s.part p).tagCounter ≤ 4294967295)
    (h : (s.tagsOf p).length + 2 ≤ 4294967295) : (s.takeTag p).1 ∉ s.tagsOf p := by
  intro hm
  have ha := freeTag_held _ _ _ hm
  have hn : ((List.range ((s.tagsOf p).length + 2)).map fun k => tagAfter^[k] (s.part p).tagCounter).Nodup := by
    refine List.Nodup.map_on (fun i hi j hj e => ?_) List.nodup_range
    rw [tagAfter_iterate _ _ h1 h2, tagAfter_iterate _ _ h1 h2] at e
    rw [List.mem_range] at hi hj
    omega
  have hs : ((List.range ((s.tagsOf p).length + 2)).map fun k => tagAfter^[k] (s.part p).tagCounter) ⊆ s.tagsOf p := by
    intro x hx
    obtain ⟨k, hk, rfl⟩ := List.mem_map.mp hx
    exact ha k (by rw [List.mem_range] at hk; omega)
  have := (hn.subperm hs).length_le
  simp at this

end Sys2Proof.Machine
end

