-- ==== Sys2Proof/Laws/Sectors.lean ====
section
/-! SUPPORT. Which slices a sector has is free, but each of a die's three sectors has at least 21 of its 64 (01 Table 1.1). -/

namespace Sys2Proof.Machine

/-- The counts of a die's sectors while its slices are given out: at most 22 in one sector and at most one sector with 22. -/
def SectorCounts (n : Nat × Nat × Nat) : Prop :=
  n.1 ≤ 22 ∧ n.2.1 ≤ 22 ∧ n.2.2 ≤ 22 ∧ (n.1 = 22 → n.2.1 ≤ 21 ∧ n.2.2 ≤ 21) ∧ (n.2.1 = 22 → n.2.2 ≤ 21)

/-- The sector that takes a slice is one of three, and the counts stay within their bounds while fewer than 64 are given out. -/
theorem pickSector_bump {n : Nat × Nat × Nat} (k : Nat) (h : SectorCounts n) (hs : n.1 + n.2.1 + n.2.2 < 64) :
    pickSector n k < 3 ∧ SectorCounts (bumpSector n (pickSector n k)) := by
  obtain ⟨a, b, c⟩ := n
  obtain ⟨ha, hb, hc, h1, h2⟩ := h
  have cases3 (x : Nat) (hx : x ≤ 22) : (x < 21 ∧ x ≠ 21 ∧ x ≠ 22) ∨ x = 21 ∨ x = 22 := by omega
  have hk : k % 3 = 0 ∧ (k + 1) % 3 = 1 ∧ (k + 2) % 3 = 2 ∨ k % 3 = 1 ∧ (k + 1) % 3 = 2 ∧ (k + 2) % 3 = 0 ∨
      k % 3 = 2 ∧ (k + 1) % 3 = 0 ∧ (k + 2) % 3 = 1 := by omega
  unfold pickSector bumpSector nth SectorCounts
  simp only [] at ha hb hc h1 h2 hs
  rcases hk with ⟨e0, e1, e2⟩ | ⟨e0, e1, e2⟩ | ⟨e0, e1, e2⟩ <;> rw [e0, e1, e2] <;> clear e0 e1 e2 <;>
    rcases cases3 a ha with ⟨p, p1, p2⟩ | rfl | rfl <;> rcases cases3 b hb with ⟨q, q1, q2⟩ | rfl | rfl <;>
    rcases cases3 c hc with ⟨r, r1, r2⟩ | rfl | rfl <;> first | omega | (simp [*]; omega) | simp [*]

/-- What giving out the first n slices of a die leaves: the counts are those of the list, sum to n and stay within their bounds. -/
theorem fillSectors_spec (die : Nat) : ∀ n, n ≤ 64 →
    let r := fillSectors die n
    SectorCounts r.1 ∧ r.1.1 = r.2.count 0 ∧ r.1.2.1 = r.2.count 1 ∧ r.1.2.2 = r.2.count 2 ∧ r.1.1 + r.1.2.1 + r.1.2.2 = n ∧ r.2.length = n
  | 0, _ => by simp [fillSectors, SectorCounts]
  | n + 1, hn => by
    obtain ⟨h, h0, h1, h2, hs, hl⟩ := fillSectors_spec die n (by omega)
    obtain ⟨h3, hb⟩ := pickSector_bump (Config.sliceSector (64 * die + n)) h (by omega)
    simp only [fillSectors]
    generalize pickSector (fillSectors die n).1 (Config.sliceSector (64 * die + n)) = k at h3 hb
    refine ⟨hb, ?_⟩
    have : k = 0 ∨ k = 1 ∨ k = 2 := by omega
    rcases this with rfl | rfl | rfl <;> simp [bumpSector] <;> omega

/-- Each sector of a die has at least 21 of the die's 64 slices. -/
theorem dieSectors_count (die k : Nat) (hk : k < 3) : (dieSectors die).length = 64 ∧ 21 ≤ (dieSectors die).count k := by
  obtain ⟨h, h0, h1, h2, hs, hl⟩ := fillSectors_spec die 64 (by omega)
  simp only [SectorCounts] at h
  refine ⟨hl, ?_⟩
  have : k = 0 ∨ k = 1 ∨ k = 2 := by omega
  rcases this with rfl | rfl | rfl <;> simp only [dieSectors] <;> omega

/-- Every slice of a die has one of the die's three sectors. -/
theorem dieSectors_lt (die i : Nat) : nth (dieSectors die) i 0 < 3 := by
  have h : ∀ n, ∀ x ∈ (fillSectors die n).2, x < 3 := by
    intro n
    induction n with
    | zero => simp [fillSectors]
    | succ n ih =>
      intro x hx
      simp only [fillSectors, List.mem_append, List.mem_singleton] at hx
      rcases hx with hx | rfl
      · exact ih x hx
      · unfold pickSector
        dsimp only
        split <;> (try split) <;> omega
  unfold nth
  cases hx : (dieSectors die)[i]? with
  | none => simp
  | some x => exact h 64 x (List.mem_of_getElem? hx)

/-- Inside its list an element does not depend on the default. -/
theorem nth_any {α : Type} (xs : List α) (i : Nat) (a b : α) (h : i < xs.length) : nth xs i a = nth xs i b := by
  simp [nth, List.getElem?_eq_getElem h]

end Sys2Proof.Machine
end

