-- ==== Sys2Proof/Machine/AsmText.lean ====
section
/-! DEFINITION. The text of the assembly language (02): characters to tokens (R17, R18), tokens to expressions, operands and
statements (Grammar, R19, R20). It is a tool and no part of State; a name is a list of characters (log 59). -/

namespace Sys2Proof.Asm

open Machine

/-- Why the assembler produces no image (R36). -/
inductive Err where
  | text | reserved | undefined | redefined | range | float | unknownType | overflow | operand | type | class_ | offset | relocation
  | divide | align | missing | section_ | settle
deriving DecidableEq, Repr

abbrev Name := List Char

/-! ## Names (R17, R18) -/

def idStart (c : Char) : Bool := c.isAlpha || c == '_' || c == '.'
def idRest (c : Char) : Bool := idStart c || c.isDigit || c == '$'

/-- Case-insensitive form (R17). -/
def foldCase (n : Name) : Name := n.map Char.toLower

/-- A register name: its letter followed by digits, in range or not (R17). -/
def isRegName (n : Name) : Bool :=
  match foldCase n with
  | c :: d :: ds => ['v', 's', 'p', 'h'].contains c && (d :: ds).all Char.isDigit
  | _ => false

/-- Mode items by code (Table 2.2). -/
def typeNames : List String :=
  ["i32", "n32", "f32", "f16x2", "bf16x2", "i16x2", "n16x2", "i8x4", "n8x4", "f8ax4", "f8bx4", "i4x8", "n4x8", "f4x8", "n64"]
def rndNames : List String := ["rne", "rtz", "rup", "rdn", "rna"]
def cpolNames : List String := ["normal", "first", "last", "noalloc", "stream"]
def scopeNames : List String := ["device", "wave", "block", "sector", "fabric", "system"]
def auseNames : List String := ["nonord", "unpaired", "commute", "quantum", "spec"]
def roleNames : List String := ["any", "copy", "matrix", "vector"]

/-- The special registers by index (04 Table 4.2, R19). -/
def specialNames : List String :=
  ["laneid", "waveid", "blockid", "nblocks", "wavespb", "core", "sector", "die", "role", "exec", "splits", "stkdepth", "cause",
    "faddrlo", "faddrhi", "fmask", "tbaselo", "tbasehi", "ks0", "ks1", "ks2", "ks3", "prog", "fpflags", "barstate", "mxprog", "qsize",
    "kbaselo", "kbasehi", "predstate", "partid", "asid"]

/-- The mnemonics with their opcodes (03 Table 3.8). -/
def mnemonics0 : List (String × Nat) :=
  [("nop", 0x00), ("jmp", 0x01), ("brz", 0x02), ("brnz", 0x03), ("bany", 0x04), ("ball", 0x05), ("brx", 0x06), ("joinw", 0x07),
    ("call", 0x08), ("ret", 0x09), ("jmpr", 0x0A), ("exit", 0x0B), ("trap", 0x0C), ("rett", 0x0D), ("brk", 0x0E),
    ("modea", 0x10), ("modem", 0x11), ("modesv", 0x12), ("modeld", 0x13), ("srd", 0x14), ("swr", 0x15), ("clk", 0x16),
    ("sense", 0x17), ("msave", 0x18), ("mset", 0x19), ("mand", 0x1A), ("mandn", 0x1B), ("fmark", 0x1C), ("stkrd", 0x1D),
    ("stkwr", 0x1E), ("yield", 0x1F), ("cmpeq", 0x20), ("cmpne", 0x21), ("cmplt", 0x22), ("cmple", 0x23), ("cmpgt", 0x24),
    ("cmpge", 0x25), ("cmpun", 0x26), ("class", 0x27), ("pand", 0x28), ("por", 0x29), ("pxor", 0x2A), ("pnot", 0x2B),
    ("pcnt", 0x2C), ("pmov", 0x2D), ("mov", 0x30), ("add", 0x31), ("sub", 0x32), ("mul", 0x33), ("mulhi", 0x34), ("mad", 0x35),
    ("min", 0x36), ("max", 0x37), ("abs", 0x38), ("neg", 0x39), ("and", 0x3A), ("or", 0x3B), ("xor", 0x3C), ("not", 0x3D),
    ("shl", 0x3E), ("shr", 0x3F), ("bfx", 0x40), ("bfi", 0x41), ("popc", 0x42), ("clz", 0x43), ("brev", 0x44), ("csel", 0x45),
    ("addw", 0x46), ("dot", 0x47), ("cvt", 0x48), ("roundi", 0x49), ("fract", 0x4A), ("ldexp", 0x4B), ("scalex", 0x4C),
    ("rcp", 0x50), ("rsq", 0x51), ("sqrt", 0x52), ("exp2", 0x53), ("log2", 0x54), ("sin", 0x55), ("cos", 0x56), ("shfl", 0x58),
    ("shflx", 0x59), ("rdlane", 0x5A), ("wrlane", 0x5B), ("ballot", 0x5C), ("vany", 0x5D), ("vall", 0x5E), ("match", 0x5F),
    ("scan", 0x60)]
def mnemonics1 : List (String × Nat) :=
  [("reduce", 0x61), ("rank", 0x62), ("regroup", 0x63), ("rebal", 0x64), ("ld8", 0x68), ("ld16", 0x69), ("ld32", 0x6A),
    ("ld64", 0x6B), ("ld128", 0x6C), ("st8", 0x6D), ("st16", 0x6E), ("st32", 0x6F), ("st64", 0x70), ("st128", 0x71),
    ("lds32", 0x72), ("lds64", 0x73), ("lds128", 0x74), ("sts32", 0x75), ("ldacq", 0x76), ("strel", 0x77), ("acqr", 0x78),
    ("fence", 0x79), ("pref", 0x7A), ("pin", 0x7B), ("unpin", 0x7C), ("cwb", 0x7D), ("cinv", 0x7E), ("aadd", 0x80),
    ("amin", 0x81), ("amax", 0x82), ("aand", 0x83), ("aor", 0x84), ("axor", 0x85), ("axchg", 0x86), ("acas", 0x87),
    ("ainc", 0x88), ("mon", 0x89), ("mwait", 0x8A), ("mcancel", 0x8B), ("stmap", 0x90), ("stunmap", 0x91), ("stflush", 0x92),
    ("mwbind", 0x93), ("mwunbind", 0x94), ("cpy", 0x95), ("cpy2d", 0x96), ("cpclose", 0x97), ("cpwait", 0x98), ("gath", 0x99),
    ("scat", 0x9A), ("qfence", 0x9B), ("bar", 0xA0), ("bara", 0xA1), ("barw", 0xA2), ("racq", 0xA3), ("rpub", 0xA4),
    ("rget", 0xA5), ("rrel", 0xA6), ("hwait", 0xA7), ("htest", 0xA8), ("hcancel", 0xA9), ("hmov", 0xAA), ("spawn", 0xAB),
    ("spawnw", 0xAC), ("succgo", 0xAD), ("predwait", 0xAE), ("mxclaim", 0xB0), ("mxrel", 0xB1), ("mxfill", 0xB2),
    ("mxzero", 0xB3), ("mxmma", 0xB4), ("mxmmas", 0xB5), ("mxmmasp", 0xB6), ("mxldacc", 0xB7), ("mxstacc", 0xB8),
    ("mxlist", 0xB9), ("kbind", 0xC0), ("kpush", 0xC1), ("kyield", 0xC2), ("kend", 0xC3), ("kdrain", 0xC4), ("snap", 0xC8),
    ("sacc", 0xC9), ("srej", 0xCA), ("sqry", 0xCB), ("ssbuild", 0xD0), ("ssbind", 0xD1), ("triemit", 0xD2), ("drawend", 0xD3),
    ("present", 0xD4)]
def mnemonics : List (String × Nat) := mnemonics0 ++ mnemonics1

/-- The place of a name in a list, whatever its case (R17). -/
def indexIn (xs : List String) (n : Name) : Option Nat := xs.findIdx? fun x => x.toList == foldCase n

/-- The opcode of a mnemonic. -/
def opcodeOf (n : Name) : Option Nat := (mnemonics.find? fun x => x.1.toList == foldCase n).map (·.2)

/-- A name that no label or .equ may have (R17). -/
def isReserved (n : Name) : Bool :=
  isRegName n || (opcodeOf n).isSome ||
    (indexIn (["laneid", "exec", "waveid", "inf", "nan", "lit", "sat"] ++ specialNames ++ typeNames ++ rndNames ++ cpolNames ++
      scopeNames ++ auseNames) n).isSome

/-! ## Tokens (R18) -/

/-- A numeric token: an integer, the float ±n / d · 2^e, or lit(…). -/
inductive Tok where
  | int (k : Int)
  | flt (neg : Bool) (n d : Nat) (e : Int)
  | inf (neg : Bool)
  | nan
  | lit (k : Int)
deriving DecidableEq, Repr

/-- A token of a line. -/
inductive Lx where
  | id (n : Name)
  | int (k : Nat)
  | flt (t : Tok)
  | sym (s : Name)
deriving DecidableEq, Repr

/-- The value of a digit. -/
def digitVal (c : Char) : Nat :=
  if c.isDigit then c.toNat - 48 else if 'a' ≤ c ∧ c ≤ 'f' then c.toNat - 87 else c.toNat - 55

def isHex (c : Char) : Bool := c.isDigit || (decide ('a' ≤ c) && decide (c ≤ 'f')) || (decide ('A' ≤ c) && decide (c ≤ 'F'))
def isBin (c : Char) : Bool := c == '0' || c == '1'

/-- The number that digits spell. -/
def digitsVal (b : Nat) (cs : List Char) : Nat := cs.foldl (fun n c => if c == '_' then n else b * n + digitVal c) 0

/-- There is a digit, and every _ stands between digits (R18). -/
def digitsOk : List Char → Bool
  | [] => false
  | [c] => c != '_'
  | c :: d :: cs => c != '_' && (if d == '_' then digitsOk cs else digitsOk (d :: cs))

/-- A run of digits of a kind, with _, and the rest. -/
def run (p : Char → Bool) (cs : List Char) : List Char × List Char :=
  (cs.takeWhile fun c => p c || c == '_', cs.dropWhile fun c => p c || c == '_')

/-- A signed exponent after its letter. -/
def exponent (cs : List Char) : Except Err (Int × List Char) :=
  let r := match cs with | '-' :: t => (true, t) | '+' :: t => (false, t) | t => (false, t)
  let ds := r.2.takeWhile Char.isDigit
  if ds.isEmpty then .error .text else .ok ((if r.1 then -(digitsVal 10 ds : Int) else digitsVal 10 ds), r.2.dropWhile Char.isDigit)

/-- A hexadecimal integer, or a hexadecimal float with a binary exponent; ds are the digits before any point. -/
def hexNumber (ds rest : List Char) : Except Err (Lx × List Char) :=
  let fraction : List Char × List Char := match rest with | '.' :: t => run isHex t | t => ([], t)
  let point : Bool := match rest with | '.' :: _ => true | _ => false
  match fraction.2 with
  | 'p' :: t =>
    match exponent t with
    | .error e => .error e
    | .ok x =>
      if (ds ++ fraction.1).contains '_' ∨ ds.isEmpty then .error .text
      else .ok (.flt (.flt false (digitsVal 16 (ds ++ fraction.1)) 1 (x.1 - 4 * fraction.1.length)), x.2)
  | t => if point ∨ !digitsOk ds then .error .text else .ok (.int (digitsVal 16 ds), t)

/-- A decimal integer, or a decimal number with a point or an exponent. DESIGN CHOICE (log 59): a point has a digit after it; `1.` and
`1.e3`, which R18 neither shows nor excludes, are errors. -/
def decNumber (ds rest : List Char) : Except Err (Lx × List Char) :=
  let fraction : List Char × List Char := match rest with | '.' :: t => run Char.isDigit t | t => ([], t)
  let point : Bool := match rest with | '.' :: _ => true | _ => false
  let value (e : Int) (t : List Char) : Except Err (Lx × List Char) :=
    if (ds ++ fraction.1).contains '_' ∨ (point ∧ fraction.1.isEmpty) then .error .text
    else
      let n := digitsVal 10 (ds ++ fraction.1)
      let k : Int := e - fraction.1.length
      .ok (.flt (if 0 ≤ k then .flt false (n * 10 ^ k.toNat) 1 0 else .flt false n (10 ^ (-k).toNat) 0), t)
  match fraction.2 with
  | 'e' :: t => (match exponent t with | .error e => .error e | .ok x => value x.1 x.2)
  | t => if point then value 0 t else if digitsOk ds then .ok (.int (digitsVal 10 ds), t) else .error .text

/-- A number token (R18). -/
def number (cs : List Char) : Except Err (Lx × List Char) :=
  match cs with
  | '0' :: 'x' :: t => hexNumber (run isHex t).1 (run isHex t).2
  | '0' :: 'b' :: t => if digitsOk (run isBin t).1 then .ok (.int (digitsVal 2 (run isBin t).1), (run isBin t).2) else .error .text
  | t => decNumber (run Char.isDigit t).1 (run Char.isDigit t).2

/-- The symbols of two characters. -/
def twoChars : List Name := ["<<", ">>", "<=", ">=", "==", "!=", "&&", "||"].map String.toList
def oneChars : List Char := ['+', '-', '*', '/', '%', '~', '!', '<', '>', '&', '^', '|', '(', ')', '[', ']', ',', ':', '=']

/-- The tokens of a line, up to its comment (R17, R18). -/
def lex : Nat → List Char → Except Err (List Lx)
  | 0, _ => .error .text
  | _, [] => .ok []
  | f + 1, c :: cs =>
    if c == ' ' || c == '\t' || c == '\r' then lex f cs
    else if c == ';' || (c == '/' && cs.head? == some '/') then .ok []
    else if c.isDigit then
      match number (c :: cs) with
      | .error e => .error e
      | .ok x => if (x.2.head?.map idRest).getD false then .error .text else (lex f x.2).map (x.1 :: ·)
    else if idStart c then
      let n := c :: cs.takeWhile idRest
      let t : Lx := if n = ['_'] ∨ n = ['.'] then .sym n
        else if foldCase n = ['i', 'n', 'f'] then .flt (.inf false) else if foldCase n = ['n', 'a', 'n'] then .flt .nan else .id n
      (lex f (cs.dropWhile idRest)).map (t :: ·)
    else if twoChars.contains (c :: cs.take 1) then (lex f (cs.drop 1)).map (.sym (c :: cs.take 1) :: ·)
    else if oneChars.contains c then (lex f cs).map (.sym [c] :: ·)
    else .error .text

/-- The lines of a source. -/
def splitLines (cs : List Char) : List (List Char) :=
  let r := cs.foldr (fun c (r : List Char × List (List Char)) => if c == '\n' then ([], r.1 :: r.2) else (c :: r.1, r.2)) ([], [])
  r.1 :: r.2

/-! ## Expressions (Grammar, R34) -/

/-- The binary operators of R34. -/
inductive Op where
  | mul | div | rem | add | sub | shl | shr | lt | le | gt | ge | eq | ne | and | xor | or | land | lor
deriving DecidableEq, Repr

/-- Precedence, higher binds tighter (R34). -/
def Op.prec : Op → Nat
  | .mul | .div | .rem => 10
  | .add | .sub => 9
  | .shl | .shr => 8
  | .lt | .le | .gt | .ge => 7
  | .eq | .ne => 6
  | .and => 5
  | .xor => 4
  | .or => 3
  | .land => 2
  | .lor => 1

/-- The operator a symbol spells. -/
def opOfSym : Name → Option Op
  | ['*'] => some .mul | ['/'] => some .div | ['%'] => some .rem | ['+'] => some .add | ['-'] => some .sub
  | ['<', '<'] => some .shl | ['>', '>'] => some .shr | ['<'] => some .lt | ['<', '='] => some .le | ['>'] => some .gt
  | ['>', '='] => some .ge | ['=', '='] => some .eq | ['!', '='] => some .ne | ['&'] => some .and | ['^'] => some .xor
  | ['|'] => some .or | ['&', '&'] => some .land | ['|', '|'] => some .lor | _ => none

/-- An expression. -/
inductive Expr where
  | int (k : Int)
  | name (n : Name)
  | here
  | neg (e : Expr)
  | compl (e : Expr)
  | not (e : Expr)
  | bin (o : Op) (x y : Expr)
  | lo (e : Expr)
  | hi (e : Expr)
  | bundles (n : Name)
deriving DecidableEq, Repr

/-- A register name in range (R19), or LANEID, EXEC, WAVEID. -/
def regOf (n : Name) : Option Operand :=
  match foldCase n with
  | ['l', 'a', 'n', 'e', 'i', 'd'] => some .laneid
  | ['e', 'x', 'e', 'c'] => some .exec
  | ['w', 'a', 'v', 'e', 'i', 'd'] => some .waveid
  | c :: ds =>
    if !isRegName n then none
    else
      let k := digitsVal 10 ds
      if c == 'v' then (if h : k < 128 then some (.v ⟨k, h⟩) else none)
      else if c == 's' then (if h : k < 64 then some (.s ⟨k, h⟩) else none)
      else if c == 'p' then (if h : k < 8 then some (.p ⟨k, h⟩) else none)
      else (if h : k < 16 then some (.h ⟨k, h⟩) else none)
  | [] => none

/-- A name that names a register, in range or not (R17). -/
def isRegWord (n : Name) : Bool := isRegName n || (indexIn ["laneid", "exec", "waveid"] n).isSome

/-- The functions lo, hi and bundles, read as such only before ( (R17); bundles takes a label (R34). -/
def applyFn (k : Nat) (e : Expr) : Except Err Expr :=
  match k, e with
  | 0, e => .ok (.lo e)
  | 1, e => .ok (.hi e)
  | _, .name n => .ok (.bundles n)
  | _, _ => .error .operand

mutual
/-- An operand of an operator: one sign at most, then a primary. -/
def parseUnary : Nat → List Lx → Except Err (Expr × List Lx)
  | 0, _ => .error .text
  | f + 1, .sym ['-'] :: ts => (parsePrimary f ts).map fun x => (.neg x.1, x.2)
  | f + 1, .sym ['~'] :: ts => (parsePrimary f ts).map fun x => (.compl x.1, x.2)
  | f + 1, .sym ['!'] :: ts => (parsePrimary f ts).map fun x => (.not x.1, x.2)
  | f + 1, ts => parsePrimary f ts
/-- An integer, a name, a parenthesis, the place or a function. DESIGN CHOICE (log 59): an integer token of 2^64 or more is an error; 02 R18
and R34 do not say what it is worth. -/
def parsePrimary : Nat → List Lx → Except Err (Expr × List Lx)
  | 0, _ => .error .text
  | _ + 1, .int k :: ts => if k < 18446744073709551616 then .ok (.int k, ts) else .error .range
  | _ + 1, .sym ['.'] :: ts => .ok (.here, ts)
  | f + 1, .sym ['('] :: ts => parseParen f ts
  | f + 1, .id n :: ts =>
    if isRegWord n then .error .operand
    else
      match indexIn ["lo", "hi", "bundles"] n, ts with
      | some k, .sym ['('] :: us =>
        (match parseParen f us with
         | .error e => .error e
         | .ok x => (applyFn k x.1).map fun e => (e, x.2))
      | _, _ => .ok (.name n, ts)
  | _ + 1, _ => .error .text
/-- An expression up to its closing parenthesis. -/
def parseParen : Nat → List Lx → Except Err (Expr × List Lx)
  | 0, _ => .error .text
  | f + 1, ts =>
    match parseExpr f 1 ts with
    | .error e => .error e
    | .ok (e, .sym [')'] :: us) => .ok (e, us)
    | .ok _ => .error .text
/-- An expression of operators that bind at least as tightly as p. -/
def parseExpr : Nat → Nat → List Lx → Except Err (Expr × List Lx)
  | 0, _, _ => .error .text
  | f + 1, p, ts =>
    match parseUnary f ts with
    | .error e => .error e
    | .ok x => climb f p x.1 x.2
/-- Operators of one precedence group to the left. -/
def climb : Nat → Nat → Expr → List Lx → Except Err (Expr × List Lx)
  | 0, _, _, _ => .error .text
  | f + 1, p, x, ts =>
    match ts with
    | .sym s :: us =>
      (match opOfSym s with
       | none => .ok (x, ts)
       | some o =>
         if o.prec < p then .ok (x, ts)
         else
           match parseExpr f (o.prec + 1) us with
           | .error e => .error e
           | .ok y => climb f p (.bin o x y.1) y.2)
    | _ => .ok (x, ts)
end

/-- Tokens that are one whole expression. -/
def wholeExpr (ts : List Lx) : Except Err Expr :=
  match parseExpr (4 * ts.length + 4) 1 ts with
  | .error e => .error e
  | .ok (e, []) => .ok e
  | .ok _ => .error .text

/-! ## Operands and statements (Grammar) -/

/-- The offset of a memory operand: none, a register, or an expression that is added or subtracted (R20). -/
inductive MemOff where
  | zero
  | reg (o : Operand)
  | plus (e : Expr)
  | minus (e : Expr)
deriving DecidableEq, Repr

/-- An operand or a directive's argument. -/
inductive Arg where
  | reg (o : Operand)
  /-- a range: first register and length -/
  | range (o : Operand) (len : Nat)
  | discard
  | mem (base : Operand) (off : MemOff)
  | num (e : Expr)
  | flt (t : Tok)
  | lit (e : Expr)
  /-- ~pN of a mode item -/
  | notP (p : Nat)
deriving DecidableEq, Repr

/-- A range's first register and length: two registers of one kind, the second not before the first (R19). -/
def rangeOf : Operand → Operand → Except Err Arg
  | .v a, .v b => if a.val ≤ b.val then .ok (.range (.v a) (b.val + 1 - a.val)) else .error .operand
  | .s a, .s b => if a.val ≤ b.val then .ok (.range (.s a) (b.val + 1 - a.val)) else .error .operand
  | .p a, .p b => if a.val ≤ b.val then .ok (.range (.p a) (b.val + 1 - a.val)) else .error .operand
  | .h a, .h b => if a.val ≤ b.val then .ok (.range (.h a) (b.val + 1 - a.val)) else .error .operand
  | _, _ => .error .operand

/-- The memory operand between brackets (R20). -/
def memOf (ts : List Lx) : Except Err Arg :=
  match ts with
  | .id n :: us =>
    match regOf n with
    | none => .error .operand
    | some b =>
      match us with
      | [] => .ok (.mem b .zero)
      | .sym ['+'] :: vs =>
        (match vs with
         | [.id m] => if isRegWord m then (match regOf m with | none => .error .operand | some o => .ok (.mem b (.reg o)))
             else (wholeExpr vs).map fun e => .mem b (.plus e)
         | _ => (wholeExpr vs).map fun e => .mem b (.plus e))
      | .sym ['-'] :: vs => (wholeExpr vs).map fun e => .mem b (.minus e)
      | _ => .error .operand
  | _ => .error .operand

/-- Drop the last token if it is this symbol. -/
def dropLastSym (c : Char) (ts : List Lx) : Option (List Lx) := if ts.getLast? = some (.sym [c]) then some ts.dropLast else none

/-- An operand from its tokens; a leading - may belong to a float (R18, Table 2.1). -/
def operandArg (ts : List Lx) : Except Err Arg :=
  match ts with
  | [.id n] =>
    if isRegWord n then (match regOf n with | some o => .ok (.reg o) | none => .error .operand) else .ok (.num (.name n))
  | [.id n, .sym [':'], .id m] =>
    (match regOf n, regOf m with | some a, some b => rangeOf a b | _, _ => .error .operand)
  | [.sym ['_']] => .ok .discard
  | [.flt t] => .ok (.flt t)
  | [.sym ['-'], .flt (.flt _ n d e)] => .ok (.flt (.flt true n d e))
  | [.sym ['-'], .flt (.inf _)] => .ok (.flt (.inf true))
  | [.sym ['-'], .flt .nan] => .ok (.flt .nan)
  | .sym ['['] :: us => (match dropLastSym ']' us with | some vs => memOf vs | none => .error .text)
  | [.sym ['~'], .id n] =>
    (match regOf n with | some (.p p) => .ok (.notP p.val) | _ => (wholeExpr ts).map .num)
  | .id n :: .sym ['('] :: us =>
    if (indexIn ["lit"] n).isSome then
      (match dropLastSym ')' us with | some vs => (wholeExpr vs).map .lit | none => .error .text)
    else (wholeExpr ts).map .num
  | _ => (wholeExpr ts).map .num

/-- Split at the commas that stand in no bracket. -/
def splitCommas (depth : Nat) (cur : List Lx) : List Lx → List (List Lx)
  | [] => [cur]
  | t :: ts =>
    if t = .sym [','] ∧ depth = 0 then cur :: splitCommas 0 [] ts
    else
      let d := if t = .sym ['('] ∨ t = .sym ['['] then depth + 1 else if t = .sym [')'] ∨ t = .sym [']'] then depth - 1 else depth
      splitCommas d (cur ++ [t]) ts

/-- The arguments that tokens give, each parsed. -/
def argList {α : Type} (f : List Lx → Except Err α) (ts : List Lx) : Except Err (List α) :=
  if ts.isEmpty then .ok [] else (splitCommas 0 [] ts).mapM f

/-- A directive's argument: a value, or a key with a value or a list. -/
inductive DirArg where
  | plain (a : Arg)
  | key (k : Name) (vs : List Arg)
deriving DecidableEq, Repr

/-- A key's value outside parentheses: an expression or a name. -/
def keyExpr (ts : List Lx) : Except Err (List Arg) :=
  match operandArg ts with
  | .ok (.num e) => .ok [.num e]
  | .ok _ => .error .operand
  | .error e => .error e

/-- A key's value: one, or a list in parentheses. DESIGN CHOICE (log 59): a list may be empty, () for a recipe with no live register of a
kind; 02 R32 is silent. -/
def keyVal (ts : List Lx) : Except Err (List Arg) :=
  match ts with
  | .sym ['('] :: us =>
    (match dropLastSym ')' us with
     | some vs => (match argList operandArg vs with | .ok xs => .ok xs | .error _ => keyExpr ts)
     | none => keyExpr ts)
  | _ => keyExpr ts

def dirArg (ts : List Lx) : Except Err DirArg :=
  match ts with
  | .id k :: .sym ['='] :: us => (keyVal us).map fun vs => .key k vs
  | _ => (operandArg ts).map .plain

/-- A statement. -/
inductive Stmt where
  | instr (op : Nat) (args : List Arg) (marked : Bool)
  | dir (name : Name) (args : List DirArg)
deriving DecidableEq, Repr

/-- A line: at most one label and one statement (R17). -/
structure SrcLine where
  label : Option Name
  stmt : Option Stmt
deriving DecidableEq, Repr

/-- A statement from its tokens: a directive's name begins with a point, and ! after an instruction marks its slot (R23). -/
def stmtOf (ts : List Lx) : Except Err (Option Stmt) :=
  match ts with
  | [] => .ok none
  | .id n :: us =>
    match n with
    | '.' :: _ => (argList dirArg us).map fun as => some (.dir (foldCase n) as)
    | _ =>
      match opcodeOf n with
      | none => .error .text
      | some op =>
        let m := dropLastSym '!' us
        (argList operandArg (m.getD us)).map fun as => some (.instr op as m.isSome)
  | _ => .error .text

/-- A line from its characters. -/
def parseLine (cs : List Char) : Except Err SrcLine :=
  if cs.any fun c => decide (128 ≤ c.toNat) then .error .text
  else
    match lex (cs.length + 1) cs with
    | .error e => .error e
    | .ok (.id n :: .sym [':'] :: ts) =>
      if isReserved n then .error .reserved else (stmtOf ts).map fun s => { label := some n, stmt := s }
    | .ok ts => (stmtOf ts).map fun s => { label := none, stmt := s }

/-- A source, line by line. -/
def parse (src : List Char) : Except Err (List SrcLine) := (splitLines src).mapM parseLine

end Sys2Proof.Asm
end

