-- ==== Sys2Proof/Machine/Asm.lean ====
section
/-! DEFINITION. What the assembler of 02 makes of parsed text: numeric operands (R21), mode items and the assumed MODE (R27, R28),
packing into bundles (R24), label values and branch offsets (R25, R26), expressions and relocation (R34, R35), data and the record
directives (R29 to R33). It is a tool and no part of State (log 59). -/

namespace Sys2Proof.Asm

open Machine

/-! ## Numeric operands (R21) -/

/-- k modulo 2^32. -/
def word32 (k : Int) : Word := BitVec.ofInt 32 k

/-- An integer token of a position that converts nothing: an inline code or a literal (Table 2.1). -/
def encodeInt (k : Int) : Except Err Operand :=
  if 0 ≤ k ∧ k ≤ 15 then .ok (.int (Fin.ofNat 16 k.toNat))
  else if -2147483648 ≤ k ∧ k < 4294967296 then .ok (.lit (word32 k))
  else .error .range

/-- A number in a format under RNE; overflow and codes the format lacks are errors (R21). -/
def floatCode (f : Fmt) : Tok → Except Err Nat
  | .flt ng n d e =>
    if n = 0 then .ok (f.signed ng 0)
    else
      let r := roundRat f 0 false ng n d e
      if r.2 &&& Flag.of ≠ 0 then .error .overflow else .ok r.1
  | .int k =>
    if k = 0 then .ok 0
    else
      let r := roundRat f 0 false (decide (k < 0)) k.natAbs 1 0
      if r.2 &&& Flag.of ≠ 0 then .error .overflow else .ok r.1
  | .inf ng => if f.special = .ieee then .ok (f.signed ng f.infCode) else .error .overflow
  | .nan => if f.special = .none then .error .overflow else .ok f.nan
  | .lit _ => .error .float

/-- The inline code of ±0.5, ±1, ±2, ±4 (03 Table 3.5). -/
def inlineFloat (t : Tok) : Option (Fin 8) :=
  match t with
  | .int k => if k = 1 then some 1 else if k = 2 then some 2 else if k = 4 then some 3 else if k = -1 then some 5
      else if k = -2 then some 6 else if k = -4 then some 7 else none
  | .flt ng n d e =>
    let v (x y : Nat) : Bool := if 0 ≤ e then n * 2 ^ e.toNat * y == x * d else n * y == x * d * 2 ^ (-e).toNat
    let base : Option Nat := if v 1 2 then some 0 else if v 1 1 then some 1 else if v 2 1 then some 2 else if v 4 1 then some 3 else none
    base.map fun b => Fin.ofNat 8 (if ng then b + 4 else b)
  | _ => none

/-- Table 2.1: a numeric operand in a value or raw position under the assumed TYPE. -/
def encodeNum (value : Bool) (ty : Option Nat) (t : Tok) : Except Err Operand :=
  match t with
  | .lit k => .ok (.lit (word32 k))
  | _ =>
    if !value then (match t with | .int k => encodeInt k | _ => .error .float)
    else
      match ty with
      | none => .error .unknownType
      | some ty =>
        if isFloat ty then
          match inlineFloat t with
          | some c => .ok (.flt c)
          | none =>
            match floatCode (fmtOf ty) t with
            | .error e => .error e
            | .ok c => .ok (.lit (word (replicateElem (elemWidth ty) (elemCount ty) c)))
        else
          match t with
          | .int k =>
            if elemCount ty = 1 then encodeInt k
            else if 0 ≤ k ∧ k ≤ 15 then .ok (.int (Fin.ofNat 16 k.toNat))
            else if -(2 ^ (elemWidth ty - 1) : Int) ≤ k ∧ k < 2 ^ elemWidth ty then
              .ok (.lit (word (replicateElem (elemWidth ty) (elemCount ty) (k % 2 ^ elemWidth ty).toNat)))
            else .error .range
          | _ => .error .float

/-- A memory operand's offset (R20): missing is 0; sN - expr is the literal of the negated value. -/
def encodeOffset : Option (Bool × Int) → Except Err Operand
  | none => .ok (.int 0)
  | some (false, k) => encodeInt k
  | some (true, k) => encodeInt (-k)

/-- The destination _ is code 0xE0 (R22). -/
def discard : Operand := .int 0

/-! ## Mode items and the assumed MODE (R27, R28) -/

/-- A mode item of Table 2.2. -/
inductive ModeItem where
  | type (k : Nat)
  | rnd (k : Nat)
  | sat
  | guard (neg : Bool) (p : Nat)
  | cpol (k : Nat)
  | scope (k : Nat)
  | ause (k : Nat)
deriving DecidableEq, Repr

/-- The class of an item. -/
def ModeItem.cls : ModeItem → Nat
  | .type _ => 0
  | .rnd _ => 1
  | .sat => 2
  | .guard _ _ => 3
  | .cpol _ => 4
  | .scope _ => 5
  | .ause _ => 6

/-- The bits an item sets in MODE (03 Table 3.6). -/
def ModeItem.bits : ModeItem → Nat
  | .type k => k
  | .rnd k => 16 * k
  | .sat => 128
  | .guard n p => 256 * p + (if n then 2048 else 0)
  | .cpol k => 4096 * k
  | .scope k => 32768 * k
  | .ause k => 262144 * k

/-- The MODE that items describe, missing classes at code 0; a repeated class is an error (R27). -/
def modeBits (xs : List ModeItem) : Except Err Nat :=
  if (xs.map ModeItem.cls).Nodup then .ok (xs.foldl (fun n x => n + x.bits) 0) else .error .class_

/-- MODEA takes TYPE, RND, SAT, GUARD and GNEG (R27). -/
def encodeModea (xs : List ModeItem) : Except Err Instr :=
  if xs.any fun x => decide (4 ≤ x.cls) then .error .class_
  else match modeBits xs with | .error e => .error e | .ok n => .ok (.modea (BitVec.ofNat 16 n))

/-- MODEM takes CPOL, SCOPE and AUSE (R27). -/
def encodeModem (xs : List ModeItem) : Except Err Instr :=
  if xs.any fun x => decide (x.cls < 4) then .error .class_
  else match modeBits xs with | .error e => .error e | .ok n => .ok (.modem (BitVec.ofNat 16 (n / 4096)))

/-- TRAP takes an integer 0 to 15 (R27). -/
def encodeTrap (k : Int) : Except Err Instr :=
  if 0 ≤ k ∧ k ≤ 15 then .ok (.trap (BitVec.ofNat 16 k.toNat)) else .error .range

/-- The assumed MODE: its TYPE, none when unknown, and its other fields (R28). -/
structure Assumed where
  type : Option Nat
  rest : Nat
deriving DecidableEq, Repr

/-- At a .kernel (R28). DESIGN CHOICE (log 59): before the first .kernel too, where R28 states no assumed MODE. -/
def Assumed.kernel : Assumed := { type := some 0, rest := 0 }

/-- After .assume (R28). -/
def Assumed.assume (xs : List ModeItem) : Except Err Assumed :=
  match modeBits xs with
  | .error e => .error e
  | .ok n => .ok { type := some (n % 16), rest := n / 16 * 16 }

/-- After an instruction, in source order (R28). -/
def Assumed.after (m : Assumed) : Instr → Assumed
  | .modea imm => { type := some (imm.toNat % 16), rest := m.rest / 4096 * 4096 + imm.toNat / 16 % 256 * 16 }
  | .modem imm => { m with rest := m.rest % 4096 + 4096 * (imm.toNat % 512) }
  | .modeld _ => { m with type := none }
  | _ => m

/-! ## Packing (R23, R24, R25) -/

/-- A relocatable field: its place in the image, the value that the load base is added to, and lo or hi of it (R35). -/
structure Fix where
  at_ : Nat
  v : Int
  half : Option Bool
deriving DecidableEq, Repr

/-- A statement of .text. -/
inductive Line where
  /-- an instruction, its marker, the labels of its branch operand and its BRX rejoin, the value its literal is lo or hi of, and the
  assumed TYPE -/
  | code (i : Instr) (marked : Bool) (target rejoin : Option Name) (reloc : Option (Int × Bool)) (ty : Nat)
  /-- a label, and whether a use of R25 makes it start a bundle -/
  | label (n : Name) (starts : Bool)
  /-- .bundle -/
  | bundle
  /-- .align by a multiple of 32 (R29) -/
  | align (n : Nat)
deriving DecidableEq, Repr

/-- No slot after these could execute (R24). -/
def endsBundle : Instr → Bool
  | .jmp _ | .call _ _ | .ret _ | .jmpr _ | .rett => true
  | _ => false

/-- The slots an instruction takes (R24). -/
def slotsOf (i : Instr) : Nat :=
  match encode i with
  | some (_, some _) => 2
  | _ => 1

/-- A placed instruction: its bundle, its slot, its line. -/
structure Placed where
  bundle : Nat
  slot : Nat
  instr : Instr
  marked : Bool
  target : Option Name
  rejoin : Option Name
  reloc : Option (Int × Bool)
  ty : Nat
deriving DecidableEq, Repr

/-- The packer: the current bundle's address and next free slot (8 when closed), what is placed, label values, and labels that
await the next instruction (R25). -/
structure Packer where
  base : Nat
  slot : Nat
  placed : List Placed
  labels : List (Name × Nat)
  waiting : List Name
deriving DecidableEq, Repr

def Packer.start : Packer := { base := 0, slot := 1, placed := [], labels := [], waiting := [] }

/-- Close the current bundle and open the next, unless it is still empty (R24). -/
def Packer.open_ (p : Packer) : Packer := if p.slot = 1 then p else { p with base := p.base + 32, slot := 1 }

/-- The packer where an instruction of k slots lands (R24). -/
def Packer.landing (p : Packer) (k : Nat) : Packer := if 8 < p.slot + k then p.open_ else p

/-- Give a name a value; it may have only one. -/
def define (t : List (Name × Nat)) (n : Name) (v : Nat) : Except Err (List (Name × Nat)) :=
  if t.any fun e => e.1 == n then .error .redefined else .ok (t ++ [(n, v)])

/-- Place one statement of .text (R24, R25). -/
def Packer.add (p : Packer) : Line → Except Err Packer
  | .code i m t r l ty =>
    let k := slotsOf i
    let q := p.landing k
    let at_ := q.base + 4 * q.slot
    match p.waiting.foldlM (fun t n => define t n at_) p.labels with
    | .error e => .error e
    | .ok labels =>
      .ok { base := q.base, slot := if endsBundle i then 8 else q.slot + k,
            placed := p.placed ++ [{ bundle := q.base, slot := q.slot, instr := i, marked := m, target := t, rejoin := r, reloc := l
                                     ty := ty }],
            labels := labels, waiting := [] }
  | .label n false => .ok { p with waiting := p.waiting ++ [n] }
  | .label n true =>
    let q := p.open_
    match define q.labels n q.base with
    | .error e => .error e
    | .ok labels => .ok { q with labels := labels }
  | .bundle => .ok p.open_
  | .align n =>
    if n = 0 ∨ n % 32 ≠ 0 then .error .align
    else
      let q := p.open_
      .ok { q with base := (q.base + n - 1) / n * n }

/-- The end of .text: labels that no instruction follows take the place where one would land. -/
def Packer.finish (p : Packer) : Except Err Packer :=
  let q := p.landing 1
  match p.waiting.foldlM (fun t n => define t n (q.base + 4 * q.slot)) p.labels with
  | .error e => .error e
  | .ok labels => .ok { p with labels := labels, waiting := [] }

/-- The size of the section: whole bundles. -/
def Packer.size (p : Packer) : Nat := if p.slot = 1 then p.base else p.base + 32

/-- The value of a label. -/
def lookup (t : List (Name × Nat)) (n : Name) : Option Nat := (t.find? fun e => e.1 == n).map (·.2)

/-- The offset in bundles from one bundle to another (R26). -/
def bundleOffset (src dst : Nat) : Except Err (BitVec 16) :=
  let d := ((dst : Int) - src) / 32
  if -32768 ≤ d ∧ d ≤ 32767 then .ok (BitVec.ofInt 16 d) else .error .offset

/-- Put the branch offsets into an instruction (R26). -/
def branchTo (i : Instr) (off : BitVec 16) (rejoin : Word) : Instr :=
  match i with
  | .jmp _ => .jmp off
  | .brz r _ => .brz r off
  | .brnz r _ => .brnz r off
  | .bany r _ => .bany r off
  | .ball r _ => .ball r off
  | .call r _ => .call r off
  | .brx r _ _ => .brx r off rejoin
  | i => i

/-- The offset that a branch operand stands for; 0 where there is none. -/
def offsetOf (labels : List (Name × Nat)) (bundle : Nat) : Option Name → Except Err (BitVec 16)
  | none => .ok 0
  | some n => match lookup labels n with
    | none => .error .undefined
    | some v => bundleOffset bundle v

/-- The words of a placed instruction (R26). -/
def Placed.emit (labels : List (Name × Nat)) (p : Placed) : Except Err (Word × Option Word) :=
  match offsetOf labels p.bundle p.target, offsetOf labels p.bundle p.rejoin with
  | .ok t, .ok r =>
    (match encode (branchTo p.instr t (r.setWidth 32)) with
     | none => .error .operand
     | some w => .ok w)
  | .error e, _ => .error e
  | _, .error e => .error e

/-- The relocatable literal of a placed instruction lies in the slot after it. -/
def Placed.fix (p : Placed) : Option Fix :=
  p.reloc.map fun r => { at_ := p.bundle + 4 * (p.slot + 1), v := r.1, half := some r.2 }

/-- The control word and slots of a bundle (03 Table 3.1, R23, R24): unused slots hold NOP. -/
def bundleWords (ps : List (Placed × Word × Option Word)) : List Word :=
  let marks := ps.foldl (fun n p => if p.1.marked then n + 2 ^ (p.1.slot - 1) else n) 0
  let lits := ps.foldl (fun n p => if p.2.2.isSome then n + 2 ^ (7 + p.1.slot) else n) 0
  let slot (k : Nat) : Word :=
    match ps.find? fun p => p.1.slot == k, ps.find? fun p => p.1.slot + 1 == k && p.2.2.isSome with
    | some p, _ => p.2.1
    | none, some p => p.2.2.getD 0
    | none, none => 0
  word (marks + lits) :: [1, 2, 3, 4, 5, 6, 7].map slot

/-- The words of a packed section. -/
def Packer.words (p : Packer) : Except Err (List Word) :=
  match p.placed.mapM (fun x => (x.emit p.labels).map fun w => (x, w)) with
  | .error e => .error e
  | .ok ws => .ok ((upTo (p.size / 32)).flatMap fun k => bundleWords (ws.filter fun x => x.1.bundle == 32 * k))

/-- The instructions of 04 R78 whose results return later. -/
def longLatency (op : Nat) : Bool :=
  [0x17, 0x50, 0x51, 0x52, 0x53, 0x54, 0x55, 0x56, 0x58, 0x59, 0x5F, 0x60, 0x61, 0x64, 0x68, 0x69, 0x6A, 0x6B, 0x6C, 0x72, 0x73,
    0x74, 0x76, 0x78, 0x80, 0x81, 0x82, 0x83, 0x84, 0x85, 0x86, 0x87, 0x88].contains op

/-- The registers that a long-latency instruction writes: those of D, which `uses` lists last; an atomic's data is not written. -/
def writtenCodes (i : Instr) (ty : Nat) : List Nat :=
  match i.shape with
  | .f3 op (some d) _ _ =>
    if !longLatency op then [] else if decide (0x80 ≤ op) then codesOf ty (d, .val) else (i.uses.getLast?.map (codesOf ty)).getD []
  | _ => []

/-- The registers that an instruction reads: CALL only writes its pair (22 R308), and of an atomic's D only ACAS reads the result
register, the others the data after it (22 R291, R292). -/
def readCodes (i : Instr) (ty : Nat) : List Nat :=
  let sources := i.uses.dropLast.flatMap (codesOf ty)
  match i.shape with
  | .fb op _ _ _ => if op = 0x08 then [] else instrCodes i ty
  | .f3 op (some d) _ _ =>
    if 0x80 ≤ op ∧ op ≤ 0x88 ∧ op ≠ 0x87 then
      sources ++ ((i.uses.getLast?.map (codesOf ty)).getD []).drop (codesOf ty (d, .val)).length
    else if readsD op then instrCodes i ty else sources
  | _ => instrCodes i ty

/-- Straight-line code ends at an instruction that may leave it. -/
def leavesLine (i : Instr) : Bool :=
  match i.shape with
  | .fb _ _ _ _ => true
  | _ => endsBundle i || i == .exit

/-- R23's warning: in straight-line code an instruction reads a register that a long-latency instruction writes, with no marked
slot in between. `entries` are the bundles that labels start, `open_` the registers awaited. -/
def warns (entries : List Nat) (open_ : List Nat) : List Placed → Bool
  | [] => false
  | p :: ps =>
    let o := if p.slot = 1 ∧ entries.contains p.bundle then [] else open_
    (readCodes p.instr p.ty).any (fun c => o.contains c) ||
      warns entries (if p.marked || leavesLine p.instr then [] else o ++ writtenCodes p.instr p.ty) ps

/-! ## Expressions (R34, R35) -/

/-- A 64-bit number in two's complement. -/
def wrap64 (x : Int) : Int := (BitVec.ofInt 64 x).toInt

/-- A value: `base` counts the load base in it; `half` marks lo and hi of a relocatable value (R35). -/
structure Val where
  v : Int
  base : Int
  half : Option Bool
deriving DecidableEq, Repr

def Val.abs (v : Int) : Val := { v := wrap64 v, base := 0, half := none }

/-- An absolute value's number. -/
def Val.number (x : Val) : Except Err Int := if x.base = 0 ∧ x.half = none then .ok x.v else .error .relocation

/-- An operator on absolute values (R34). -/
def Op.apply (o : Op) (x y : Int) : Except Err Int :=
  let t (b : Bool) : Int := if b then 1 else 0
  let bits (f : BitVec 64 → BitVec 64 → BitVec 64) : Int := (f (BitVec.ofInt 64 x) (BitVec.ofInt 64 y)).toInt
  match o with
  | .mul => .ok (x * y)
  | .div => if y = 0 then .error .divide else .ok (Int.tdiv x y)
  | .rem => if y = 0 then .error .divide else .ok (Int.tmod x y)
  | .add => .ok (x + y)
  | .sub => .ok (x - y)
  | .shl => if y < 0 ∨ 63 < y then .error .range else .ok (x * 2 ^ y.toNat)
  | .shr => if y < 0 ∨ 63 < y then .error .range else .ok (x / 2 ^ y.toNat)
  | .lt => .ok (t (decide (x < y)))
  | .le => .ok (t (decide (x ≤ y)))
  | .gt => .ok (t (decide (y < x)))
  | .ge => .ok (t (decide (y ≤ x)))
  | .eq => .ok (t (x == y))
  | .ne => .ok (t (x != y))
  | .and => .ok (bits (· &&& ·))
  | .xor => .ok (bits (· ^^^ ·))
  | .or => .ok (bits (· ||| ·))
  | .land => .ok (t (x != 0 && y != 0))
  | .lor => .ok (t (x != 0 || y != 0))

/-- Evaluate an expression where a name has a value and the current slot or byte has an address; data has no current bundle
(R34, R35). -/
def Expr.eval (env : Name → Option Val) (here : Nat) (bundle : Option Nat) : Expr → Except Err Val
  | .int k => .ok (Val.abs k)
  | .here => .ok { v := here, base := 1, half := none }
  | .name n => match env n with | none => .error .undefined | some x => .ok x
  | .bundles n => match env n, bundle with
    | none, _ => .error .undefined
    | some _, none => .error .section_
    | some x, some b => if x.base = 1 ∧ x.half = none then .ok (Val.abs ((x.v / 32 * 32 - b) / 32)) else .error .relocation
  | .neg e => match e.eval env here bundle with
    | .error r => .error r
    | .ok x => if x.half.isSome then .error .relocation else .ok { v := wrap64 (-x.v), base := -x.base, half := none }
  | .compl e => match e.eval env here bundle with
    | .error r => .error r
    | .ok x => x.number.map fun v => Val.abs (-v - 1)
  | .not e => match e.eval env here bundle with
    | .error r => .error r
    | .ok x => x.number.map fun v => Val.abs (if v = 0 then 1 else 0)
  | .lo e => match e.eval env here bundle with
    | .error r => .error r
    | .ok x => if x.half.isSome then .error .relocation else if x.base = 0 then .ok (Val.abs (x.v % 4294967296))
        else if x.base = 1 then .ok { x with half := some false } else .error .relocation
  | .hi e => match e.eval env here bundle with
    | .error r => .error r
    | .ok x => if x.half.isSome then .error .relocation else if x.base = 0 then .ok (Val.abs (x.v / 4294967296 % 4294967296))
        else if x.base = 1 then .ok { x with half := some true } else .error .relocation
  | .bin o e f =>
    match e.eval env here bundle, f.eval env here bundle with
    | .ok x, .ok y =>
      if x.half.isSome || y.half.isSome then .error .relocation
      else
        match o with
        | .add => .ok { v := wrap64 (x.v + y.v), base := x.base + y.base, half := none }
        | .sub => .ok { v := wrap64 (x.v - y.v), base := x.base - y.base, half := none }
        | o => if x.base ≠ 0 ∨ y.base ≠ 0 then .error .relocation else (o.apply x.v y.v).map Val.abs
    | .error r, _ => .error r
    | _, .error r => .error r

/-- The loader's value of a field: it adds the load base to a relocatable one (R29, R35). -/
def Val.loaded (x : Val) (load : Nat) : Except Err Nat :=
  let full := ((x.v + (if x.base = 1 then (load : Int) else 0)) % 18446744073709551616).toNat
  if x.base ≠ 0 ∧ x.base ≠ 1 then .error .relocation
  else match x.half with
    | none => .ok full
    | some false => .ok (full % 4294967296)
    | some true => .ok (full / 4294967296)

/-! ## Data and records (R29 to R33) -/

/-- An integer of w bytes lies from −2^(8w−1) to 2^(8w) − 1 (Table 2.3). -/
def dataBytes (w : Nat) (v : Int) : Except Err (List Byte) :=
  if -(2 ^ (8 * w - 1) : Int) ≤ v ∧ v < 2 ^ (8 * w) then .ok (leBytes (v % 2 ^ (8 * w)).toNat w) else .error .range

/-- A value of the integer directives: a relocatable one takes 8 bytes, lo and hi of it take 4 or 8 (R35, Table 2.3). -/
def valueBytes (w : Nat) (x : Val) : Except Err (List Byte × Option (Int × Option Bool)) :=
  if x.base = 0 ∧ x.half = none then (dataBytes w x.v).map fun b => (b, none)
  else if x.base = 1 ∧ (w = 8 ∨ (w = 4 ∧ x.half.isSome)) then
    (x.loaded 0).map fun v => (leBytes v w, some (x.v, x.half))
  else .error .relocation

/-- A magnitude above 448, which .f8a does not take (Table 2.3). -/
def above448 : Tok → Bool
  | .int k => decide (448 < k.natAbs)
  | .flt _ n d e => if 0 ≤ e then decide (448 * d < n * 2 ^ e.toNat) else decide (448 * d * 2 ^ (-e).toNat < n)
  | .inf _ => true
  | _ => false

/-- .float, .bf16 and .f8a: rounded to nearest even; what is too large for binary32 or bf16 rounds to an infinity (Table 2.3). -/
def floatBytes (f : Fmt) (w : Nat) (t : Tok) : Except Err (List Byte) :=
  if f.special = .f8a ∧ above448 t then .error .overflow
  else
    match t with
    | .flt ng n d e => .ok (leBytes (if n = 0 then f.signed ng 0 else (roundRat f 0 false ng n d e).1) w)
    | .int k => .ok (leBytes (if k = 0 then 0 else (roundRat f 0 false (decide (k < 0)) k.natAbs 1 0).1) w)
    | t => (floatCode f t).map fun c => leBytes c w

/-- Zero bytes up to a multiple of n, a power of two from 1 to 65536 (Table 2.3). -/
def padTo (at_ n : Nat) : Except Err (List Byte) :=
  if (List.range 17).any fun k => n == 2 ^ k then .ok (List.replicate ((n - at_ % n) % n) 0) else .error .align

/-- .space (Table 2.3). -/
def space (n fill : Nat) : Except Err (List Byte) :=
  if 255 < fill then .error .range else .ok (List.replicate n (BitVec.ofNat 8 fill))

/-- What the directives of a kernel give (R30). -/
structure Kernel where
  entry : Nat
  regs : Nat
  scratch : Nat
  roles : List Nat
deriving DecidableEq, Repr

/-- The limits of R30. -/
def Kernel.ok (k : Kernel) : Bool :=
  k.regs % 8 == 0 && decide (8 ≤ k.regs) && decide (k.regs ≤ 128) && k.scratch % 32 == 0 && decide (k.scratch ≤ 524288) &&
    [1, 2, 4, 8].contains k.roles.length && k.roles.all fun r => decide (r ≤ 3)

/-- The roles field: the list repeated to eight nibbles (R30). -/
def Kernel.roleWord (k : Kernel) : Nat := (upTo 8).foldl (fun n i => n + 16 ^ i * nth k.roles (i % k.roles.length) 0) 0

/-- The keys of .launch (Table 2.4); addresses are image offsets. -/
structure LaunchKeys where
  kernel : Kernel
  args : Nat
  blocks : Nat
  waves : Nat
  tiles : Nat := 0
  slots : Nat := 0
  priority : Nat := 0
  graphics : Bool := false
  pred : Nat := 0
  early : Bool := false
  lease : Nat := 256
  trap : Nat
deriving DecidableEq, Repr

/-- A predecessor field of 05 Table 5.4: 0, or an id whose [31:24] lie from 1 to 64. -/
def predOk (n : Nat) : Bool := n == 0 || (decide (1 ≤ n / 16777216) && decide (n / 16777216 ≤ 64))

/-- The limits of Table 2.4 and of the fields of 05 Table 5.4. -/
def LaunchKeys.ok (l : LaunchKeys) : Bool :=
  l.kernel.ok && decide (1 ≤ l.blocks) && decide (l.blocks < 4294967296) && decide (1 ≤ l.waves) && decide (l.waves ≤ 128) &&
    decide (l.tiles ≤ 192) && decide (l.slots ≤ 32) && decide (l.priority ≤ 3) && predOk l.pred &&
    (!l.early || l.pred != 0) && decide (16 ≤ l.lease) && decide (l.lease ≤ 4096)

/-- The 64 bytes of a launch record (05 Table 5.4), the code base 0 until it is loaded. -/
def LaunchKeys.record (l : LaunchKeys) : Except Err (List Byte) :=
  if !l.ok then .error .range
  else .ok (leBytes l.kernel.entry 8 ++ leBytes l.args 8 ++ leBytes l.blocks 4 ++ leBytes l.waves 2 ++ leBytes l.kernel.regs 1 ++
    leBytes ((if l.graphics then 1 else 0) + (if l.early then 2 else 0)) 1 ++ leBytes l.kernel.scratch 4 ++
    leBytes l.kernel.roleWord 4 ++ leBytes l.tiles 2 ++ leBytes l.slots 2 ++ leBytes l.priority 1 ++
    leBytes (if l.graphics then 1 else 0) 1 ++ leBytes 0 2 ++ leBytes l.pred 4 ++ leBytes l.lease 4 ++ leBytes l.trap 8 ++
    leBytes 0 8)

/-- A mask with one bit for each register of a list (R32). -/
def maskBits (rs : List Nat) : Nat := rs.dedup.foldl (fun n r => n + 2 ^ r) 0

/-- The 64 bytes of a recipe descriptor (R32, 18 Table 18.4). -/
def recipeBytes (vlive slive plive : List Nat) (entry resume : Nat) : Except Err (List Byte) :=
  if (vlive.any fun r => decide (128 ≤ r)) || (slive.any fun r => decide (64 ≤ r)) || (plive.any fun r => decide (8 ≤ r)) then
    .error .range
  else .ok (leBytes (maskBits vlive) 16 ++ leBytes (maskBits slive) 8 ++ leBytes (maskBits plive) 1 ++ leBytes 0 7 ++
    leBytes entry 8 ++ leBytes resume 8 ++ leBytes 0 16)

/-- The 64 bytes of a stage descriptor (R33, 14 Table 14.1). -/
def stageBytes (entry saved record flags idle spill cap : Nat) : Except Err (List Byte) :=
  if 12 < saved ∨ record < 1 ∨ 4 < record ∨ 0xFFFF < flags ∨ 4294967295 < idle then .error .range
  else .ok (leBytes entry 8 ++ leBytes saved 1 ++ leBytes record 1 ++ leBytes flags 2 ++ leBytes idle 4 ++ leBytes spill 8 ++
    leBytes cap 4 ++ leBytes 0 36)

/-- The 64 bytes of a sample-set descriptor (R33, 15 Table 15.1). -/
def sampleSetBytes (samples count leaf flags x0 y0 x1 y1 index indexSize arena arenaSize : Nat) : Except Err (List Byte) :=
  if leaf < 4 ∨ 64 < leaf ∨ 0xFFFFFF < flags ∨ [x0, y0, x1, y1].any fun b => decide (65535 < b) then .error .range
  else .ok (leBytes samples 8 ++ leBytes count 4 ++ leBytes leaf 1 ++ leBytes flags 3 ++ leBytes x0 2 ++ leBytes y0 2 ++
    leBytes x1 2 ++ leBytes y1 2 ++ leBytes index 8 ++ leBytes indexSize 4 ++ leBytes 0 4 ++ leBytes arena 8 ++
    leBytes arenaSize 4 ++ leBytes 0 12)

/-- The bytes of an image (R29): .text from offset 0, .data at the next multiple of 256. -/
def imageBytes (text : List Word) (data : List Byte) : List Byte :=
  let t := text.flatMap fun w => leBytes w.toNat 4
  if data.isEmpty then t else t ++ List.replicate ((256 - t.length % 256) % 256) 0 ++ data

end Sys2Proof.Asm
end

