-- ==== Sys2Proof/Machine/AsmImage.lean ====
section
/-! DEFINITION. The assembler of 02 from source text to image: the operand forms of every mnemonic (R19 to R22, the reference
entries), sections, kernels and directives (R29 to R33), label values that settle over passes, the image and its loading (R29,
R35, R36). It is a tool and no part of State (log 59). -/

namespace Sys2Proof.Asm

open Machine

/-! ## Instructions -/

/-- How the operands of a mnemonic are written. -/
inductive Form where
  /-- the fields that the entry names, in the order D, A, B -/
  | plain
  /-- D, if named, then [sA + B] (R20) -/
  | mem
  /-- D, [sA + B], data (22 R291) -/
  | atomic
  /-- a register, if any, then labels (R26) -/
  | branch
  /-- D, name, A (24 R401) -/
  | srd
  /-- A, name (24 R401) -/
  | swr
  /-- a descriptor's label (R32, 22 R325) -/
  | fmark
  /-- mode items (R27) -/
  | items
  /-- an integer 0 to 15 (R27) -/
  | trap
deriving DecidableEq, Repr

/-- The form of an opcode. -/
def formOf (op : Nat) : Form :=
  if (1 ≤ op ∧ op ≤ 6) ∨ op = 8 then .branch
  else if op = 0x0C then .trap
  else if op = 0x10 ∨ op = 0x11 then .items
  else if op = 0x14 then .srd
  else if op = 0x15 then .swr
  else if op = 0x1C then .fmark
  else if (0x68 ≤ op ∧ op ≤ 0x78) ∨ (0x7A ≤ op ∧ op ≤ 0x7C) ∨ op = 0x89 then .mem
  else if 0x80 ≤ op ∧ op ≤ 0x88 then .atomic
  else .plain

/-- A is a value position (R21; 22 R290, R313, R310, R314, 23 R346, R359, 24 R399): compares, CLASS, the ALU but CSEL and SCALEX, and the
special functions. -/
def valueA (op : Nat) : Bool :=
  decide (0x20 ≤ op ∧ op ≤ 0x27) || (decide (0x30 ≤ op ∧ op ≤ 0x4B) && op != 0x45) || decide (0x50 ≤ op ∧ op ≤ 0x56)

/-- B is a value position: compares, ADD to MAX, AND to XOR, CSEL, ADDW, DOT. -/
def valueB (op : Nat) : Bool :=
  decide (0x20 ≤ op ∧ op ≤ 0x26) || decide (0x31 ≤ op ∧ op ≤ 0x37) || decide (0x3A ≤ op ∧ op ≤ 0x3C) || [0x45, 0x46, 0x47].contains op

/-- What the encoding of an instruction depends on: the assumed MODE, the footprint, and values of expressions and labels where it
lands. -/
structure Env where
  ty : Option Nat
  ause : Nat
  regs : Nat
  eval : Expr → Except Err Val
  label : Name → Option Nat

/-- The TYPE that is assumed, or every TYPE where it is unknown (R28). -/
def Env.types (c : Env) : List Nat := match c.ty with | some ty => [ty] | none => List.range 15

/-- An encoded operand, and the value its literal is lo or hi of if the loader relocates it (R35). -/
abbrev Src := Operand × Option (Int × Bool)

/-- The number of an absolute expression. -/
def Env.num (c : Env) (e : Expr) : Except Err Int :=
  match c.eval e with
  | .error r => .error r
  | .ok x => x.number

/-- lit(expr): the literal of expr modulo 2^32, relocated if the expression is (R21, R35). -/
def Env.litOf (c : Env) (e : Expr) : Except Err Src :=
  match c.eval e with
  | .error r => .error r
  | .ok x =>
    let h := x.half.getD false
    (match x.loaded 0 with
     | .error r => .error r
     | .ok v => .ok (.lit (word v), if x.base = 0 then none else some (x.v, h)))

/-- A source operand in a value or raw position (R21, R22). -/
def Env.source (c : Env) (value : Bool) : Arg → Except Err Src
  | .reg o | .range o _ => .ok (o, none)
  | .num e => (match c.num e with | .error r => .error r | .ok k => (encodeNum value c.ty (.int k)).map fun o => (o, none))
  | .flt t => (encodeNum value c.ty t).map fun o => (o, none)
  | .lit e => c.litOf e
  | .discard | .mem _ _ | .notP _ => .error .operand

/-- A field D: a register or _ (R22). -/
def destOf : Arg → Except Err Operand
  | .reg o | .range o _ => .ok o
  | .discard => .ok discard
  | _ => .error .operand

/-- The base and offset of a memory operand (R20). -/
def Env.memory (c : Env) : Arg → Except Err (Operand × Operand)
  | .mem b .zero => .ok (b, .int 0)
  | .mem b (.reg o) => .ok (b, o)
  | .mem b (.plus e) =>
    (match c.num e with | .error r => .error r | .ok k => (encodeOffset (some (false, k))).map fun o => (b, o))
  | .mem b (.minus e) =>
    (match c.num e with | .error r => .error r | .ok k => (encodeOffset (some (true, k))).map fun o => (b, o))
  | _ => .error .operand

/-- A constant of an atomic's data: always a literal of the value rows (22 R291). -/
def valueLit (ty : Option Nat) (o : Operand) : Operand :=
  match o with
  | .int k => .lit (word k.val)
  | .flt k => .lit (word (fltCode (fmtOf (ty.getD 2)) k.val))
  | o => o

/-- The register that an atomic's data operand names: D + 1, or D + 2 under n64 (22 R291). -/
def dataReg (ty : Nat) (d : Operand) : Option Operand :=
  let n := if ty = Ty.n64 then 2 else 1
  match d with
  | .v r => if h : r.val + n < 128 then some (.v ⟨r.val + n, h⟩) else none
  | .s r => if h : r.val + n < 64 then some (.s ⟨r.val + n, h⟩) else none
  | _ => none

/-- An atomic (22 R291): a constant operand needs [sA] with no offset, a register must be the one that holds the data under the TYPE, or
under some TYPE where it is unknown. -/
def Env.atomic (c : Env) (d m x : Arg) : Except Err (Operand × Operand × Src) :=
  match destOf d, c.memory m with
  | .ok d, .ok (a, b) =>
    (match x with
     | .reg o | .range o _ =>
       if (c.types.any fun ty => dataReg ty d == some o) && !(match b with | .lit _ => true | _ => false) then .ok (d, a, b, none)
       else .error .operand
     | x =>
       (match m with
        | .mem _ .zero => (c.source true x).map fun o => (d, a, valueLit c.ty o.1, o.2)
        | _ => .error .operand))
  | .error e, _ => .error e
  | _, .error e => .error e

/-- A mode item (Table 2.2). -/
def itemOf : Arg → Except Err ModeItem
  | .reg (.p k) => .ok (.guard false k.val)
  | .notP k => .ok (.guard true k)
  | .num (.name n) =>
    match indexIn typeNames n, indexIn rndNames n, indexIn ["sat"] n, indexIn cpolNames n, indexIn scopeNames n, indexIn auseNames n with
    | some k, _, _, _, _, _ => .ok (.type k)
    | _, some k, _, _, _, _ => .ok (.rnd k)
    | _, _, some _, _, _, _ => .ok .sat
    | _, _, _, some k, _, _ => .ok (.cpol k)
    | _, _, _, _, some k, _ => .ok (.scope k)
    | _, _, _, _, _, some k => .ok (.ause k)
    | _, _, _, _, _, _ => .error .operand
  | _ => .error .operand

/-- The index of a special register: its name, or a number (R19), or lit(expr) (Table 2.1). -/
def Env.special (c : Env) : Arg → Except Err Src
  | .reg .laneid => .ok (.int 0, none)
  | .reg .waveid => .ok (.int 1, none)
  | .reg .exec => .ok (.int 9, none)
  | .num (.name n) =>
    (match indexIn specialNames n with
     | some k => (encodeInt k).map fun o => (o, none)
     | none => (match c.num (.name n) with | .error r => .error r | .ok k => (encodeInt k).map fun o => (o, none)))
  | .num e => (match c.num e with | .error r => .error r | .ok k => (encodeInt k).map fun o => (o, none))
  | .lit e => c.litOf e
  | _ => .error .operand

/-- The label that an operand names. -/
def labelArg : Arg → Except Err Name
  | .num (.name n) => .ok n
  | _ => .error .operand

/-- An instruction before its branch offsets are known: its branch operand, rejoin and relocatable literal. -/
structure Coded where
  instr : Instr
  target : Option Name
  rejoin : Option Name
  reloc : Option (Int × Bool)
deriving DecidableEq, Repr

/-- An F3 instruction of the fields it names. -/
def coded (op : Nat) (d a b : Operand) (r : Option (Int × Bool)) : Except Err Coded :=
  match instrOf op d a b 0 (match b with | .lit w => w | _ => 0) with
  | some i => .ok { instr := i, target := none, rejoin := none, reloc := r }
  | none => .error .text

/-- A branch (R26). -/
def branch (op : Nat) (r : Operand) (t : Name) (j : Option Name) : Except Err Coded :=
  match instrOf op r r r 0 0 with
  | some i => .ok { instr := i, target := some t, rejoin := j, reloc := none }
  | none => .error .text

/-- Which of D, A and B an opcode's entry names. -/
def fieldsOf (op : Nat) : Bool × Bool × Bool :=
  match (instrOf op .laneid .laneid .laneid 0 0).map Instr.shape with
  | some (.f3 _ d a b) => (d.isSome, a.isSome, b.isSome)
  | _ => (false, false, false)

/-- An F3 instruction whose operands stand in the order D, A, B. -/
def Env.plain (c : Env) (op : Nat) (args : List Arg) : Except Err Coded :=
  let u : Operand := .laneid
  let src (v : Bool) (x : Arg) : Except Err Src := c.source v x
  match fieldsOf op, args with
  | (false, false, false), [] => coded op u u u none
  | (true, false, false), [d] => (match destOf d with | .ok d => coded op d u u none | .error e => .error e)
  | (false, true, false), [a] => (match src (valueA op) a with | .ok a => coded op u a.1 u a.2 | .error e => .error e)
  | (false, false, true), [b] => (match src (valueB op) b with | .ok b => coded op u u b.1 b.2 | .error e => .error e)
  | (true, true, false), [d, a] =>
    (match destOf d, src (valueA op) a with
     | .ok d, .ok a => coded op d a.1 u a.2
     | .error e, _ => .error e
     | _, .error e => .error e)
  | (true, false, true), [d, b] =>
    (match destOf d, src (valueB op) b with
     | .ok d, .ok b => coded op d u b.1 b.2
     | .error e, _ => .error e
     | _, .error e => .error e)
  | (false, true, true), [a, b] =>
    (match src (valueA op) a, src (valueB op) b with
     | .ok a, .ok b => coded op u a.1 b.1 (a.2.or b.2)
     | .error e, _ => .error e
     | _, .error e => .error e)
  | (true, true, true), [d, a, b] =>
    (match destOf d, src (valueA op) a, src (valueB op) b with
     | .ok d, .ok a, .ok b => coded op d a.1 b.1 (a.2.or b.2)
     | .error e, _, _ => .error e
     | _, .error e, _ => .error e
     | _, _, .error e => .error e)
  | _, _ => .error .operand

/-- An instruction from its operands, before the checks of R19 and R22. -/
def Env.build (c : Env) (op : Nat) (args : List Arg) : Except Err Coded :=
  let u : Operand := .laneid
  let one (i : Except Err Instr) : Except Err Coded := i.map fun i => { instr := i, target := none, rejoin := none, reloc := none }
  match formOf op, args with
  | .plain, args => c.plain op args
  | .mem, [m] =>
    (match fieldsOf op, c.memory m with
     | (false, _, _), .ok (a, b) => coded op u a b none
     | _, .error e => .error e
     | _, _ => .error .operand)
  | .mem, [d, m] =>
    (match fieldsOf op, destOf d, c.memory m with
     | (true, _, _), .ok d, .ok (a, b) => coded op d a b none
     | _, .error e, _ => .error e
     | _, _, .error e => .error e
     | _, _, _ => .error .operand)
  | .atomic, [d, m, x] => (match c.atomic d m x with | .ok (d, a, b, r) => coded op d a b r | .error e => .error e)
  | .branch, [t] => if op = 1 then (match labelArg t with | .ok t => branch op u t none | .error e => .error e) else .error .operand
  | .branch, [r, t] =>
    if op = 1 ∨ op = 6 then .error .operand
    else (match destOf r, labelArg t with | .ok r, .ok t => branch op r t none | .error e, _ => .error e | _, .error e => .error e)
  | .branch, [r, t, j] =>
    if op ≠ 6 then .error .operand
    else
      (match destOf r, labelArg t, labelArg j with
       | .ok r, .ok t, .ok j => branch op r t (some j)
       | .error e, _, _ => .error e
       | _, .error e, _ => .error e
       | _, _, .error e => .error e)
  | .srd, [d, n] =>
    (match destOf d, c.special n with | .ok d, .ok b => coded op d (.v 0) b.1 b.2 | .error e, _ => .error e | _, .error e => .error e)
  | .srd, [d, n, a] =>
    (match destOf d, c.special n, c.source false a with
     | .ok d, .ok b, .ok a => coded op d a.1 b.1 (a.2.or b.2)
     | .error e, _, _ => .error e
     | _, .error e, _ => .error e
     | _, _, .error e => .error e)
  | .swr, [a, n] =>
    (match c.source false a, c.special n with
     | .ok a, .ok b => coded op u a.1 b.1 (a.2.or b.2)
     | .error e, _ => .error e
     | _, .error e => .error e)
  | .fmark, [n] =>
    (match labelArg n with
     | .error e => .error e
     | .ok n => (match c.label n with | none => .error .undefined | some v => one (.ok (.fmark (word v)))))
  | .items, args =>
    (match args.mapM itemOf with
     | .error e => .error e
     | .ok xs => one (if op = 0x10 then encodeModea xs else encodeModem xs))
  | .trap, [.num e] => (match c.num e with | .error r => .error r | .ok k => one (encodeTrap k))
  | _, _ => .error .operand

/-- The types an entry allows; every other TYPE raises ILLEGAL (R22, 11 Table 11.5). -/
def typeAllowed (op ty : Nat) (b : Operand) : Bool :=
  if op = 0x26 ∨ op = 0x27 then isFloat ty
  else if op = 0x31 ∨ op = 0x32 ∨ op = 0x36 ∨ op = 0x37 then tyAdd ty
  else if op = 0x33 ∨ op = 0x35 then tyMul ty
  else if op = 0x34 then tyMulhi ty
  else if op = 0x38 ∨ op = 0x39 then tyAbs ty
  else if 0x3A ≤ op ∧ op ≤ 0x3F then tyLogic ty
  else if (0x40 ≤ op ∧ op ≤ 0x44) ∨ op = 0x46 ∨ op = 0x64 then tyInt32 ty
  else if op = 0x47 then tyDot ty
  else if op = 0x48 ∨ op = 0x58 ∨ op = 0x59 ∨ op = 0x5A ∨ op = 0x5B ∨ op = 0x5F then tyNot64 ty
  else if (0x49 ≤ op ∧ op ≤ 0x4B) ∨ (0x50 ≤ op ∧ op ≤ 0x56) then tyF ty
  else if op = 0x60 then tyScan ty
  else if op = 0x61 then (match b with | .int k => if k.val ≤ 2 then tyScan ty else tyBits ty | _ => false)
  else true

/-- The operation of an atomic's opcode (22 Table 22.3). -/
def atomicOp (op : Nat) : AtomicOp :=
  nth [.add, .min, .max, .and, .or, .xor, .xchg, .cas, .inc] (op - 0x80) .inc

/-- The checks of R19 and R22 on an instruction: operand kinds, groups and the footprint under the TYPE (under some TYPE where it is
unknown), a vector source with an s destination, and the assumed TYPE when it is known. -/
def Env.check (c : Env) (i : Instr) : Except Err Unit :=
  if !i.wellFormed then .error .operand
  else if !(c.types.any fun ty => i.uses.all (spanOk c.regs ty)) then .error .range
  else
    match i.shape with
    | .f3 op d a b =>
      let alu := decide (0x30 ≤ op ∧ op ≤ 0x4C) || decide (0x50 ≤ op ∧ op ≤ 0x56)
      if alu && vectorToScalar (d.getD .laneid) (a.toList ++ b.toList) then .error .operand
      else
        (match c.ty with
         | none => .ok ()
         | some ty =>
           let atomic := decide (0x80 ≤ op ∧ op ≤ 0x88)
           if !(typeAllowed op ty (b.getD .laneid)) then .error .type
           else if atomic && !(atomicTypes (atomicOp op) ty && useAllows c.ause ty (atomicOp op)) then .error .type
           else .ok ())
    | _ => .ok ()

/-- The spans of an instruction's operands in the order in which they are written: D, A, B. -/
def argSpans (i : Instr) : List Span :=
  match i.shape with
  | .f3 _ (some _) _ _ => ((i.uses.getLast?.toList) ++ i.uses.dropLast).map (·.2)
  | _ => i.uses.map (·.2)

/-- A range of n registers fits a span; under an unknown TYPE a span that depends on it may have any of its lengths. -/
def spanFits (ty : Option Nat) (sp : Span) (n : Nat) : Bool :=
  match ty, sp with
  | none, .val | none, .raw => decide (1 ≤ n ∧ n ≤ 2)
  | none, .cvtD _ | none, .cvtA _ => decide (1 ≤ n ∧ n ≤ 8)
  | _, sp => spanLen (ty.getD 0) sp == n

/-- The range at position k has exactly the length that its operand takes, and every register of it lies within the footprint (R19).
KPUSH's record has the 1 to 4 words of its stage; an atomic's result and data are pairs under n64 and one register otherwise. -/
def rangeOk (regs : Nat) (ty : Option Nat) (i : Instr) (k : Nat) : Arg → Bool
  | .range o n =>
    (match o with | .v r => decide (r.val + n ≤ regs) | _ => true) &&
      (match i.shape with
       | .f3 op _ _ _ =>
         if 0x80 ≤ op ∧ op ≤ 0x88 then spanFits ty .val n
         else if op = 0xC1 ∧ k = 0 then decide (n ≤ 4)
         else spanFits ty (nth (argSpans i) k .one) n
       | _ => spanFits ty (nth (argSpans i) k .one) n)
  | .mem (.s r) _ => r.val % 2 == 0
  | _ => true

/-- Assemble one instruction where it lands. -/
def Env.assemble (c : Env) (op : Nat) (args : List Arg) : Except Err Coded :=
  match c.build op args with
  | .error e => .error e
  | .ok x =>
    match c.check x.instr with
    | .error e => .error e
    | .ok _ => if ((upTo args.length).zip args).all fun e => rangeOk c.regs c.ty x.instr e.1 e.2 then .ok x else .error .operand

/-! ## Which labels start bundles (R25) -/

/-- The labels of bundles() in an expression. -/
def Expr.bundleNames : Expr → List Name
  | .bundles n => [n]
  | .neg e | .compl e | .not e | .lo e | .hi e => e.bundleNames
  | .bin _ x y => x.bundleNames ++ y.bundleNames
  | .int _ | .name _ | .here => []

def Arg.bundleNames : Arg → List Name
  | .num e | .lit e => e.bundleNames
  | .mem _ (.plus e) | .mem _ (.minus e) => e.bundleNames
  | _ => []

/-- A label that is an operand. -/
def Arg.names : Arg → List Name
  | .num (.name n) => [n]
  | _ => []

def DirArg.starts : DirArg → List Name
  | .plain a => a.bundleNames
  | .key k vs => vs.flatMap fun a =>
      (if (indexIn ["trap", "entry", "resume"] k).isSome then a.names else []) ++ a.bundleNames

def Stmt.starts : Stmt → List Name
  | .instr op args _ => (if formOf op = .branch then args.flatMap Arg.names else []) ++ args.flatMap Arg.bundleNames
  | .dir n args =>
    (if n == ".kernel".toList then args.flatMap fun a => (match a with | .plain a => a.names | _ => []) else []) ++
      args.flatMap DirArg.starts

/-! ## Passes over a source -/

/-- What a pass leaves for the next: label values as image offsets, .equ values, kernels, and the size of .text. -/
structure Symbols where
  text : List (Name × Nat)
  data : List (Name × Nat)
  equs : List (Name × Val)
  kernels : List (Name × Kernel)
  size : Nat
deriving DecidableEq, Repr

def Symbols.start : Symbols := { text := [], data := [], equs := [], kernels := [], size := 0 }

/-- .data follows .text at the next multiple of 256 (R29). -/
def Symbols.dataBase (s : Symbols) : Nat := (s.size + 255) / 256 * 256

/-- The image offset of a label. -/
def Symbols.label (s : Symbols) (n : Name) : Option Nat := (lookup s.text n).or (lookup s.data n)

/-- The value of a name. -/
def Symbols.value (s : Symbols) (n : Name) : Option Val :=
  ((s.label n).map fun v => ({ v := v, base := 1, half := none } : Val)).or ((s.equs.find? fun e => e.1 == n).map (·.2))

/-- A pass: `prev` is what the pass before left. -/
structure Pass where
  prev : Symbols
  starts : List Name
  pk : Packer
  data : List Byte
  dataLabels : List (Name × Nat)
  equs : List (Name × Val)
  inData : Bool
  mode : Assumed
  kernel : Option Name
  kernels : List (Name × Kernel)
  globals : List Name
  fixes : List Fix
deriving DecidableEq, Repr

def Pass.start (prev : Symbols) (starts : List Name) : Pass :=
  { prev := prev, starts := starts, pk := Packer.start, data := [], dataLabels := [], equs := [], inData := false, mode := Assumed.kernel
    kernel := none, kernels := [], globals := [], fixes := [] }

/-- A name already has a value. -/
def Pass.has (p : Pass) (n : Name) : Bool :=
  p.pk.labels.any (·.1 == n) || p.pk.waiting.contains n || p.dataLabels.any (·.1 == n) || p.equs.any (·.1 == n)

/-- A new name: not reserved, not defined before (R17). -/
def Pass.fresh (p : Pass) (n : Name) : Except Err Unit :=
  if isReserved n then .error .reserved else if p.has n then .error .redefined else .ok ()

/-- The image offset of the next data byte. -/
def Pass.place (p : Pass) : Nat := p.prev.dataBase + p.data.length

/-- Define a label here (R25). -/
def Pass.label (p : Pass) (n : Name) : Except Err Pass :=
  match p.fresh n with
  | .error e => .error e
  | .ok _ =>
    if p.inData then .ok { p with dataLabels := p.dataLabels ++ [(n, p.place)] }
    else (p.pk.add (.label n (p.starts.contains n))).map fun k => { p with pk := k }

/-- What an expression is worth where a slot or a data byte lies. -/
def Pass.evalAt (p : Pass) (here : Nat) (bundle : Option Nat) (e : Expr) : Except Err Val := e.eval p.prev.value here bundle

/-- What an expression is worth in a directive. -/
def Pass.eval (p : Pass) (e : Expr) : Except Err Val :=
  let q := p.pk.landing 1
  if p.inData then p.evalAt p.place none e else p.evalAt (q.base + 4 * q.slot) (some q.base) e

/-- The footprint of the open kernel; outside kernels every register is there (R19). -/
def Pass.regs (p : Pass) : Nat :=
  match p.kernel with
  | none => 128
  | some n => ((p.prev.kernels.find? fun e => e.1 == n).map (·.2.regs)).getD 128

/-- The environment of an instruction of k slots. -/
def Pass.env (p : Pass) (k : Nat) : Env :=
  let q := p.pk.landing k
  { ty := p.mode.type, ause := p.mode.rest / 262144, regs := p.regs, eval := p.evalAt (q.base + 4 * q.slot) (some q.base)
    label := p.prev.label }

/-- Place an instruction; one that takes a literal may land elsewhere, so it is read there again (R24). -/
def Pass.instr (p : Pass) (op : Nat) (args : List Arg) (marked : Bool) : Except Err Pass :=
  let put (x : Coded) : Except Err Pass :=
    (p.pk.add (.code x.instr marked x.target x.rejoin x.reloc (p.mode.type.getD 0))).map fun k =>
      { p with pk := k, mode := p.mode.after x.instr }
  if p.inData then .error .section_
  else
    match (p.env 1).assemble op args with
    | .error e => .error e
    | .ok x =>
      if slotsOf x.instr = 1 then put x
      else
        match (p.env 2).assemble op args with
        | .error e => .error e
        | .ok y => if slotsOf y.instr = 2 then put y else .error .settle

/-! ## Directives (R29 to R33) -/

/-- Append data with its relocatable fields, by their place in the bytes. -/
def Pass.emit (p : Pass) (bs : List Byte) (fs : List (Nat × Int × Option Bool)) : Pass :=
  { p with data := p.data ++ bs, fixes := p.fixes ++ fs.map fun f => { at_ := p.place + f.1, v := f.2.1, half := f.2.2 } }

/-- An absolute argument. -/
def Pass.int (p : Pass) (a : Arg) : Except Err Int :=
  match a with
  | .num e => (match p.eval e with | .error r => .error r | .ok x => x.number)
  | _ => .error .operand

/-- An absolute argument from lo to hi. -/
def Pass.nat (p : Pass) (a : Arg) (lo hi : Nat) : Except Err Nat :=
  match p.int a with
  | .error e => .error e
  | .ok k => if (lo : Int) ≤ k ∧ k ≤ hi then .ok k.toNat else .error .range

/-- A float or an integer (Table 2.3). -/
def Pass.tok (p : Pass) (a : Arg) : Except Err Tok :=
  match a with
  | .flt t => .ok t
  | a => (p.int a).map .int

/-- The plain arguments of a directive. -/
def plains (args : List DirArg) : Except Err (List Arg) :=
  args.mapM fun a => match a with | .plain a => .ok a | .key _ _ => .error .operand

/-- .byte, .half, .word and .dword: the place of each value is where it lies. -/
def Pass.ints (w : Nat) (p : Pass) (a : Arg) : Except Err Pass :=
  match a with
  | .num e =>
    (match p.eval e with
     | .error r => .error r
     | .ok x => (valueBytes w x).map fun b => p.emit b.1 (b.2.toList.map fun f => (0, f)))
  | _ => .error .operand

/-- .float, .bf16 and .f8a. -/
def Pass.floats (f : Fmt) (w : Nat) (p : Pass) (a : Arg) : Except Err Pass :=
  match p.tok a with
  | .error e => .error e
  | .ok t => (floatBytes f w t).map fun b => p.emit b []

/-- The keys of a record directive: each known and given once (R31). -/
def keysOk (known : List String) (args : List DirArg) : Bool :=
  let ks := args.map fun a => match a with | .key k _ => k | .plain _ => []
  ks.all (fun k => known.any fun n => n.toList == k) && decide ks.Nodup

/-- The values of a key. -/
def keyArgs (args : List DirArg) (k : String) : Option (List Arg) :=
  args.findSome? fun a => match a with | .key n vs => if n == k.toList then some vs else none | .plain _ => none

/-- A number from lo to hi; a missing key takes its default or is an error. -/
def Pass.keyNat (p : Pass) (args : List DirArg) (k : String) (lo hi : Nat) (dflt : Option Nat) : Except Err Nat :=
  match keyArgs args k, dflt with
  | some [a], _ => p.nat a lo hi
  | some _, _ => .error .operand
  | none, some d => .ok d
  | none, none => .error .missing

/-- An address in the 8 bytes at a place of the record: absolute, or a label and an offset or lo or hi of one, which the loader relocates
(R35). -/
def Pass.keyAddr (p : Pass) (args : List DirArg) (k : String) (at_ : Nat) (dflt : Option Nat) :
    Except Err (Nat × List (Nat × Int × Option Bool)) :=
  match keyArgs args k, dflt with
  | some [.num e], _ =>
    (match p.eval e with
     | .error r => .error r
     | .ok x => (x.loaded 0).map fun v => (v, if x.base = 0 then [] else [(at_, x.v, x.half)]))
  | some _, _ => .error .operand
  | none, some d => .ok (d, [])
  | none, none => .error .missing

/-- A label of .text (Table 2.4, R32, R33). -/
def Pass.keyText (p : Pass) (args : List DirArg) (k : String) : Except Err Nat :=
  match keyArgs args k with
  | some [.num (.name n)] => (match lookup p.prev.text n with | some v => .ok v | none => .error .undefined)
  | some _ => .error .operand
  | none => .error .missing

/-- A name as the value of a key. -/
def keyName (args : List DirArg) (k : String) : Except Err Name :=
  match keyArgs args k with
  | some [.num (.name n)] => .ok n
  | some _ => .error .operand
  | none => .error .missing

/-- The numbers of the registers of one item of a list. -/
def regItem (kind : Operand → Option Nat) : Arg → Except Err (List Nat)
  | .reg o => (match kind o with | some k => .ok [k] | none => .error .operand)
  | .range o n => (match kind o with | some k => .ok ((upTo n).map (k + ·)) | none => .error .operand)
  | _ => .error .operand

/-- The numbers of the registers of a list, all of one kind (R32). -/
def regList (kind : Operand → Option Nat) (as : List Arg) : Except Err (List Nat) := (as.mapM (regItem kind)).map List.flatten

def keyRegs (args : List DirArg) (k : String) (kind : Operand → Option Nat) : Except Err (List Nat) :=
  match keyArgs args k with
  | some as => regList kind as
  | none => .error .missing

def vNum : Operand → Option Nat | .v r => some r.val | _ => none
def sNum : Operand → Option Nat | .s r => some r.val | _ => none
def pNum : Operand → Option Nat | .p r => some r.val | _ => none

/-- .launch (R31, Table 2.4). -/
def Pass.launch (p : Pass) (args : List DirArg) : Except Err (List Byte × List (Nat × Int × Option Bool)) := do
  let k ← keyName args "kernel"
  let kn ← match p.prev.kernels.find? fun e => e.1 == k with | some e => .ok e.2 | none => .error .undefined
  let entry ← match lookup p.prev.text k with | some v => .ok v | none => .error .undefined
  let a ← p.keyAddr args "args" 8 none
  let blocks ← p.keyNat args "blocks" 1 4294967295 none
  let waves ← p.keyNat args "waves" 1 128 none
  let tiles ← p.keyNat args "tiles" 0 192 (some 0)
  let slots ← p.keyNat args "slots" 0 32 (some 0)
  let priority ← p.keyNat args "priority" 0 3 (some 0)
  let cls ← match keyArgs args "class" with
    | none => .ok 0
    | some [.num (.name n)] => (match ["compute", "graphics"].findIdx? fun (r : String) => r.toList == n with | some c => .ok c | none => .error .operand)
    | some _ => .error .operand
  let pred ← p.keyNat args "pred" 0 4294967295 (some 0)
  let early ← p.keyNat args "early" 0 1 (some 0)
  let lease ← p.keyNat args "lease" 16 4096 (some 256)
  let trap ← p.keyText args "trap"
  let r ← LaunchKeys.record { kernel := { kn with entry := entry }, args := a.1, blocks := blocks, waves := waves, tiles := tiles
                              slots := slots, priority := priority, graphics := cls == 1, pred := pred, early := early == 1
                              lease := lease, trap := trap }
  .ok (r, [(0, (entry : Int), none)] ++ a.2 ++ [(48, (trap : Int), none), (56, 0, none)])

/-- .recipe (R32). -/
def Pass.recipe (p : Pass) (args : List DirArg) : Except Err (List Byte × List (Nat × Int × Option Bool)) := do
  let v ← keyRegs args "vlive" vNum
  let s ← keyRegs args "slive" sNum
  let q ← keyRegs args "plive" pNum
  let e ← p.keyText args "entry"
  let m ← p.keyText args "resume"
  let r ← recipeBytes v s q e m
  .ok (r, [(32, (e : Int), none), (40, (m : Int), none)])

/-- .stage (R33). -/
def Pass.stage (p : Pass) (args : List DirArg) : Except Err (List Byte × List (Nat × Int × Option Bool)) := do
  let e ← p.keyText args "entry"
  let w ← p.keyNat args "saved" 0 12 none
  let n ← p.keyNat args "record" 1 4 none
  let f ← p.keyNat args "flags" 0 0xFFFF (some 0)
  let i ← p.keyNat args "idle" 0 4294967295 (some 0)
  let sp ← p.keyAddr args "spill" 16 (some 0)
  let c ← p.keyNat args "spillcap" 0 4294967295 (some 0)
  let r ← stageBytes e w n f i sp.1 c
  if (keyArgs args "spill").isSome ≠ (keyArgs args "spillcap").isSome then .error .missing
  else .ok (r, [(0, (e : Int), none)] ++ sp.2)

/-- .sampleset (R33). -/
def Pass.sampleset (p : Pass) (args : List DirArg) : Except Err (List Byte × List (Nat × Int × Option Bool)) := do
  let s ← p.keyAddr args "samples" 0 none
  let n ← p.keyNat args "count" 0 4294967295 none
  let l ← p.keyNat args "leaf" 4 64 none
  let f ← p.keyNat args "flags" 0 0xFFFFFF (some 0)
  let bs ← match keyArgs args "bounds" with | some as => as.mapM fun a => p.nat a 0 65535 | none => .error .missing
  let i ← p.keyAddr args "index" 24 none
  let iz ← p.keyNat args "indexsize" 0 4294967295 none
  let a ← p.keyAddr args "arena" 40 none
  let az ← p.keyNat args "arenasize" 0 4294967295 none
  match bs with
  | [x0, y0, x1, y1] =>
    (sampleSetBytes s.1 n l f x0 y0 x1 y1 i.1 iz a.1 az).map fun r => (r, s.2 ++ i.2 ++ a.2)
  | _ => .error .operand

/-- A record: .data aligned to 64 bytes, the name defined there, its bytes (R31 to R33). DESIGN CHOICE (log 59): `.` in a key is the
record's first byte; 02 R34 says only the current data byte. -/
def Pass.record (p : Pass) (known : List String) (args : List DirArg)
    (f : Pass → List DirArg → Except Err (List Byte × List (Nat × Int × Option Bool))) : Except Err Pass :=
  match args with
  | .plain (.num (.name n)) :: ks =>
    let q := p.emit (List.replicate ((64 - p.place % 64) % 64) 0) []
    if !(keysOk known ks) then .error .operand
    else
      (match q.fresh n with
       | .error e => .error e
       | .ok _ => (f q ks).map fun r => { q.emit r.1 r.2 with dataLabels := q.dataLabels ++ [(n, q.place)] })
  | _ => .error .operand

/-- Change the open kernel's record. -/
def Pass.modKernel (p : Pass) (f : Kernel → Kernel) : Except Err Pass :=
  match p.kernel with
  | none => .error .section_
  | some n => .ok { p with kernels := p.kernels.map fun e => if e.1 == n then (n, f e.2) else e }

/-- .kernel (R28, R30). -/
def Pass.openKernel (p : Pass) (n : Name) : Except Err Pass :=
  if p.kernel.isSome then .error .section_
  else
    match p.fresh n with
    | .error e => .error e
    | .ok _ =>
      (p.pk.add (.label n true)).map fun k =>
        { p with pk := k, kernel := some n, mode := Assumed.kernel
                 kernels := p.kernels ++ [(n, { entry := 0, regs := 0, scratch := 0, roles := [0] })] }

/-- .end: the kernel has its .regs (R30). -/
def Pass.closeKernel (p : Pass) : Except Err Pass :=
  match p.kernel with
  | none => .error .section_
  | some n =>
    match p.kernels.find? fun e => e.1 == n with
    | some e => if e.2.ok then .ok { p with kernel := none } else .error .missing
    | none => .error .missing

/-- A role's code (R30). -/
def roleOf : Arg → Except Err Nat
  | .num (.name n) => (match roleNames.findIdx? fun (r : String) => r.toList == n with | some r => .ok r | none => .error .operand)
  | _ => .error .operand

/-- A directive of .text (R29, R30, Table 2.3). DESIGN CHOICE (log 59): .regs, .scratch or .roles given twice in a kernel: the last holds;
02 R30 is silent. -/
def Pass.textDir (p : Pass) (k : Nat) (args : List Arg) : Except Err Pass :=
  match k, args with
  | 0, [.num (.name n)] => p.openKernel n
  | 1, [] => p.closeKernel
  | 2, [a] => (match p.nat a 8 128 with
      | .error e => .error e
      | .ok n => if n % 8 = 0 then p.modKernel fun x => { x with regs := n } else .error .range)
  | 3, [a] => (match p.nat a 0 524288 with
      | .error e => .error e
      | .ok n => if n % 32 = 0 then p.modKernel fun x => { x with scratch := n } else .error .range)
  | 4, as =>
    (match as.mapM roleOf with
     | .error e => .error e
     | .ok rs => if [1, 2, 4, 8].contains rs.length then p.modKernel fun x => { x with roles := rs } else .error .range)
  | 5, [] => (p.pk.add .bundle).map fun q => { p with pk := q }
  | 6, as =>
    (match as.mapM itemOf with
     | .error e => .error e
     | .ok xs => (Assumed.assume xs).map fun m => { p with mode := m })
  | 7, [a] =>
    (match p.nat a 1 65536 with
     | .error e => .error e
     | .ok n => (match padTo 0 n with
         | .error e => .error e
         | .ok _ => (p.pk.add (.align n)).map fun q => { p with pk := q }))
  | _, _ => .error .operand

/-- A directive of .data with plain arguments (Table 2.3). -/
def Pass.dataDir (p : Pass) (k : Nat) (args : List Arg) : Except Err Pass :=
  match k, args with
  | 0, as => as.foldlM (Pass.ints 1) p
  | 1, as => as.foldlM (Pass.ints 2) p
  | 2, as => as.foldlM (Pass.ints 4) p
  | 3, as => as.foldlM (Pass.ints 8) p
  | 4, as => as.foldlM (Pass.floats fmtF32 4) p
  | 5, as => as.foldlM (Pass.floats fmtBf16 2) p
  | 6, as => as.foldlM (Pass.floats fmtF8A 1) p
  | 7, [a] => (match p.nat a 1 65536 with
      | .error e => .error e
      | .ok n => (padTo p.place n).map fun b => p.emit b [])
  | 8, [n] => (match p.nat n 0 18446744073709551615 with
      | .error e => .error e
      | .ok n => (space n 0).map fun b => p.emit b [])
  | 8, [n, v] => (match p.nat n 0 18446744073709551615, p.nat v 0 255 with
      | .ok n, .ok v => (space n v).map fun b => p.emit b []
      | .error e, _ => .error e
      | _, .error e => .error e)
  | _, _ => .error .operand

/-- A directive of either section. -/
def Pass.anyDir (p : Pass) (k : Nat) (args : List Arg) : Except Err Pass :=
  match k, args with
  | 0, [] => .ok { p with inData := false }
  | 1, [] => .ok { p with inData := true }
  | 2, [.num (.name n), .num e] =>
    (match p.fresh n, p.eval e with
     | .ok _, .ok x => if (x.base = 0 ∨ x.base = 1) then .ok { p with equs := p.equs ++ [(n, x)] } else .error .relocation
     | .error e, _ => .error e
     | _, .error e => .error e)
  | 3, [.num (.name n)] => .ok { p with globals := p.globals ++ [n] }
  | _, _ => .error .operand

/-- A directive; one in the wrong section is an error (R29). -/
def Pass.dir (p : Pass) (n : Name) (args : List DirArg) : Except Err Pass :=
  match indexIn [".text", ".data", ".equ", ".global"] n with
  | some k => (match plains args with | .ok as => p.anyDir k as | .error e => .error e)
  | none =>
    if p.inData then
      match indexIn [".byte", ".half", ".word", ".dword", ".float", ".bf16", ".f8a", ".align", ".space"] n,
        indexIn [".launch", ".recipe", ".stage", ".sampleset"] n with
      | some k, _ => (match plains args with | .ok as => p.dataDir k as | .error e => .error e)
      | none, some 0 => p.record ["kernel", "args", "blocks", "waves", "tiles", "slots", "priority", "class", "pred", "early", "lease",
          "trap"] args Pass.launch
      | none, some 1 => p.record ["vlive", "slive", "plive", "entry", "resume"] args Pass.recipe
      | none, some 2 => p.record ["entry", "saved", "record", "flags", "idle", "spill", "spillcap"] args Pass.stage
      | none, some _ => p.record ["samples", "count", "leaf", "bounds", "index", "indexsize", "arena", "arenasize", "flags"] args
          Pass.sampleset
      | none, none => .error .section_
    else
      match indexIn [".kernel", ".end", ".regs", ".scratch", ".roles", ".bundle", ".assume", ".align"] n with
      | some k => (match plains args with | .ok as => p.textDir k as | .error e => .error e)
      | none => .error .section_

/-- One line: its label, then its statement. -/
def Pass.stmt (p : Pass) : Option Stmt → Except Err Pass
  | none => .ok p
  | some (.instr op args m) => p.instr op args m
  | some (.dir n args) => p.dir n args

/-- A line in a pass before the last: what does not yet have its names is left out. -/
def Pass.lenient (p : Pass) (l : SrcLine) : Pass :=
  let q := match l.label with
    | none => p
    | some n => (match p.label n with | .ok q => q | .error _ => p)
  match q.stmt l.stmt with
  | .ok r => r
  | .error _ => q

/-- A line in the last pass: every error counts (R36). -/
def Pass.strict (p : Pass) (l : SrcLine) : Except Err Pass :=
  match l.label with
  | none => p.stmt l.stmt
  | some n => (match p.label n with | .ok q => q.stmt l.stmt | .error e => .error e)

/-- What a pass leaves. -/
def Pass.symbols (p : Pass) : Symbols :=
  { text := (match p.pk.finish with | .ok k => k.labels | .error _ => p.pk.labels), data := p.dataLabels, equs := p.equs, kernels := p.kernels
    size := p.pk.size }

/-- Passes until what they leave settles (log 59). -/
def settle (starts : List Name) (ls : List SrcLine) : Nat → Symbols → Except Err Symbols
  | 0, _ => .error .settle
  | f + 1, s =>
    let t := (ls.foldl Pass.lenient (Pass.start s starts)).symbols
    if t = s then .ok s else settle starts ls f t

/-! ## The image (R29, R35, R36) -/

/-- An image: bytes, relocatable fields, exported labels, and whether R23 warns. -/
structure Image where
  bytes : List Byte
  fixes : List Fix
  symbols : List (Name × Nat)
  labels : List (Name × Nat)
  warned : Bool
deriving DecidableEq, Repr

/-- An exported label and its value. -/
def exported (labels : List (Name × Nat)) (n : Name) : Except Err (Name × Nat) :=
  match lookup labels n with
  | some v => .ok (n, v)
  | none => .error .undefined

/-- The image of the last pass; an open kernel or an unknown .global is an error. -/
def Pass.image (p : Pass) : Except Err Image :=
  if p.kernel.isSome then .error .missing
  else
    match p.pk.finish with
    | .error e => .error e
    | .ok k =>
      let labels := k.labels ++ p.dataLabels
      match k.words, p.globals.mapM (exported labels) with
      | .ok ws, .ok gs =>
        .ok { bytes := imageBytes ws p.data, fixes := k.placed.filterMap Placed.fix ++ p.fixes, symbols := gs, labels := labels
              warned := warns ((k.labels.filter fun e => p.starts.contains e.1).map (·.2)) [] k.placed }
      | .error e, _ => .error e
      | _, .error e => .error e

/-- Assemble a source; an error produces no image (R36). -/
def assemble (src : List Char) : Except Err Image :=
  match parse src with
  | .error e => .error e
  | .ok ls =>
    let starts := ls.flatMap fun l => (l.stmt.map Stmt.starts).getD []
    match settle starts ls (ls.length + 8) Symbols.start with
    | .error e => .error e
    | .ok s =>
      match ls.foldlM Pass.strict (Pass.start s starts) with
      | .error e => .error e
      | .ok p => if p.symbols = s then p.image else .error .settle

/-- Put a relocated value into its field. -/
def Fix.patch (load : Nat) (bs : List Byte) (f : Fix) : List Byte :=
  let w := if f.half.isSome then 4 else 8
  let v := match Val.loaded { v := f.v, base := 1, half := f.half } load with | .ok v => v | .error _ => 0
  bs.take f.at_ ++ leBytes v w ++ bs.drop (f.at_ + w)

/-- The bytes of an image at a load base, a multiple of 64 KiB (R29). -/
def Image.load (i : Image) (load : Nat) : Option (List Byte) :=
  if load % 65536 = 0 then some (i.fixes.foldl (Fix.patch load) i.bytes) else none

end Sys2Proof.Asm
end

