-- ==== Sys2Proof/Tests/Slice0.lean ====
section
/-! SUPPORT. Tests: what the well-formedness checks refuse, the words of the spec decoded, the assembler's example, a witness for the
hypotheses of every statement, and single steps on small states with results taken from the spec. -/

namespace Sys2Proof.Tests

open Machine Safety

set_option maxRecDepth 100000

/-! ## WellFormed: for each check a term that it refuses -/

/-- Operand kinds: a scalar where a vector stands, an odd pair, a group off its alignment, a predicate or a handle as a value, a vector
offset of a uniform access, a float constant in an address. -/
theorem test_operand_kinds_refused : ∀ i ∈ ([
  Instr.rank (.s 1), .ld64 (.v 1) (.s 2) (.int 0), .ld128 (.v 2) (.s 2) (.int 0), .shfl (.v 1) (.s 3) (.int 1), .clk (.v 2), .clk (.s 3),
  .lds128 (.s 2) (.s 4) (.int 0), .stkrd (.s 4) (.int 0), .pcnt (.s 1) (.int 3), .joinw (.s 1), .hcancel (.s 2), .qfence (.s 2) (.int 1),
  .add (.p 1) (.v 1) (.v 2), .add (.int 1) (.v 1) (.v 2), .add (.v 1) (.p 1) (.v 2), .add (.v 1) (.h 1) (.v 2), .ldacq (.int 0) (.s 2) (.int 0),
  .sts32 (.v 1) (.s 2) (.int 0), .strel (.int 0) (.s 2) (.int 0), .addw (.v 1) (.v 2) (.v 4), .msave (.v 1), .hwait (.v 1) (.h 1),
  .hmov (.s 1) (.h 1), .mand (.flt 1), .modeld (.v 1), .modeld (.p 1), .barw (.v 1), .mxlist (.h 0) (.int 1) (.int 1),
  .ld32 (.v 1) (.s 2) (.flt 1), .ld32 (.v 1) (.s 2) (.p 1), .ld32 (.v 1) (.s 3) (.int 0), .scalex (.v 1) (.v 2) (.lit 3), .pand (.p 1) (.p 2) (.v 1)]),
  i.wellFormed = false := by decide

/-- Values and forms: TRAP 16, an FMARK offset off 64, a rejoin literal above 16 bits, MODE fields of reserved codes, special registers
that do not exist or cannot be written, two literals that differ, the forms of PMOV and HMOV, CVT's target, FENCE 4, SENSE 4, REDUCE 6,
a uniform form with a vector offset, an atomic without return and without literal data, ACAS without a return. -/
theorem test_forms_refused : ∀ i ∈ ([
  Instr.trap 16, .fmark 0x20, .brx (.p 1) 0 0x10000, .modea 0x00F, .modea 0x050, .modea 0x1000, .modem 0x005, .modem 0x030, .modem 0x140,
  .modem 0x200, .srd (.s 0) (.v 1) (.int 0), .srd (.s 0) (.v 0) (.int 0), .srd (.s 0) (.v 0) (.lit 0x18), .srd (.s 0) (.int 1) (.int 4), .srd (.s 0) (.v 0) (.lit 0x20),
  .swr (.s 0) (.int 0), .swr (.s 0) (.lit 0x18), .swr (.lit 5) (.lit 0x10), .add (.v 1) (.lit 1) (.lit 2), .pmov (.s 1) (.s 2),
  .hmov (.h 1) (.h 2), .hmov (.s 2) (.s 4), .cvt (.v 1) (.v 2) (.int 14), .fence (.int 4), .sense (.s 1) (.int 4),
  .reduce (.s 1) (.v 1) (.int 6), .ldacq (.s 1) (.s 2) (.v 3), .strel (.s 1) (.s 2) .laneid, .aadd (.s 1) (.s 2) (.v 3),
  .aadd (.int 0) (.s 2) (.int 1), .acas (.int 0) (.s 2) (.lit 1)]), i.wellFormed = false := by decide

/-- What a reserved word decodes to: an opcode that no table row has, a reserved operand code, a nonzero unused field, an ill-formed word. -/
theorem test_decode_refuses :
    decode 0x0F000000#32 0 = .error .reservedOpcode ∧ decode 0xFF000000#32 0 = .error .reservedOpcode ∧
    decode 0x3101DB02#32 0 = .error .reservedOperand ∧ decode 0x31010200#32 0 = .ok (.add (.v 1) (.v 2) (.v 0)) ∧
    decode 0x00000001#32 0 = .error .badField ∧ decode 0x30010001#32 0 = .error .badField ∧ decode 0x6B018600#32 0 = .error .badField := by
  decide

/-! ## Every word, decoded and encoded: the opcode of the table's row, operand codes of 03 Table 3.5 in the fields of 03 Table 3.3 -/

/-- Opcodes 0x00 to 0x1e. -/
theorem test_decode_00_to_1e : ∀ x ∈ ([
  (0x00000000#32, 0x0#32, Instr.nop), (0x0100BEEF#32, 0x0#32, .jmp 0xBEEF#16), (0x02A5BEEF#32, 0x0#32, .brz (.s 37) 0xBEEF#16),
  (0x03A5BEEF#32, 0x0#32, .brnz (.s 37) 0xBEEF#16), (0x04C5BEEF#32, 0x0#32, .bany (.p 5) 0xBEEF#16),
  (0x05C5BEEF#32, 0x0#32, .ball (.p 5) 0xBEEF#16), (0x06C5BEEF#32, 0x1234#32, .brx (.p 5) 0xBEEF#16 0x1234#32),
  (0x0700C500#32, 0x0#32, .joinw (.p 5)), (0x08AABEEF#32, 0x0#32, .call (.s 42) 0xBEEF#16), (0x0900AA00#32, 0x0#32, .ret (.s 42)),
  (0x0A00AA00#32, 0x0#32, .jmpr (.s 42)), (0x0B000000#32, 0x0#32, .exit), (0x0C00000B#32, 0x0#32, .trap 0xB#16),
  (0x0D000000#32, 0x0#32, .rett), (0x0E000000#32, 0x0#32, .brk), (0x1000024E#32, 0x0#32, .modea 0x24E#16),
  (0x110000A3#32, 0x0#32, .modem 0xA3#16), (0x12A50000#32, 0x0#32, .modesv (.s 37)), (0x1300D900#32, 0x0#32, .modeld .exec),
  (0x140800E4#32, 0x0#32, .srd (.v 8) (.v 0) (.int 4)), (0x1500D9E9#32, 0x0#32, .swr .exec (.int 9)),
  (0x16AA0000#32, 0x0#32, .clk (.s 42)), (0x17A500E3#32, 0x0#32, .sense (.s 37) (.int 3)), (0x18C30000#32, 0x0#32, .msave (.p 3)),
  (0x1900C200#32, 0x0#32, .mset (.p 2)), (0x1A00C200#32, 0x0#32, .mand (.p 2)), (0x1B00C200#32, 0x0#32, .mandn (.p 2)),
  (0x1C0000FF#32, 0x140#32, .fmark 0x140#32), (0x1DA8D900#32, 0x0#32, .stkrd (.s 40) .exec),
  (0x1E00A8D9#32, 0x0#32, .stkwr (.s 40) .exec)] : List (Word × Word × Instr)),
  decode x.1 x.2.1 = .ok x.2.2 ∧ encode x.2.2 = some (x.1, if x.2.1 = 0 then none else some x.2.1) := by decide

/-- Opcodes 0x1f to 0x3e. -/
theorem test_decode_1f_to_3e : ∀ x ∈ ([
  (0x1F000000#32, 0x0#32, Instr.yield), (0x20C5F213#32, 0x0#32, .cmpeq (.p 5) (.flt 2) (.v 19)),
  (0x21C5F213#32, 0x0#32, .cmpne (.p 5) (.flt 2) (.v 19)), (0x22C5F213#32, 0x0#32, .cmplt (.p 5) (.flt 2) (.v 19)),
  (0x23C5F213#32, 0x0#32, .cmple (.p 5) (.flt 2) (.v 19)), (0x24C5F213#32, 0x0#32, .cmpgt (.p 5) (.flt 2) (.v 19)),
  (0x25C5F213#32, 0x0#32, .cmpge (.p 5) (.flt 2) (.v 19)), (0x26C5F213#32, 0x0#32, .cmpun (.p 5) (.flt 2) (.v 19)),
  (0x27C5F2F5#32, 0x0#32, .classF (.p 5) (.flt 2) (.flt 5)), (0x28C5C283#32, 0x0#32, .pand (.p 5) (.p 2) (.s 3)),
  (0x29C5C283#32, 0x0#32, .por (.p 5) (.p 2) (.s 3)), (0x2AC5C283#32, 0x0#32, .pxor (.p 5) (.p 2) (.s 3)),
  (0x2BC5C200#32, 0x0#32, .pnot (.p 5) (.p 2)), (0x2CA5C600#32, 0x0#32, .pcnt (.s 37) (.p 6)),
  (0x2DC3C700#32, 0x0#32, .pmov (.p 3) (.p 7)), (0x3065F200#32, 0x0#32, .mov (.v 101) (.flt 2)),
  (0x3165F213#32, 0x0#32, .add (.v 101) (.flt 2) (.v 19)), (0x3265F213#32, 0x0#32, .sub (.v 101) (.flt 2) (.v 19)),
  (0x3365F213#32, 0x0#32, .mul (.v 101) (.flt 2) (.v 19)), (0x3465F213#32, 0x0#32, .mulhi (.v 101) (.flt 2) (.v 19)),
  (0x3565F213#32, 0x0#32, .mad (.v 101) (.flt 2) (.v 19)), (0x3665F213#32, 0x0#32, .min (.v 101) (.flt 2) (.v 19)),
  (0x3765F213#32, 0x0#32, .max (.v 101) (.flt 2) (.v 19)), (0x3865F200#32, 0x0#32, .abs (.v 101) (.flt 2)),
  (0x3965F200#32, 0x0#32, .neg (.v 101) (.flt 2)), (0x3A65F213#32, 0x0#32, .andB (.v 101) (.flt 2) (.v 19)),
  (0x3B65F213#32, 0x0#32, .orB (.v 101) (.flt 2) (.v 19)), (0x3C65F213#32, 0x0#32, .xorB (.v 101) (.flt 2) (.v 19)),
  (0x3D65F200#32, 0x0#32, .notB (.v 101) (.flt 2)),
  (0x3E65F213#32, 0x0#32, .shl (.v 101) (.flt 2) (.v 19))] : List (Word × Word × Instr)),
  decode x.1 x.2.1 = .ok x.2.2 ∧ encode x.2.2 = some (x.1, if x.2.1 = 0 then none else some x.2.1) := by decide

/-- Opcodes 0x3f to 0x60. -/
theorem test_decode_3f_to_60 : ∀ x ∈ ([
  (0x3F65F213#32, 0x0#32, Instr.shr (.v 101) (.flt 2) (.v 19)), (0x4065F213#32, 0x0#32, .bfx (.v 101) (.flt 2) (.v 19)),
  (0x4165F213#32, 0x0#32, .bfi (.v 101) (.flt 2) (.v 19)), (0x4265F200#32, 0x0#32, .popc (.v 101) (.flt 2)),
  (0x4365F200#32, 0x0#32, .clz (.v 101) (.flt 2)), (0x4465F200#32, 0x0#32, .brev (.v 101) (.flt 2)),
  (0x454DC5F2#32, 0x0#32, .csel (.v 77) (.p 5) (.flt 2)), (0x469298E2#32, 0x0#32, .addw (.s 18) (.s 24) (.int 2)),
  (0x4765F213#32, 0x0#32, .dot (.v 101) (.flt 2) (.v 19)), (0x4865F2E7#32, 0x0#32, .cvt (.v 101) (.flt 2) (.int 7)),
  (0x4965F200#32, 0x0#32, .roundi (.v 101) (.flt 2)), (0x4A65F200#32, 0x0#32, .fract (.v 101) (.flt 2)),
  (0x4B65F213#32, 0x0#32, .ldexp (.v 101) (.flt 2) (.v 19)), (0x4C65F2E9#32, 0x0#32, .scalex (.v 101) (.flt 2) (.int 9)),
  (0x5065F200#32, 0x0#32, .rcp (.v 101) (.flt 2)), (0x5165F200#32, 0x0#32, .rsq (.v 101) (.flt 2)),
  (0x5265F200#32, 0x0#32, .sqrt (.v 101) (.flt 2)), (0x5365F200#32, 0x0#32, .exp2 (.v 101) (.flt 2)),
  (0x5465F200#32, 0x0#32, .log2 (.v 101) (.flt 2)), (0x5565F200#32, 0x0#32, .sin (.v 101) (.flt 2)),
  (0x5665F200#32, 0x0#32, .cos (.v 101) (.flt 2)), (0x584DD8EE#32, 0x0#32, .shfl (.v 77) .laneid (.int 14)),
  (0x594DD8EE#32, 0x0#32, .shflx (.v 77) .laneid (.int 14)), (0x5AA5D8D9#32, 0x0#32, .rdlane (.s 37) .laneid .exec),
  (0x5B4DD9E6#32, 0x0#32, .wrlane (.v 77) .exec (.int 6)), (0x5CA5F200#32, 0x0#32, .ballot (.s 37) (.flt 2)),
  (0x5DA5C500#32, 0x0#32, .vany (.s 37) (.p 5)), (0x5EA5C500#32, 0x0#32, .vall (.s 37) (.p 5)),
  (0x5F4D4200#32, 0x0#32, .matchLanes (.v 77) (.v 66)), (0x604DD800#32, 0x0#32, .scan (.v 77) .laneid)] : List (Word × Word × Instr)),
  decode x.1 x.2.1 = .ok x.2.2 ∧ encode x.2.2 = some (x.1, if x.2.1 = 0 then none else some x.2.1) := by decide

/-- Opcodes 0x61 to 0x82. -/
theorem test_decode_61_to_82 : ∀ x ∈ ([
  (0x61A5D8E5#32, 0x0#32, Instr.reduce (.s 37) .laneid (.int 5)), (0x624D0000#32, 0x0#32, .rank (.v 77)),
  (0x6300D9E6#32, 0x0#32, .regroup .exec (.int 6)), (0x64364DD9#32, 0x0#32, .rebal (.v 54) (.v 77) .exec),
  (0x684DAAEE#32, 0x0#32, .ld8 (.v 77) (.s 42) (.int 14)), (0x694DAAEE#32, 0x0#32, .ld16 (.v 77) (.s 42) (.int 14)),
  (0x6A4DAAEE#32, 0x0#32, .ld32 (.v 77) (.s 42) (.int 14)), (0x6B36AAEE#32, 0x0#32, .ld64 (.v 54) (.s 42) (.int 14)),
  (0x6C5CAAEE#32, 0x0#32, .ld128 (.v 92) (.s 42) (.int 14)), (0x6D4DAAEE#32, 0x0#32, .st8 (.v 77) (.s 42) (.int 14)),
  (0x6E4DAAEE#32, 0x0#32, .st16 (.v 77) (.s 42) (.int 14)), (0x6F4DAAEE#32, 0x0#32, .st32 (.v 77) (.s 42) (.int 14)),
  (0x7036AAEE#32, 0x0#32, .st64 (.v 54) (.s 42) (.int 14)), (0x715CAAEE#32, 0x0#32, .st128 (.v 92) (.s 42) (.int 14)),
  (0x72A5AAD9#32, 0x0#32, .lds32 (.s 37) (.s 42) .exec), (0x73AA98D9#32, 0x0#32, .lds64 (.s 42) (.s 24) .exec),
  (0x7494AAD9#32, 0x0#32, .lds128 (.s 20) (.s 42) .exec), (0x75DAAAD9#32, 0x0#32, .sts32 .waveid (.s 42) .exec),
  (0x769DAAEE#32, 0x0#32, .ldacq (.s 29) (.s 42) (.int 14)), (0x7721AAEE#32, 0x0#32, .strel (.v 33) (.s 42) (.int 14)),
  (0x789DAAEE#32, 0x0#32, .acqr (.s 29) (.s 42) (.int 14)), (0x790000E3#32, 0x0#32, .fence (.int 3)),
  (0x7A00AAEE#32, 0x0#32, .pref (.s 42) (.int 14)), (0x7BA5AAD9#32, 0x0#32, .pin (.s 37) (.s 42) .exec),
  (0x7C00AAD9#32, 0x0#32, .unpin (.s 42) .exec), (0x7D00AAF5#32, 0x0#32, .cwb (.s 42) (.flt 5)),
  (0x7E00AAF5#32, 0x0#32, .cinv (.s 42) (.flt 5)), (0x8065AAE1#32, 0x0#32, .aadd (.v 101) (.s 42) (.int 1)),
  (0x8165AAEE#32, 0x0#32, .amin (.v 101) (.s 42) (.int 14)),
  (0x8265AAEE#32, 0x0#32, .amax (.v 101) (.s 42) (.int 14))] : List (Word × Word × Instr)),
  decode x.1 x.2.1 = .ok x.2.2 ∧ encode x.2.2 = some (x.1, if x.2.1 = 0 then none else some x.2.1) := by decide

/-- Opcodes 0x83 to 0xa8. -/
theorem test_decode_83_to_a8 : ∀ x ∈ ([
  (0x8365AAEE#32, 0x0#32, Instr.aand (.v 101) (.s 42) (.int 14)), (0x8465AAEE#32, 0x0#32, .aor (.v 101) (.s 42) (.int 14)),
  (0x8565AAEE#32, 0x0#32, .axor (.v 101) (.s 42) (.int 14)), (0x8665AAEE#32, 0x0#32, .axchg (.v 101) (.s 42) (.int 14)),
  (0x8765AAEE#32, 0x0#32, .acas (.v 101) (.s 42) (.int 14)), (0x8865AAEE#32, 0x0#32, .ainc (.v 101) (.s 42) (.int 14)),
  (0x8900AAD9#32, 0x0#32, .mon (.s 42) .exec), (0x8AA5D900#32, 0x0#32, .mwait (.s 37) .exec), (0x8B000000#32, 0x0#32, .mcancel),
  (0x90A5AA8A#32, 0x0#32, .stmap (.s 37) (.s 42) (.s 10)), (0x9100DA00#32, 0x0#32, .stunmap .waveid),
  (0x9200DA00#32, 0x0#32, .stflush .waveid), (0x9300AAD9#32, 0x0#32, .mwbind (.s 42) .exec), (0x9400D900#32, 0x0#32, .mwunbind .exec),
  (0x95DAAA8A#32, 0x0#32, .cpy .waveid (.s 42) (.s 10)), (0x9694AA8A#32, 0x0#32, .cpy2d (.s 20) (.s 42) (.s 10)),
  (0x97A50000#32, 0x0#32, .cpclose (.s 37)), (0x9800F500#32, 0x0#32, .cpwait (.flt 5)),
  (0x99D594AA#32, 0x0#32, .gath (.h 13) (.s 20) (.s 42)), (0x9AD594AA#32, 0x0#32, .scat (.h 13) (.s 20) (.s 42)),
  (0x9BD5D900#32, 0x0#32, .qfence (.h 13) .exec), (0xA000E3E8#32, 0x0#32, .bar (.int 3) (.int 8)),
  (0xA100F58B#32, 0x0#32, .bara (.flt 5) (.s 11)), (0xA200F500#32, 0x0#32, .barw (.flt 5)), (0xA3A5D900#32, 0x0#32, .racq (.s 37) .exec),
  (0xA400D9E6#32, 0x0#32, .rpub .exec (.int 6)), (0xA5A5D900#32, 0x0#32, .rget (.s 37) .exec),
  (0xA600D9E6#32, 0x0#32, .rrel .exec (.int 6)), (0xA7BDD300#32, 0x0#32, .hwait (.s 61) (.h 11)),
  (0xA8A5D300#32, 0x0#32, .htest (.s 37) (.h 11))] : List (Word × Word × Instr)),
  decode x.1 x.2.1 = .ok x.2.2 ∧ encode x.2.2 = some (x.1, if x.2.1 = 0 then none else some x.2.1) := by decide

/-- Opcodes 0xa9 to 0xd4. -/
theorem test_decode_a9_to_d4 : ∀ x ∈ ([
  (0xA900D300#32, 0x0#32, Instr.hcancel (.h 11)), (0xAAB2D100#32, 0x0#32, .hmov (.s 50) (.h 9)),
  (0xABD5AAD8#32, 0x0#32, .spawn (.h 13) (.s 42) .laneid), (0xACD5AADA#32, 0x0#32, .spawnw (.h 13) (.s 42) .waveid),
  (0xAD000000#32, 0x0#32, .succgo), (0xAE000000#32, 0x0#32, .predwait), (0xB0A5F500#32, 0x0#32, .mxclaim (.s 37) (.flt 5)),
  (0xB100F500#32, 0x0#32, .mxrel (.flt 5)), (0xB2D5DAAA#32, 0x0#32, .mxfill (.h 13) .waveid (.s 42)),
  (0xB3D5F500#32, 0x0#32, .mxzero (.h 13) (.flt 5)), (0xB4D5DAAA#32, 0x0#32, .mxmma (.h 13) .waveid (.s 42)),
  (0xB5D5DAAA#32, 0x0#32, .mxmmas (.h 13) .waveid (.s 42)), (0xB6D5DAAA#32, 0x0#32, .mxmmasp (.h 13) .waveid (.s 42)),
  (0xB7D5F587#32, 0x0#32, .mxldacc (.h 13) (.flt 5) (.s 7)), (0xB8D5F5DA#32, 0x0#32, .mxstacc (.h 13) (.flt 5) .waveid),
  (0xB9D587F5#32, 0x0#32, .mxlist (.h 13) (.s 7) (.flt 5)), (0xC000F5AA#32, 0x0#32, .kbind (.flt 5) (.s 42)),
  (0xC14DF592#32, 0x0#32, .kpush (.v 77) (.flt 5) (.s 18)), (0xC2000000#32, 0x0#32, .kyield), (0xC3000000#32, 0x0#32, .kend),
  (0xC4D5F500#32, 0x0#32, .kdrain (.h 13) (.flt 5)), (0xC8A5AADA#32, 0x0#32, .snap (.s 37) (.s 42) .waveid),
  (0xC900D900#32, 0x0#32, .sacc .exec), (0xCA00D900#32, 0x0#32, .srej .exec), (0xCBA5D900#32, 0x0#32, .sqry (.s 37) .exec),
  (0xD0D5AA00#32, 0x0#32, .ssbuild (.h 13) (.s 42)), (0xD100AAF5#32, 0x0#32, .ssbind (.s 42) (.flt 5)),
  (0xD24D0000#32, 0x0#32, .triemit (.v 77)), (0xD3D50000#32, 0x0#32, .drawend (.h 13)),
  (0xD400AA87#32, 0x0#32, .present (.s 42) (.s 7))] : List (Word × Word × Instr)),
  decode x.1 x.2.1 = .ok x.2.2 ∧ encode x.2.2 = some (x.1, if x.2.1 = 0 then none else some x.2.1) := by decide

/-! ## Small states, and how a witness is shown -/

/-- Wave 0 of partition 0 issues slot 1 of the bundle at VA 0; core 0 holds granule 0 with every permission. -/
def base : State :=
  { State.reset.withFetchWord 32 0 with issue := some { wave := 0, split := 0, pc := 4, next := 8, marked := false } }

/-- Change the wave, its split, its block, its partition, its launch. -/
def onW (f : Wave → Wave) (s : State) : State := s.modWave 0 f
def onX (f : Split → Split) (s : State) : State := s.modSplit 0 0 f
def onB (f : Block → Block) (s : State) : State := s.modBlock 0 f
def onP (f : Part → Part) (s : State) : State := s.modPart 0 f
def onL (f : Launch → Launch) (s : State) : State := s.modLaunch 0 f

/-- With MODE m, scalar registers from a list of numbers and values. -/
def mode (m : Word) : State → State := onX fun x => { x with mode := m }
def sreg (xs : List (Nat × Word)) : State → State := onW fun w => { w with s := xs.foldl (fun v e => vset v e.1 e.2) w.s }

/-- A word is ready in a state, and its context satisfies P. -/
def Meets (i : Instr) (k : Checks) (s : State) (P : Ctx → Bool) : Prop := ∃ c, Ready i k s c ∧ P c = true

/-- The same as a test. -/
def meets (i : Instr) (k : Checks) (s : State) (P : Ctx → Bool) : Bool :=
  match s.ctx? with
  | none => false
  | some c => decodesFor i c && k.typeOk (mType c.sp.mode) && !(k.illegal c) && !(k.illConv c) && k.roleOk c.w.role &&
      (instrCodes i (mType c.sp.mode)).all (fun r => !((c.w.pend.flatMap (·.codes)).contains r)) && P c

theorem meets_spec {i : Instr} {k : Checks} {s : State} {P : Ctx → Bool} (h : meets i k s P = true) : Meets i k s P := by
  unfold meets at h
  cases hc : s.ctx? with
  | none => rw [hc] at h; cases h
  | some c =>
    rw [hc] at h
    simp only [Bool.and_eq_true, Bool.not_eq_true', List.all_eq_true] at h
    obtain ⟨⟨⟨⟨⟨⟨h1, h2⟩, h3⟩, h4⟩, h5⟩, h6⟩, h7⟩ := h
    refine ⟨c, ⟨hc, h1, h2, h3, h4, h5, fun r hr hm => ?_⟩, h7⟩
    have := h6 r hr
    rw [List.contains_iff_mem.mpr hm] at this
    cases this

/-- Each of several words is ready. -/
theorem all_meet {xs : List (Instr × Checks)} {s : State} {P : Ctx → Bool} (h : (xs.all fun x => meets x.1 x.2 s P) = true) :
    ∀ x ∈ xs, Meets x.1 x.2 s P := fun x hx => meets_spec (List.all_eq_true.mp h x hx)

/-- A word that has this context in a state, where readiness is not asked. -/
def InCtx (s : State) (P : Ctx → Bool) : Prop := ∃ c, s.ctx? = some c ∧ P c = true

theorem inCtx_spec {s : State} {P : Ctx → Bool} (h : (match s.ctx? with | none => false | some c => P c) = true) : InCtx s P := by
  cases hc : s.ctx? with
  | none => rw [hc] at h; cases h
  | some c => rw [hc] at h; exact ⟨c, hc, h⟩

/-- Something an option holds satisfies Q. -/
def has {α : Type} (x : Option α) (Q : α → Bool) : Bool := match x with | none => false | some a => Q a

theorem has_spec {α : Type} {x : Option α} {Q : α → Bool} (h : has x Q = true) : ∃ a, x = some a ∧ Q a = true := by
  cases x with
  | none => cases h
  | some a => exact ⟨a, rfl, h⟩

/-- An access is granted. -/
def isGranted : Access → Bool | .granted _ => true | _ => false

/-- `Safety.AllGranted` as a test. -/
def granted (c : Ctx) (s : State) (width : Nat) (stores : Bool) (need : Need) (ls : List (Nat × Nat)) : Bool :=
  ls.all (fun e => addrCause s c.w width stores e.2 == none) &&
    (granulesOf ls).all fun g => isGranted (s.access c.w.core (s.asidOf c.w.part) (g * 65536) need)

theorem isGranted_spec {a : Access} (h : isGranted a = true) : ∃ r, a = .granted r := by
  cases a <;> first | exact ⟨_, rfl⟩ | cases h

theorem granted_spec {c s width stores need ls} (h : granted c s width stores need ls = true) : AllGranted c s width stores need ls := by
  simp only [granted, Bool.and_eq_true, List.all_eq_true, beq_iff_eq] at h
  exact ⟨h.1, fun g hg => isGranted_spec (h.2 g hg)⟩

/-- `Safety.ReadsNow` as a test, with what holds of the bytes and of the state after it. -/
def reads (c : Ctx) (s : State) (va align n : Nat) (Q : List Byte → State → Bool) : Bool :=
  s.rangeOk c.w va n && decide (va % align = 0) &&
    (if inAperture va then (s.block? c.w.block).bind (fun b => b.absentIn (va - Config.aperture) n) == none
     else (upTo ((va + n - 1) / 65536 - va / 65536 + 1)).all fun i =>
       isGranted (s.access c.w.core (s.asidOf c.w.part) ((va / 65536 + i) * 65536) .read)) &&
    has (s.readNow c va n) fun r => Q r.1 r.2

theorem reads_spec {c s va align n Q} (h : reads c s va align n Q = true) :
    ∃ bs s1, ReadsNow c s va align n bs s1 ∧ Q bs s1 = true := by
  simp only [reads, Bool.and_eq_true, decide_eq_true_eq] at h
  obtain ⟨⟨⟨h1, h2⟩, h3⟩, h4⟩ := h
  obtain ⟨r, hr, hq⟩ := has_spec h4
  refine ⟨r.1, r.2, ⟨h1, h2, fun hi => ?_, fun hi => ?_, hr⟩, hq⟩
  · rw [if_pos hi] at h3; exact beq_iff_eq.mp h3
  · rw [if_neg (by rw [hi]; decide)] at h3
    intro i hlt
    exact isGranted_spec (List.all_eq_true.mp h3 i (List.mem_range.mpr hlt))

/-- A handler with its frame on the stack. -/
def handling : State := onW (fun w => { w with
  stack := [{ pc := 8, rejoin := 0, mask := 0xFFFFFFFF, mode := 0, kind := 3, owner := 0, cause := 0x10, prog := 0, orphan := false }] }) base

/-! ## Witnesses: encoding, the machine, refused words, traps -/

theorem witness_EncodeThenDecode : (Instr.add (.v 1) (.v 2) (.lit 5)).wellFormed = true ∧
    encode (.add (.v 1) (.v 2) (.lit 5)) = some (0x310102FF#32, some 5) := by decide

theorem witness_DecodeOnlyEncodings : decode 0x310102FF#32 5 = .ok (.add (.v 1) (.v 2) (.lit 5)) := by decide

/-- `add v1, v2, LANEID` in slot 1, fetched and run by the next step. -/
def placed : State := State.reset.withFetchWord 32 0x310102D8

theorem witness_StepRunsDecoded : ∃ w x ws s1, Issues placed s1 0 0 w x ws ∧ wordIn ws x.pc = .ok (.add (.v 1) (.v 2) .laneid) :=
  ⟨_, _, _, _, ⟨rfl, rfl, rfl, by decide, by decide, rfl, rfl, by decide, by decide, by decide, by decide, by decide,
    .inr ⟨fun _ h => (by cases h), rfl, by decide, by decide⟩⟩, by decide⟩

/-- A word of opcode 0x0F, which no row of the table has. -/
def placedBad : State := State.reset.withFetchWord 32 0x0F000000

theorem witness_StepKeepsMemory : MemoryOk placed = true ∧ ∃ t, step placed = .next t := ⟨by decide, _, rfl⟩

/-- Ill formed for every wave, and out of the wave's footprint. -/
theorem witness_BadWordRaisesIllegal :
    ((encode (.ld64 (.v 1) (.s 2) (.int 0))).isSome = true ∧ InCtx base fun c => !(decodesFor (.ld64 (.v 1) (.s 2) (.int 0)) c)) ∧
    ((encode (.rank (.v 9))).isSome = true ∧ InCtx (onW (fun w => { w with footprint := 8 }) base) fun c => !(decodesFor (.rank (.v 9)) c)) ∧
    InCtx base (fun _ => true) ∧
    ∃ w x ws s1, Issues placedBad s1 0 0 w x ws ∧ wordIn ws x.pc = .error .reservedOpcode :=
  ⟨⟨by decide, inCtx_spec (by decide)⟩, ⟨by decide, inCtx_spec (by decide)⟩, inCtx_spec (by decide),
    _, _, _, _, ⟨rfl, rfl, rfl, by decide, by decide, rfl, rfl, by decide, by decide, by decide, by decide, by decide,
      .inr ⟨fun _ h => (by cases h), rfl, by decide, by decide⟩⟩, by decide⟩

/-- A load of v2 is outstanding. -/
def loading : State := onW (fun w => { w with pend := [Pend.mk 0 0 [2] (.ready [])] }) base

/-- s2 is awaited, in a wave of n splits; in one of one split, of a vector role. -/
def awaitS2 (n : Nat) : State → State := onW fun w => { w with
  pend := [Pend.mk 0 0 [0x82] (.ready [])], role := if n = 1 then 2 else w.role,
  splits := w.splits ++ (upTo (n - 1)).map fun k => newSplit (k + 1) 36 0xF 0xF 0 none 0 }

/-- A word awaits a register, and its checks answer this of its context. -/
def awaits (i : Instr) (s : State) (P : Ctx → Checks → Bool) (r : Nat) : Bool :=
  match s.ctx? with
  | none => false
  | some c => (encode i).isSome && decodesFor i c && (wordCodes s c i).find? (fun r => (c.w.sbOf c.sp.num).contains r) == some r &&
      P c (checksOf s i)

/-- The premises of the statement, and what holds of the context and the checks. -/
def AwaitsWith (i : Instr) (s : State) (P : Ctx → Checks → Bool) (r : Nat) : Prop :=
  ∃ c, s.ctx? = some c ∧ (encode i).isSome = true ∧ decodesFor i c = true ∧ Awaits i s c r ∧ P c (checksOf s i) = true

theorem awaits_spec {i : Instr} {s : State} {P : Ctx → Checks → Bool} {r : Nat} (h : awaits i s P r = true) : AwaitsWith i s P r := by
  unfold awaits at h
  cases hc : s.ctx? with
  | none => rw [hc] at h; cases h
  | some c =>
    rw [hc] at h
    simp only [Bool.and_eq_true, beq_iff_eq] at h
    exact ⟨c, hc, h.1.1.1, h.1.1.2, h.1.2, h.2⟩

/-- A load of v2 is outstanding: for a word that nothing else refuses; for MULHI of floats, to which the type is ILLEGAL; for a copy in a
matrix role; and s2 is awaited where BAR names it in a wave of two splits. -/
theorem witness_PendingRegisterRaisesHazard :
    AwaitsWith (.add (.v 1) (.v 2) (.v 3)) loading (fun c k => k.typeOk (mType c.sp.mode) && !(k.illegal c) && !(k.illConv c) && k.roleOk c.w.role) 2 ∧
    AwaitsWith (.mulhi (.v 1) (.v 2) (.v 3)) (mode 2 loading) (fun c k => !(k.typeOk (mType c.sp.mode))) 2 ∧
    AwaitsWith (.bar (.s 2) (.s 4)) (awaitS2 2 base) (fun c k => k.typeOk (mType c.sp.mode) && !(k.illegal c) && k.illConv c) 0x82 ∧
    AwaitsWith (.cpy (.s 2) (.s 4) (.s 6)) (awaitS2 1 base)
      (fun c k => k.typeOk (mType c.sp.mode) && !(k.illegal c) && !(k.illConv c) && !(k.roleOk c.w.role)) 0x82 :=
  ⟨awaits_spec (by decide), awaits_spec (by decide), awaits_spec (by decide), awaits_spec (by decide)⟩

/-- The premises of a trap entry that the statements about it share. -/
def trapPremises (w : Wave) (x : Split) : Bool :=
  w.split? x.num == some x && w.trap.isNone && w.trapReady && w.splits.all fun y => match y.park with | .wait _ _ _ => false | _ => true

/-- Two splits, the stack at the depth that just leaves room for the other split and the frame. -/
def nearlyFull (n : Nat) : State := onW (fun w => { w with
  splits := w.splits ++ [newSplit 1 36 0xF 0xF 0 none 0]
  stack := List.replicate n { pc := 4, rejoin := 32, mask := 1, mode := 0, kind := 0, owner := 0, cause := 0, prog := 0, orphan := false } }) base

theorem witness_TrapEntryState : ∃ w x, (nearlyFull 30).wave? 0 = some w ∧ w.split? 0 = some x ∧ trapPremises w x = true ∧
    w.stack.length + w.splits.length ≤ 32 ∧ ((nearlyFull 30).part w.part).special = false :=
  ⟨_, _, rfl, rfl, by decide, by decide, by decide⟩

theorem witness_TrapWithoutRoomStops : ∃ w x, (nearlyFull 31).wave? 0 = some w ∧ w.split? 0 = some x ∧
    trapPremises w x = true ∧ 32 < w.stack.length + w.splits.length ∧ ((nearlyFull 31).part w.part).special = false ∧
    ((nearlyFull 31).part w.part).state ≠ 2 ∧ ((nearlyFull 31).part w.part).stopping = none :=
  ⟨_, _, rfl, rfl, by decide, by decide, by decide, by decide, by decide⟩

theorem witness_SpecialTrapPushesNothing : ∃ w x, (onP (fun p => { p with state := 3 }) base).wave? 0 = some w ∧ w.split? 0 = some x ∧
    trapPremises w x = true ∧ ((onP (fun p => { p with state := 3 }) base).part w.part).special = true :=
  ⟨_, _, rfl, rfl, by decide, by decide⟩

theorem witness_RettResumesFrame : Meets .rett {} handling fun c => !((handling.part c.w.part).special) && c.w.trap.isNone &&
    (match c.w.stack with
     | e :: rest => e.kind == 3 && rest.isEmpty && modeOk e.mode.toNat && e.prog == 0 && decide (e.owner < 4) && c.w.alive != 0 &&
         e.mask == c.w.alive && (pcCause (fun pc => handling.codeAt c.w.core (handling.asidOf c.w.part) pc) e.pc).isNone
     | [] => false) := meets_spec (by decide)

theorem witness_SoftwareTraps : (∀ x ∈ [(Instr.trap 15, ({} : Checks)), (.brk, {})], Meets x.1 x.2 base fun _ => true) ∧ InCtx base fun _ => true :=
  ⟨all_meet (by decide), inCtx_spec (by decide)⟩

/-! ## Witnesses: arithmetic, bits, compares, predicates, cross-lane words -/

/-- The checks of a word of the ALU mould with these sources. -/
def alu (ty : Nat → Bool) (d : Operand) (srcs : List Operand) : Checks := { typeOk := ty, illegal := fun _ => vectorToScalar d srcs }

def v1 : Operand := .v 1
def v2 : Operand := .v 2
def v3 : Operand := .v 3
def v4 : Operand := .v 4
def s2 : Operand := .s 2
def s4 : Operand := .s 4

/-- MODE with a float TYPE, f32 being code 2. -/
def floats : State := mode 2 base

theorem witness_ArithmeticWords : ∀ x ∈ [(Instr.mov v1 v2, alu (fun _ => true) v1 [v2]), (.add v1 v2 v3, alu tyAdd v1 [v2, v3]),
    (.sub v1 v2 v3, alu tyAdd v1 [v2, v3]), (.mul v1 v2 v3, alu tyMul v1 [v2, v3]), (.mulhi v1 v2 v3, alu tyMulhi v1 [v2, v3]),
    (.mad v1 v2 v3, alu tyMul v1 [v2, v3]), (.min v1 v2 v3, alu tyAdd v1 [v2, v3]), (.max v1 v2 v3, alu tyAdd v1 [v2, v3]),
    (.abs v1 v2, alu tyAbs v1 [v2]), (.neg v1 v2, alu tyAbs v1 [v2])], Meets x.1 x.2 base fun c => c.act != 0 := all_meet (by decide)

/-- A discarded result and an empty ACT meet the premises as well. -/
theorem witness_ArithmeticForms : Meets (.add (.int 0) s2 s4) (alu tyAdd (.int 0) [s2, s4]) base (fun _ => true) ∧
    Meets (.add v1 v2 v3) (alu tyAdd v1 [v2, v3]) (onX (fun x => { x with exec := 0 }) base) (fun c => c.act == 0) ∧
    Meets (.add v2 v4 (.v 6)) (alu tyAdd v2 [v4, .v 6]) (mode 14 base) fun _ => true :=
  ⟨meets_spec (by decide), meets_spec (by decide), meets_spec (by decide)⟩

theorem witness_IntegerResults : isFloat 0 = false ∧ isFloat 7 = false ∧ isFloat 14 = false := by decide

theorem witness_BitWords : ∀ x ∈ [(Instr.andB v1 v2 v3, alu tyLogic v1 [v2, v3]), (.orB v1 v2 v3, alu tyLogic v1 [v2, v3]),
    (.xorB v1 v2 v3, alu tyLogic v1 [v2, v3]), (.notB v1 v2, alu tyLogic v1 [v2]), (.shl v1 v2 v3, alu tyLogic v1 [v2, v3]),
    (.shr v1 v2 v3, alu tyLogic v1 [v2, v3]), (.bfx v1 v2 v3, alu tyInt32 v1 [v2, v3]), (.bfi v1 v2 v3, alu tyInt32 v1 [v2, v3]),
    (.popc v1 v2, alu tyInt32 v1 [v2]), (.clz v1 v2, alu tyInt32 v1 [v2]), (.brev v1 v2, alu tyInt32 v1 [v2])],
    Meets x.1 x.2 base fun _ => true := all_meet (by decide)

theorem witness_MixedArithmeticWords :
    Meets (.addw v2 v4 s2) (alu tyInt32 v2 [v4, s2]) base (fun _ => true) ∧ Meets (.dot v1 v2 v3) (alu tyDot v1 [v2, v3]) (mode 7 base) (fun _ => true) ∧
    (∀ x ∈ [(Instr.cvt v1 v2 (.int 0), alu (fun ty => ty != 14) v1 [v2]), (.roundi v1 v2, alu tyF v1 [v2]), (.fract v1 v2, alu tyF v1 [v2]),
      (.ldexp v1 v2 v3, alu tyF v1 [v2, v3])], Meets x.1 x.2 floats fun _ => true) ∧
    Meets (.scalex v1 v2 (.int 3)) (alu (fun _ => true) v1 [v2, .int 3]) base (fun _ => true) ∧ Meets (.csel v1 (.p 2) v3) {} base fun _ => true :=
  ⟨meets_spec (by decide), meets_spec (by decide), all_meet (by decide), meets_spec (by decide), meets_spec (by decide)⟩

/-- The classes of operands that the rules of float results distinguish, in f32, f16 and bf16: NaNs, quiet and signalling, infinities, finite
numbers of each sign; the types of a conversion. -/
theorem witness_FloatOperands :
    (∀ x ∈ [(2, 0x7FC00000), (3, 0x7E00), (4, 0x7FC0)], nanF (fmtOf x.1) x.2 = true ∧ snanF (fmtOf x.1) x.2 = false) ∧
    (∀ x ∈ [(2, 0x7F800001), (3, 0x7C01), (4, 0x7F81)], snanF (fmtOf x.1) x.2 = true) ∧
    (∀ x ∈ [(2, 0x7F800000), (3, 0x7C00), (4, 0x7F80)], infF (fmtOf x.1) x.2 = true ∧ negF (fmtOf x.1) x.2 = false) ∧
    (∀ x ∈ [(2, 0xBF800000), (3, 0xBC00), (4, 0xBF80)], finF (fmtOf x.1) x.2 ∧ negF (fmtOf x.1) x.2 = true) ∧
    (∀ x ∈ [(2, 0), (3, 0), (4, 0)], finF (fmtOf x.1) x.2 ∧ negF (fmtOf x.1) x.2 = false) ∧
    (∀ ty ∈ [2, 3, 4, 9, 10, 13], ty < 14 ∧ isFloat ty = true) ∧ (∀ ty ∈ [0, 1, 5, 6, 7, 8, 11, 12], ty < 14 ∧ isFloat ty = false) := by
  unfold finF; decide

theorem witness_SpecialFunctionWords : (∀ x ∈ [Instr.rcp v1 v2, .rsq v1 v2, .sqrt v1 v2, .exp2 v1 v2, .log2 v1 v2, .sin v1 v2, .cos v1 v2].map
      fun i => (i, alu tyF v1 [v2]), Meets x.1 x.2 floats fun c => c.act != 0) ∧
    Meets (.rcp v1 v2) (alu tyF v1 [v2]) (onX (fun x => { x with exec := 0 }) floats) fun c => c.act == 0 :=
  ⟨all_meet (by decide), meets_spec (by decide)⟩

/-- The classes of A that Table 11.8 distinguishes, beside those above: 4, a power of two and an integer; 2^16; 9/8, no integer, no power of two, no quarter
turn (`witness_NoExactCase`). -/
theorem witness_SpecialFunctionOperands :
    (finF fmtF32 0x3F900000 ∧ unpack fmtF32 0x3F900000 = .fin false 0x900000 (-23)) ∧ finF fmtF32 0x40800000 ∧ finF fmtF32 0x47800000 := by
  unfold finF; decide

theorem witness_RealValues : realF fmtF32 0x3F900000 = 9 / 8 ∧ realF fmtF32 0x40800000 = 4 ∧ realF fmtF32 0x47800000 = 65536 ∧
    realF fmtF32 0xBF800000 = -1 ∧ realF fmtF32 0 = 0 := by
  norm_num [realF, negF, expF, manF, fmtF32, Fmt.signBit]

theorem witness_NoExactCase : (∀ n : ℤ, (9 / 8 : ℚ) ≠ n) ∧ (∀ n : ℤ, (9 / 8 : ℚ) ≠ 2 ^ n) ∧ (∀ n : ℤ, 4 * (9 / 8 : ℚ) ≠ n) ∧
    -126 ≤ (9 / 8 : ℚ) ∧ (9 / 8 : ℚ) < 128 ∧ 0 < (9 / 8 : ℚ) ∧ |(9 / 8 : ℚ)| < 65536 := by
  refine ⟨fun n h => ?_, fun n h => ?_, fun n h => ?_, by norm_num, by norm_num, by norm_num, by norm_num⟩
  · have h1 : (9 : ℚ) = n * 8 := by linarith
    have h2 : (9 : ℤ) = n * 8 := by exact_mod_cast h1
    omega
  · rcases le_or_gt n 0 with hn | hn
    · have := zpow_le_one_of_nonpos₀ (a := (2 : ℚ)) (by norm_num) hn
      rw [← h] at this; norm_num at this
    · have := zpow_le_zpow_right₀ (a := (2 : ℚ)) (by norm_num) (show (1 : ℤ) ≤ n by omega)
      rw [← h] at this; norm_num at this
  · have h1 : (9 : ℚ) = n * 2 := by linarith
    have h2 : (9 : ℤ) = n * 2 := by exact_mod_cast h1
    omega

theorem witness_CompareWords : (∀ x ∈ [Instr.cmpeq (.p 1) v2 v3, .cmpne (.p 1) v2 v3, .cmplt (.p 1) v2 v3, .cmple (.p 1) v2 v3, .cmpgt (.p 1) v2 v3,
      .cmpge (.p 1) v2 v3].map fun i => (i, ({} : Checks)), Meets x.1 x.2 base fun _ => true) ∧
    Meets (.cmpun (.p 0) v2 v3) { typeOk := isFloat } floats (fun _ => true) ∧ Meets (.classF (.p 7) v2 s2) { typeOk := isFloat } floats fun _ => true :=
  ⟨all_meet (by decide), meets_spec (by decide), meets_spec (by decide)⟩

theorem witness_PredicateWords : ∀ x ∈ [Instr.pand (.p 1) (.p 2) s4, .por (.p 1) (.p 2) s4, .pxor (.p 1) (.p 2) s4, .pnot (.p 0) (.p 2),
      .pcnt s2 (.p 3), .pmov (.p 1) (.int 5), .pmov s2 (.p 1), .msave (.p 1), .msave s2, .ballot s2 v1, .vany s2 (.p 1), .vall s2 (.p 1)].map
      fun i => (i, ({} : Checks)), Meets x.1 x.2 base fun _ => true := all_meet (by decide)

theorem witness_CrossLaneResults : (∀ x ∈ [(Instr.shfl v1 v2 (.int 3), ({ typeOk := tyNot64 } : Checks)), (.shflx v1 v2 (.int 3), { typeOk := tyNot64 }),
      (.matchLanes v1 v2, { typeOk := tyNot64 }), (.scan v1 v2, { typeOk := tyScan }), (.rebal v2 v1 s4, { typeOk := tyInt32 }),
      (.reduce s2 v1 (.int 0), { typeOk := tyScan }), (.reduce s2 v1 (.int 5), { typeOk := tyBits })], Meets x.1 x.2 base fun c => c.act != 0) ∧
    ∀ x ∈ [(Instr.shfl v1 v2 (.int 3), ({ typeOk := tyNot64 } : Checks)), (.shflx v1 v2 (.int 3), { typeOk := tyNot64 }),
      (.matchLanes v1 v2, { typeOk := tyNot64 }), (.scan v1 v2, { typeOk := tyScan }), (.rebal v2 v1 s4, { typeOk := tyInt32 }),
      (.reduce s2 v1 (.int 0), { typeOk := tyScan }), (.reduce s2 v1 (.int 5), { typeOk := tyBits })],
      Meets x.1 x.2 (onX (fun x => { x with exec := 0 }) base) fun c => c.act == 0 := ⟨all_meet (by decide), all_meet (by decide)⟩

theorem witness_SenseReadings : Meets (.sense s2 (.int 0)) {} base (fun c => c.act != 0 && rawN c (.int 0) == 0) ∧
    Meets (.sense s2 (.int 1)) {} base (fun c => rawN c (.int 1) == 1) ∧ Meets (.sense s2 (.int 2)) {} base (fun c => rawN c (.int 2) == 2) ∧
    Meets (.sense s2 (.int 3)) {} base fun c => rawN c (.int 3) == 3 :=
  ⟨meets_spec (by decide), meets_spec (by decide), meets_spec (by decide), meets_spec (by decide)⟩

theorem witness_ImmediateRegisterWords : ∀ x ∈ [(Instr.rdlane s2 v1 (.int 3), ({ typeOk := tyNot64 } : Checks)),
      (.wrlane v1 s2 (.int 3), { typeOk := tyNot64 }), (.rank v1, {}), (.modesv s2, {}), (.srd s2 (.v 0) (.int 1), {}),
      (.srd v1 (.v 0) (.int 0), {}), (.clk s2, {})], Meets x.1 x.2 base fun _ => true := all_meet (by decide)

/-! ## Witnesses: MODE, masks, special registers, the stack, control -/

theorem witness_ModeAndMaskWords : (∀ x ∈ [Instr.modea 0x24E, .modem 0x0A3, .mset (.int 5), .mand (.p 1), .mandn s2].map fun i => (i, ({} : Checks)),
      Meets x.1 x.2 base fun _ => true) ∧ Meets (.modeld s2) {} base fun c => modeOk (rawN c s2) := ⟨all_meet (by decide), meets_spec (by decide)⟩

theorem witness_ReservedModeRefused : Meets (.modeld (.int 15)) {} base fun c => !(modeOk (rawN c (.int 15))) := meets_spec (by decide)

theorem witness_SpecialRegisterWrites : (∀ b ∈ [Operand.int 9, .lit 0x11, .lit 0x12, .lit 0x15], Meets (.swr s2 b) {} base fun _ => true) ∧
    Meets (.swr s2 (.lit 0x10)) {} (sreg [(2, 0xFFFFFFE0)] base) (fun c => decide ((rawU c s2).toNat % 32 = 0)) ∧
    Meets (.swr s2 (.lit 0x16)) {} handling (fun c => c.w.bruin.isEmpty && (c.w.stack.head?).any (·.kind == 3)) ∧
    Meets (.swr s2 (.lit 0x17)) {} (sreg [(2, 31)] base) (fun c => decide ((rawU c s2).toNat < 32)) ∧
    Meets (.swr s2 (.lit 0x1A)) {} (sreg [(2, 1)] base) (fun c => rawU c s2 == 1) ∧
    Meets (.swr s2 (.lit 0x1A)) {} (sreg [(2, 4096)] base) (fun c => rawU c s2 == 4096) ∧
    Meets (.swr s2 (.lit 0x10)) {} (sreg [(2, 1)] base) (fun c => decide ((rawU c s2).toNat % 32 ≠ 0)) ∧
    Meets (.swr s2 (.lit 0x17)) {} (sreg [(2, 32)] base) (fun c => decide (32 ≤ (rawU c s2).toNat)) ∧
    Meets (.swr s2 (.lit 0x1A)) {} (sreg [(2, 4097)] base) (fun c => decide (4096 < (rawU c s2).toNat)) ∧
    Meets (.swr s2 (.lit 0x1A)) {} base (fun c => rawU c s2 == 0) ∧
    Meets (.swr s2 (.lit 0x16)) {} base fun c => c.w.bruin.isEmpty && c.w.stack.isEmpty :=
  ⟨fun b hb => (all_meet (xs := [Operand.int 9, .lit 0x11, .lit 0x12, .lit 0x15].map fun b => (Instr.swr s2 b, {})) (P := fun _ => true)
      (by decide)) _ (List.mem_map_of_mem hb), meets_spec (by decide), meets_spec (by decide), meets_spec (by decide), meets_spec (by decide),
    meets_spec (by decide), meets_spec (by decide), meets_spec (by decide), meets_spec (by decide), meets_spec (by decide), meets_spec (by decide)⟩

/-- The handler's stack, and the words of an entry in s8 to s15. -/
def entryWords : State := onW (fun w => { w with s := (w.stack.flatMap Entry.words).zip (upTo 8) |>.foldl (fun v e => vset v (8 + e.2) e.1) w.s }) handling

theorem witness_StackAndMarkWords :
    Meets (.stkrd (.s 8) (.int 0)) {} handling (fun c => !((handling.part c.w.part).special) && (c.w.stack[rawN c (.int 0)]?).isSome) ∧
    Meets (.stkwr (.s 8) (.int 0)) {} entryWords (fun c => !((entryWords.part c.w.part).special) &&
      (Entry.ofWords ((upTo 8).map fun k => groupLane c (.s 8) k 0)).isSome && decide (rawN c (.int 0) < c.w.stack.length)) ∧
    Meets (.stkwr (.s 8) (.int 1)) {} entryWords (fun c => !((entryWords.part c.w.part).special) &&
      (Entry.ofWords ((upTo 8).map fun k => groupLane c (.s 8) k 0)).isSome && decide (rawN c (.int 1) = c.w.stack.length) &&
      decide (c.w.stack.length < 32)) ∧
    (∀ x ∈ [(Instr.stkrd (.s 8) (.int 0), ({} : Checks)), (.stkwr (.s 8) (.int 0), {})],
      Meets x.1 x.2 (onP (fun p => { p with state := 3 }) base) fun c => ((onP (fun p => { p with state := 3 }) base).part c.w.part).special) ∧
    Meets (.fmark 0x140) {} base (fun c => decide (c.w.splits.length ≤ 1) && c.w.stack.isEmpty) ∧ Meets .succgo {} base fun _ => true :=
  ⟨meets_spec (by decide), meets_spec (by decide), meets_spec (by decide), all_meet (by decide), meets_spec (by decide), meets_spec (by decide)⟩

theorem witness_BranchWords : Meets .nop {} base (fun _ => true) ∧
    Meets (.jmp 1) {} base (fun c => decide (targetOf c 1 < Config.vaEnd)) ∧
    Meets (.brz s2 1) {} base (fun c => decide (rawU c s2 = 0) && decide (targetOf c 1 < Config.vaEnd)) ∧
    Meets (.brnz s2 1) {} base (fun c => !(decide (rawU c s2 ≠ 0))) ∧
    Meets (.bany (.p 0) 1) {} base (fun c => decide (rawU c (.p 0) &&& c.sp.exec ≠ 0)) ∧
    Meets (.ball (.p 0) 1) {} base (fun c => decide (rawU c (.p 0) &&& c.sp.exec = c.sp.exec)) ∧
    Meets (.call s4 0x7FFF) {} base (fun c => decide (targetOf c 0x7FFF < Config.vaEnd)) ∧
    ∀ x ∈ [(Instr.ret s2, ({} : Checks)), (.jmpr s2, {})], Meets x.1 x.2 (sreg [(2, 0x40)] base) fun c =>
      decide (pairN c s2 % 32 = 0) && decide (pairN c s2 < Config.vaEnd) :=
  ⟨meets_spec (by decide), meets_spec (by decide), meets_spec (by decide), meets_spec (by decide), meets_spec (by decide),
    meets_spec (by decide), meets_spec (by decide), all_meet (by decide)⟩

/-- p1 holds a mask. -/
def pred (m : Word) : State → State := onW fun w => { w with p := vset w.p 1 m }

theorem witness_BranchTargetsChecked :
    (∀ x ∈ [(Instr.jmp 0xFFFF, ({} : Checks)), (.call s4 0xFFFF, {}), (.brz s2 0xFFFF, {}), (.bany (.p 0) 0xFFFF, {}), (.ball (.p 0) 0xFFFF, {}),
        (.brnz s2 0xFFFF, {})], Meets x.1 x.2 base fun c => decide (Config.vaEnd ≤ targetOf c 0xFFFF) && decide (rawU c s2 = 0) &&
      decide (rawU c (.p 0) &&& c.sp.exec ≠ 0) && decide (rawU c (.p 0) &&& c.sp.exec = c.sp.exec)) ∧
    (∀ x ∈ [(Instr.brz s2 0xFFFF, ({} : Checks)), (.bany (.p 1) 0xFFFF, {}), (.ball (.p 1) 0xFFFF, {}), (.brnz s2 0xFFFF, {})],
      Meets x.1 x.2 (sreg [(2, 1)] base) fun c => decide (Config.vaEnd ≤ targetOf c 0xFFFF) && decide (rawU c s2 = 1) &&
        decide (rawU c (.p 1) &&& c.sp.exec = 0) && decide (rawU c (.p 1) &&& c.sp.exec ≠ c.sp.exec)) ∧
    Meets (.brx (.p 1) 0xFFFF 3) {} base (fun c => (c.w.sbOf c.sp.num).isEmpty && c.sp.exec &&& rawU c (.p 1) == 0) ∧
    Meets (.brx (.p 0) 0xFFFF 3) {} base (fun c => (c.w.sbOf c.sp.num).isEmpty && c.sp.exec &&& rawU c (.p 0) != 0 &&
      decide (Config.vaEnd ≤ targetOf c 0xFFFF)) ∧
    Meets (.brx (.p 1) 1 0xFFFF) {} (pred 0xFF base) (fun c => (c.w.sbOf c.sp.num).isEmpty && c.sp.exec &&& rawU c (.p 1) != 0 &&
      c.sp.exec &&& ~~~(rawU c (.p 1)) != 0 && decide (targetOf c 1 < Config.vaEnd) && decide (Config.vaEnd ≤ targetOf c 0xFFFF)) ∧
    (∀ x ∈ [(Instr.ret s2, ({} : Checks)), (.jmpr s2, {})], Meets x.1 x.2 (sreg [(2, 31)] base) fun c => decide (pairN c s2 % 32 ≠ 0)) ∧
    ∀ x ∈ [(Instr.ret s2, ({} : Checks)), (.jmpr s2, {})], Meets x.1 x.2 (sreg [(3, 0x01000000)] base) fun c =>
      decide (pairN c s2 % 32 = 0) && decide (Config.vaEnd ≤ pairN c s2) :=
  ⟨all_meet (by decide), all_meet (by decide), meets_spec (by decide), meets_spec (by decide), meets_spec (by decide), all_meet (by decide),
    all_meet (by decide)⟩

/-- A stack of n kind 0 entries. -/
def stacked (n : Nat) : State → State := onW fun w => { w with
  stack := List.replicate n { pc := 4, rejoin := 32, mask := 1, mode := 0, kind := 0, owner := 0, cause := 0, prog := 0, orphan := false } }

/-- Four splits. -/
def fourSplits : State → State := onW fun w => { w with
  splits := w.splits ++ [newSplit 1 36 0 0 0 none 0, newSplit 2 36 0 0 0 none 0, newSplit 3 36 0 0 0 none 0] }

/-- The divisions of a split whose p1 takes eight lanes: depth 28 and 29, with a free number and without. -/
def divides (c : Ctx) : Bool :=
  (c.w.sbOf c.sp.num).isEmpty && c.sp.exec &&& rawU c (.p 1) != 0 && c.sp.exec &&& ~~~(rawU c (.p 1)) != 0 &&
    decide (targetOf c 1 < Config.vaEnd) && decide (targetOf c 3 < Config.vaEnd)

theorem witness_DivergentBranch :
    Meets (.brx (.p 1) 1 3) {} (onW (fun w => { w with pend := [Pend.mk 0 0 [9] (.ready [])] }) base) (fun c => !((c.w.sbOf c.sp.num).isEmpty)) ∧
    Meets (.brx (.p 1) 1 3) {} base (fun c => (c.w.sbOf c.sp.num).isEmpty && c.sp.exec &&& rawU c (.p 1) == 0) ∧
    Meets (.brx (.p 0) 1 3) {} base (fun c => (c.w.sbOf c.sp.num).isEmpty && c.sp.exec &&& rawU c (.p 0) != 0 &&
      c.sp.exec &&& ~~~(rawU c (.p 0)) == 0 && decide (targetOf c 1 < Config.vaEnd)) ∧
    Meets (.brx (.p 1) 1 3) {} (pred 0xFF (stacked 27 base)) (fun c => divides c && decide (c.w.splits.length < 4) && c.w.freeNum == some 1 &&
      decide (c.w.stack.length = 27)) ∧
    Meets (.brx (.p 1) 1 3) {} (pred 0xFF (stacked 28 base)) (fun c => divides c && c.w.freeNum == some 1 && decide (c.w.stack.length = 28)) ∧
    Meets (.brx (.p 1) 1 3) {} (pred 0xFF (fourSplits (stacked 26 base))) (fun c => divides c && decide (4 ≤ c.w.splits.length) &&
      decide (c.w.stack.length = 26)) ∧
    Meets (.brx (.p 1) 1 3) {} (pred 0xFF (fourSplits (stacked 27 base))) fun c => divides c && decide (4 ≤ c.w.splits.length) &&
      decide (c.w.stack.length = 27) :=
  ⟨meets_spec (by decide), meets_spec (by decide), meets_spec (by decide), meets_spec (by decide), meets_spec (by decide), meets_spec (by decide),
    meets_spec (by decide)⟩

theorem witness_JoinExitYield :
    Meets (.joinw (.p 0)) {} base (fun c => (c.w.sbOf c.sp.num).isEmpty && rawU c (.p 0) &&& c.w.alive &&& ~~~c.sp.live == 0) ∧
    Meets (.joinw (.p 0)) {} (onX (fun x => { x with live := 0xF, exec := 0xF }) base) (fun c => rawU c (.p 0) &&& c.w.alive &&& ~~~c.sp.live != 0) ∧
    Meets .exit {} base (fun c => (c.w.sbOf c.sp.num).isEmpty && c.sp.exec != 0 && c.w.keyed.isNone && c.w.preemptArea.isNone) ∧
    Meets .exit {} (onX (fun x => { x with exec := 0xF }) base) (fun c => (c.w.sbOf c.sp.num).isEmpty && c.sp.exec != 0 && c.w.keyed.isNone &&
      c.w.alive &&& ~~~c.sp.exec != 0) ∧
    (∃ x, (onX (fun x => { x with live := 0xFF }) base).wave? 0 = some x ∧ ∃ y, x.split? 0 = some y ∧ y.live &&& ~~~0xF#32 ≠ 0) ∧
    (∃ c, base.ctx? = some c ∧ (base.modWave 0 fun w => { w with splits := w.splits ++ [{ newSplit 1 36 0xF 0xF 0 none 0 with ready := true }] }).nextPending c.w.quad =
      some (0, 1) ∧ (base.quad c.w.quad).slots.findIdx? (· == some (c.wi, c.sp.num)) = some 0) :=
  ⟨meets_spec (by decide), meets_spec (by decide), meets_spec (by decide), meets_spec (by decide), ⟨_, rfl, _, rfl, by decide⟩, ⟨_, rfl, by decide, by decide⟩⟩

/-! ## Witnesses: memory words -/

/-- v1 to and from the address in s2:s3. -/
def loads : List Instr := [.ld8 v1 s2 (.int 0), .ld16 v1 s2 (.int 0), .ld32 v1 s2 v3, .ld64 v2 s2 (.int 0), .lds32 s4 s2 (.int 0),
  .lds64 s4 s2 (.int 0), .lds128 s4 s2 (.int 0), .ldacq v1 s2 (.int 0), .acqr s4 s2 (.int 0)]
def stores : List Instr := [.st8 v1 s2 (.int 0), .st16 v1 s2 (.int 0), .st32 v1 s2 v3, .st64 v2 s2 (.int 0), .sts32 s4 s2 (.int 0)]

theorem witness_LoadWords :
    (∀ x ∈ (loads.take 4).map fun i => (i, ({} : Checks)),
      Meets x.1 x.2 base fun c => granted c base 8 false .read (accessLanes c false s2 (.int 0))) ∧
    (∀ x ∈ (loads.drop 4).map fun i => (i, ({} : Checks)),
      Meets x.1 x.2 base fun c => granted c base 16 false .read (accessLanes c true s2 (.int 0))) ∧
    InCtx base fun c => granted c base 4 false .read (accessLanes c false s2 v3) :=
  ⟨all_meet (by decide), all_meet (by decide), inCtx_spec (by decide)⟩

/-- `Safety.ReadyProg` as a test. -/
def progTest (i : Instr) (s : State) (P : Ctx → Bool) : Bool := match s.ctx? with
  | none => false
  | some c => decodesFor i c && (progCodes i c).all (fun r => !((c.w.pend.flatMap (·.codes)).contains r)) && P c

theorem prog_spec {i : Instr} {s : State} {P : Ctx → Bool} (h : progTest i s P = true) : ∃ c, ReadyProg i s c ∧ P c = true := by
  unfold progTest at h
  cases hc : s.ctx? with
  | none => rw [hc] at h; cases h
  | some c =>
    rw [hc] at h
    simp only [Bool.and_eq_true, Bool.not_eq_true', List.all_eq_true] at h
    refine ⟨c, ⟨hc, h.1.1, fun r hr hm => ?_⟩, h.2⟩
    have := h.1.2 r hr
    rw [List.contains_iff_mem.mpr hm] at this
    cases this

/-- Fresh, and resumed with the low lanes done. -/
theorem witness_QuadWords :
    (∃ c, ReadyProg (.ld128 v4 s2 (.int 0)) base c ∧ granted c base 16 false .read ((accessLanes c false s2 (.int 0)).filter fun e => !(bit c.sp.prog e.1)) = true) ∧
    (∃ c, ReadyProg (.st128 v4 s2 (.int 0)) (onX (fun x => { x with prog := 0xF }) base) c ∧
      granted c base 16 true .write ((accessLanes c false s2 (.int 0)).filter fun e => !(bit c.sp.prog e.1)) = true) :=
  ⟨prog_spec (by decide), prog_spec (by decide)⟩

theorem witness_StoreWords :
    (∀ x ∈ (stores.take 4).map fun i => (i, ({} : Checks)),
      Meets x.1 x.2 base fun c => granted c base 8 true .write (accessLanes c false s2 (.int 0))) ∧
    Meets (.sts32 s4 s2 (.int 0)) {} base (fun c => granted c base 4 true .write (accessLanes c true s2 (.int 0))) ∧
    (∀ x ∈ [(Instr.strel v1 s2 (.int 0), ({} : Checks)), (.strel s4 s2 (.int 0), {})], Meets x.1 x.2 base fun c =>
      c.act != 0 && granted c base 4 true .write (accessLanes c (!(isV v1)) s2 (.int 0))) ∧
    Meets (.strel v1 s2 (.int 0)) {} (onX (fun x => { x with exec := 0 }) base) fun c => c.act == 0 :=
  ⟨all_meet (by decide), meets_spec (by decide), all_meet (by decide), meets_spec (by decide)⟩

/-- An address beyond the scratch of the block, and one off its alignment. -/
theorem witness_AddressCauses :
    (∀ x ∈ [Instr.ld16 v1 s2 (.int 0), .ld32 v1 s2 (.int 0), .ld64 v2 s2 (.int 0), .st16 v1 s2 (.int 0), .st32 v1 s2 (.int 0), .st64 v2 s2 (.int 0),
        .lds32 s4 s2 (.int 0), .lds64 s4 s2 (.int 0), .lds128 s4 s2 (.int 0), .sts32 s4 s2 (.int 0)].map fun i => (i, ({} : Checks)),
      Meets x.1 x.2 (sreg [(3, 0x02000000)] base) fun c => decide (base.scratchOf c.w ≤ 524288) && !(decide (pairN c s2 < Config.aperture + base.scratchOf c.w))) ∧
    Meets (.ld16 v1 s2 (.int 1)) {} base fun c => decide (laneAddr c s2 (.int 1) 0 % 2 ≠ 0) && decide (laneAddr c s2 (.int 1) 0 < Config.aperture) :=
  ⟨all_meet (by decide), meets_spec (by decide)⟩

theorem witness_AtomicWords : (∀ x ∈ [(Instr.aadd v1 s2 v3, AtomicOp.add), (.amin v1 s2 v3, .min), (.amax v1 s2 v3, .max), (.aand v1 s2 v3, .and),
      (.aor v1 s2 v3, .or), (.axor v1 s2 v3, .xor), (.axchg v1 s2 v3, .xchg), (.acas v2 s2 (.int 0), .cas), (.ainc s4 s2 (.int 0), .inc)].map
      fun e => (e.1, ({ typeOk := atomicTypes e.2, illegal := fun c => !(useAllows (mAuse c.sp.mode) (mType c.sp.mode) e.2) } : Checks)),
      Meets x.1 x.2 (mode 1 base) fun c => c.act != 0 && granted c base 4 true .both (accessLanes c false s2 v3)) ∧
    Meets (.aadd (.int 0) s2 (.lit 1)) { typeOk := atomicTypes .add } (mode 1 base) (fun c => c.act != 0 && granted c base 4 true .both [(0, pairN c s2)]) :=
  ⟨all_meet (by decide), meets_spec (by decide)⟩

/-- The other uses, each with an instruction and a type that it allows: unpaired, commute, quantum, spec. -/
theorem witness_AtomicUses : ∀ e ∈ [(Instr.aadd v1 s2 v3, AtomicOp.add, (0x40001 : Word)), (.aor v1 s2 v3, .or, 0x80001), (.aadd v1 s2 v3, .add, 0xC0001),
    (.ainc s4 s2 (.int 0), .inc, 0xC0001), (.axchg v1 s2 v3, .xchg, 0x100001)],
    Meets e.1 { typeOk := atomicTypes e.2.1, illegal := fun c => !(useAllows (mAuse c.sp.mode) (mType c.sp.mode) e.2.1) } (mode e.2.2 base) fun c =>
      c.act != 0 && granted c base 4 true .both (accessLanes c false s2 v3) := by
  intro e he
  simp only [List.mem_cons, List.not_mem_nil, or_false] at he
  rcases he with rfl | rfl | rfl | rfl | rfl <;> exact meets_spec (by decide)

/-- MODE.SCOPE block, so that a fence with a release part waits for no stash line. -/
theorem witness_FenceAndCacheWords :
    (∀ x ∈ [Instr.fence (.int 0), .fence (.int 1), .fence (.int 2), .fence (.int 3)].map fun i => (i, ({} : Checks)),
      Meets x.1 x.2 base fun c =>
      let r := (base.unmark c.wi).fenceRelease c.wi (mScope c.sp.mode)
      c.act != 0 && !(wideScope (mScope c.sp.mode) && r.2.stashPending c.wi r.1)) ∧
    Meets (.pref s2 (.int 0)) {} base (fun c => ((accessLanes c false s2 (.int 0)).filter fun e => isGlobal e.2).all fun e =>
      (base.right? c.w.core (base.asidOf c.w.part) e.2).isSome) ∧
    Meets (.unpin s2 (.int 0)) {} base (fun c => c.act != 0 && decide (laneAddr c s2 (.int 0) 0 < Config.aperture)) ∧
    Meets (.cinv s2 (.int 1)) {} base (fun c => c.act != 0 && rawN c (.int 1) != 0 && decide (pairN c s2 + rawN c (.int 1) ≤ Config.aperture)) ∧
    Meets (.cwb s2 (.int 0)) {} base (fun c => c.act != 0 && rawN c (.int 0) == 0) :=
  ⟨all_meet (by decide), meets_spec (by decide), meets_spec (by decide), meets_spec (by decide), meets_spec (by decide)⟩

/-- s2:s3 names the first byte of the scratch aperture. -/
def inScratch : State := sreg [(3, 0x00FE0000)] base

/-- L2 holds line 0 in way 0, pinned or not. -/
def homed (pinned : Bool) : State :=
  { base with lines := base.lines.put 0 { (default : L2Line) with valid := 15, pinned := pinned, way := some 0 } }

/-- The home's TLB holds granule 0 with an attribute. -/
def attrPage (n : Nat) : State := { base with tlb := [(0, { (default : Right) with ok := true, r := true, r1 := true, attr := n })] }

/-- All 16 ways of one set are pinned, line 0 in none of them. -/
def fullSet : State :=
  let x : L2Line := { (default : L2Line) with valid := 15, pinned := true }
  { base with lines := (0, default) :: (upTo 16).map fun i => (0, { x with way := some i }) }

/-- With every way of its set pinned a line finds no way. -/
theorem fullSet_noWay (pa prio : Nat) : fullSet.takeWay 0 0 pa prio = none := by
  have h : fullSet.occupants (fullSet.keySlice (lkey 0 0)) (setOf (lkey 0 0)) =
      (upTo 16).map fun i => { way := i, prio := 0, used := 0, pinned := true, copy := none, key := 0 } := by
    have hk : fullSet.keySlice (lkey 0 0) = fullSet.keySlice 0 := rfl
    have hs : setOf (lkey 0 0) = setOf 0 := rfl
    rw [hk, hs]
    generalize hx : fullSet.keySlice 0 = sl
    simp only [State.occupants]
    simp only [fullSet, List.filterMap_cons, List.filterMap_map]
    simp [upTo, List.range, List.range.loop]
    simp_all [fullSet, upTo, List.range, List.range.loop]
    rfl
  simp only [State.takeWay, State.freeWay, h]
  rfl

theorem witness_PinnedSets :
    Meets (.pin s4 s2 (.int 0)) {} (attrPage 2) (fun c => granted c (attrPage 2) 1 false .read [(0, laneAddr c s2 (.int 0) 0)] &&
      !(((attrPage 2).line? ((attrPage 2).asidOf c.w.part) 0).any (·.pinned)) &&
      has ((attrPage 2).trans ((attrPage 2).asidOf c.w.part) (laneAddr c s2 (.int 0) 0)) (fun r => r.attr == 2)) ∧
    Meets (.pin s4 s2 (.int 0)) {} fullSet (fun c => granted c fullSet 1 false .read [(0, laneAddr c s2 (.int 0) 0)] &&
      !((fullSet.line? (fullSet.asidOf c.w.part) 0).any (·.pinned)) && !(fullSet.inL2 (fullSet.asidOf c.w.part) 0) &&
      fullSet.asidOf c.w.part == 0 &&
      has (fullSet.trans (fullSet.asidOf c.w.part) (laneAddr c s2 (.int 0) 0)) fun r => r.tgt == 0 && (l2Prio 0 r.attr).isSome) :=
  ⟨meets_spec (by decide), meets_spec (by decide)⟩

theorem witness_PinAndWriteBack :
    Meets (.pin s4 s2 (.int 0)) {} (homed false) (fun c => granted c (homed false) 1 false .read [(0, laneAddr c s2 (.int 0) 0)] &&
      !(((homed false).line? ((homed false).asidOf c.w.part) 0).any (·.pinned)) && (homed false).inL2 ((homed false).asidOf c.w.part) 0 &&
      has ((homed false).trans ((homed false).asidOf c.w.part) (laneAddr c s2 (.int 0) 0)) fun r => r.tgt == 0 && (l2Prio 0 r.attr).isSome) ∧
    Meets (.pin s4 s2 (.int 0)) {} inScratch (fun c => c.act != 0 && inAperture (laneAddr c s2 (.int 0) 0)) ∧
    Meets (.pin s4 s2 (.int 0)) {} (homed true) (fun c => granted c (homed true) 1 false .read [(0, laneAddr c s2 (.int 0) 0)] &&
      has ((homed true).right? c.w.core ((homed true).asidOf c.w.part) (laneAddr c s2 (.int 0) 0)) (fun r => r.attr != 2) &&
      has ((homed true).line? ((homed true).asidOf c.w.part) 0) (·.pinned)) ∧
    Meets (.pin s4 s2 (.int 0)) {} base (fun c => granted c base 1 false .read [(0, laneAddr c s2 (.int 0) 0)] &&
      !((base.line? (base.asidOf c.w.part) 0).any (·.pinned)) && !(base.inL2 (base.asidOf c.w.part) 0) &&
      has (base.trans (base.asidOf c.w.part) (laneAddr c s2 (.int 0) 0)) fun r => r.tgt == 0 && has (l2Prio 0 r.attr) fun p =>
        (base.takeWay (base.asidOf c.w.part) 0 (r.linePa 0) p).isSome) ∧
    Meets (.cwb s2 (.int 1)) {} base (fun c => c.act != 0 && rawN c (.int 1) != 0 && decide (pairN c s2 + rawN c (.int 1) ≤ Config.aperture) &&
      (let r := (base.unmark c.wi).startWriteBack c.wi 6 (base.dirtyStashIn (base.asidOf c.w.part) (pairN c s2) (rawN c (.int 1)))
        (base.dirtyL2In (base.asidOf c.w.part) (pairN c s2) (rawN c (.int 1)))
       !(r.2.isReleasing c.wi r.1))) ∧
    Meets (.cwb s2 (.int 1)) {} { base with lines := base.lines.put 0 { (default : L2Line) with valid := 15, dirty := 1 } } fun c =>
      let s : State := { base with lines := base.lines.put 0 { (default : L2Line) with valid := 15, dirty := 1 } }
      let r := (s.unmark c.wi).startWriteBack c.wi 6 (s.dirtyStashIn (s.asidOf c.w.part) (pairN c s2) (rawN c (.int 1)))
        (s.dirtyL2In (s.asidOf c.w.part) (pairN c s2) (rawN c (.int 1)))
      r.2.isReleasing c.wi r.1 :=
  ⟨meets_spec (by decide), meets_spec (by decide), meets_spec (by decide), meets_spec (by decide), meets_spec (by decide), meets_spec (by decide)⟩

/-- The wave's monitor as it stands. -/
def watching (st : MonState) : State := onW (fun w => { w with mons := [(0, { (default : Monitor) with st := st })] }) base

theorem witness_MonitorWords :
    Meets (.mon s2 (.int 0)) {} base (fun c => c.act != 0 && granted c base 1 false .read [(0, laneAddr c s2 (.int 0) 0)] &&
      decide (laneAddr c s2 (.int 0) 0 < Config.aperture) && Table.wfFrom none base.waves &&
      decide ((base.monitorsOf c.w.part c.w.core).length < 16)) ∧
    Meets (.mwait s4 s2) {} base (fun c => c.act != 0 && base.monitorStatus c.w c.sp.num (base.core c.w.core).clk.toNat 0 == some 0) ∧
    Meets (.mwait s4 s2) {} (watching .fired) (fun c => c.act != 0 && base.monitorStatus c.w c.sp.num (base.core c.w.core).clk.toNat 0 == some 1) ∧
    Meets (.mwait s4 s2) {} (watching .armed) (fun c => c.act != 0 && (base.monitorStatus c.w c.sp.num (base.core c.w.core).clk.toNat 0).isNone) ∧
    Meets .mcancel {} (watching .armed) fun c => c.act != 0 :=
  ⟨meets_spec (by decide), meets_spec (by decide), meets_spec (by decide), meets_spec (by decide), meets_spec (by decide)⟩

/-! ## Witnesses: stash windows, mirrored windows, copies, slices, fences, rings, barriers, handles -/

/-- A partition with copy-queue entries, stash windows and mirrored windows of its own in core 0 (one of each in `bootPart`). -/
def window0 : Window := { id := 0, off := 0, len := 256, base := 0, lines := [StashLine.absent] }

/-- A window with a dirty line. -/
def dirty0 : Window := { window0 with lines := [{ (default : StashLine) with present := true, dirty := 1 }] }

theorem witness_StashWindowWords :
    Meets (.stmap (.s 6) s2 s4) {} (sreg [(5, 256)] base) (fun c => c.act != 0 && decide ((groupLane c s4 0 0).toNat + (groupLane c s4 1 0).toNat ≤ 16384) &&
      decide (pairN c s2 + (groupLane c s4 1 0).toNat ≤ Config.aperture) && decide ((groupLane c s4 1 0).toNat % 256 = 0) && groupLane c s4 1 0 != 0 &&
      decide ((base.windowsOf c.w.part c.w.core).length < ((base.part c.w.part).shareIn c.w.core).elim 0 (·.stash))) ∧
    (∃ b, base.block? 0 = some b ∧ b.record.scratch = 16384 ∧ b.windows = []) ∧
    Meets (.stmap (.s 6) s2 s4) {} (sreg [(5, 256)] (onB (fun b => { b with windows := [window0] }) base)) (fun c =>
      decide (((base.part c.w.part).shareIn c.w.core).elim 0 (·.stash) ≤
        ((onB (fun b => { b with windows := [window0] }) base).windowsOf c.w.part c.w.core).length)) ∧
    (∃ b, (onB (fun b => { b with windows := [window0] }) base).block? 0 = some b ∧ b.windows = [window0]) ∧
    (∀ x ∈ [(Instr.stflush s2, ({} : Checks)), (.stunmap s2, {})], Meets x.1 x.2 (onB (fun b => { b with windows := [window0] }) base) fun c =>
      c.act != 0 && rawN c s2 == 0 && !(c.w.bufferedFor window0) &&
      (let s := onB (fun b => { b with windows := [window0] }) base
       let r := (s.unmark c.wi).startWriteBack c.wi 0 [] []
       !(r.2.isReleasing c.wi r.1))) ∧
    ∀ x ∈ [(Instr.stflush s2, ({} : Checks)), (.stunmap s2, {})], Meets x.1 x.2 (onB (fun b => { b with windows := [dirty0] }) base) fun c =>
      let s := onB (fun b => { b with windows := [dirty0] }) base
      has (s.block? c.w.block) fun bk =>
        let r := (s.unmark c.wi).startWriteBack c.wi 0 ((bk.dirtyStash c.w.block).filter fun x => x.2.1 == rawN c s2) []
        has (bk.window? (rawN c s2)) fun wd => !(c.w.bufferedFor wd) && r.2.isReleasing c.wi r.1 :=
  ⟨meets_spec (by decide), ⟨_, rfl, by decide, by decide⟩, meets_spec (by decide), ⟨_, rfl, by decide⟩, all_meet (by decide), all_meet (by decide)⟩

/-- Windows of the owner in use but fewer than its share, one overlapping the range. -/
theorem witness_StashOverlap : Meets (.stmap (.s 6) s2 s4) {} (sreg [(5, 256)] (onP (fun p => { p with
    quads := [(0, { bootQuad with stash := 2 })] }) (onB (fun b => { b with windows := [window0] }) base))) (fun c =>
      c.act != 0 && decide (((onB (fun b => { b with windows := [window0] }) base).windowsOf c.w.part c.w.core).length < 2)) :=
  meets_spec (by decide)

/-- A mirrored binding of group 5 that is live. -/
def mirror5 : MirrorBind := { id := 5, off := 0, len := 64, use := 1, ended := false, at_ := 0 }
def mirrored : State := onB (fun b => { b with mirrors := [mirror5] }) base
def delivering : State := { mirrored with deliveries := [{ (default : Delivery) with src := 0, dst := 0, id := 5, use := 1 }] }

/-- A delivery of an ended binding of the group is in flight. -/
def inFlight5 : State := { base with deliveries := [{ (default : Delivery) with src := 0, dst := 0, id := 5, sec := sectorOf 0, bind := 7 }] }

/-- s2:s3 the range, s4 the group. -/
def bindRegs : State → State := sreg [(3, 64), (4, 5)]

theorem witness_MirrorAndCopyWords :
    Meets (.mwbind s2 s4) {} (bindRegs base) (fun c => c.act != 0 && decide (rawN c s4 ≤ 63) && groupLane c s2 1 0 == 64 && groupLane c s2 0 0 == 0 &&
      !((bindRegs base).mirrorBusy c.w (rawN c s4))) ∧
    (∀ x ∈ [(Instr.mwunbind s4, ({} : Checks))], Meets x.1 x.2 (bindRegs base) fun c => decide (rawN c s4 ≤ 63)) ∧
    (∃ b, mirrored.block? 0 = some b ∧ b.mirrors = [mirror5] ∧ mirrored.outgoing 0 5 = false ∧ delivering.outgoing 0 5 = true) ∧
    (∀ x ∈ [(Instr.cpy s2 s4 (.s 6), ({ roleOk := fun r => r == 0 || r == 1 } : Checks))],
      Meets x.1 x.2 (sreg [(2, 64), (6, 4096)] base) fun c => c.act != 0 &&
        decide (((base.core c.w.core).copyQ.filter fun o => o.part == c.w.part).length < ((base.part c.w.part).shareIn c.w.core).elim 0 (·.cpq)) &&
        stridedOk base c.w (pairN c s4) 1 (rawN c s2) 0 && stridedOk base c.w (pairN c (.s 6)) 1 (rawN c s2) 0) ∧
    Meets (.cpy2d s4 s2 (.s 8)) { roleOk := fun r => r == 0 || r == 1 } (sreg [(4, 2), (5, 64), (6, 64), (7, 64), (8, 4096)] base) (fun c =>
      stridedOk base c.w (pairN c s2) (groupLane c s4 0 0).toNat (groupLane c s4 1 0).toNat (groupLane c s4 2 0).toNat &&
      stridedOk base c.w (pairN c (.s 8)) (groupLane c s4 0 0).toNat (groupLane c s4 1 0).toNat (groupLane c s4 3 0).toNat) ∧
    Meets (.cpclose s2) {} base (fun c => c.act != 0) :=
  ⟨meets_spec (by decide), all_meet (by decide), ⟨_, rfl, by decide, by decide, by decide⟩, all_meet (by decide), meets_spec (by decide),
    meets_spec (by decide)⟩

/-- Batch 3 was the last; a copy of it is left, or one failed. -/
def batches (left : List CopyOp) (failed : List Nat) : State :=
  { sreg [(2, 3)] (onW (fun w => { w with lastBatch := 3, failedBatches := failed }) base) with cores := base.cores.put 0 { base.core 0 with copyQ := left } }

/-- The premises of CPWAIT's clauses; a group for which a delivery of an ended binding is in flight is one where MWBIND waits. -/
theorem witness_CopyWaits :
    Meets (.cpwait (.int 0)) {} base (fun c => rawN c (.int 0) == 0) ∧
    Meets (.cpwait s2) {} (batches [] []) (fun c => rawN c s2 == 3 && c.w.lastBatch == 3 && covered c.w.lastBatch (rawN c s2) && c.w.failedBatches.isEmpty) ∧
    Meets (.cpwait s2) {} (batches [] [2]) (fun c => covered c.w.lastBatch (rawN c s2) && covered (rawN c s2) 2 && c.w.failedBatches == [2]) ∧
    Meets (.cpwait s2) {} (batches [{ (default : CopyOp) with batch := some 3 }] []) (fun c => covered c.w.lastBatch (rawN c s2) &&
      ((batches [{ (default : CopyOp) with batch := some 3 }] []).core c.w.core).copyQ.any fun o => o.wave == c.wi && o.batch == some 3 && covered (rawN c s2) 3) ∧
    Meets (.mwbind s2 s4) {} (bindRegs inFlight5) (fun c => (bindRegs inFlight5).mirrorBusy c.w (rawN c s4)) :=
  ⟨meets_spec (by decide), meets_spec (by decide), meets_spec (by decide), meets_spec (by decide), meets_spec (by decide)⟩


/-! ## Witnesses: slices, fences, rings, barriers, handles, groups, children -/

/-- H3, a handle that base holds empty. -/
def h3 : Operand := .h 3

/-- s4:s7 a list at 0 of one element of 4 bytes, its data at 64 in scratch, or no element. -/
def sliceRegs (n : Word) : State := sreg [(4, 0), (5, n), (6, 4), (7, 64)] base

/-- A gather of the block is in flight. -/
def slicing : State := { base with sliceQ := [{ (default : SliceOp) with block := 0, tag := 9 }] }

/-- Index entries are read now. -/
def isRead : Indices → Bool | .some _ _ => true | _ => false

/-- An operation of two entries under H3 that has sent one, and its instruction, which has that in PROG. -/
def half : SliceOp := { (default : SliceOp) with tag := 9, block := 0, wave := 0, split := 0, count := 2, elem := 4, next := 1, sent := [(0, 0)] }
def stopped : State := { onX (fun x => { x with prog := 1 }) (onW (fun w => { w with h := vset w.h 3 (.pending 9) }) (sliceRegs 2)) with sliceQ := [half] }

theorem witness_SliceAndFenceWords :
    (∀ n ∈ [(0 : Word), 1], ∀ x ∈ [(Instr.gath h3 s4 s2, sliceChecks s4), (.scat h3 s4 s2, sliceChecks s4)], Meets x.1 x.2 (sliceRegs n) fun c =>
      c.act != 0 && !((handleState c.w h3).isPending) && c.sp.prog == 0 && (groupLane c s4 1 0 == n) &&
      (sliceCause (sliceRegs n) c (groupLane c s4 0 0).toNat (groupLane c s4 1 0).toNat (groupLane c s4 2 0).toNat (groupLane c s4 3 0).toNat
        (pairN c s2)).isNone) ∧
    InCtx (sliceRegs 1) (fun c => isRead ((sliceRegs 1).drawn.readIndices c (groupLane c s4 0 0).toNat (1 + Config.freeNat (sliceRegs 1).free % 1))) ∧
    (∀ x ∈ [(Instr.gath h3 s4 s2, sliceChecks s4), (.scat h3 s4 s2, sliceChecks s4)], Meets x.1 x.2 stopped fun c =>
      c.act != 0 && c.sp.prog != 0 && stopped.stoppedSlice c h3 == some half) ∧
    InCtx stopped (fun c => isRead ((stopped.unmark c.wi).drawn.readIndices c (half.list + 4 * half.next) (1 + Config.freeNat stopped.free % 1))) ∧
    Meets (.qfence h3 (.int 0)) {} base (fun c => c.act != 0 && rawN c (.int 0) == 0) ∧
    Meets (.qfence h3 (.int 7)) {} base (fun c => decide (rawN c (.int 7) < 32) && rawN c (.int 7) != 0 && decide (base.mxFill c.w.quad < 64) &&
      (base.opsIn c.w (rawN c (.int 7))).isEmpty && !(((base.unmark c.wi).startRelease c.wi 2).2.isReleasing c.wi ((base.unmark c.wi).startRelease c.wi 2).1)) ∧
    Meets (.qfence h3 (.int 2)) {} slicing (fun c => decide (base.mxFill c.w.quad < 64) && slicing.opsIn c.w (rawN c (.int 2)) == [9]) := by
  simp only [Nat.mod_one]
  refine ⟨fun n hn => ?_, inCtx_spec (by decide), all_meet (by decide), inCtx_spec (by decide), meets_spec (by decide), meets_spec (by decide),
    meets_spec (by decide)⟩
  rcases List.mem_cons.mp hn with rfl | h
  · exact all_meet (by decide)
  · rw [List.mem_singleton.mp h]; exact all_meet (by decide)

/-- A ring with its two next slots in these states. -/
def ringOf (st : SlotState) : Ring :=
  { slots := { st := st, phase := false, lap := false } :: List.replicate 7 { st := .empty, phase := false, lap := false },
    prod := 0, prodLap := false, cons := 0, consLap := false, acqs := [], gets := [] }

def ringed (st : SlotState) : State := onB (fun b => b.modRing 0 fun _ => ringOf st) base

/-- A word is ready in a state whose ring 0 has its first slot in a state. -/
def RingMeets (i : Instr) (st : SlotState) : Prop :=
  Meets i {} (ringed st) (fun c => c.act != 0 && c.w.flushed) ∧ ∃ b, (ringed st).block? 0 = some b ∧ b.rings[0]? = some (ringOf st)

theorem witness_RingWords : ((ringOf .empty).slots.length = 8 ∧ (ringOf .empty).prod < 8 ∧ (ringOf .empty).cons < 8) ∧
    RingMeets (.racq s4 (.int 0)) .empty ∧ RingMeets (.racq s4 (.int 0)) .claimed ∧ RingMeets (.rget s4 (.int 0)) .full ∧
    RingMeets (.rget s4 (.int 0)) .empty ∧ RingMeets (.rpub (.int 0) s2) .claimed ∧ RingMeets (.rpub (.int 0) s2) .empty ∧
    RingMeets (.rrel (.int 0) s2) .taken ∧ RingMeets (.rrel (.int 0) s2) .full :=
  ⟨by decide, ⟨meets_spec (by decide), _, rfl, by decide⟩, ⟨meets_spec (by decide), _, rfl, by decide⟩, ⟨meets_spec (by decide), _, rfl, by decide⟩,
    ⟨meets_spec (by decide), _, rfl, by decide⟩, ⟨meets_spec (by decide), _, rfl, by decide⟩, ⟨meets_spec (by decide), _, rfl, by decide⟩,
    ⟨meets_spec (by decide), _, rfl, by decide⟩, ⟨meets_spec (by decide), _, rfl, by decide⟩⟩

/-- The wave arrived at barrier 0 in phase 0, or in a phase before it. -/
def arrived (ph : Nat) : State := onW (fun w => { w with barPhase := [(0, ph)] }) base

theorem witness_BarrierWords : (∃ b x, base.block? 0 = some b ∧ b.bars[0]? = some x ∧ x.fixed = false ∧ x.who = [] ∧ x.phase = 0) ∧
    (∀ n ∈ [(1 : Fin 16), 2], ∀ x ∈ [(Instr.bara (.int 0) (.int n), barChecks base (.int 0) (.int n) false),
        (.bar (.int 0) (.int n), barChecks base (.int 0) (.int n) true)], Meets x.1 x.2 base fun c =>
      rawN c (.int n) == n.val && decide (c.w.splits.length ≤ 1) && c.w.flushed && c.sp.prog == 0) ∧
    Meets (.barw (.int 0)) {} base (fun c => c.w.barPhase.find 0 == none) ∧ Meets (.barw (.int 0)) {} (arrived 0) (fun c => c.w.barPhase.find 0 == some 0) ∧
    Meets (.barw (.int 0)) {} (arrived 5) fun c => c.w.barPhase.find 0 == some 5 := by
  refine ⟨⟨_, _, rfl, rfl, by decide, by decide, by decide⟩, fun n hn => ?_, meets_spec (by decide), meets_spec (by decide), meets_spec (by decide)⟩
  rcases List.mem_cons.mp hn with rfl | h
  · exact all_meet (by decide)
  · rw [List.mem_singleton.mp h]; exact all_meet (by decide)

/-- H3 in a state. -/
def holds3 (st : HState) : State := onW (fun w => { w with h := vset w.h 3 st }) base

/-- The launch's predecessor is launch 7, which has not completed. -/
def waitsPred : State :=
  let s := onL (fun l => { l with hasPred := true, pred := some 7 }) base
  match base.launch? 0 with
  | none => s
  | some l => { s with launches := s.launches.put 7 l }

theorem witness_HandleWords :
    (∀ st ∈ [HState.empty, .pending 1, .done, .cancelled, .failed], (∀ x ∈ [(Instr.htest s4 h3, ({} : Checks)), (.hwait s4 h3, {}), (.hmov s4 h3, {}),
      (.hcancel h3, {})], Meets x.1 x.2 (holds3 st) fun c => c.act != 0 && handleState c.w h3 == st)) ∧
    (∀ n ∈ [(0 : Word), 2, 3, 4], Meets (.hmov h3 s4) {} (sreg [(4, n)] base) fun c => c.act != 0 && rawN c s4 == n.toNat &&
      !((handleState c.w h3).isPending)) ∧
    Meets .predwait {} base (fun c => c.act != 0 && base.predDone c.w.launch) ∧
    Meets .predwait {} waitsPred fun c => c.act != 0 && !(waitsPred.predDone c.w.launch) := by
  refine ⟨fun st hst => ?_, fun n hn => ?_, meets_spec (by decide), meets_spec (by decide)⟩
  · rcases st with _ | n | _ | _ | _ <;> first | exact all_meet (by decide) | skip
    have : n = 1 := by simpa using hst
    subst this; exact all_meet (by decide)
  · simp only [List.mem_cons, List.not_mem_nil, or_false] at hn
    rcases hn with rfl | rfl | rfl | rfl <;> exact meets_spec (by decide)

/-- A launch record of one block of one wave of 8 registers. -/
def spawnRecord : List Byte := [0, 0, 0, 0, 0, 0, 0, 0, 0, 0, 0, 0, 0, 0, 0, 0, 1, 0, 0, 0, 1, 0, 8] ++ List.replicate 41 0

/-- The block's scratch begins with these bytes. -/
def withRecord (bs : List Byte) : State := onB (fun b => { b with scratch := b.scratch.write 0 bs }) inScratch

/-- The premises of SPAWN and SPAWNW: a good record, and one of no blocks. -/
def SpawnMeets (i : Instr) (bs : List Byte) (Q : Option LaunchRec → Bool) : Prop :=
  Meets i {} (withRecord bs) fun c => c.act != 0 && !((handleState c.w h3).isPending) &&
    reads c (withRecord bs) (pairN c s2) 64 64 fun xs s1 => Q (parseRecord xs ((s1.launch? c.w.launch).elim 0 (·.record.cls))) &&
      decide ((s1.block? c.w.block).elim 0 (fun x => x.child.elim 0 (·.depth)) < 8) && decide ((s1.part c.w.part).children.length + 32 ≤ 4096)

theorem witness_GroupAndChildWords :
    Meets (.regroup (.int 1) (.int 2)) { illegal := fun c => c.w.keyed.isSome } base (fun c => rawN c (.int 2) == 2 && c.sp.prog == 0 &&
      (c.w.sbOf c.sp.num).isEmpty && decide (c.w.splits.length ≤ 1) && c.w.stack.isEmpty && (upTo 16).all fun k => !((vget c.w.h k .empty).isPending)) ∧
    (∃ b, base.block? 0 = some b ∧ b.openGroup 1 1 = none) ∧
    SpawnMeets (.spawn h3 s2 v1) spawnRecord (fun r => has r fun x => x.blocks == 1 && x.waves == 1) ∧
    SpawnMeets (.spawnw h3 s2 s4) spawnRecord (fun r => has r fun x => x.blocks == 1 && x.waves == 1) ∧
    SpawnMeets (.spawn h3 s2 v1) (List.replicate 64 0) (fun r => r.isNone) ∧ SpawnMeets (.spawnw h3 s2 s4) (List.replicate 64 0) fun r => r.isNone :=
  ⟨meets_spec (by decide), ⟨_, rfl, by decide⟩, meets_spec (by decide), meets_spec (by decide), meets_spec (by decide), meets_spec (by decide)⟩

/-- A partition with as many unplaced children as it may hold. -/
def fullHouse (s : State) : State := s.modPart 0 fun p => { p with children := List.replicate 4096 default }

/-- MWBIND and SPAWN that wait with what they read at issue: able to go on, and held by a fullHouse partition. -/
theorem witness_waiting_words :
    (let s := onX (fun x => { x with park := .wait (.mirror 5 0 64) 8 false }) base
     Meets (.mwbind s2 s4) {} s fun c => c.act != 0 && c.sp.park == .wait (.mirror 5 0 64) 8 false && !(s.mirrorBusy c.w 5)) ∧
    (let s := onX (fun x => { x with park := .wait (.room spawnRecord [1]) 8 false }) base
     Meets (.spawnw h3 s2 s4) {} s fun c => c.act != 0 && c.sp.park == .wait (.room spawnRecord [1]) 8 false &&
       !((handleState c.w h3).isPending) && decide ((s.part c.w.part).children.length + 1 ≤ 4096)) ∧
    (let s := fullHouse (onX (fun x => { x with park := .wait (.room spawnRecord [1]) 8 false }) base)
     Meets (.spawnw h3 s2 s4) {} s fun c => c.act != 0 && !((handleState c.w h3).isPending) &&
       decide (4096 < (s.part c.w.part).children.length + 1)) :=
  ⟨meets_spec (by decide), meets_spec (by decide), meets_spec (by decide)⟩

/-! ## Witnesses: matrix, keyed, snapshot and sampling words -/

/-- A wave of the matrix role with two tiles and two slots, claimed or not. -/
def matrix (claimed : Bool) : State → State := onW fun w => { w with
  role := 2, tileCount := 2, slots := List.replicate 2 { claimed := claimed, relQueued := false, data := [] } }

/-- Commands in s8, s2 and s3, within their checks; one step of an engine's bytes at scratch 0. -/
def command (a b0 b1 : Word) : State := matrix true (sreg [(8, a), (2, b0), (3, b1)] base)

def CommandMeets (i : Instr) (a b0 b1 : Word) (op : Ctx → MxOp) : Prop :=
  Meets i mxChecks (command a b0 b1) fun c => !((handleState c.w h3).isPending) && decide ((command a b0 b1).mxFill c.w.quad < 64) &&
    mxCause c.w ((command a b0 b1).scratchOf c.w) (op c) == none

/-- The block's scratch begins with these bytes. -/
def scratchy (bs : List Byte) : State → State := onB fun b => { b with scratch := b.scratch.write 0 bs }

/-- A list of one MXZERO of tile 0. -/
def oneZero : State := scratchy (0xB3 :: List.replicate 15 0) (matrix true base)

def ListMeets (n : Fin 16) : Prop := Meets (.mxlist h3 s2 (.int n)) mxChecks oneZero fun c =>
  rawN c (.int n) == n.val && reads c oneZero (Config.aperture + rawN c s2) 16 (16 * rawN c (.int n)) fun bs s1 =>
    !(listFails c.w (s1.scratchOf c.w) ((upTo (rawN c (.int n))).map fun i => listOp ((bs.drop (16 * i)).take 16))) &&
      decide (s1.mxFill c.w.quad < 64)

theorem witness_MatrixWords :
    Meets (.mxclaim s4 (.int 0)) mxChecks (matrix false base) (fun c => c.w.slots.findIdx? (fun x => !x.claimed) == some 0) ∧
    Meets (.mxclaim s4 (.int 2)) mxChecks (matrix false base) (fun c => has c.w.slots[1]? fun x => !x.claimed) ∧
    Meets (.mxclaim s4 (.int 0)) mxChecks (matrix true base) (fun c => c.w.slots.all (·.claimed)) ∧
    Meets (.mxrel (.int 1)) mxChecks (matrix true base) (fun c => has c.w.slots[1]? fun x => x.claimed && !x.relQueued) ∧
    CommandMeets (.mxfill h3 (.s 8) s2) 0 0 0x1000 (fun c => .fill (rawU c (.s 8)) (groupLane c s2 1 0) (groupLane c s2 0 0).toNat) ∧
    CommandMeets (.mxzero h3 (.int 1)) 0 0 0 (fun c => .zero (rawN c (.int 1))) ∧
    CommandMeets (.mxmma h3 (.s 8) s2) 0 0x8000 0 (fun c => .mma 0 (rawU c (.s 8)) (groupLane c s2 0 0) (groupLane c s2 1 0)) ∧
    CommandMeets (.mxmmas h3 (.s 8) s2) 0 0x8100 0 (fun c => .mma 1 (rawU c (.s 8)) (groupLane c s2 0 0) (groupLane c s2 1 0)) ∧
    CommandMeets (.mxmmasp h3 (.s 8) s2) 0 0x208000 0 (fun c => .mma 2 (rawU c (.s 8)) (groupLane c s2 0 0) (groupLane c s2 1 0)) ∧
    CommandMeets (.mxldacc h3 (.int 1) s2) 0 0 0 (fun c => .ldacc (rawN c (.int 1)) (rawN c s2)) ∧
    CommandMeets (.mxstacc h3 (.int 1) (.s 8)) 0 0 0 (fun c => .stacc (rawN c (.int 1)) (rawU c (.s 8))) ∧ ListMeets 0 ∧ ListMeets 1 :=
  ⟨meets_spec (by decide), meets_spec (by decide), meets_spec (by decide), meets_spec (by decide), meets_spec (by decide), meets_spec (by decide),
    meets_spec (by decide), meets_spec (by decide), meets_spec (by decide), meets_spec (by decide), meets_spec (by decide), meets_spec (by decide),
    meets_spec (by decide)⟩

/-- 128 bytes from VA 64, which s2:s3 names, in physical memory and in copies in the block's L1. -/
def at64 (bs : List Byte) : State :=
  let line (k : Nat) : L1Line := { (default : L1Line) with
    block := 0, asid := 0, line := 1 + k, bytes := (upTo 64).map fun i => (nth bs (64 * k + i) 0, 0) }
  sreg [(2, 64)] { base with pt := base.pt.write 64 bs, cores := base.cores.put 0 { base.core 0 with l1 := [line 0, line 1] } }

/-- A stage of one record word. -/
def stageBytes : List Byte := [0, 0, 0, 0, 0, 0, 0, 0, 0, 1] ++ List.replicate 18 0

/-- Stage 0 bound by launch l to the descriptor at 64, with n record words. -/
def stage0 (l n : Nat) : Binding := { (default : Binding) with stage := 0, launch := l, desc := 64, recWords := n, homes := [{ (default : Home) with core := 0 }] }
def boundTo (l n : Nat) : State → State := onP fun p => { p with bindings := [stage0 l n] }

/-- What KBIND asks of the 28 bytes it has read at 64, with what is bound. -/
def bindOk (c : Ctx) (s : State) (bs : List Byte) (Q : Option Binding → Bool) : Bool :=
  let s2 := s.unmark c.wi
  (parseStage bs 64 c.w.launch (s2.asidOf c.w.part) (s2.homeSet c.w.launch) none 0).isSome && Q (s2.binding? c.w.part 0) &&
    granted c s2 4 true .write [(0, 64 + 0x1C)]

/-- The premises of KBIND at issue. -/
def BindMeets (s : State) (Q : Option Binding → Bool) : Prop := Meets (.kbind (.int 0) s2) {} s fun c =>
  c.act != 0 && rawN c (.int 0) == 0 && pairN c s2 == 64 && c.sp.park == .none && reads c s (pairN c s2) 64 28 fun bs s1 => bindOk c s1 bs Q

/-- The premises of KBIND while it waits with the bytes it read. -/
def BindWaits (s : State) (Q : Option Binding → Bool) : Prop :=
  Meets (.kbind (.int 0) s2) {} (onX (fun x => { x with park := .wait (.stage 0 64 stageBytes) 8 false }) s) fun c =>
    c.act != 0 && c.sp.park == .wait (.stage 0 64 stageBytes) 8 false && bindOk c s stageBytes Q

/-- A keyed wave with one lane's context. -/
def keyedWave : State := onW (fun w => { w with keyed := some { stage := 0, words := 0, reserved := false, ctx := [{ lane := 0, key := 5, status := 0 }] } }) base

theorem witness_KeyedWords :
    BindMeets (at64 stageBytes) (fun b => b == none) ∧ BindMeets (boundTo 0 1 (at64 stageBytes)) (fun b => has b fun y => y.launch == 0 && y.desc == 64) ∧
    BindMeets (boundTo 9 1 (at64 stageBytes)) (fun b => has b fun y => y.launch == 9) ∧ BindWaits base (fun b => b == none) ∧
    BindWaits (boundTo 9 1 base) (fun b => has b fun y => y.launch == 9) ∧
    InCtx (boundTo 0 1 base) (fun c => decodesFor (.kpush v1 (.int 0) v2) c && c.w.role != 1 &&
      has ((boundTo 0 1 base).binding? c.w.part (rawN c (.int 0))) (fun x => decide (regCode v1 + x.recWords ≤ c.w.footprint)) && c.w.pend.isEmpty && c.act != 0) ∧
    (∀ i ∈ [Instr.kyield, .kend], ∀ e ∈ [(0 : Word), 1], Meets i { illegal := fun c => c.w.keyed.isNone }
      (onX (fun x => { x with exec := e }) keyedWave) fun c => (c.w.sbOf c.sp.num).isEmpty && c.act == e && keyedWave.allPerformed c.w) ∧
    Meets (.kdrain h3 (.int 0)) {} (boundTo 0 1 base) (fun c => c.act != 0 && !((handleState c.w h3).isPending) &&
      has ((boundTo 0 1 base).binding? c.w.part (rawN c (.int 0))) fun x => x.launch == c.w.launch) := by
  refine ⟨meets_spec (by decide), meets_spec (by decide), meets_spec (by decide), meets_spec (by decide), meets_spec (by decide), inCtx_spec (by decide),
    fun i hi e he => ?_, meets_spec (by decide)⟩
  simp only [List.mem_cons, List.not_mem_nil, or_false] at hi he
  rcases hi with rfl | rfl <;> rcases he with rfl | rfl <;> exact meets_spec (by decide)

/-- Region 0 with n levels on the first 512 bytes; every other region is FREE. -/
def region0 (n : Nat) : Region := { Region.free with asid := 0, levels := List.replicate n { base := 0, len := 512 } }
def opened (n : Nat) (s : State) : State := onP (fun p => { p with regions := region0 n :: List.replicate 15 Region.free }) s

/-- Sixteen regions open elsewhere. -/
def allOpen (s : State) : State := onP (fun p => { p with regions := List.replicate 16 { Region.free with levels := [{ base := 1048576, len := 256 }] } }) s

/-- s2:s3 is 0 and s4 is 256; a store of the wave has not been performed. -/
def snapRegs : State → State := sreg [(4, 256)]
def storing : State := onW (fun w => { w with wsb := [default] }) base

/-- SREJ has rejected the level, or must wait for a translation. -/
def rejected : Rejected → Bool | .ok _ => true | _ => false
def rejectWaits : Rejected → Bool | .waits => true | _ => false

/-- Region 0 has one level, with a shadow of line 0, whose page has no translation now. -/
def lostPage : State := onP (fun p => { p with regions := { region0 1 with
  shadows := [{ (default : Shadow) with bytes := List.replicate 256 0 }] } :: List.replicate 15 Region.free }) { base with tlb := [], pt := [] }

/-- The premises of SNAP in a state, with whether it waits. -/
def SnapMeets (s : State) (waits : Bool) (Q : Part → Nat → Bool) : Prop := Meets (.snap (.s 6) s2 s4) {} s fun c =>
  c.act != 0 && pairN c s2 == 0 && rawN c s4 == 256 && (s.part c.w.part).regions.length == 16 &&
    (((s.unmark c.wi).startRelease c.wi 0).2.isReleasing c.wi ((s.unmark c.wi).startRelease c.wi 0).1 == waits) && Q (s.part c.w.part) (s.asidOf c.w.part)

theorem witness_SnapshotWords :
    SnapMeets (snapRegs base) false (fun p a => (upTo 16).all (fun g => !((p.region g).meets a 0 256)) && !((p.region 0).isOpen)) ∧
    SnapMeets (snapRegs storing) true (fun _ _ => true) ∧
    SnapMeets (snapRegs (allOpen base)) false (fun p a => (upTo 16).all fun g => !((p.region g).meets a 0 256) && (p.region g).isOpen) ∧
    SnapMeets (snapRegs (opened 1 base)) false (fun p a => (p.region 0).meets a 0 256 && (p.region 0).within 0 256 && decide ((p.region 0).levels.length < 4)) ∧
    SnapMeets (snapRegs (opened 4 base)) false (fun p a => (p.region 0).meets a 0 256 && (p.region 0).within 0 256 && decide (4 ≤ (p.region 0).levels.length)) ∧
    Meets (.sacc s2) {} (opened 1 base) (fun c => c.act != 0 && ((opened 1 base).innermost c.w.part (rawU c s2)).isSome) ∧
    Meets (.srej s2) {} (opened 1 storing) (fun c => c.act != 0 && decide ((rawU c s2).toNat < 64) &&
      (((opened 1 storing).unmark c.wi).startRelease c.wi 0).2.isReleasing c.wi (((opened 1 storing).unmark c.wi).startRelease c.wi 0).1) ∧
    Meets (.srej s2) {} (opened 1 base) (fun c => !((((opened 1 base).unmark c.wi).startRelease c.wi 0).2.isReleasing c.wi
        (((opened 1 base).unmark c.wi).startRelease c.wi 0).1) &&
      rejected ((((opened 1 base).unmark c.wi).startRelease c.wi 0).2.rejectLevel c.w.part (rawU c s2))) ∧
    Meets (.srej s2) {} lostPage (fun c => !(((lostPage.unmark c.wi).startRelease c.wi 0).2.isReleasing c.wi
        ((lostPage.unmark c.wi).startRelease c.wi 0).1) &&
      rejectWaits (((lostPage.unmark c.wi).startRelease c.wi 0).2.rejectLevel c.w.part (rawU c s2))) ∧
    Meets (.sqry s4 s2) {} (opened 1 base) (fun c => c.act != 0 && decide ((rawU c s2).toNat < 64)) :=
  ⟨meets_spec (by decide), meets_spec (by decide), meets_spec (by decide), meets_spec (by decide), meets_spec (by decide), meets_spec (by decide),
    meets_spec (by decide), meets_spec (by decide), meets_spec (by decide), meets_spec (by decide)⟩

/-- A set with no samples on a square of side 1, leaves of 4, its index at 128, an arena of 128 bytes, and a status. -/
def setBytes (st : Byte) : List Byte := [0, 0, 0, 0, 0, 0, 0, 0, 0, 0, 0, 0, 4, 0, 0, 0, 0, 0, 0, 0, 1, 0, 1, 0, 128] ++ List.replicate 23 0 ++
  [128, 0, 0, 0, st] ++ List.replicate 75 0

/-- The launch has a sample-set binding, which a partial flush holds or does not. -/
def sampling (f : Option Emitted) : State := onL (fun l => { l with bind := some { (default : SampleBind) with flushing := f } }) base

/-- An image of one pixel on link 0, at scratch 0. -/
def imageBytes : List Byte := List.replicate 12 0 ++ [1, 0, 1, 0] ++ List.replicate 16 0

/-- Partition 0 owns link 0. -/
def linked : State → State := onP fun p => { p with entry := { p.entry with links := 1 } }

theorem witness_SamplingWords :
    Meets (.ssbuild h3 s2) {} (at64 (setBytes 0)) (fun c => c.act != 0 && !((handleState c.w h3).isPending) && pairN c s2 == 64 &&
      reads c (at64 (setBytes 0)) (pairN c s2) 64 64 fun bs s1 => setOk bs && !(s1.setBound c.w.part (pairN c s2)) && (SampleSet.read bs).outside == none) ∧
    Meets (.ssbind s2 (.int 0)) {} (boundTo 0 4 (at64 (setBytes 1))) (fun c => c.act != 0 && pairN c s2 == 64 &&
      reads c (boundTo 0 4 (at64 (setBytes 1))) (pairN c s2) 1 64 fun bs s1 => (SampleSet.read bs).index == 128 && field bs 0x34 4 == 1 &&
        setReservedOk bs && decide (20 * (SampleSet.read bs).cells + 32 ≤ (SampleSet.read bs).arenaSize) &&
        reads c s1 (SampleSet.read bs).index 1 64 fun hdr s2 => headerReservedOk hdr && has (s2.launch? c.w.launch) (fun l => !(l.bind.any (·.emitted))) &&
          has (s2.binding? c.w.part (rawN c (.int 0))) (fun k => k.recWords == 4) &&
          decide (20 * field hdr 0xC 4 * field hdr 0x10 4 + 32 ≤ (SampleSet.read bs).arenaSize)) ∧
    (∀ f ∈ [none, some (default : Emitted)], Meets (.triemit v2)
        { illegal := fun c => !((((sampling f).launch? c.w.launch).bind (·.bind)).isSome), roleOk := fun r => r != 1 } (sampling f) fun c => c.act != 0 && has ((sampling f).launch? c.w.launch) fun l => has l.bind fun x => x.flushing == f) ∧
    Meets (.drawend h3) {} (sampling none) (fun c => c.act != 0 && !((handleState c.w h3).isPending) &&
      has ((sampling none).launch? c.w.launch) fun l => has l.bind fun x => x.queue.isEmpty && x.flushing == none) ∧
    Meets (.present s2 s4) {} (linked (scratchy imageBytes inScratch)) (fun c => c.act != 0 && decide (pairN c s2 % 32 = 0) &&
      reads c (linked (scratchy imageBytes inScratch)) (pairN c s2) 32 32 fun bs s1 =>
        has (parseImage bs (rawN c s4) (s1.asidOf c.w.part) c.w.part) fun r => s1.linkOwner r.1 == some c.w.part) := by
  refine ⟨meets_spec (by decide), meets_spec (by decide), fun f hf => ?_, meets_spec (by decide), meets_spec (by decide)⟩
  simp only [List.mem_cons, List.not_mem_nil, or_false] at hf
  rcases hf with rfl | rfl <;> exact meets_spec (by decide)

/-! ## Witnesses: events of the pipeline, the memory and the engines -/

/-- A clause's premises hold together in a state. -/
def holds (b : Bool) : Prop := b = true

/-- A second split of the wave waits to issue. -/
def twoSplits : State := onW (fun w => { w with splits := w.splits ++ w.splits.map fun x => { x with num := 1, ready := true } }) base

/-- A result has come back, or waits to. -/
def resulting : State := onW (fun w => { w with pend := [{ n := 7, split := 0, codes := [0x84], op := .ready [.s 4 9] }] }) base

/-- The split is at the rejoin bundle of its governing entry. -/
def atRejoin : State := onW (fun w => { w with
  stack := [{ pc := 0, rejoin := 0, mask := 0xFFFFFFFF, mode := 0, kind := 0, owner := 0, cause := 0, prog := 0, orphan := false }] }) base

/-- The same with the upper half of the lanes in a second split elsewhere, or with those lanes in a deferred arm of the entry above, whose
kind 0 entry holds a mask. -/
def halfAtRejoin : State := onW (fun w => { w with splits := w.splits.flatMap fun x =>
  [{ x with live := 0xFFFF, exec := 0xFFFF }, { x with num := 1, live := 0xFFFF0000, exec := 0xFFFF0000, pc := 68, join := some 0 }] }) atRejoin
def atArm (m : Word) : State := onW (fun w => { w with
  splits := w.splits.map fun x => { x with live := 0xFFFF, exec := 0xFFFF }
  stack := [{ pc := 64, rejoin := 0, mask := 0xFFFF0000, mode := 0, kind := 1, owner := 0, cause := 0, prog := 0, orphan := false },
            { pc := 0, rejoin := 0, mask := m, mode := 0, kind := 0, owner := 0, cause := 0, prog := 0, orphan := false }] }) base

/-- A split arrives at an entry of a kind. -/
def arrives (s : State) (Q : Wave → Split → Nat → Entry → Bool) : Bool :=
  has (s.wave? 0) fun w => w.arriving 0 && s.waveRuns w && !(s.heldBack 0 w 0) && decide w.splitNums.Nodup &&
    has (w.split? 0) fun x => has (w.governing 0) fun e => Q w x e.1 e.2

theorem witness_Rejoin :
    holds (arrives halfAtRejoin fun w _ pos g => g.kind == 0 &&
      match (w.modSplit 0 fun y => { y.parkAs (.rejoin pos) halfAtRejoin.seq with pc := g.rejoin }).settleOnce halfAtRejoin.seq with
      | .none => true
      | _ => false) ∧
    holds (arrives atRejoin fun w x pos g =>
      let parts := (w.modSplit 0 fun y => { y.parkAs (.rejoin pos) atRejoin.seq with pc := g.rejoin }).splits.filter fun y => y.park == .rejoin pos
      g.kind == 0 && !g.orphan && decide (w.frameDepth ≤ pos) && w.stack.length == pos + 1 && parts.all (fun y => y.mode == x.mode) &&
        w.held pos g == 0 && g.mask &&& ~~~(parts.foldl (fun m y => m ||| y.live) (w.held pos g)) == 0) ∧
    (∀ m ∈ [(0xFFFFFFFF : Word), 0xFFFF0000], holds (arrives (atArm m) fun w x pos g => g.kind == 1 && g.mask != 0 &&
      has (w.positions.find? fun pe => decide (pe.1 < pos) && pe.2.kind == 0 && w.owns 0 pe.1 pe.2) fun e =>
        (x.live &&& ~~~e.2.mask == 0) == (m == 0xFFFFFFFF))) := by
  unfold holds
  refine ⟨by decide, by decide, fun m hm => ?_⟩
  simp only [List.mem_cons, List.not_mem_nil, or_false] at hm
  rcases hm with rfl | rfl <;> decide

/-- Two splits wait at two JOINWs, each for the other. -/
def deadlocked : State := onW (fun w => { w with alive := 3, splits := w.splits.flatMap fun x =>
  [{ x with live := 1, exec := 1, park := .joinw 3 }, { x with num := 1, live := 2, exec := 2, park := .joinw 3, pc := 36 }] }) base

/-- A trap waits for its entry. -/
def trapped : State := onW (fun w => { w with trap := some { split := 0, cause := 5, faddr := 64, fmask := 1, pc := 4 } }) base

/-- The block's one wave waits in a group of one. -/
def grouped : State := onB (fun b => { b with groups := [{ tag := 1, n := 1, role := 0, waves := [0] }] })
  (onX (fun x => { x with park := .wait (.regroup 1) 8 false }) base)

/-- The wave waits at an MWAIT whose timeout of 10 cycles is over. -/
def timedOut : State := onX (fun x => { x with park := .wait (.monitor 0 10 4) 8 false })
  (onW (fun w => { w with mons := [(0, { (default : Monitor) with st := .armed })] }) { base with cores := base.cores.put 0 { base.core 0 with clk := 11 } })

theorem witness_PipelineEvents :
    holds (has (twoSplits.nextPending 0) fun _ => (twoSplits.slotToTake 0).isSome) ∧
    holds (has (resulting.wave? 0) fun w => w.trap.isNone && has (w.ready? 7) fun p => p.op == .ready [.s 4 9]) ∧
    holds (has (atRejoin.wave? 0) fun w => w.arriving 0 && atRejoin.waveRuns w && !(atRejoin.heldBack 0 w 0)) ∧
    holds (has (deadlocked.wave? 0) fun w => !w.exited && w.trap.isNone && (w.splits.all fun y => match y.park with | .rejoin _ | .joinw _ => true | _ => false) &&
      (match w.settleOnce deadlocked.seq with | .none => true | _ => false) && (w.splits.find? fun y => bit y.live 0).isSome) ∧
    holds (has (trapped.wave? 0) fun w => has w.trap fun tr => w.trapReady && (w.splits.all fun y => match y.park with | .wait _ _ _ => false | _ => true) &&
      (w.split? tr.split).isSome && !((trapped.part w.part).special) && decide (w.stack.length + w.splits.length ≤ 32)) ∧
    holds (has (grouped.block? 0) fun bk => has (bk.groups.find? fun g => g.tag == 1 && g.completes (grouped.liveWaves bk).length) fun g =>
      g.waves.all fun wi => (grouped.groupNext 1 wi).isSome) ∧
    holds (has (timedOut.wave? 0) fun w => w.trap.isNone && has (w.split? 0) fun x => x.park == .wait (.monitor 0 10 4) 8 false &&
      timedOut.monitorStatus w 0 0 10 == some 2) ∧
    holds (base.mayGate 5) ∧
    holds (let s : State := { base with cores := base.cores.put 0 { base.core 0 with gated := true } }
      (s.core 0).gated && s.waves.any fun e => e.2.core == 0 && !e.2.exited && e.2.res == .resident && e.2.splits.any fun x => s.mayIssue e.1 e.2 x) := by
  unfold holds
  refine ⟨?_, ?_, ?_, ?_, ?_, ?_, ?_, ?_, ?_⟩ <;> decide

/-- A store of 7 to an address, in the wave's buffer or in the block's queue. -/
def storeAt (a : Nat) : WEntry := { (default : WEntry) with addr := a, payload := .store [7], seq := 3 }
def buffered (a : Nat) : State := onW (fun w => { w with wsb := [storeAt a] }) base
def queued (e : WEntry) : State := onB (fun b => { b with oq := [e] }) base

/-- Lane 0 of a load of 4 bytes of scratch waits. -/
def load0 : LoadOp := { (default : LoadOp) with width := 4, dst := 1, lanes := [{ lane := 0, addr := Config.aperture, atHome := [], got := none }] }
def loadWait : State := onW (fun w => { w with pend := [{ n := 7, split := 0, codes := [1], op := .load load0 }] }) base

/-- A store waits for an ABSENT line of a window. -/
def filling : State := onB (fun b => { b with windows := [window0] }) (buffered Config.aperture)

/-- A delivery has come to a block that binds its group. -/
def delivered : State := { onB (fun b => { b with mirrors := [{ mirror5 with at_ := 0 }] }) base with
  deliveries := [{ (default : Delivery) with seq := 3, id := 5, use := 1, bytes := [7] }] }

/-- Line 0 of a window that maps VA 0 is there. -/
def stashed (s : State) : State := onB (fun b => { b with windows := [{ window0 with lines := [{ (default : StashLine) with present := true }] }] }) s

/-- An atomic add of n in the wave's buffer, on the first word of scratch. -/
def scratchAdd (n : Nat) : State := onW (fun w => { w with wsb := [{ (default : WEntry) with
  addr := Config.aperture, seq := 3, payload := .atomic { (default : AtomicReq) with op := .add, width := 4, data := BitVec.ofNat 64 n } }] }) base

theorem witness_Drain :
    holds (has ((buffered 4096).wave? 0) fun w => has ((buffered 4096).block? 0) fun b => has (w.wsb.find? fun x => lineOf x.addr == 16) fun e =>
      w.mayDrain e && !(inAperture e.addr) && b.stashOf e.addr == none) ∧
    holds (has ((buffered Config.aperture).wave? 0) fun w => has ((buffered Config.aperture).block? 0) fun b =>
      has (w.wsb.find? fun x => lineOf x.addr == lineOf Config.aperture) fun e =>
        w.mayDrain e && inAperture e.addr && b.stashAt (e.addr - Config.aperture) == none && e.payload == .store [7]) ∧
    holds (let s := stashed (buffered Config.aperture)
      has (s.wave? 0) fun w => has (s.block? 0) fun b => has (w.wsb.find? fun x => lineOf x.addr == lineOf Config.aperture) fun e => w.mayDrain e &&
        (b.stashAt (e.addr - Config.aperture)).isSome && ((s.modWave 0 fun x => { x with wsb := [] }).scratchPut 0 0 [7] [e.wave]).isSome) ∧
    holds (let s := stashed (buffered 0)
      has (s.wave? 0) fun w => has (s.block? 0) fun b => has (w.wsb.find? fun x => lineOf x.addr == 0) fun e => w.mayDrain e &&
        has (b.stashOf e.addr) fun r => ((s.modWave 0 fun x => { x with wsb := [] }).scratchPut 0 r.2.2 [7] [e.wave]).isSome) ∧
    (∀ n ∈ [0, 1], holds (has ((scratchAdd n).wave? 0) fun w => has ((scratchAdd n).block? 0) fun b =>
      has (w.wsb.find? fun x => lineOf x.addr == lineOf Config.aperture) fun e => w.mayDrain e && match e.payload with
        | .atomic a => has (b.scratchRead (e.addr - Config.aperture) a.width) fun xs => (atomicValue a (leValue xs) == leValue xs) == (n == 0) &&
            (((scratchAdd n).modWave 0 fun x => { x with wsb := [] }).scratchPut 0 0 (leBytes (atomicValue a (leValue xs)) 4) [e.wave]).isSome
        | .store _ => false)) := by
  unfold holds
  refine ⟨?_, ?_, ?_, ?_, ?_⟩ <;> decide

theorem witness_CoreMemoryEvents :
    holds (has (loadWait.wave? 0) fun w => has (loadWait.block? 0) fun b => has (w.pend.find? fun p => p.n == 7) fun p => p.op == .load load0 &&
      has (load0.lanes.find? fun x => x.lane == 0 && x.got.isNone) fun x => w.maySatisfy p load0.after load0.width x.addr && !load0.promote &&
        (loadWait.sources 0 w b (load0.readAt 7 x) 0 x.addr load0.width).isSome && has (loadWait.beforeRead 0 w b 7 load0 x) fun s1 =>
          (s1.satisfyLane 0 7 load0 x).isSome) ∧
    holds (has (filling.block? 0) fun bk => has (bk.window? 0) fun w => filling.wantsLine 0 w 0 && !((w.line 0).present) && (w.line 0).parked == none &&
      decide (0 < w.lines.length) && isGranted (filling.access bk.core (filling.asidOf bk.part) w.base .read) &&
      (filling.homeRead (filling.asidOf bk.part) w.base 256).isSome) ∧
    holds (has (delivered.deliveries.find? fun x => x.src == 0 && x.dst == 0) fun d => delivered.storeLeft d && has (delivered.block? 0) fun b =>
      has (b.mirrors.find? fun m => m.id == d.id && m.use == d.use && decide (m.at_ < d.seq)) fun m => decide (d.off + d.bytes.length ≤ m.len) &&
        ((({ delivered with deliveries := delivered.deliveries.erase d } : State).freeMirrors 0).scratchWrite 0 (m.off + d.off) d.bytes).isSome) ∧
    holds (let s := onB (fun b => { b with mirrors := [] }) delivered
      has (s.deliveries.find? fun x => x.src == 0 && x.dst == 0) fun d => s.storeLeft d && has (s.block? 0) fun b =>
        (b.mirrors.find? fun m => m.id == d.id && m.use == d.use && decide (m.at_ < d.seq)).isNone) := by
  unfold holds
  refine ⟨?_, ?_, ?_, ?_⟩ <;> decide

/-- An atomic add of 1 at 4096. -/
def atomicAt : WEntry := { (default : WEntry) with addr := 4096, seq := 3, payload := .atomic { (default : AtomicReq) with op := .add, width := 4, data := 1 } }

/-- Granule 0 lies in a target. -/
def targeted (t : Nat) (s : State) : State := { s with tlb := s.tlb.put 0 { bootRight with tgt := t } }

/-- A write waits at the port to the host. -/
def atPort : State := { base with portWrites := [{ (default : PortWrite) with seq := 3, tgt := 1, addr := 64, bytes := [7] }] }

/-- A doorbell of queue 1 on its way to the kick page of partition 0, which the host has placed at 2^20. -/
def atKick : State := { base with
  bars := [(0, 1048576)], portWrites := [{ (default : PortWrite) with seq := 3, tgt := 1, addr := 1048584, bytes := leBytes 1 8 }] }

/-- 40 cycles later, when what is buffered is due. -/
def later (s : State) : State := { s with cores := s.cores.put 0 { s.core 0 with clk := 40 } }

/-- A commute addition of 1.0 to a float at 4096. -/
def addAt (n : Nat) : WEntry := { (default : WEntry) with addr := 4096, seq := n, payload := .atomic { (default : AtomicReq) with
  op := .add, width := 4, data := 0x3F800000, use := 2, type := Ty.f32 } }

/-- Two of them are due. -/
def summing : State := later (onB (fun b => { b with oq := [addAt 3, addAt 4] }) base)

/-- They are performed, whatever sum the free association gives. -/
theorem sum_performs : (summing.stamp.2.performSum 0 0 0 summing.seq ((sumOf [addAt 3, addAt 4]).getD [])).isSome = true := by
  have hw (s : State) (e : WEntry) (q old new : Nat) (ws : List Nat) (h : (s.writeHome 0 e.addr (leBytes new 4) q e.seq ws none e.cpol).isSome = true) :
      (s.homeStore 0 e q 4 old new ws).isSome = true := by
    unfold State.homeStore
    split
    · rfl
    · exact h
  show (Option.map _ (State.homeStore _ 0 (addAt 3) _ 4 _ _ _)).isSome = true
  rw [Option.isSome_map]
  exact hw _ _ _ _ _ _ rfl

theorem witness_Perform :
    holds (let s := later (queued (storeAt 4096))
      has (s.block? 0) fun bk => s.due bk 16 1 == [storeAt 4096] && s.partOfAsid (s.asidOf bk.part) == some 0 && has (s.trans 0 4096) fun r =>
        r.tgt == 0 && s.shadowDue 0 16 == none && s.ownerOf 0 16 == none && MemoryOk s && (l2Prio 0 r.attr).isSome &&
          !(s.setPinned (s.keySlice (lkey 0 16)) (lkey 0 16)) && s.viaPort 0 4096 == none && (s.stamp.2.writeHome 0 4096 [7] s.seq 3 [0] none 0).isSome) ∧
    holds (let s := later (queued atomicAt)
      has (s.block? 0) fun bk => s.due bk 16 1 == [atomicAt] && (sumOf [atomicAt]).isNone && has (match atomicAt.payload with | .atomic a => some a | .store _ => none)
        fun a => (s.stamp.2.performAtomic 0 0 atomicAt a s.seq).isSome) ∧
    holds (has (summing.block? 0) fun bk => summing.due bk 16 2 == [addAt 3, addAt 4] && summing.viaPort 0 4096 == none && bk.core == 0) ∧
    (∃ xs s1, sumOf [addAt 3, addAt 4] = some xs ∧ summing.stamp.2.performSum 0 0 0 summing.seq xs = some s1) ∧
    holds (let s := later (targeted 1 (queued (storeAt 4096)))
      has (s.block? 0) fun bk => s.due bk 16 1 == [storeAt 4096] && has (s.viaPort 0 4096) fun r => r.tgt == 1 && !(s.halfWay r.tgt (r.pa + 4096) 1)) := by
  unfold holds
  refine ⟨?_, ?_, ?_, ?_, ?_⟩
  case refine_4 =>
    obtain ⟨s1, h⟩ := Option.isSome_iff_exists.mp sum_performs
    exact ⟨_, s1, rfl, h⟩
  all_goals decide

/-- Line 16 is in L2, where its translation says, and no acquire is under way. -/
def hit16 : State := later { queued (storeAt 4096) with lines := [(16, { (default : L2Line) with valid := 15, way := some 0, pa := 4096 })] }

theorem witness_PerformHit :
    holds (has (hit16.block? 0) fun bk => hit16.due bk 16 1 == [storeAt 4096] && has (hit16.trans 0 4096) fun r =>
      r.tgt == 0 && hit16.shadowDue 0 16 == none && hit16.ownerOf 0 16 == none && MemoryOk hit16 && hit16.inL2 0 16 &&
        (hit16.waves.all fun x => x.2.acquires.isEmpty) && (hit16.line? 0 16).map (·.pa) == some (r.linePa 16)) := by
  unfold holds; decide

/-- Line 0 is in L2 in each of the 16 ways of its set, so that it is the victim there. -/
def fullOfOne : State := { base with lines := (upTo 16).map fun i => (0, { (default : L2Line) with valid := 15, way := some i }) }

theorem fullOfOne_victim : fullOfOne.isVictim 0 = true := by
  have h : fullOfOne.occupants (fullOfOne.keySlice 0) (setOf 0) =
      (upTo 16).map fun i => { way := i, prio := 0, used := 0, pinned := false, copy := none, key := 0 } := by
    generalize hx : fullOfOne.keySlice 0 = sl
    simp only [State.occupants]
    simp only [fullOfOne, List.filterMap_map]
    simp [upTo, List.range, List.range.loop]
    simp_all [fullOfOne, upTo, List.range, List.range.loop]
    exact ⟨⟨rfl, rfl, rfl⟩, fun a ha => by cases ha⟩
  simp only [State.isVictim, h]
  decide

/-- An SRAM cache holds line 1 of the device's memory. -/
def inSram : State := { base with sram := [(1, { bytes := List.replicate 256 7, dirty := 1 })] }

theorem witness_HomeEvents :
    holds (has (atPort.portWrites.find? fun p => p.tgt == 1) fun x => (atPort.barAt x.addr).isNone) ∧
    holds (has (atKick.portWrites.find? fun p => p.tgt == 1) fun x => atKick.barAt x.addr == some (0, 8 * 1) && x.bytes.length == 8) ∧
    holds ({ base with invals := [{ waves := [], sec := 2, asid := 0, line := 0, seq := 1 }] } : State).invals.head?.isSome ∧
    holds (has (inSram.sram.find 1) fun l => l.bytes.length == 256 && inSram.pt.wf) ∧ holds (!(base.isVictim 0)) ∧
    holds (let s : State := { base with lines := base.lines.put 0 { (default : L2Line) with valid := 15, dirty := 1 } }
      has (s.line? 0 0) fun l => l.dirty.getLsbD 0 && !l.pinned) ∧
    holds (let s := onB (fun b => { b with windows := [dirty0] }) base
      has (s.block? 0) fun bk => has (bk.window? 0) fun w => (w.line 0).parked == none && match s.stashBack 0 0 0 0 with | .done _ => true | _ => false) := by
  unfold holds
  refine ⟨?_, ?_, ?_, ?_, ?_, ?_, ?_⟩ <;> decide

/-- A block's L1 can be filled with line 0, whichever sector is the home's. -/
theorem witness_FillL1 : ∃ bk xs, base.block? 0 = some bk ∧ (∃ e, (base.part bk.part).shareIn bk.core = some e ∧ e.l1w ≠ 0) ∧
    isGranted (base.access bk.core (base.asidOf bk.part) 0 .read) = true ∧ base.fillBytes bk (base.asidOf bk.part) 0 = some xs := by
  have h : (base.fillBytes (startBlock bootStart 0 [0]) 0 0).isSome = true := by
    unfold State.fillBytes
    dsimp only
    split <;> decide
  obtain ⟨xs, hx⟩ := Option.isSome_iff_exists.mp h
  exact ⟨_, xs, rfl, ⟨bootQuad, rfl, by decide⟩, by decide, hx⟩

/-- With slices on both dies, the other die's sector can hold a copy of line 0. -/
def twoDies : State := onP (fun p => { p with slices := [0, 64] }) base

/-- The sectors of slices 0 and 64 are sectors of their dies. -/
theorem sector0 : sectorOfSlice 0 < 3 := by
  have := dieSectors_lt (0 / 64) (0 % 64)
  unfold sectorOfSlice
  omega

theorem sector64 : sectorOfSlice 64 = 3 + nth (dieSectors 1) 0 0 ∧ nth (dieSectors 1) 0 0 < 3 := ⟨rfl, dieSectors_lt 1 0⟩

theorem witness_FillCopy : ∃ r xs w s1, twoDies.partOfAsid 0 = some 0 ∧ twoDies.trans 0 (0 * 256) = some r ∧ sectorOfSlice 64 < 6 ∧
    twoDies.homedOutside 0 0 0 (sectorOfSlice 64) = true ∧ l2Prio 0 r.attr = some 1 ∧ r.tgt = 0 ∧
    twoDies.copySlice 0 (sectorOfSlice 64) 0 = some 64 ∧ twoDies.setPinned 64 (lkey 0 0) = false ∧ twoDies.homeRead 0 (0 * 256) 256 = some xs ∧
    (twoDies.dropCopy (sectorOfSlice 64) (lkey 0 0)).freeWay 64 (setOf (lkey 0 0))
      ((twoDies.dropCopy (sectorOfSlice 64) (lkey 0 0)).copyWays 64 (setOf (lkey 0 0))) = some (w, s1) := by
  have hs := sector64
  have h0 := sector0
  have hc : twoDies.copySlices 0 (sectorOfSlice 64) = [64] := by
    have hd : sectorOfSlice 64 / 3 = 1 := by omega
    have hm : sectorOfSlice 64 % 3 = nth (dieSectors 1) 0 0 := by omega
    show ([0, 64].filter fun x => x / 64 == sectorOfSlice 64 / 3 && nth (dieSectors (sectorOfSlice 64 / 3)) (x % 64) 3 == sectorOfSlice 64 % 3) = [64]
    rw [hd, hm]
    simp [nth_any (dieSectors 1) 0 3 0 (by rw [(dieSectors_count 1 0 (by decide)).1]; decide)]
  have hh : twoDies.homedOutside 0 0 0 (sectorOfSlice 64) = true := by
    show (sectorOfSlice 0 != sectorOfSlice 64 || _) = true
    simp [show sectorOfSlice 0 ≠ sectorOfSlice 64 by omega]
  have hp : twoDies.copySlice 0 (sectorOfSlice 64) 0 = some 64 := by simp [State.copySlice, hc]
  obtain ⟨xs, hx⟩ := Option.isSome_iff_exists.mp (show (twoDies.homeRead 0 (0 * 256) 256).isSome = true by decide)
  obtain ⟨⟨w, s1⟩, hw⟩ := Option.isSome_iff_exists.mp
    (show ((twoDies.dropCopy (sectorOfSlice 64) (lkey 0 0)).freeWay 64 (setOf (lkey 0 0))
      ((twoDies.dropCopy (sectorOfSlice 64) (lkey 0 0)).copyWays 64 (setOf (lkey 0 0)))).isSome = true by rfl)
  exact ⟨bootRight, xs, w, s1, by decide, rfl, by omega, hh, by decide, rfl, hp, by decide, hx, hw⟩

/-- A move that has been made satisfies Q. -/
def moved {α : Type} (m : Moved α) (Q : α → Bool) : Bool := match m with | .ok a => Q a | _ => false

/-- A copy of one row of 4 bytes within scratch, of which some have moved. -/
def copying (k : Nat) : CopyOp := { (default : CopyOp) with tag := 1, dst := Config.aperture, src := Config.aperture + 64, rows := 1, rowBytes := 4, moved := k }
def copies (k : Nat) : State := { base with cores := base.cores.put 0 { base.core 0 with copyQ := [copying k] } }

/-- A gather or scatter of one element of 4 bytes. -/
def slicing4 (gather : Bool) : SliceOp := { (default : SliceOp) with tag := 1, gather := gather, base := 4096, elem := 4, data := 64, list := 0, count := 1, next := 1, sent := [(0, 0)] }
def slices (gather : Bool) : State := { base with sliceQ := [slicing4 gather] }

/-- A command of launch 0 in the queue of quadrant 0. -/
def zeroing (done : Bool) : MxCmd := { (default : MxCmd) with tag := 1, ops := [.zero 0], done := done }
def mxQueue (done : Bool) (lease : Option Nat) : State := matrix true { base with quads := base.quads.put 0 { base.quad 0 with mxq := [zeroing done], lease := lease } }

theorem witness_CopyAndMatrixEvents :
    (∀ k ∈ [0, 4], holds (has (((copies k).core 0).copyQ.find? fun o => o.part == 0) fun o => o.st == .ready && (copies k).opFree o.rel o.fences)) ∧
    holds (moved ((copies 0).engRead 0 (Config.aperture + 64) 4) fun r => moved (r.2.engWrite 0 Config.aperture r.1) fun _ => true) ∧
    (∀ g ∈ [true, false], holds (has ((slices g).sliceQ.find? fun o => o.block == 0) fun o => has ((slices g).block? 0) fun b =>
      o.st == .ready && (slices g).opFree o.rel o.fences && !o.finished && o.sent.find? (fun e => e.1 == 0) == some (0, 0) && o.sent.head? == some (0, 0) &&
        o.addr 0 == 4096 && (match (slices g).engCheck b.part b.core ((slices g).asidOf b.part) 4096 (if g then .read else .write) with | .go => true | _ => false) &&
        (if g then has ((slices g).engineRead ((slices g).asidOf b.part) 4096 4) fun bs => moved ((slices g).engWrite 0 (Config.aperture + 64) bs) fun _ => true
         else moved ((slices g).engRead 0 (Config.aperture + 64) 4) fun r =>
           (r.2.stamp.2.engineWrite ((slices g).asidOf b.part) 4096 r.1 r.2.seq).isSome))) ∧
    holds (has (((mxQueue false (some 0)).quad 0).mxq.find? fun y => y.tag == 1) fun x => x.ops == [.zero 0] &&
      (((mxQueue false (some 0)).quad 0).firstOf x.launch).map (·.tag) == some 1 && x.st == .ready && (mxQueue false (some 0)).opFree x.rel x.fences &&
      (mxQueue false (some 0)).leaseAllows 0 x.launch &&
      match (MxOp.zero 0).run none x.wave x.block x.prog x.chains ((mxQueue false (some 0)).leaseCount 0) with | .done _ => true | _ => false) ∧
    holds (((mxQueue true none).quad 0).mxq.find? fun x => x.tag == 1 && x.done).isSome ∧
    holds ((mxQueue false none).leaseHeir 0 == some 0 && ((mxQueue false none).quad 0).lease == none) := by
  unfold holds
  refine ⟨fun k hk => ?_, by decide, fun g hg => ?_, by decide, by decide, by decide⟩
  · simp only [List.mem_cons, List.not_mem_nil, or_false] at hk
    rcases hk with rfl | rfl <;> decide
  · cases g <;> decide

/-! ## Witnesses: events of keyed stages and of sampling -/

/-- A record of key 5, with a number and where it came from. -/
def record5 : KRec := { (default : KRec) with n := 3, key := 5, words := [7] }

/-- A context of key 5. -/
def ctx5 (st : CtxState) (pc : Nat) : KCtx := { (default : KCtx) with key := 5, st := st, pc := pc }

/-- Stage 0 of launch 0 with one home, core 0, holding these records and contexts. -/
def stageOf (recs : List KRec) (ctxs : List KCtx) : Binding :=
  { stage0 0 1 with template := 64, spillBase := 4096, spillCap := 8, homes := [{ (default : Home) with core := 0, recs := recs, ctxs := ctxs }] }
def staged (b : Binding) : State := onP (fun p => { p with bindings := [b], entry := { p.entry with asidBase := 0 } }) base

/-- A drain that waits for nothing. -/
def drained : DrainRec := { (default : DrainRec) with n := 3 }

/-- The one block of the launch has exited. -/
def blockGone (s : State) : State := onW (fun w => { w with exited := true }) (onB (fun b => { b with exited := true }) s)

theorem witness_KeyedEvents :
    holds (let s := staged { stageOf [] [] with inFlight := [record5] }
      has ((s.part 0).bindings.find? fun b => b.inFlight.any fun r => r.n == 3) fun b => has (b.inFlight.find? fun r => r.n == 3) fun r =>
        r == record5 && (b.inFlight.all fun x => x == r) && !((s.part 0).drainAhead r.block 3 (b.homeOf r.key)) && (s.part 0).running &&
          (s.part 0).canAccept (b.homeOf r.key) && s.opFree r.rel r.fences) ∧
    holds (let s := staged (stageOf [record5] [ctx5 (.spilled 0) 64])
      has (s.binding? 0 0) fun b => has (b.home? (b.homeOf 5)) fun h => has (h.ctxs.find? fun c => c.key == 5) fun c =>
        c.st == .spilled 0 && (b.why h c).isSome && c.parked == none && (s.part 0).running &&
        match s.settEntry 0 (b.homeOf 5) with
        | .ok s1 => (match s1.engCheck 0 0 b.asid b.spillBase .read with | .go => true | _ => false) && (s1.engineRead b.asid b.spillBase 64).isSome
        | _ => false) ∧
    holds (let s := staged (stageOf [record5] [ctx5 (.pooled 8192) 64])
      has (s.binding? 0 0) fun b => has (b.home? (b.homeOf 5)) fun h => has (h.ctxs.find? fun c => c.key == 5) fun c =>
        c.st == .pooled 8192 && (b.why h c).isSome && (s.part 0).running &&
        match s.settEntry 0 (b.homeOf 5) with
        | .ok s1 => (s1.engineRead (s1.asidOf 0) 8192 64).isSome
        | _ => false) ∧
    holds (let s := later (staged (stageOf [{ record5 with headAt := some 0 }] []))
      has (s.binding? 0 0) fun b0 => has (s.launch? b0.launch) fun l => has (b0.home? 0) fun h0 => s.placing 0 && h0.unseen == [5] &&
        (s.roomFor 0 0 (l.record.keyedForm 64) 1).isSome &&
        let s0 := (h0.unseen.take 32).foldl (fun s k => s.newCtx 0 0 b0 k) s
        has (s0.binding? 0 0) fun b => has (b.home? 0) fun h => b.formsAt h 64 (s0.core 0).clk.toNat && !((b.lanesOfKeys h (b.lanesFor h 64)).isEmpty)) ∧
    holds (let s := later (staged (stageOf [record5] [{ ctx5 .idle 96 with runAt := some 0 }]))
      has (s.binding? 0 0) fun b => has (s.launch? b.launch) fun l => has (b.home? 0) fun h => s.placing 0 &&
        (s.roomFor 0 0 (l.record.keyedForm 96) 1).isSome && b.formsAt h 96 (s.core 0).clk.toNat && !((b.lanesOfKeys h (b.lanesFor h 96)).isEmpty)) ∧
    holds (let s := blockGone (staged (stageOf [] [ctx5 .idle 96]))
      has (s.binding? 0 0) fun b => b.holds && b.drains.isEmpty && (s.part 0).running && s.unkeyedGone b.launch && s.allPlaced b.launch && s.drawsDone b.launch) ∧
    holds (let s := staged { stageOf [] [] with drains := [drained] }
      has (s.binding? 0 0) fun b => has (b.drains.find? fun d => b.drained d && d.st == .ready) fun d =>
        d == drained && moved (s.writeCounters 0 b) fun _ => true) := by
  unfold holds
  refine ⟨?_, ?_, ?_, ?_, ?_, ?_, ?_⟩ <;> decide

/-- A build of an empty set at 4096. -/
def building (started written : Bool) : BuildOp := { (default : BuildOp) with tag := 1, desc := 4096, started := started, written := written }
def builds (started written : Bool) : State := { base with builds := [building started written] }

/-- A binding of one root cell with a triangle on its way, or a draw whose items have not been made. -/
def emitted0 : Emitted := { (default : Emitted) with wave := 0, tri := { (default : Tri) with x1 := 1, y1 := 0 } }
def binding0 : SampleBind := { (default : SampleBind) with gw := 1, gh := 1, cores := [0], queue := [emitted0] }
def bound (b : SampleBind) : State := onL (fun l => { l with bind := some b }) base
def drawn0 : SampleBind := { binding0 with queue := [], draws := [{ (default : Draw) with no := 0 }] }

/-- The core holds a work item, or a fragment record for the home of its own number. -/
def item0 : WorkItem := { (default : WorkItem) with tag := 1 }
def working (s : State) : State := { s with cores := s.cores.put 0 { s.core 0 with work := [item0] } }
def fragment (s : State) : State := { s with cores := s.cores.put 0 { s.core 0 with held := [(0, { record5 with draw := some 0 })] } }

theorem witness_SamplingEvents :
    holds (let s := builds false false
      has (s.headBuild 0 0) fun b => b.st == .ready && s.opFree b.rel b.fences && s.mayBuild b && !b.started &&
        moved (s.writeChecked 0 (s.coreOf b.block) b.asid (b.desc + 0x34) (List.replicate 8 0)) fun _ => true) ∧
    holds (let s := builds true false
      has (s.headBuild 0 0) fun b => b.started && s.mayBuild b && moved (s.readSamples 0 (s.coreOf b.block) b (upTo b.count)) fun _ => true) ∧
    holds ((builds true true).builds.find? fun b => b.part == 0 && b.tag == 1 && b.written).isSome ∧
    holds (let s := bound binding0
      has (s.launch? 0) fun x => has x.bind fun b => b.flushing == none && b.parked == none && has (b.queue.find? fun e => e.wave == 0) fun e =>
        !(s.releasing e.rel) && (b.cells { e.tri with prim := b.prim }).isEmpty) ∧
    (∀ flush ∈ [true, false], holds (let s := bound { binding0 with queue := [], flushing := some emitted0, draws := [{ (default : Draw) with flush := flush }] }
      has (s.launch? 0) fun x => has x.bind fun b => b.parked == none && b.flushing == some emitted0 && b.draws.any (·.flush) == flush)) ∧
    holds ((base.part 0).running && decide (base.heldOf 0 0 < 64) && ((bound drawn0).unmade 0 0).isSome) ∧
    holds (let s := working (bound { drawn0 with draws := [] })
      (s.part 0).running && (s.unmade 0 0).isNone && (s.core 0).readyItems s 0 == [item0] && has (s.launch? item0.launch) fun x =>
        (x.binds.find? fun b => b.gen == item0.gen).isSome) ∧
    (∀ known ∈ [true, false], holds (let s := fragment (onL (fun l => { l with bind := some drawn0 }) (if known then staged (stageOf [] []) else base))
      has (s.heldFor 0 0).head? fun h => h.1 == 0 && has (s.launch? h.2.launch) fun x => has (x.binds.find? fun b => b.gen == h.2.gen) fun b =>
        (s.part x.part).running && (s.part x.part).canAccept 0 && if known then has (s.binding? x.part b.stage) fun k => k.launch == b.stageLaunch
          else (s.binding? x.part b.stage).isNone)) := by
  unfold holds
  refine ⟨by decide, by decide, by decide, by decide, fun flush _ => ?_, by decide, by decide, fun known _ => ?_⟩
  · cases flush <;> decide
  · cases known <;> decide

/-! ## Witnesses: links, the dispatcher, faults and snapshots, the module -/

/-- Link 0 of partition 0 in a state. -/
def link0 (f : Link → Link) : State := linked { base with links := base.links.put 0 (f Link.reset) }

/-- A frame and the PRESENT that brings it. -/
def frame (n : Nat) : Frame := { (default : Frame) with no := n, width := 1, height := 1 }
def presented : State := { link0 (fun x => { x with frame := some (frame 3), newest := 3 }) with presenting := [{ (default : Presenting) with frame := frame 4 }] }

/-- A mode of 1 by 1 with a pixel clock of 25 MHz; with its sync line a frame has 2 lines. -/
def goodMode : Vector Word 6 := #v[0x00010001, 0x00010000, 0, 0x00010000, 0, 25000]

/-- Link 0 sends that mode, at a line: its deadline is line 0, its vertical blank line 1. -/
def sendingAt (n : Nat) (f : Link → Link) : State := link0 fun x => f { x with active := true, sentMode := goodMode, line := n }

/-- A frame in a page that no table maps. -/
def farFrame (n : Nat) : Frame := { frame n with base := 1048576 }

/-- The engine is refused an image. -/
def isRefused {α : Type} (m : Moved α) : Bool := match m with | .refuse _ _ _ => true | _ => false

/-- The premises of a deadline, and what holds of the link. -/
def deadline (s : State) (Q : Link → Bool) : Bool :=
  let x := s.link 0
  x.active && x.lineAfter == x.deadlineAt && (x.lineAfter != 0 || x.pendingMode.isNone) && Q x

theorem witness_LinkEvents :
    holds (has (presented.presenting.find? fun x => x.link == 0 && !(presented.releasing x.rel)) fun x => moved (presented.readImage x.frame) fun _ => true) ∧
    holds (let s := sendingAt 1 fun x => { x with frame := some (frame 3) }
      deadline s fun x => x.parked.isEmpty && x.image.isNone && x.frame == some (frame 3) && moved (s.readImage (frame 3)) fun _ => true) ∧
    holds (let s := sendingAt 1 fun x => { x with frame := some (frame 3), image := some (frame 3), shown := 3 }
      deadline s fun x => x.parked.isEmpty && x.image == some (frame 3) && !(newer 3 x.shown) && moved (s.readImage (frame 3)) fun _ => true) ∧
    holds (let s := sendingAt 1 fun x => { x with frame := some (farFrame 4), image := some (frame 3), shown := 3 }
      deadline s fun x => newer 4 x.shown && isRefused (s.readImage (farFrame 4))) ∧
    holds (let s := link0 fun x => { x with hpd := true, trained := true, lanes := 4, rate := 5, mode := goodMode }
      (s.link 0).hpd && (s.link 0).trained && modeInRange (s.link 0).mode) ∧
    holds (payloadOk 4 5 25000 && !(payloadOk 1 1 3300000) && trainOk 4 5 && !(trainOk 3 5) && modeInRange goodMode && !(modeInRange (Vector.replicate 6 0))) ∧
    holds (let s := link0 fun x => { x with hpd := true, auxBusy := true, pendingMode := some goodMode }
      (s.link 0).auxBusy && (s.link 0).hpd && (s.link 0).pendingMode == some goodMode && !((s.link 0).active) && s.linkOwner 0 == some 0) ∧
    (∀ n ∈ [0, 1], holds (let x := (sendingAt n id).link 0
      x.active && (x.lineAfter == modeV x.sentMode) == (n == 0) && (sendingAt n id).linkOwner 0 == some 0)) ∧
    holds (let x := (sendingAt 1 fun x => { x with pendingMode := some goodMode }).link 0
      x.active && x.lineAfter == 0 && x.pendingMode == some goodMode && x.output.isNone) := by
  unfold holds
  refine ⟨by decide, by decide, by decide, by decide, by decide, by decide, by decide, fun n hn => ?_, by decide⟩
  simp only [List.mem_cons, List.not_mem_nil, or_false] at hn
  rcases hn with rfl | rfl <;> decide

/-- Queue 0 with one record at 4096 to fetch. -/
def queue0 (bs : List Byte) : State := onP (fun p => { p with queues := [(0, { Queue.reset with base := 4096, logn := 4, en := true, tail := 1 })] })
  { base with pt := base.pt.write 4096 bs }

/-- Nothing of the launch has been placed; its blocks take n bytes of scratch. -/
def unplaced (n : Nat) : State := onL (fun l => { l with nextBlock := 0, record := { l.record with scratch := n } }) { base with blocks := [], waves := [] }

/-- A launch of higher priority that needs the room of the first. -/
def crowded : State := { base with launches := base.launches.put 1 { bootLaunch with id := 1, queue := 1, nextBlock := 0, record := { bootRecord with priority := 1 } } }

/-- A wave in the window to leave, on a core whose clock has counted n cycles, with save areas or none. -/
def leaving (p : Preempt) (clk : Nat) (pool : Nat) (f : Wave → Wave) : State :=
  onW (fun w => f { w with preempt := p, footprint := 8 }) (onP (fun p => { p with entry := { p.entry with savePool := 8192, saveSize := pool } })
    { base with cores := base.cores.put 0 { base.core 0 with clk := BitVec.ofNat 64 clk } })

/-- The start of a save area of 8 registers. -/
def areaBytes : List Byte := [0x01, 0x00, 0x39, 0x5A, 8, 0, 0, 0]

/-- A wave that has left, its area at 8192. -/
def away (res : Residence) (bs : List Byte) : State :=
  onW (fun w => { w with res := res, footprint := 8, splits := [] }) { base with pt := base.pt.write 8192 bs }

theorem witness_DispatchEvents :
    holds ((onP (fun p => { p with state := 1 }) base).part 0).stopping.isNone ∧
    holds ((base.part 0).state == 0 && (base.part 0).kickable && !((base.part 0).queue 0).en) ∧
    (∀ good ∈ [true, false], holds (let s := queue0 (if good then spawnRecord else [])
      (s.part 0).running && has (s.part 0).nextQueue fun e => e.1 == 0 && (s.part 0).queues.find 0 == some e.2 &&
        (match s.deviceCheck 0 (s.asidOf 0) (e.2.base + 64 * (e.2.fetched % 2 ^ e.2.logn)) .read with | .go => true | _ => false) &&
        has (s.engineRead (s.asidOf 0) (e.2.base + 64 * (e.2.fetched % 2 ^ e.2.logn)) 64) fun bs => (parseRecord bs e.2.cls).isSome == good)) ∧
    holds (has ((unplaced 16384).launch? 0) fun x => (unplaced 16384).placing 0 && (unplaced 16384).wantsPlace 0 x && !x.yielded && !x.yielding && (unplaced 16384).looks 0 x.nextBlock x.skipped &&
      ((unplaced 16384).part 0).coreList.any (fun c => (unplaced 16384).everFits 0 c x.record x.record.waves) &&
      ((unplaced 16384).placeFor 0 x.record x.record.waves x.nextBlock).isSome) ∧
    holds (has ((unplaced 524288).launch? 0) fun x => (unplaced 524288).wantsPlace 0 x &&
      ((unplaced 524288).part 0).coreList.all fun c => !((unplaced 524288).everFits 0 c x.record x.record.waves)) ∧
    holds (let s := onP (fun p => { p with children := [{ launch := 0, wave := 0, record := bootRecord, info := default, rel := 0 }] }) (unplaced 0)
      s.placing 0 && has ((s.part 0).children.find? fun c => (s.launch? c.launch).all fun l => !l.yielded && !l.halted) fun c => !(s.releasing c.rel) &&
        s.looks 0 (s.part 0).childCounter (s.part 0).childSkipped && !(s.neverFits 0 c.record 1) &&
        (s.placeFor 0 c.record 1 (s.part 0).childCounter).isSome) ∧
    holds (has ((blockGone base).launch? 0) fun x => (blockGone base).completeChildren 0 == blockGone base && (blockGone base).launchDone 0 x &&
      match (blockGone base).endBindings 0 0 with | .ok s2 => s2.launchReleased 0 x | _ => false) ∧
    holds (has (base.launch? 0) fun x => !(base.launchDone 0 x)) ∧
    holds (has (crowded.launch? 0) fun x => crowded.placing 0 && crowded.beneficiary 0 x == some 1) ∧
    holds (has ((onL (fun l => { l with yielded := true }) base).launch? 0) fun x => base.placing 0 && x.yielded && !((onL (fun l => { l with yielded := true }) base).outranked x)) ∧
    holds (let s := leaving (.window 0) 0 0 fun w => { w with splits := w.splits.map fun x => { x with park := .rejoin 0 } }
      has (s.wave? 0) fun w => !(s.saveWaits 0 w) && !w.rewindable && w.pend.isEmpty && !(w.splits.any Split.isCompleting) && s.allParked 0 w && w.trap.isNone) ∧
    holds (let s := leaving (.window 0) 0 0 fun w => { w with rewindable := true, mark := some { (default : Mark) with desc := 4096 } }
      has (s.wave? 0) fun w => !(s.saveWaits 0 w) && w.rewindable && has w.mark fun m => match s.recipe w m with | .ok _ => true | _ => false) ∧
    (∀ n ∈ [0, 1048576], holds (let s := leaving (.window 0) 60000 n id
      has (s.wave? 0) fun w => w.lowest.isSome && !w.rewindable && decide (60000 ≤ s.since 0 0) && !(s.allParked 0 w) && (s.allocArea w).isSome == (n != 0))) ∧
    holds (let s := leaving (.raised 8192 0 1) 240000 0 id
      has (s.wave? 0) fun w => decide (240000 ≤ s.since 0 0) && w.lowest.isSome && w.preempt == .raised 8192 0 1 && !w.exiting) := by
  unfold holds
  refine ⟨by decide, by decide, fun good _ => ?_, by decide, by decide, by decide, by decide, by decide, by decide, by decide, by decide, by decide, fun n hn => ?_,
    by decide⟩
  · cases good <;> decide
  · simp only [List.mem_cons, List.not_mem_nil, or_false] at hn
    rcases hn with rfl | rfl <;> decide

/-- A wave that a handler saved, one whose block has to be placed again, and two whose area is there: that of a wave saved whole has QSIZE
1, that of a rewound wave 0. -/
theorem witness_WaveRestore :
    holds (let s := away (.handler 8192) []
      has (s.wave? 0) fun w => s.placing 0 && !w.exited && has (s.block? w.block) (fun b => !b.saved) && s.fitsAgain w && s.mayReturn w) ∧
    holds (let s := onB (fun b => { b with saved := true }) (away (.handler 8192) [])
      has (s.wave? 0) fun w => s.placing 0 && has (s.block? w.block) (·.saved)) := by
  unfold holds
  exact ⟨by decide, by decide⟩

/-- Bytes whose homes hold what the device's memory holds are read from there. -/
theorem homeRead_plain (s : State) (asid : Nat) : ∀ n va, (∀ a, va ≤ a → a < va + n → s.homeByte asid a = some (s.pt.get a, 0)) →
    s.homeRead asid va n = some ((s.pt.read va n).map fun x => (x, 0))
  | 0, _, _ => rfl
  | n + 1, va, h => by
    show (match s.homeByte asid va, s.homeRead asid (va + 1) n with | some b, some bs => some (b :: bs) | _, _ => none) = _
    rw [h va (Nat.le_refl _) (by omega), homeRead_plain s asid n (va + 1) fun a h1 h2 => h a (by omega) (by omega)]
    rfl

theorem read_append (m : Memory) : ∀ n a k, m.read a (n + k) = m.read a n ++ m.read (a + n) k
  | 0, a, k => by simp [Memory.read]
  | n + 1, a, k => by
    rw [show n + 1 + k = n + k + 1 by omega]
    simp only [Memory.read, List.cons_append, read_append m n (a + 1) k]
    rw [show a + 1 + n = a + (n + 1) by omega]

/-- Above its last cell a memory is blank. -/
theorem read_above (m : Memory) : ∀ n a, (m.all fun c => decide (c.1 < a)) = true → m.read a n = List.replicate n 0
  | 0, _, _ => rfl
  | n + 1, a, h => by
    have hg : ∀ m : Memory, (m.all fun c => decide (c.1 < a)) = true → m.get a = 0 := by
      intro m
      induction m with
      | nil => intro _; rfl
      | cons c m ih =>
        intro h
        simp only [List.all_cons, Bool.and_eq_true, decide_eq_true_eq] at h
        simp only [Memory.get, if_neg (show ¬a = c.1 by omega), if_neg (show ¬a < c.1 by omega)]
        exact ih h.2
    show m.get a :: m.read (a + 1) n = _
    rw [hg m h, read_above m n (a + 1) (by
      simp only [List.all_eq_true, decide_eq_true_eq] at h ⊢
      intro c hc
      exact Nat.lt_succ_of_lt (h c hc))]
    rfl

theorem engineRead_away (res : Residence) (bs : List Byte) (n : Nat) (hn : n ≤ 18432) (h : ((away res bs).pt.all fun c => decide (c.1 < 8192 + n)) = true)
    (hb : (away res bs).pt.read 8192 n = bs) : (away res bs).engineRead 0 8192 18432 = some (bs ++ List.replicate (18432 - n) 0) := by
  have e := read_append (away res bs).pt n 8192 (18432 - n)
  rw [show n + (18432 - n) = 18432 by omega, hb, read_above _ _ _ h] at e
  rw [← e]
  unfold State.engineRead
  rw [homeRead_plain _ _ _ _ fun a h1 h2 => ?_]
  · simp [List.map_map, Function.comp_def]
  · have hk : rkey 0 a = 0 := by unfold rkey; omega
    have ht : (away res bs).trans 0 a = some bootRight := by unfold State.trans; rw [hk]; rfl
    show ((away res bs).trans 0 a).bind _ = _
    rw [ht]
    show some ((away res bs).pt.get (0 + a % 65536), 0) = _
    rw [show 0 + a % 65536 = a by omega]

/-! Zeros after the last byte of an area change nothing in it. -/

theorem leValue_zeros (xs : List Byte) (k : Nat) : leValue (xs ++ List.replicate k 0) = leValue xs := by
  induction xs with
  | nil => induction k with
    | zero => rfl
    | succ k ih => simpa [List.replicate_succ, leValue] using ih
  | cons x xs ih => exact congrArg (x.toNat + 256 * ·) ih

theorem pad_drop_take (bs : List Byte) (k a n : Nat) :
    ∃ m, (((bs ++ List.replicate k 0).drop a).take n) = ((bs.drop a).take n) ++ List.replicate m 0 := by
  rw [List.drop_append, List.take_append, List.drop_replicate, List.take_replicate]
  exact ⟨_, rfl⟩

theorem field_pad (bs : List Byte) (k a n : Nat) : field (bs ++ List.replicate k 0) a n = field bs a n := by
  obtain ⟨m, h⟩ := pad_drop_take bs k a n
  rw [field, h, leValue_zeros, field]

theorem zeroAt_pad (bs : List Byte) (k a n : Nat) : zeroAt (bs ++ List.replicate k 0) a n = zeroAt bs a n := by
  obtain ⟨m, h⟩ := pad_drop_take bs k a n
  rw [zeroAt, h, zeroAt, List.all_append]
  simp

theorem areaOk_pad (bs : List Byte) (k : Nat) (w : Wave) (r : Bool) : areaOk (bs ++ List.replicate k 0) w r = areaOk bs w r := by
  unfold areaOk unitsOk handleAt wordsAt
  simp only [field_pad, zeroAt_pad]

/-- A wave may come back from its area, which is good or not. -/
def Returning (rewound good : Bool) (bs : List Byte) : Prop :=
  let s := away (.saved 8192 rewound) bs
  ∃ w area, s.wave? 0 = some w ∧ s.placing 0 = true ∧ s.fitsAgain w = true ∧ s.mayReturn w = true ∧ w.areaSize = 18432 ∧
    s.engineRead 0 8192 w.areaSize = some area ∧ areaOk area w rewound = good

theorem witness_AreaWhole : Returning false true (areaBytes ++ List.replicate 700 0 ++ [1]) :=
  ⟨_, _, rfl, by decide, by decide, by decide, rfl, engineRead_away _ _ 709 (by decide) (by decide +kernel) (by decide +kernel),
    (areaOk_pad _ _ _ _).trans (by decide +kernel)⟩

theorem witness_AreaRewound : Returning true true areaBytes :=
  ⟨_, _, rfl, by decide, by decide, by decide, rfl, engineRead_away _ _ 8 (by decide) (by decide) (by decide),
    (areaOk_pad _ _ _ _).trans (by decide +kernel)⟩

theorem witness_AreaBad : ∀ rewound, Returning rewound false [] := fun r => by
  cases r <;> exact ⟨_, _, rfl, by decide, by decide, by decide, rfl, engineRead_away _ _ 0 (by decide) (by decide) rfl,
    (areaOk_pad _ _ _ _).trans (by decide +kernel)⟩

/-- Stage 2 of the partition maps the first GiB to itself, and stage 1 of ASID 0 the same, from tables at 0x20000 and 0x24000. -/
def mapped (f : Part → Part) : State :=
  { onP (fun p => f { p with entry := { p.entry with s2root := 0x20000, ring := 0x30000, quota := 1 } }) base with
    roots := [(0, 0x24000)]
    pt := ([(0x20000, 0x21001), (0x21000, 0x22001), (0x22000, 0x1F), (0x24000, 0x25001), (0x25000, 0x26001), (0x26000, 0x1F)] : List (Nat × Nat)).foldl
      (fun m e => m.writeLe e.1 8 e.2) base.pt }

/-- A fault record waits; the ring has 2^n entries and TAIL is t. -/
def faulting (n t : Nat) : State := mapped fun p => { p with faults := [default], ringLogn := some n, ringTail := t }

/-- A split parked by a fault, or a copy parked by one. -/
def parkedWave : State := onX (fun x => { x with park := .fault }) base
def parkedCopy : State := { base with cores := base.cores.put 0 { base.core 0 with copyQ := [{ copying 0 with st := .parked }] } }

/-- A store for line 1 waits in a region that holds no shadow of it. -/
def cutting : State := later (opened 1 (queued (storeAt 256)))

/-- A shadow in the reserve, and a pool of one line. -/
def reserved : State := mapped fun p => { p with
  poolSize := 1, regions := { region0 1 with shadows := [{ (default : Shadow) with line := 1, seq := 3, bytes := [7] }] } :: List.replicate 15 Region.free }

theorem witness_FaultAndShadowEvents :
    holds (((faulting 3 0).part 0).faults.length == 1 && ((faulting 3 0).part 0).stopping.isNone && (faulting 3 0).ringLog 0 == some 3) ∧
    (∀ t ∈ [0, 16], holds (let s := faulting 4 t
      s.ringLog 0 == some 4 && has (s.guestRead 0 0x30004 4) fun hd => leValue hd == 0 &&
        has (s.guestWrite 0 (0x30040 + 32 * (t % 16)) (List.replicate 32 0)) fun s1 => (s1.guestWrite 0 0x30000 (leBytes (t + 1) 4)).isSome)) ∧
    holds (base.partOfAsid 0 == some 0 && (base.right? 1 0 0).isNone && (base.tlb.find (rkey 0 0)).isSome) ∧
    holds (let s := mapped id
      (s.right? 1 0 65536).isNone && (s.tlb.find (rkey 0 65536)).isNone && match s.walk 0 0 65536 with | .ok _ => true | _ => false) ∧
    holds (match base.walk 0 0 65536 with | .unmapped => true | _ => false) ∧
    holds (match ({ base with roots := [(0, 0x24000)] } : State).walk 0 0 65536 with | .stage2 _ => true | _ => false) ∧
    holds (let s := mapped id
      has (leafAt (fun a => s.pt.readLe a 8) 0 tableLevels (s.part 0).entry.s2root) fun e => e.2.1 == 0x1F && e.2.2.shift == 30 &&
        leafOk true e.2.2 0x4000001F && modulePaOk 0x40000000 && modulePaOk 0x7FFFFFFF && !(s.snapMeets 0 0 1073741824) && MemoryOk s && s.sram.all fun e => e.2.bytes.length == 256) ∧
    holds ((parkedWave.part 0).kickable && (parkedWave.waves.find? fun e => e.2.part == 0 && e.2.res == .resident && !e.2.exited && e.2.token == 0 &&
      e.2.splits.any fun x => x.num == 0 && x.park == .fault).isSome) ∧
    (∀ fail ∈ [true, false], holds (resumeWord (BitVec.ofNat 64 (8589934593 + if fail then 4294967296 else 0)) == some (1, fail, 1) &&
      (parkedCopy.parkedOp 0 1 1).isSome)) ∧
    holds (has (cutting.shadowDue 0 1) fun k => k == (0, 0, 0) && cutting.writeComing 0 0 1 && (cutting.l2Line 0 1).isSome) ∧
    holds ((reserved.part 0).kickable && ((mapped id).part 0).poolUsed == 0 && ((mapped id).part 0).entry.quota == 1) := by
  unfold holds
  refine ⟨by decide, fun t ht => ?_, by decide, by decide, by decide, by decide, by decide, by decide, fun fail _ => ?_, by decide, by decide⟩
  · simp only [List.mem_cons, List.not_mem_nil, or_false] at ht
    rcases ht with rfl | rfl <;> decide
  · cases fail <;> decide

/-- The pool has one free line, which the device takes whatever it draws. -/
theorem witness_ReserveMove : ∃ g y s1, (reserved.part 0).oldestReserved = some (g, y) ∧ (reserved.part 0).poolUsed < (reserved.part 0).poolSize ∧
    (reserved.part 0).running = true ∧
    reserved.drawn.guestWrite 0 ((reserved.part 0).poolBase + 256 * (reserved.part 0).freeLine reserved.free) y.bytes = some s1 := by
  have h0 : (reserved.part 0).freeLine reserved.free = 0 := by
    show Config.freeNat _ % 1 = 0
    exact Nat.mod_one _
  obtain ⟨e, he, hq⟩ := has_spec (show has (reserved.part 0).oldestReserved (fun e => (reserved.drawn.guestWrite 0 0 e.2.bytes).isSome) = true by decide)
  obtain ⟨s1, hs⟩ := Option.isSome_iff_exists.mp hq
  exact ⟨e.1, e.2, s1, he, by decide, by decide, by rw [h0]; exact hs⟩

/-- Partition 0 in a state, Bruin idle. -/
def stated (k : Nat) : State := onP (fun p => { p with state := k }) base

/-- After reset, with a colour 0 of one slice. -/
def coloured : State := { State.reset with module := { Module.reset with entries := Memory.write [] 0x30000 [1, 0] } }

/-- A command is in progress. -/
def busy (op err : Nat) : State := { State.reset with module := { Module.reset with cmd := some (op, 0), cmdErr := err } }

theorem witness_ModuleEvents :
    holds (base.module.booted && base.module.cmd.isNone && (base.part 0).state == 0) ∧ holds ((stated 2).module.cmd.isNone && ((stated 2).part 0).state == 2) ∧
    holds ((coloured.part 0).state == 2 && (coloured.entryErrs 0 ++ coloured.quadErrs 0).isEmpty && coloured.colourList (coloured.partEntry 0).colour == some [0]) ∧
    holds (((stated 1).part 0).state == 1 && ((stated 1).part 0).stopping.isNone && ((stated 1).quadErrs 0).isEmpty && (stated 1).blocks.all fun e => !e.2.saved) ∧
    holds ((busy 1 0).module.cmd == some (1, 0) && (busy 4 0).module.cmd == some (4, 0) && ((busy 4 0).part 0).state == 2 && (busy 5 0).performedBefore 0 0 &&
      (busy 2 1).module.cmdErr == 1) ∧
    holds (((onP (fun p => { p with stopping := some (1, 0) }) base).part 0).stopping == some (1, 0)) ∧
    holds (!(base.parts.any fun e => e.1 == 5) && (base.part 5).state == 2) ∧
    holds ((link0 id).linkOwner 0).isSome ∧
    holds (base.windowOk 0 0 8 .read && (base.engineRead 0 0 8).isSome && !(State.reset.windowOk 0 0 8 .read)) ∧
    holds ((base.pzPort 0).up && decide ((base.pzPort 0).replays < 16)) ∧
    holds (let s : State := { base with module := { base.module with ports := [(0, { up := true, replays := 16 })] } }
      (s.pzPort 0).up && (s.pzPort 0).replays == 16) ∧
    holds (base.module.scrub && (base.part 1).stopping.isNone) := by
  unfold holds
  refine ⟨?_, ?_, ?_, ?_, ?_, ?_, ?_, ?_, ?_, ?_, ?_, ?_⟩ <;> decide

/-- An attestation in progress, its page in a mapped granule. -/
def attesting : State := mapped fun p => { p with attest := { p.attest with status := 1, dest := 0x50000 } }

theorem witness_Attestation : ∃ s1, (attesting.part 0).attest.status = 1 ∧ attesting.module.sigIndex < 1048576 ∧
    attesting.guestWriteAll 0 (attesting.part 0).attest.dest.toNat (attesting.reportBody 0 ++
      xmssSignature attesting.module.sigIndex (attesting.reportBody 0)) = some s1 := by
  have h2 : attesting.stage2 0 0x50000 = some (0x1F, 0x50000) := by decide
  have hl : ∀ n bs, (padTo n bs).length = n := fun n bs => by simp only [padTo, List.length_take, List.length_append, List.length_replicate]; omega
  have hb : (attesting.reportBody 0 ++ xmssSignature attesting.module.sigIndex (attesting.reportBody 0)).length ≤ 65536 := by
    simp only [List.length_append, hl, State.reportBody, xmssSignature]
    decide
  have h : (attesting.guestWriteAll 0 0x50000 (attesting.reportBody 0 ++
      xmssSignature attesting.module.sigIndex (attesting.reportBody 0))).isSome = true := by
    generalize attesting.reportBody 0 ++ xmssSignature _ _ = bs at hb
    unfold State.guestWriteAll State.guestWrite
    rw [h2]
    simp only [if_neg (show ¬(0x1F / 8 % 2 = 0) by decide), show 65536 - 0x50000 % 65536 = 65536 from rfl, if_pos hb, Option.bind_some, Option.isSome_some]
  obtain ⟨s1, hs⟩ := Option.isSome_iff_exists.mp h
  exact ⟨s1, by decide, by decide, hs⟩

/-! ## Single steps, with results from the spec's examples and tables -/

/-- Vector register r holds f of the lane. -/
def vreg (r : Nat) (f : Nat → Word) : State → State := onW fun w => { w with v := vset w.v r (Vector.ofFn fun l => f l.val) }
def preg (r : Nat) (x : Word) : State → State := onW fun w => { w with p := vset w.p r x }

/-- What a word leaves in the wave. -/
def after (i : Instr) (s : State) (Q : Wave → Bool) : Bool := match exec i s with | .next t => has (t.wave? 0) Q | _ => false

/-- The registers that a result on its way writes. -/
def sends (i : Instr) (s : State) (Q : Wave → Bool) : Bool :=
  after i s fun w => w.pend.any fun p => match p.op with | .ready ws => Q (ws.foldl Wave.apply w) | _ => false

/-- 22 R297 and 04 Table 4.1: each lane of D receives A + LANEID; the PC goes on. -/
theorem test_add_lanes : after (.add v1 v2 .laneid) (vreg 2 (fun _ => 0xFFFFFFFF) base)
    (fun w => w.readV 1 0 == 0xFFFFFFFF && w.readV 1 5 == 4 && (w.split? 0).any fun x => x.pc == 8) = true := by decide

/-- 22 R297: in floats ∞ + (−∞) gives the canonical NaN and sets IV (11 R166). -/
theorem test_add_infinities : after (.add v1 v2 v3) (vreg 2 (fun _ => 0x7F800000) (vreg 3 (fun _ => 0xFF800000) floats))
    (fun w => w.readV 1 0 == 0x7FC00000 && w.fpflags == 1) = true := by decide

/-- 22 R297 under n64 (TYPE 14): the carry goes into the second register. -/
theorem test_add_pairs : after (.add v2 v4 (.v 6)) (vreg 4 (fun _ => 0xFFFFFFFF) (vreg 6 (fun _ => 1) (mode 14 base)))
    (fun w => w.readV 2 3 == 0 && w.readV 3 3 == 1) = true := by decide

/-- Differences wrap (11 R167). -/
theorem test_sub_wraps : after (.sub v1 v2 (.int 1)) base (fun w => w.readV 1 0 == 0xFFFFFFFF) = true := by decide

/-- 23: the high half of (−1) · 2 under i32. -/
theorem test_mulhi_signed : after (.mulhi v1 v2 (.int 2)) (vreg 2 (fun _ => 0xFFFFFFFF) base) (fun w => w.readV 1 0 == 0xFFFFFFFF) = true := by decide

/-- MIN orders −1 below 1 under i32 and above it under n32. -/
theorem test_min_signed : after (.min v1 v2 (.int 1)) (vreg 2 (fun _ => 0xFFFFFFFF) base) (fun w => w.readV 1 0 == 0xFFFFFFFF) = true := by decide
theorem test_min_unsigned : after (.min v1 v2 (.int 1)) (vreg 2 (fun _ => 0xFFFFFFFF) (mode 1 base)) (fun w => w.readV 1 0 == 1) = true := by decide

/-- 22 R295: ABS of the most negative number follows R167 and wraps. -/
theorem test_abs_wraps : after (.abs v1 v2) (vreg 2 (fun _ => 0x80000000) base) (fun w => w.readV 1 0 == 0x80000000) = true := by decide

/-- 22 R312: CLZ of 0 is 32. 22 R304: BREV takes bit 0 to bit 31. -/
theorem test_clz_zero : after (.clz v1 v2) base (fun w => w.readV 1 0 == 32) = true := by decide
theorem test_brev : after (.brev v1 (.int 1)) base (fun w => w.readV 1 0 == 0x80000000) = true := by decide

/-- 11 Table 11.8: RCP of +0 is +∞ with DZ; EXP2 of an integer is exact (22 R323). Both travel back (04 R78). -/
theorem test_rcp_zero : sends (.rcp v1 v2) floats (fun w => w.readV 1 0 == 0x7F800000) = true := by decide
theorem test_sqrt_square : sends (.sqrt v1 (.flt 3)) floats (fun w => w.readV 1 0 == 0x40000000) = true := by decide

/-- 22 R313: −1 < 0 under i32 in every lane; a predicate receives a mask of the lanes. -/
theorem test_cmplt_signed : after (.cmplt (.p 1) v2 (.int 0)) (vreg 2 (fun l => if l = 3 then 0xFFFFFFFF else 0) base) (fun w => w.readP 1 == 8) = true := by decide

/-- 23 R349: infinity times 0 sets IV although the addend is a NaN. 24 R399: B of SHL is raw, so that a float constant gives its bits. -/
theorem test_mad_invalid : after (.mad v1 v2 (.int 0)) (vreg 1 (fun _ => 0x7FC00000) (vreg 2 (fun _ => 0x7F800000) floats))
    (fun w => w.readV 1 0 == 0x7FC00000 && w.fpflags == 1) = true := by decide
theorem test_shl_raw : after (.shl v1 v2 (.flt 0)) (vreg 2 (fun _ => 1) base) (fun w => w.readV 1 0 == 1) = true := by decide

/-- 22 R317: CSEL keeps D in the lanes whose predicate bit is 0. -/
theorem test_csel : after (.csel v1 (.p 2) (.int 7)) (preg 2 4 base) (fun w => w.readV 1 2 == 7 && w.readV 1 1 == 0) = true := by decide

/-- 03, the example of MODEA and MODEM: after both, MODE is 0x00092B13. -/
theorem test_modea : after (.modea 0x0B13) base (fun w => (w.split? 0).any fun x => x.mode == 0x0B13) = true := by decide
theorem test_modem : after (.modem 0x0092) (mode 0x0B13 base) (fun w => (w.split? 0).any fun x => x.mode == 0x00092B13) = true := by decide

/-- The rows of the REBAL example (04, R81). -/
def rows : Nat → Word := fun l => nth [3, 0, 2, 4, 0, 0, 1, 0] l 0

/-- 04, the example of REBAL, with c = 0 and c = 8. -/
theorem test_rebal_from0 : sends (.rebal v2 v1 (.int 0)) (vreg 1 rows (onX (fun x => { x with exec := 0xFF }) base))
    (fun w => (upTo 8).map (fun l => ((w.readV 2 l).toNat, (w.readV 3 l).toNat)) == [(0, 0), (0, 1), (0, 2), (2, 0), (2, 1), (3, 0), (3, 1), (3, 2)]) = true := by
  decide
theorem test_rebal_from8 : sends (.rebal v2 v1 (.int 8)) (vreg 1 rows (onX (fun x => { x with exec := 0xFF }) base))
    (fun w => (upTo 3).map (fun l => ((w.readV 2 l).toNat, (w.readV 3 l).toNat)) == [(3, 3), (6, 0), (0xFFFFFFFF, 0)]) = true := by decide

/-- 04 Table 4.4, the first row: a divergence with four splits is serialised. -/
def four : State := onW (fun w => { w with splits := w.splits.flatMap fun x => [{ x with pc := 0x20C, live := 0xFF, exec := 0xFF },
  { x with num := 1, live := 0xFF00 }, { x with num := 2, live := 0xFF0000 }, { x with num := 3, live := 0xFF000000 }] })
  { base with issue := some { wave := 0, split := 0, pc := 0x20C, next := 0x214, marked := false } }

theorem test_brx_serialised : after (.brx (.p 1) 8 16) (preg 1 0xF four) (fun w =>
    (w.split? 0).any (fun x => x.live == 0xF0 && x.exec == 0xF0 && x.pc == 0x214) &&
    w.stack.map (fun e => (e.pc, e.rejoin, e.mask.toNat, e.kind)) == [(0x300, 0x400, 0xF, 1), (0x20C, 0x400, 0xFF, 0)]) = true := by decide

/-- 23, the example of JOINW: the last split to arrive merges both into split 0, which continues at 0x0608. -/
def joining : State := onW (fun w => { w with splits := w.splits.flatMap fun x =>
  [{ x with pc := 0x604, live := 0xFFFF, exec := 0xFFFF, park := .joinw 0xFFFFFFFF }, { x with num := 1, pc := 0x604, live := 0xFFFF0000, exec := 0xFFFF0000 }] })
  { base with issue := some { wave := 0, split := 1, pc := 0x604, next := 0x608, marked := false } }

theorem test_joinw_merges : after (.joinw (.p 0)) joining (fun w => w.splits.map (fun x => (x.num, x.live.toNat, x.exec.toNat, x.pc)) ==
    [(0, 0xFFFFFFFF, 0xFFFFFFFF, 0x608)]) = true := by decide

/-- 18, the example of two causes: MISALIGN (rank 7) beats the translation fault (rank 9); FMASK has the misaligned lane alone. -/
theorem test_misalign_first : after (.ld32 v2 (.s 8) v1) (sreg [(8, 0x1000)] (vreg 1 (fun l => if l = 17 then 2 else if l = 20 then 0x100000 else 0) base))
    (fun w => w.cause == 5 && w.faddr == 0x1002 && w.fmask == 0x20000) = true := by decide

/-- 22 Table 22.7: HMOV reads code 2 of a done handle. -/
theorem test_hmov_done : after (.hmov s4 h3) (holds3 .done) (fun w => w.readS 4 == 2 && w.readS 5 == 0) = true := by decide

/-- 11 Table 11.9: the chains of one element, and the element that they end in. -/
theorem test_chain_order :
    (let t : FVal := .fin false 1 (-24)
     let eo := chainStep true (chainStep true (0x3F800000, 0) [(0, t, 0), (1, t, 0)]) [(2, t, 0), (3, t, 0)]
     eo == (0x3F800000, 0x34000000) && (faddV fmtF32 0 (unpack fmtF32 eo.1) (unpack fmtF32 eo.2)).1 == 0x3F800001) = true := by decide

/-- 15 Table 15.5 and the permuted array of its example. -/
theorem test_lynx_index :
    (let b : BuildOp := { (default : BuildOp) with x1 := 256, y1 := 256, leafCap := 4, count := 5, indexSize := 164 }
     let at_ (i x y : Nat) : Sample := { i := i, x := 256 * x, y := 256 * y, cls := 1 }
     nodeWords (b.nodes [at_ 0 10 10, at_ 1 20 200, at_ 2 200 30, at_ 3 12 14, at_ 4 30 20]) ==
       ([2, 1, 5, 0, 1, 0, 3, 1, 257, 3, 1, 1, 513, 4, 1, 1, 0, 0, 0, 1], [0, 3, 4, 2, 1])) = true := by decide

/-- 15 Table 15.7: a sample on the shared edge is covered by T0 alone, with b1 = b2 = 0.5 and TIE. -/
theorem test_shared_edge :
    (let t0 : Tri := { prim := 0, x0 := 0, y0 := 0, x1 := 1024, y1 := 0, x2 := 0, y2 := 1024 }
     let t1 : Tri := { prim := 1, x0 := 1024, y0 := 0, x1 := 1024, y1 := 1024, x2 := 0, y2 := 1024 }
     t0.cover 512 512 == some (0x3F000000, 0x3F000000, true, false) && (t1.cover 512 512).isNone &&
       t0.cover 256 256 == some (0x3E800000, 0x3E800000, false, false)) = true := by decide

/-- 02, the assembler's example: Table 2.5, the bundle of the kernel addk from its source text. -/
theorem test_assembler_example :
    (match Asm.assemble ("\n".intercalate [".kernel addk  ; (1)", " .regs 8", " shl v0, laneid, 2 ; (2)", " lds64 s6, [s0] ! ; (3)",
        " ld32 v1, [s6 + v0] !", " add v1, v1, 100", " st32 v1, [s6 + v0]", " exit", " .end"]).toList with
      | .ok i => i.bytes | .error _ => []) =
      [0x806, 0x3E00D8E2, 0x738680E0, 0x6A018600, 0x310101FF, 0x64, 0x6F018600, 0x0B000000].flatMap fun w => leBytes w 4 := by decide +kernel

/-! ## Witnesses: the clauses where something is missing -/

/-- Stage 2 maps nothing: the fault ring and the pool's lines cannot be used. -/
def noRing (n : Option Nat) : State := onP (fun p => { p with faults := [default], ringLogn := n }) base

/-- The page of the fault ring may be read and not written. -/
def readOnlyRing : State := { faulting 4 0 with pt := (faulting 4 0).pt.writeLe 0x22000 8 0x7 }

/-- A shadow whose pool line cannot be read is to be freed. -/
def lostLine : State := onP (fun p => { p with
  regions := { region0 1 with shadows := [{ (default : Shadow) with seq := 3, pool := some 2, copyBack := true }] } :: List.replicate 15 Region.free }) base

/-- The reserve holds a shadow and the pool, of one line, has no page. -/
def noPool : State := onP (fun p => { p with
  poolSize := 1, regions := { region0 1 with shadows := [{ (default : Shadow) with line := 1, seq := 3, bytes := [7] }] } :: List.replicate 15 Region.free }) base

theorem witness_UnusableLines :
    holds (((noRing none).part 0).faults.length == 1 && (noRing none).ringLog 0 == none) ∧
    holds ((noRing (some 4)).ringLog 0 == some 4 && (noRing (some 4)).guestRead 0 4 4 == none) ∧
    holds (readOnlyRing.ringLog 0 == some 4 && has (readOnlyRing.guestRead 0 0x30004 4) fun _ => (readOnlyRing.guestWrite 0 0x30040 (List.replicate 32 0)).isNone) ∧
    holds ((lostLine.lostShadow 0 (((lostLine.part 0).regions.flatMap (·.shadows)).filter fun y => y.seq == 3 && y.copyBack)).isSome) ∧
    holds ((noPool.part 0).oldestReserved.isSome && decide ((noPool.part 0).poolUsed < (noPool.part 0).poolSize) && (noPool.part 0).running) ∧
    holds (has (noPool.part 0).oldestReserved fun e => (noPool.drawn.guestWrite 0 ((noPool.part 0).poolBase) e.2.bytes).isNone) := by
  unfold holds
  refine ⟨?_, ?_, ?_, ?_, ?_, ?_⟩ <;> decide

/-- A child that no core could ever hold, and a block for which no core has room now. -/
def hugeChild : State := onP (fun p => { p with
  children := [{ launch := 0, wave := 0, record := { bootRecord with scratch := 524288 }, info := default, rel := 0 }] }) (unplaced 0)

theorem witness_NoRoom :
    holds (hugeChild.placing 0 && has ((hugeChild.part 0).children.find? fun c => (hugeChild.launch? c.launch).all fun l => !l.yielded && !l.halted) fun c =>
      hugeChild.looks 0 (hugeChild.part 0).childCounter (hugeChild.part 0).childSkipped && hugeChild.neverFits 0 c.record 1 && (hugeChild.launch? c.launch).isSome) ∧
    holds (has (crowded.launch? 1) fun x => !x.yielded && !x.yielding && crowded.wantsPlace 1 x && crowded.looks 0 x.nextBlock x.skipped &&
      ((crowded.part 0).coreList.any fun c => crowded.everFits 0 c x.record x.record.waves) &&
      (crowded.placeFor 0 x.record x.record.waves x.nextBlock).isNone) := by
  unfold holds
  exact ⟨by decide, by decide⟩

/-- A rewindable wave whose descriptor page is not mapped is saved whole; one whose save has begun goes on with it. -/
theorem witness_SaveForms :
    holds (let s := leaving (.window 0) 0 0 fun w => { w with rewindable := true, mark := some { (default : Mark) with desc := 4096 * 65536 } }
      has (s.wave? 0) fun w => w.rewindable && w.trap.isNone && has w.mark fun m => match s.recipe w m with | .bad => true | _ => false) ∧
    holds (let s := { leaving (.window 0) 0 0 (fun w => { w with rewindable := true, mark := some { (default : Mark) with desc := 4096 * 65536 } }) with
        roots := [(0, 0x24000)] }
      has (s.wave? 0) fun w => has w.mark fun m => match s.recipe w m with | .wait _ => true | _ => false) ∧
    holds (let s := leaving (.saving 0) 0 0 id
      has (s.wave? 0) fun w => w.trap.isNone && w.preempt == .saving 0 && (s.block? w.block).isSome && (s.part w.part).running) := by
  unfold holds
  refine ⟨?_, ?_, ?_⟩ <;> decide

end Sys2Proof.Tests
end

section
/-! PROOFS. Decoding undoes encoding (03 R46 to R51): what a shape's word holds, field by field, and what the decoder reads from it. -/

namespace Sys2Proof

/-! ## Operand kinds without a literal (03 Table 3.5) -/

@[simp] theorem isV_lit (x : Word) : isV (.lit x) = false := rfl
@[simp] theorem isV2_lit (x : Word) : isV2 (.lit x) = false := rfl
@[simp] theorem isV4_lit (x : Word) : isV4 (.lit x) = false := rfl
@[simp] theorem isVX_lit (x : Word) : isVX (.lit x) = false := rfl
@[simp] theorem isS_lit (x : Word) : isS (.lit x) = false := rfl
@[simp] theorem isS2_lit (x : Word) : isS2 (.lit x) = false := rfl
@[simp] theorem isS4_lit (x : Word) : isS4 (.lit x) = false := rfl
@[simp] theorem isS8_lit (x : Word) : isS8 (.lit x) = false := rfl
@[simp] theorem isS1_lit (x : Word) : isS1 (.lit x) = false := rfl
@[simp] theorem isP_lit (x : Word) : isP (.lit x) = false := rfl
@[simp] theorem isH_lit (x : Word) : isH (.lit x) = false := rfl
@[simp] theorem isHD_lit (x : Word) : isHD (.lit x) = false := rfl
@[simp] theorem isDst_lit (x : Word) : isDst (.lit x) = false := rfl
@[simp] theorem isVS_lit (x : Word) : isVS (.lit x) = false := rfl
@[simp] theorem isVS1_lit (x : Word) : isVS1 (.lit x) = false := rfl
@[simp] theorem isG2_lit (x : Word) : isG2 (.lit x) = false := rfl
@[simp] theorem isPS_lit (x : Word) : isPS (.lit x) = false := rfl
@[simp] theorem isSD_lit (x : Word) : isSD (.lit x) = false := rfl
@[simp] theorem isHS_lit (x : Word) : isHS (.lit x) = false := rfl
@[simp] theorem isVSE_lit (x : Word) : isVSE (.lit x) = false := rfl
@[simp] theorem isInt_lit (n : Nat) (x : Word) : isInt n (.lit x) = false := rfl
@[simp] theorem isSrdA_lit (x : Word) : isSrdA (.lit x) = false := rfl
@[simp] theorem litAgree_lit (x y : Word) : litAgree (.lit x) (.lit y) = (x == y) := rfl

/-! ## Shapes -/

/-- What stands in the D field of a shape; an FB word's register stands there. -/
def Shape.fieldD : Shape → Option Operand
  | .f3 _ d _ _ => d
  | .fb _ r _ _ => r
  | _ => none

/-- What stands in the A field of a shape. -/
def Shape.fieldA : Shape → Option Operand
  | .f3 _ _ a _ => a
  | _ => none

/-- What stands in the B field of a shape. -/
def Shape.fieldB : Shape → Option Operand
  | .f3 _ _ _ b => b
  | _ => none

/-- Table 3.8 lists the opcode of a shape under the shape's format. -/
def Shape.inTable : Shape → Bool
  | .f3 op _ _ _ => decide (op < 256 ∧ formatOf op = some .f3)
  | .fb op _ _ _ => decide (op < 256 ∧ formatOf op = some .fb)
  | .fi op _ => decide (op < 256 ∧ formatOf op = some .fi)
  | .step => true

/-- The instruction that the fields of a shape spell: an unused field reads as code 0x00, the literal as `x` where the shape has none,
the immediate of a format without one as `off`. -/
def Shape.instr (off : BitVec 16) (x : Word) : Shape → Option Instr
  | .f3 op d a b =>
    instrOf op (d.getD (.v 0)) (a.getD (.v 0)) (b.getD (.v 0)) off (((fieldLit a).or ((fieldLit b).or (fieldLit d))).getD x)
  | .fb op r o l => instrOf op (r.getD (.v 0)) (r.getD (.v 0)) (r.getD (.v 0)) o (l.getD x)
  | .fi op imm => instrOf op .laneid .laneid .laneid imm x
  | .step => none

theorem Instr.shape_inTable (i : Instr) : i.shape.inTable = true := by cases i <;> rfl

/-- The opcode table is read back: the shape of an instruction that has a word spells the instruction. -/
theorem Instr.shape_instr (i : Instr) (off : BitVec 16) (x : Word) : i.shape.instr off x = (encode i).map fun _ => i := by
  cases i <;> rfl

/-- A D field takes no literal. -/
theorem Instr.fieldD_ne_lit {i : Instr} (h : i.wellFormed = true) (x : Word) : i.shape.fieldD ≠ some (.lit x) := by
  intro hx
  cases i <;> cases hx <;> simp [Instr.wellFormed] at h

/-- Literals in A and B are the same word (03 R38). -/
theorem Instr.fieldA_fieldB_lit {i : Instr} (h : i.wellFormed = true) {x y : Word} (ha : i.shape.fieldA = some (.lit x))
    (hb : i.shape.fieldB = some (.lit y)) : x = y := by
  cases i <;> cases ha <;> cases hb <;> simp_all [Instr.wellFormed]

/-! ## Operand codes -/

theorem Operand.code_lt (o : Operand) : o.code < 256 := by
  cases o <;> simp only [Operand.code] <;> omega

theorem fieldCode_lt (o : Option Operand) : fieldCode o < 256 := by
  cases o with
  | none => decide
  | some o => exact o.code_lt

/-- An operand's code names the operand again. -/
theorem operandOf_code (o : Operand) (lit : Word) (hl : ∀ x, o = .lit x → x = lit) : operandOf o.code lit = some o := by
  cases o with
  | v r | s r | p r | h r | int r | flt r =>
    have := r.isLt
    unfold operandOf Operand.code
    grind only
  | laneid | exec | waveid => rfl
  | lit x =>
    unfold operandOf Operand.code
    grind only

/-- A field's code names what stands in the field, v0 for an unused one. -/
theorem operandOf_fieldCode (o : Option Operand) (lit : Word) (h : ∀ x, o = some (.lit x) → x = lit) :
    operandOf (fieldCode o) lit = some (o.getD (.v 0)) := by
  cases o with
  | none => rfl
  | some o => exact operandOf_code o lit fun x hx => h x (congrArg some hx)

/-! ## Fields of a word (03 Table 3.3) -/

/-- The four bytes of a word, as its fields. -/
theorem fields_of_word {w : Word} {op d a b : Nat} (hop : op < 256) (hd : d < 256) (ha : a < 256) (hb : b < 256)
    (hw : w = BitVec.ofNat 32 (op * 16777216 + d * 65536 + a * 256 + b)) : opOf w = op ∧ dOf w = d ∧ aOf w = a ∧ bOf w = b := by
  subst hw
  simp only [opOf, dOf, aOf, bOf, BitVec.toNat_ofNat]
  omega

/-- The fields of a word with a 16-bit immediate. -/
theorem fields_of_immWord {w : Word} {op d : Nat} {imm : BitVec 16} (hop : op < 256) (hd : d < 256)
    (hw : w = BitVec.ofNat 32 (op * 16777216 + d * 65536 + imm.toNat)) :
    opOf w = op ∧ dOf w = d ∧ BitVec.ofNat 16 (w.toNat % 65536) = imm := by
  subst hw
  have := imm.isLt
  refine ⟨?_, ?_, BitVec.eq_of_toNat_eq ?_⟩ <;> simp only [opOf, dOf, BitVec.toNat_ofNat] <;> omega

/-! ## The decoder on an encoding -/

/-- The decoder on an F3 word: what the operands of its three fields spell. The word stays a variable here; its fields are facts about it
(`fields_of_word`). -/
theorem candidate_f3 {w lit : Word} {d a b : Operand} {i : Instr} (hf : formatOf (opOf w) = some .f3)
    (hd : operandOf (dOf w) lit = some d) (ha : operandOf (aOf w) lit = some a) (hb : operandOf (bOf w) lit = some b)
    (hi : ∀ off, instrOf (opOf w) d a b off lit = some i) : candidate w lit = .ok i := by
  simp only [candidate, hf, hd, ha, hb, hi]

/-- The decoder on an FB word. -/
theorem candidate_fb {w lit : Word} {r : Operand} {i : Instr} (hf : formatOf (opOf w) = some .fb)
    (hr : operandOf (dOf w) lit = some r) (hi : instrOf (opOf w) r r r (BitVec.ofNat 16 (w.toNat % 65536)) lit = some i) :
    candidate w lit = .ok i := by
  simp only [candidate, hf, hr, hi]

/-- The decoder on an FI word. -/
theorem candidate_fi {w lit : Word} {i : Instr} (hf : formatOf (opOf w) = some .fi)
    (hi : instrOf (opOf w) .laneid .laneid .laneid (BitVec.ofNat 16 (w.toNat % 65536)) lit = some i) : candidate w lit = .ok i := by
  simp only [candidate, hf, hi]

theorem fieldLit_eq_some {o : Option Operand} {x : Word} : fieldLit o = some x ↔ o = some (.lit x) := by
  unfold fieldLit
  split <;> simp_all

/-- The literal of an F3 shape is the one that each of its fields holds. -/
theorem Instr.litsAgree {i : Instr} (h : i.wellFormed = true) {op : Nat} {d a b : Option Operand} (hs : i.shape = .f3 op d a b)
    (x : Word) {o : Option Operand} (ho : o = d ∨ o = a ∨ o = b) (y : Word) (hy : o = some (.lit y)) :
    y = ((fieldLit a).or ((fieldLit b).or (fieldLit d))).getD x := by
  have hd (z : Word) : d ≠ some (.lit z) := by simpa only [hs, Shape.fieldD] using Instr.fieldD_ne_lit h z
  rcases ho with rfl | rfl | rfl
  · exact absurd hy (hd y)
  · simp [hy, fieldLit]
  · cases ha : fieldLit a with
    | none => simp [hy, fieldLit]
    | some z =>
      have hzy : z = y := Instr.fieldA_fieldB_lit h (by rw [hs]; exact fieldLit_eq_some.mp ha) (by rw [hs]; exact hy)
      simp [hzy]

/-- An encoding spells the instruction it encodes, the next slot holding the literal where the instruction takes one. -/
theorem candidate_encode {i : Instr} {w : Word} {l : Option Word} (x : Word) (h : i.wellFormed = true) (he : encode i = some (w, l)) :
    candidate w (l.getD x) = .ok i := by
  have ht := i.shape_inTable
  have hi (off : BitVec 16) : i.shape.instr off x = some i := by rw [i.shape_instr, he]; rfl
  unfold encode at he
  cases hs : i.shape with
  | f3 op d a b =>
    have hl {o} := Instr.litsAgree h hs x (o := o)
    simp only [hs] at ht hi he
    obtain ⟨hop, hf⟩ := of_decide_eq_true ht
    obtain ⟨hw, rfl⟩ := Prod.mk.inj (Option.some.inj he)
    obtain ⟨ho, hD, hA, hB⟩ := fields_of_word hop (fieldCode_lt d) (fieldCode_lt a) (fieldCode_lt b) hw.symm
    exact candidate_f3 (ho ▸ hf) (hD ▸ operandOf_fieldCode d _ (hl (.inl rfl))) (hA ▸ operandOf_fieldCode a _ (hl (.inr (.inl rfl))))
      (hB ▸ operandOf_fieldCode b _ (hl (.inr (.inr rfl)))) (ho ▸ hi)
  | fb op r off lit =>
    have hr (z : Word) : r ≠ some (.lit z) := by simpa only [hs, Shape.fieldD] using Instr.fieldD_ne_lit h z
    simp only [hs] at ht hi he
    obtain ⟨hop, hf⟩ := of_decide_eq_true ht
    obtain ⟨hw, rfl⟩ := Prod.mk.inj (Option.some.inj he)
    obtain ⟨ho, hD, hoff⟩ := fields_of_immWord hop (fieldCode_lt r) hw.symm
    exact candidate_fb (ho ▸ hf) (hD ▸ operandOf_fieldCode r _ fun z hz => absurd hz (hr z)) (by rw [ho, hoff]; exact hi 0)
  | fi op imm =>
    simp only [hs] at ht hi he
    obtain ⟨hop, hf⟩ := of_decide_eq_true ht
    obtain ⟨hw, rfl⟩ := Prod.mk.inj (Option.some.inj he)
    obtain ⟨ho, -, hoff⟩ := fields_of_immWord (w := w) (d := 0) (imm := imm) hop (by decide)
      (by rw [← hw, Nat.zero_mul, Nat.add_zero])
    exact candidate_fi (ho ▸ hf) (by rw [ho, hoff]; exact hi 0)
  | step =>
    rw [hs] at he
    cases he

/-- Settles O2: an encoding spells its instruction (`candidate_encode`), which passes the decoder's two checks. -/
theorem encodeThenDecode : Obligations.EncodeThenDecode := by
  unfold Obligations.EncodeThenDecode
  intro i w l x h he
  simp [decode, candidate_encode x h he, h, he]

/-- Settles O3: the decoder answers an instruction only when it is well formed and its word is the one decoded. -/
theorem decodeOnlyEncodings : Obligations.DecodeOnlyEncodings := by
  unfold Obligations.DecodeOnlyEncodings
  intro w lit i h
  unfold decode at h
  split at h
  · cases h
  · split at h
    · next j _ hj =>
      cases h
      simp only [Bool.and_eq_true, beq_iff_eq, Option.map_eq_some_iff] at hj
      obtain ⟨hwf, ⟨v, l⟩, he, rfl⟩ := hj
      exact ⟨hwf, l, he⟩
    · cases h

/-- Settles O1: the decoder evaluated on each of the words. -/
theorem decodeSpecWords : Obligations.DecodeSpecWords := by
  unfold Obligations.DecodeSpecWords
  decide

end Sys2Proof
end

section
/-! PROOFS. The issue of one word (03 R39 to R50, 04 R76): what a step does when a split issues from its bundle, and what a word that does
not decode does. -/

namespace Sys2Proof.Machine

open Safety

/-! ## A word that does not decode -/

/-- A word whose decoding fails raises ILLEGAL and performs nothing (03 R50). -/
theorem runWord_undecoded {s : State} {c : Ctx} {d : Ctx → Bool} (k : Checks) (codes : Ctx → List Nat) (body : Ctx → State → Effect)
    (hc : s.ctx? = some c) (hd : d c = false) :
    runWord s d k codes body = .next (s.raise c.wi c.sp.num Cause.illegal 0 c.sp.exec c.pc) := by
  simp only [runWord, hc, hd, Bool.not_false, Bool.true_or, if_true, Effect.finish]

theorem exec_reservedOpcode {s : State} {c : Ctx} (w : Word) (hc : s.ctx? = some c) :
    exec (.reservedOpcode w) s = .next (s.raise c.wi c.sp.num Cause.illegal 0 c.sp.exec c.pc) := by
  simp only [exec]
  exact runWord_undecoded _ _ _ hc rfl

/-- Every instruction that has a word runs in the mould of `runWord`, whose first check is that the word decodes for the wave: in each case
the meaning unfolds to the mould, where that check decides the outcome. YIELD decodes for every wave. -/
theorem exec_undecoded {i : Instr} {s : State} {c : Ctx} (hw : (encode i).isSome = true) (hc : s.ctx? = some c)
    (hd : decodesFor i c = false) : exec i s = .next (s.raise c.wi c.sp.num Cause.illegal 0 c.sp.exec c.pc) := by
  cases i <;> simp only [encode, Instr.shape, Shape.encode, Option.isSome_none, Bool.false_eq_true] at hw
  case yield => exact absurd hd (by simp [decodesFor, Instr.wellFormed, Instr.uses])
  all_goals
    conv => lhs; whnf
    simp only [hc, hd, Bool.not_false, Bool.true_or, if_true, Effect.finish]

/-! ## PCs -/

/-- A PC resumes in its own bundle (03 R44). -/
@[simp] theorem resumePc_div (pc : Nat) : resumePc pc / 32 = pc / 32 := by
  unfold resumePc
  split <;> omega

/-- The check of an aligned PC within the address space finds nothing (03 R420). -/
theorem pcFault_none (code : CodeAt) {pc : Nat} (h4 : pc % 4 = 0) (hv : pc < Config.vaEnd) : pcFault code pc = none := by
  simp [pcFault, h4, Nat.not_le.mpr hv]

/-- The check of a bundle that is not malformed and whose slot holds no literal finds nothing (03 R39). -/
theorem entryFault_none {ws : List Word} {pc : Nat} (hb : bundleOk ws = true) (hl : isLit ws (slotOf pc) = false) :
    entryFault ws pc = none := by
  simp [entryFault, hb, hl]

/-! ## Waves and splits -/

theorem Wave.split?_num {w : Wave} {k : Nat} {x : Split} (h : w.split? k = some x) : x.num = k := by
  simpa using List.find?_some h

/-- Changing the split of a number, and not the numbers, finds it changed. -/
theorem Wave.split?_modSplit {w : Wave} {k : Nat} {x : Split} {f : Split → Split} (h : w.split? k = some x) (hf : ∀ y, (f y).num = y.num) :
    (w.modSplit k f).split? k = some (f x) := by
  have hn (y : Split) : (if y.num = k then f y else y).num = y.num := by split <;> simp [hf]
  unfold Wave.split? at h
  simp only [Wave.split?, Wave.modSplit, List.find?_map, Function.comp_def, hn, h, Option.map_some, Wave.split?_num h, if_true]

/-- A fetch that gives a bundle leaves the waves as they are. -/
theorem State.fetch_waves {s t : State} {core asid pc : Nat} {ws : List Word} (h : s.fetch core asid pc = .code ws t) : t.waves = s.waves := by
  unfold State.fetch at h
  split at h
  · cases h
  · cases h
  · split at h <;> cases h
  · split at h
    · cases h; rfl
    · split at h <;> cases h
      rfl

/-! ## The word in a slot -/

/-- A split at a PC of a bundle that it keeps. -/
def Split.inSlot (x : Split) (ws : List Word) (pc : Nat) : Split := { x with pc := pc, entered := some (pc / 32, ws) }

/-- The state in which the word in a PC's slot runs: its split keeps the bundle, and the word is in the course of issuing. -/
def State.atWord (s : State) (wi k : Nat) (ws : List Word) (pc : Nat) : State :=
  { s.modSplit wi k fun y => y.inSlot ws pc with
    issue := some { wave := wi, split := k, pc := pc, next := nextPc ws pc, marked := isMarked ws (slotOf pc) } }

/-- The context in which the word in a PC's slot runs. -/
def slotCtx (wi : Nat) (w : Wave) (x : Split) (ws : List Word) (pc : Nat) : Ctx :=
  let w1 := w.modSplit x.num fun y => y.inSlot ws pc
  { wi := wi, w := w1, sp := x.inSlot ws pc, pc := pc, next := nextPc ws pc, marked := isMarked ws (slotOf pc)
    act := actOf w1 (x.inSlot ws pc) }

theorem State.wordAt_eq (s : State) (wi : Nat) (x : Split) (ws : List Word) (pc : Nat) :
    s.wordAt wi x ws pc = .word (instrAt ws (slotOf pc)) (s.atWord wi x.num ws pc) := rfl

theorem State.atWord_wave {s : State} {wi k : Nat} {w : Wave} (ws : List Word) (pc : Nat) (hw : s.wave? wi = some w) :
    (s.atWord wi k ws pc).wave? wi = some (w.modSplit k fun y => y.inSlot ws pc) := by
  have h := State.wave?_modWave_self s wi fun v => v.modSplit k fun y => y.inSlot ws pc
  rw [hw] at h
  exact h

theorem State.atWord_ctx {s : State} {wi : Nat} {w : Wave} {x : Split} (ws : List Word) (pc : Nat) (hw : s.wave? wi = some w)
    (hx : w.split? x.num = some x) : (s.atWord wi x.num ws pc).ctx? = some (slotCtx wi w x ws pc) := by
  have hx1 := Wave.split?_modSplit (f := fun y => y.inSlot ws pc) hx fun _ => rfl
  have hw1 := State.atWord_wave (k := x.num) ws pc hw
  have hi : (s.atWord wi x.num ws pc).issue =
      some { wave := wi, split := x.num, pc := pc, next := nextPc ws pc, marked := isMarked ws (slotOf pc) } := rfl
  simp only [State.ctx?, hi, hw1, hx1, slotCtx]

/-- The state in which the word runs is one in which it has been offered its slot (`Safety.Issued`). -/
theorem State.atWord_issued {s : State} {wi : Nat} {w : Wave} {x : Split} (ws : List Word) (hw : s.wave? wi = some w)
    (hx : w.split? x.num = some x) : Issued s (s.atWord wi x.num ws (resumePc x.pc)) wi x.num w x ws := by
  refine ⟨?_, ?_, fun v hv => ?_, rfl⟩
  · rw [State.atWord_ctx ws _ hw hx]; rfl
  · rw [State.atWord_wave ws _ hw]
    simp only [Split.inSlot, resumePc_div]
  · exact State.wave?_modWave_other s wi v (fun u => u.modSplit x.num fun y => y.inSlot ws (resumePc x.pc)) hv

/-! ## The step of a split that issues -/

theorem issues_split {s s1 : State} {wi k : Nat} {w : Wave} {x : Split} {ws : List Word} (h : Issues s s1 wi k w x ws) :
    w.split? k = some x := by
  obtain ⟨-, -, hx, -⟩ := h
  exact hx

/-- The fetch of a bundle has left the issuing wave as it was. -/
theorem issues_wave {s s1 : State} {wi k : Nat} {w : Wave} {x : Split} {ws : List Word} (h : Issues s s1 wi k w x ws) :
    s1.wave? wi = some w := by
  obtain ⟨-, hw, -, -, -, -, -, -, -, -, -, -, ⟨-, rfl⟩ | ⟨-, hf, -⟩⟩ := h
  · exact hw
  · unfold State.wave? at hw ⊢
    rw [State.fetch_waves hf, hw]

/-- What the offer of its slot comes to for a split that issues: the word in its PC's slot. -/
theorem offer_issues {s s1 : State} {wi k : Nat} {w : Wave} {x : Split} {ws : List Word} (h : Issues s s1 wi k w x ws) :
    s.nextTurn.2.offer wi k = .word (instrAt ws (slotOf (resumePc x.pc))) (s1.atWord wi k ws (resumePc x.pc)) := by
  obtain ⟨-, hw, hx, hr, hs, hp, ht, hb, hk, h4, hv, ha, he⟩ := h
  have hn := Wave.split?_num hx
  subst hn
  have hi : s.nextTurn.2.issueAt wi w x = s1.wordAt wi x ws (resumePc x.pc) := by
    simp only [State.issueAt, hk, Bool.false_eq_true, if_false, pcFault_none _ h4 hv, ha, resumePc_div]
    rcases he with ⟨he, rfl⟩ | ⟨he, hf, hbo, hl⟩
    · simp only [he, Option.filter_some, beq_self_eq_true, if_true]
    · have : (x.entered.filter fun e => e.1 == x.pc / 32) = none := by
        simpa [Option.filter_eq_none_iff] using he
      simp only [this, hf, entryFault_none hbo hl]
  simp only [State.offer, hw, hx, hr, hs, hp, ht, hb, Bool.not_true, Bool.false_eq_true, if_false, Option.isSome_none, or_self, hi,
    State.wordAt_eq]

/-- A step of a split that issues from its bundle: the word in its slot runs, and no split issues afterwards. -/
theorem step_issues {s s1 : State} {wi k : Nat} {w : Wave} {x : Split} {ws : List Word} (h : Issues s s1 wi k w x ws) :
    step s = issued (exec (instrAt ws (slotOf (resumePc x.pc))) (s1.atWord wi k ws (resumePc x.pc))) := by
  simp only [step, h.1, take, offer_issues h]

/-- The word in a slot that decodes is the instruction it decodes to. -/
theorem instrAt_ok {ws : List Word} {pc : Nat} {i : Instr} (h : wordIn ws pc = .ok i) : instrAt ws (slotOf (resumePc pc)) = i := by
  unfold wordIn at h
  simp only [instrAt, h]

/-- The word in a slot that decodes to nothing raises ILLEGAL (03 R50). -/
theorem instrAt_error {ws : List Word} {pc : Nat} {e : Reject} (h : wordIn ws pc = .error e) :
    instrAt ws (slotOf (resumePc pc)) = .reservedOpcode (slotWord ws (slotOf (resumePc pc))) := by
  unfold wordIn at h
  simp only [instrAt, h]

end Sys2Proof.Machine

namespace Sys2Proof

open Machine Safety

/-- Settles O4: `step_issues`, for a slot whose word decodes. -/
theorem stepRunsDecoded : Obligations.StepRunsDecoded := by
  unfold Obligations.StepRunsDecoded
  intro s s1 wi k w x ws i h hi
  have hx := issues_split h
  obtain rfl := Wave.split?_num hx
  refine ⟨_, State.atWord_issued ws (issues_wave h) hx, ?_⟩
  rw [step_issues h, instrAt_ok hi]
  rfl

/-- Settles O8: each word runs in a mould that checks its decoding first, and a slot whose word decodes to nothing holds the one whose
decoding always fails. -/
theorem badWordRaisesIllegal : Obligations.BadWordRaisesIllegal := by
  unfold Obligations.BadWordRaisesIllegal
  refine ⟨fun i s c hw hc hd => exec_undecoded hw hc hd, fun w s c hc => exec_reservedOpcode w hc, ?_⟩
  intro s s1 wi k w x ws e h he
  have hx := issues_split h
  obtain rfl := Wave.split?_num hx
  refine ⟨_, State.atWord_issued ws (issues_wave h) hx, ?_⟩
  rw [step_issues h, instrAt_error he, exec_reservedOpcode _ (State.atWord_ctx ws _ (issues_wave h) hx)]
  rfl

end Sys2Proof
end

section
/-! PROOFS. The words of MODE and EXEC (03 R56, R57, 23 R350, R357, R358), and the branches (03 R42 to R44, 22 R300, R306 to R308, 23 R335,
R336, 24 R389). -/

namespace Sys2Proof.Machine

open Safety

/-! ## Words that nothing refuses -/

/-- A word that nothing refuses does what its body says. -/
theorem wordOf_ready {i : Instr} {k : Checks} {s : State} {c : Ctx} (h : Ready i k s c) (body : Ctx → State → Effect) :
    wordOf i k body s = .next ((body c s).finish c s) := runWord_ready h body

/-- A body that raises a cause performs nothing. -/
theorem wordOf_raises {i : Instr} {k : Checks} {s : State} {c : Ctx} {cause faddr : Nat} {fmask : Word} (h : Ready i k s c)
    {body : Ctx → State → Effect} (hb : body c s = .trap cause faddr fmask) :
    wordOf i k body s = .next (s.raise c.wi c.sp.num cause faddr fmask c.pc) := by
  rw [wordOf_ready h, hb, Effect.finish]

/-- A body that does nothing changes nothing, and the split goes on. -/
theorem wordOf_same {i : Instr} {k : Checks} {s : State} {c : Ctx} (h : Ready i k s c) {body : Ctx → State → Effect}
    (hb : body c s = .ok s) : ∃ t, wordOf i k body s = .next t ∧ Wrote c s t (.int 0) 0 0 (fun _ _ => 0) 0 := by
  rw [wordOf_ready h, hb, Effect.finish]
  exact ⟨_, rfl, wrote_goOn_same h.1⟩

/-! ## Changing the issuing split -/

/-- Two changes of one split are one, where the first keeps the numbers. -/
theorem Wave.modSplit_modSplit (w : Wave) (k : Nat) {f : Split → Split} (g : Split → Split) (hf : ∀ x, (f x).num = x.num) :
    (w.modSplit k f).modSplit k g = w.modSplit k fun x => g (f x) := by
  have h (x : Split) : (if (if x.num = k then f x else x).num = k then g (if x.num = k then f x else x) else if x.num = k then f x else x) =
      if x.num = k then g (f x) else x := by
    by_cases hx : x.num = k <;> simp [hx, hf]
  simp only [Wave.modSplit, List.map_map, Function.comp_def, h]

/-- The issuing split changed, then gone on: what `SplitNow` says of it. -/
theorem splitNow_goOn {s : State} {c : Ctx} (h : s.ctx? = some c) {f : Split → Split} (hf : ∀ x, (f x).num = x.num) :
    SplitNow c s ((s.modSplit c.wi c.sp.num f).goOn c c.next false) f := by
  have hw : (s.modSplit c.wi c.sp.num f).wave? c.wi = some (c.w.modSplit c.sp.num f) := by
    simp [State.modSplit, State.ctx?_wave h]
  refine ⟨⟨fun v hv => ?_, rfl⟩, _, (State.wave?_modWave_self _ _ _).trans (congrArg _ hw), rfl, ?_⟩
  · rw [State.goOn, State.wave?_modWave_other _ _ _ _ hv, State.modSplit, State.wave?_modWave_other _ _ _ _ hv]
  · exact congrArg Wave.splits (Wave.modSplit_modSplit _ _ _ hf)

/-- A body that changes the issuing split changes nothing else. -/
theorem wordOf_splitNow {i : Instr} {k : Checks} {s : State} {c : Ctx} (h : Ready i k s c) {f : Split → Split}
    (hf : ∀ x, (f x).num = x.num) {body : Ctx → State → Effect} (hb : body c s = .ok (s.modSplit c.wi c.sp.num f)) :
    ∃ t, wordOf i k body s = .next t ∧ SplitNow c s t f := by
  rw [wordOf_ready h, hb, Effect.finish]
  exact ⟨_, rfl, splitNow_goOn h.1 hf⟩

/-! ## Targets -/

/-- The target that a branch computes is the bundle that OFF16 names (03 R42). -/
theorem branchTarget_eq (c : Ctx) (off : BitVec 16) : branchTarget c.pc off = targetOf c off := by
  have := off.isLt
  unfold branchTarget targetOf two64
  rw [BitVec.toInt_eq_toNat_cond]
  dsimp only
  split_ifs <;> omega

/-- The words of the address of the bundle after a PC's own. -/
theorem word_linkPc (pc : Nat) : word (linkPc pc) = word (32 * (pc / 32) + 32) := by
  refine BitVec.eq_of_toNat_eq ?_
  simp only [word, linkPc, two64, BitVec.toNat_ofNat]
  omega

/-- The issuing split gone on at slot 1 of a bundle. -/
theorem jumped_goOn {s : State} {c : Ctx} (h : s.ctx? = some c) (bundle : Nat) : Jumped c s (s.goOn c (bundle + 4) true) bundle :=
  ⟨onlyWave_goOn' s c _ true, _, goOn_wave h _ true, rfl, rfl⟩

theorem takeBranch_within {c : Ctx} {s : State} {target : Nat} (h : target < Config.vaEnd) : takeBranch c s target = .jump s target :=
  if_neg (Nat.not_le.mpr h)

theorem takeBranch_beyond {c : Ctx} {s : State} {target : Nat} (h : Config.vaEnd ≤ target) :
    takeBranch c s target = .trap Cause.aperture target c.sp.exec := if_pos h

/-- A body that takes a branch within the address space moves the whole split there, and changes nothing else. -/
theorem wordOf_jumped {i : Instr} {k : Checks} {s : State} {c : Ctx} (h : Ready i k s c) {body : Ctx → State → Effect} {target : Nat}
    (hb : body c s = takeBranch c s target) (ht : target < Config.vaEnd) :
    ∃ t, wordOf i k body s = .next t ∧ Jumped c s t target := by
  rw [wordOf_ready h, hb, takeBranch_within ht, Effect.finish]
  exact ⟨_, rfl, jumped_goOn h.1 target⟩

/-- A body that takes a branch out of the address space raises APERTURE. -/
theorem wordOf_aperture {i : Instr} {k : Checks} {s s1 : State} {c : Ctx} (h : Ready i k s c) {body : Ctx → State → Effect} {target : Nat}
    (hb : body c s = takeBranch c s1 target) (ht : Config.vaEnd ≤ target) :
    wordOf i k body s = .next (s.raise c.wi c.sp.num Cause.aperture target c.sp.exec c.pc) :=
  wordOf_raises h (hb.trans (takeBranch_beyond ht))

/-! ## Conditional branches -/

/-- The conditional uniform branches (22 R300, R306), each with its condition. -/
def condBranches (a : Operand) (off : BitVec 16) (c : Ctx) : List (Instr × Bool) :=
  [(.brz a off, decide (rawU c a = 0)), (.brnz a off, decide (rawU c a ≠ 0)), (.bany a off, decide (rawU c a &&& c.sp.exec ≠ 0)),
    (.ball a off, decide (rawU c a &&& c.sp.exec = c.sp.exec))]

/-- Each of them runs in the mould of `branchIf`. -/
theorem exec_condBranch {a : Operand} {off : BitVec 16} {c : Ctx} {i : Instr} {taken : Bool} (h : (i, taken) ∈ condBranches a off c)
    (s : State) : ∃ p : Ctx → Bool, p c = taken ∧ exec i s = branchIf i off p s := by
  simp only [condBranches, List.mem_cons, Prod.mk.injEq, List.not_mem_nil, or_false] at h
  rcases h with ⟨rfl, rfl⟩ | ⟨rfl, rfl⟩ | ⟨rfl, rfl⟩ | ⟨rfl, rfl⟩
  · exact ⟨fun c => rawU c a == 0, rfl, rfl⟩
  · exact ⟨fun c => rawU c a != 0, by simp [bne, beq_eq_decide], rfl⟩
  · exact ⟨fun c => rawU c a &&& c.sp.exec != 0, by simp [bne, beq_eq_decide], rfl⟩
  · exact ⟨fun c => rawU c a &&& c.sp.exec == c.sp.exec, rfl, rfl⟩

/-- The body of a branch that is taken. -/
theorem branchIf_taken {c : Ctx} {s : State} {off : BitVec 16} {p : Ctx → Bool} (hp : p c = true) :
    (if p c then takeBranch c s (branchTarget c.pc off) else .ok s) = takeBranch c s (targetOf c off) := by
  rw [if_pos hp, branchTarget_eq]

/-- The body of a branch that is not taken. -/
theorem branchIf_untaken {c : Ctx} {s : State} {off : BitVec 16} {p : Ctx → Bool} (hp : p c = false) :
    (if p c then takeBranch c s (branchTarget c.pc off) else .ok s) = .ok s := by
  rw [hp]; rfl

/-! ## CALL, RET and JMPR -/

/-- CALL's two link words (22 R308). -/
theorem linkWords_eq (c : Ctx) :
    (fun (i _ : Nat) => if i = 0 then word (linkPc c.pc) else word (linkPc c.pc / 4294967296)) =
      fun i _ => if i = 0 then word (32 * (c.pc / 32) + 32) else word ((32 * (c.pc / 32) + 32) % 18446744073709551616 / 4294967296) := by
  rw [word_linkPc]; rfl

/-- RET and JMPR run in one mould. -/
theorem exec_branchPair {a : Operand} {i : Instr} (h : i ∈ [Instr.ret a, .jmpr a]) (s : State) : exec i s = branchPair i a s := by
  simp only [List.mem_cons, List.not_mem_nil, or_false] at h
  rcases h with rfl | rfl <;> rfl

end Sys2Proof.Machine

namespace Sys2Proof

open Machine Safety

/-- Settles O25: the body of each of these words changes the issuing split alone (`wordOf_splitNow`). -/
theorem modeAndMaskWords : Obligations.ModeAndMaskWords := by
  unfold Obligations.ModeAndMaskWords
  intro a imm s c
  simp only [exec, execModea, execModem, execModeld, execMset, execMand, execMandn]
  refine ⟨fun h => ?_, fun h => ?_, fun h hm => ?modeld, fun h => ?_, fun h => ?_, fun h => ?_⟩
  case modeld => exact wordOf_splitNow h (by intro; rfl) (by rw [if_pos hm]; rfl)
  all_goals exact wordOf_splitNow h (by intro; rfl) (by rfl)

/-- Settles O26: the body of MODELD raises ILLEGAL for a value with a reserved field. -/
theorem reservedModeRefused : Obligations.ReservedModeRefused := by
  unfold Obligations.ReservedModeRefused
  intro a s c h hm
  simp only [exec, execModeld]
  exact wordOf_raises h (by rw [hm]; rfl)

/-- Settles O29: by the mould of each word, where it goes and what it writes. -/
theorem branchWords : Obligations.BranchWords := by
  unfold Obligations.BranchWords
  intro a off s c
  refine ⟨fun h => ?nop, fun h ht => ?jmp, fun i taken hi h => ?cond, fun h ht => ?call, fun i hi h ha ht => ?pair⟩
  case nop =>
    simp only [exec, execNop]
    exact wordOf_same h rfl
  case jmp =>
    simp only [exec, execJmp, branchTarget_eq]
    exact wordOf_jumped h rfl ht
  case cond =>
    obtain ⟨p, hp, he⟩ := exec_condBranch hi s
    subst hp
    rw [he, branchIf]
    exact ⟨fun hp ht => wordOf_jumped h (branchIf_taken hp) ht, fun hp => wordOf_same h (branchIf_untaken hp)⟩
  case call =>
    simp only [exec, execCall, branchTarget_eq]
    rw [wordOf_ready h, takeBranch_within ht, Effect.finish, linkWords_eq]
    refine ⟨_, _, rfl, onlyWave_goOn s c _ _ true, goOn_setWave s c _ _ true, ?_, ?_⟩
    · simp only [WentOn, Wave.modSplit, Wave.writeGroup_splits]
      rfl
    · exact c.w.writeGroup_received' a c.act 2 _
  case pair =>
    rw [exec_branchPair hi, branchPair]
    exact wordOf_jumped h (if_neg (not_not.mpr ha)) ht

/-- Settles O30: the target is checked where a branch is taken (`takeBranch_beyond`), and nowhere else. -/
theorem branchTargetsChecked : Obligations.BranchTargetsChecked := by
  unfold Obligations.BranchTargetsChecked
  intro a off rj s c
  dsimp only
  refine ⟨fun i hi h ht => ?jmp, fun i taken hi h ht => ?cond, fun h hsb => ⟨fun hn => ?none, fun hn ht => ?target, fun hn hm ht hx => ?rejoin⟩,
    fun i hi h => ?pair⟩
  case jmp =>
    simp only [List.mem_cons, List.not_mem_nil, or_false] at hi
    rcases hi with rfl | rfl
    · simp only [exec, execJmp, branchTarget_eq]
      exact wordOf_aperture h rfl ht
    · simp only [exec, execCall, branchTarget_eq]
      exact wordOf_aperture h rfl ht
  case cond =>
    obtain ⟨p, hp, he⟩ := exec_condBranch hi s
    subst hp
    rw [he, branchIf]
    split
    · next hp => exact wordOf_aperture h (branchIf_taken hp) ht
    · next hp => exact wordOf_same h (branchIf_untaken (Bool.eq_false_of_not_eq_true hp))
  case none =>
    simp only [exec, execBrx]
    exact wordOf_same h (by simp only [hsb, hn, List.isEmpty_nil, Bool.not_true, Bool.false_eq_true, if_false, if_true])
  case target =>
    simp only [exec, execBrx]
    exact wordOf_raises h (by simp only [hsb, hn, branchTarget_eq, takeBranch_beyond ht, ht, List.isEmpty_nil, Bool.not_true,
      Bool.false_eq_true, if_false, if_true, ite_self])
  case rejoin =>
    simp only [exec, execBrx]
    exact wordOf_raises h (by simp only [hsb, hn, hm, branchTarget_eq, Nat.not_le.mpr ht, hx, List.isEmpty_nil, Bool.not_true,
      Bool.false_eq_true, if_false, if_true])
  case pair =>
    rw [exec_branchPair hi, branchPair]
    exact ⟨fun ha => wordOf_raises h (if_pos ha), fun ha ht => wordOf_aperture h (if_neg (not_not.mpr ha)) ht⟩

end Sys2Proof
end

section
/-! PROOFS. What a word is refused for before it runs (04 R79, 18 Table 18.1). -/

namespace Sys2Proof.Machine

open Safety

/-! ## What a word is refused for, in rank order (18 Table 18.1) -/

/-- An outcome is that of a word in the mould of `runWord`, with the checks of `checksOf` and the codes of `wordCodes`; what the mould takes
for decoded is at least what decodes for the wave. -/
def Moulded (i : Instr) (s : State) (o : Host.Outcome State Fault Refusal) : Prop :=
  ∃ d body, (∀ c, decodesFor i c = true → d c = true) ∧ o = runWord s d (checksOf s i) (fun c => wordCodes s c i) body

theorem moulded_runWord {i : Instr} {s : State} {k : Checks} {codes : Ctx → List Nat} {body : Ctx → State → Effect}
    (hk : checksOf s i = k) (hc : ∀ c, wordCodes s c i = codes c) : Moulded i s (runWord s (decodesFor i) k codes body) :=
  ⟨_, body, fun _ h => h, by rw [hk, funext hc]⟩

theorem moulded_wordOf {i : Instr} {s : State} {k : Checks} {body : Ctx → State → Effect} (hk : checksOf s i = k)
    (hc : ∀ c, wordCodes s c i = instrCodes i (mType c.sp.mode)) : Moulded i s (wordOf i k body s) :=
  moulded_runWord hk hc

/-- Every instruction that has a word runs in its mould: each meaning unfolds to `runWord`, whose checks and codes are those that
`checksOf` and `wordCodes` list. The words that name no register unfold to `wordOf` first; YIELD decodes for every wave. -/
theorem exec_moulded (i : Instr) (s : State) (hw : (encode i).isSome = true) : Moulded i s (exec i s) := by
  cases i <;> simp only [encode, Instr.shape, Shape.encode, Option.isSome_none, Bool.false_eq_true] at hw <;> simp only [exec]
  case yield => exact ⟨fun _ => true, _, fun _ _ => rfl, rfl⟩
  case nop | jmp | exit | trap | rett | brk | modea | modem | fmark | mcancel | succgo | predwait | kyield | kend =>
    apply moulded_wordOf
    · rfl
    · intro; rfl
  all_goals
    apply moulded_runWord
    · rfl
    · intro; rfl

section
variable {s : State} {c : Ctx} {d : Ctx → Bool} {k : Checks} {codes : Ctx → List Nat} {body : Ctx → State → Effect}
  (hc : s.ctx? = some c)
include hc

theorem runWord_illegal (h : k.typeOk (mType c.sp.mode) = false ∨ k.illegal c = true) :
    runWord s d k codes body = .next (s.raise c.wi c.sp.num Cause.illegal 0 c.sp.exec c.pc) := by
  have hk : (!(d c) || !(k.typeOk (mType c.sp.mode)) || k.illegal c) = true := by
    rcases h with h | h <;> simp [h]
  simp only [runWord, hc, hk, if_true, Effect.finish]

variable (hd : d c = true) (ht : k.typeOk (mType c.sp.mode) = true) (hi : k.illegal c = false)
include hd ht hi

theorem runWord_illConv (hv : k.illConv c = true) :
    runWord s d k codes body = .next (s.raise c.wi c.sp.num Cause.illConv 0 c.sp.exec c.pc) := by
  simp only [runWord, hc, hd, ht, hi, hv, Bool.not_true, Bool.or_self, Bool.false_eq_true, if_false, if_true, Effect.finish]

theorem runWord_role (hv : k.illConv c = false) (hr : k.roleOk c.w.role = false) :
    runWord s d k codes body = .next (s.raise c.wi c.sp.num Cause.role 0 c.sp.exec c.pc) := by
  simp only [runWord, hc, hd, ht, hi, hv, hr, Bool.not_true, Bool.not_false, Bool.or_self, Bool.false_eq_true, if_false, if_true,
    Effect.finish]

theorem runWord_hazard (hv : k.illConv c = false) (hr : k.roleOk c.w.role = true) {r : Nat}
    (hf : (codes c).find? (fun r => (c.w.sbOf c.sp.num).contains r) = some r) :
    runWord s d k codes body = .next (s.raise c.wi c.sp.num Cause.hazard r c.sp.exec c.pc) := by
  simp only [runWord, hc, hd, ht, hi, hv, hr, hf, Bool.not_true, Bool.or_self, Bool.false_eq_true, if_false, Effect.finish]

end

end Sys2Proof.Machine

namespace Sys2Proof

open Machine Safety

/-- Settles O9: a word runs in a mould (`exec_moulded`) that looks for the causes in rank order, HAZARD last. -/
theorem pendingRegisterRaisesHazard : Obligations.PendingRegisterRaisesHazard := by
  unfold Obligations.PendingRegisterRaisesHazard
  intro i s c r hw hc hd hr
  obtain ⟨d, body, hdec, he⟩ := exec_moulded i s hw
  have hd := hdec c hd
  dsimp only
  rw [he]
  exact ⟨runWord_illegal hc, fun ht hi => ⟨runWord_illConv hc hd ht hi, runWord_role hc hd ht hi,
    fun hv hl => runWord_hazard hc hd ht hi hv hl hr⟩⟩

end Sys2Proof
end

section
/-! PROOFS. The words whose result travels back over the lanes of ACT (04 R78 to R81, 23 R351, 24 R387, R395, R398). -/

namespace Sys2Proof.Machine

open Safety

/-! ## Results that travel back -/

@[simp] theorem Wave.addFlags_zero (w : Wave) : w.addFlags 0 = w := by simp [Wave.addFlags]

/-- A result on its way, the split gone on: what `Sent` says of it. -/
theorem sent_longResult {s : State} {c : Ctx} (h : s.ctx? = some c) (fl : Flags) (codes : List Nat) (ws : List RegWrite) :
    Sent c s ((longResult c s (c.w.addFlags fl) codes ws).goOn c c.next false)
      [{ n := s.seq, split := c.sp.num, codes := codes, op := .ready ws }] fl := by
  refine ⟨rfl, fun v hv => ?_, _, goOn_setWave s.stamp.2 c _ c.next false, rfl, rfl, rfl, _,
    Wave.split?_modSplit (State.ctx?_split h) fun _ => rfl, rfl, rfl, rfl, rfl⟩
  rw [longResult, State.goOn, State.wave?_modWave_other _ _ _ _ hv, State.wave?_setWave_other _ _ _ _ hv]
  rfl

/-- A word whose body sends a result and gathers flags. -/
theorem wordOf_sent {i : Instr} {k : Checks} {s : State} {c : Ctx} (h : Ready i k s c) {body : Ctx → State → Effect} {fl : Flags}
    {codes : List Nat} {ws : List RegWrite} (hb : body c s = .ok (longResult c s (c.w.addFlags fl) codes ws)) :
    ∃ t, wordOf i k body s = .next t ∧ Sent c s t [{ n := s.seq, split := c.sp.num, codes := codes, op := .ready ws }] fl := by
  rw [wordOf_ready h, hb, Effect.finish]
  exact ⟨_, rfl, sent_longResult h.1 fl codes ws⟩

section
variable {i : Instr} {ty : Nat → Bool} {d : Operand} {s : State} {c : Ctx} {n : Nat} {f : Ctx → Nat → Nat → Word}

theorem longLane_sent (h : Ready i { typeOk := ty } s c) (ha : c.act ≠ 0) :
    ∃ t, longLane i ty d n f s = .next t ∧
      Sent c s t [{ n := s.seq, split := c.sp.num, codes := (upTo n).flatMap fun k => (codesOf 0 (d, .one)).map (· + k)
                    op := .ready (groupWrites d c.act n (f c)) }] 0 :=
  wordOf_sent h (by rw [if_neg ha, Wave.addFlags_zero])

theorem longLane_one_sent (h : Ready i { typeOk := ty } s c) (ha : c.act ≠ 0) :
    ∃ t, longLane i ty d 1 f s = .next t ∧
      Sent c s t [{ n := s.seq, split := c.sp.num, codes := codesOf 0 (d, .one), op := .ready (groupWrites d c.act 1 (f c)) }] 0 := by
  simpa [upTo] using longLane_sent (d := d) (n := 1) (f := f) h ha

theorem longLane_empty (h : Ready i { typeOk := ty } s c) (ha : c.act = 0) :
    ∃ t, longLane i ty d n f s = .next t ∧ Wrote c s t (.int 0) 0 0 (fun _ _ => 0) 0 :=
  wordOf_same h (if_pos ha)

end

/-- REDUCE's types by its operation code, as its own check spells them. -/
theorem ready_reduce {d a : Operand} {k : Fin 16} {s : State} {c : Ctx}
    (h : Ready (.reduce d a (.int k)) { typeOk := if k.val < 3 then tyScan else tyBits } s c) :
    Ready (.reduce d a (.int k)) { typeOk := fun ty => if k.val < 3 then tyScan ty else tyBits ty } s c := by
  simpa only [← ite_apply] using h

/-- A small constant's value as a uniform operand. -/
theorem rawN_int (c : Ctx) (k : Fin 16) : rawN c (.int k) = k.val := by
  have := k.isLt
  simp only [rawN, rawU, rawLane, word, BitVec.toNat_ofNat]
  omega

end Sys2Proof.Machine

namespace Sys2Proof

open Machine Safety

/-- Settles O22: each word's body sends its result (`wordOf_sent`) or, with no lane in ACT, does nothing (`wordOf_same`). -/
theorem crossLaneResults : Obligations.CrossLaneResults := by
  unfold Obligations.CrossLaneResults
  intro d a b s c _
  refine ⟨fun ha => ⟨fun h => ?shfl, fun h => ?shflx, fun h => ?matchLanes, fun h => ?scan, fun k hk h => ?reduce, fun h => ?rebal⟩,
    fun ha i k hi h => ?empty⟩
  case shfl =>
    simp only [exec, execShfl]
    exact longLane_one_sent h ha
  case shflx =>
    simp only [exec, execShflx]
    exact longLane_one_sent h ha
  case matchLanes =>
    simp only [exec, execMatchLanes]
    exact longLane_one_sent h ha
  case scan =>
    simp only [exec, execScan]
    exact wordOf_sent h (if_neg ha)
  case reduce =>
    subst hk
    simp only [exec, execReduce]
    exact wordOf_sent (ready_reduce h) (by rw [if_neg ha, rawN_int]; rfl)
  case rebal =>
    simp only [exec, execRebal]
    exact longLane_sent h ha
  case empty =>
    simp only [List.mem_append, List.mem_cons, List.not_mem_nil, Prod.mk.injEq, or_false] at hi
    rcases hi with (⟨rfl, rfl⟩ | ⟨rfl, rfl⟩ | ⟨rfl, rfl⟩ | ⟨rfl, rfl⟩ | ⟨rfl, rfl⟩) | hi
    · simp only [exec, execShfl]
      exact longLane_empty h ha
    · simp only [exec, execShflx]
      exact longLane_empty h ha
    · simp only [exec, execMatchLanes]
      exact longLane_empty h ha
    · simp only [exec, execScan]
      exact wordOf_same h (if_pos ha)
    · simp only [exec, execRebal]
      exact longLane_empty h ha
    · split at hi
      · simp only [List.mem_singleton, Prod.mk.injEq] at hi
        obtain ⟨rfl, rfl⟩ := hi
        simp only [exec, execReduce]
        exact wordOf_same (ready_reduce h) (if_pos ha)
      · cases hi

end Sys2Proof
end

section
/-! PROOFS. Divergence (04 R70, R72, 22 R307). -/

namespace Sys2Proof.Machine

open Safety

/-! ## Finding a split -/

/-- Changing one split leaves the others to be found as they are. -/
theorem Wave.split?_modSplit_other {w : Wave} {j k : Nat} {f : Split → Split} (h : k ≠ j) (hf : ∀ y, (f y).num = y.num) :
    (w.modSplit j f).split? k = w.split? k := by
  have hn (y : Split) : (if y.num = j then f y else y).num = y.num := by split <;> simp [hf]
  simp only [Wave.split?, Wave.modSplit, List.find?_map, Function.comp_def, hn]
  cases hx : w.splits.find? fun x => x.num == k with
  | none => rfl
  | some x =>
    have : x.num = k := by simpa using List.find?_some hx
    simp [this, h]

theorem length_insertSplit (x : Split) (xs : List Split) : (insertSplit x xs).length = xs.length + 1 := by
  induction xs with
  | nil => rfl
  | cons y ys ih =>
    unfold insertSplit
    split
    · rfl
    · simp only [List.length_cons, ih]

/-- A split of a number that no other has is found where it was inserted, and every other as before. -/
theorem find?_insertSplit {x : Split} {xs : List Split} (h : ∀ y ∈ xs, y.num ≠ x.num) (k : Nat) :
    (insertSplit x xs).find? (fun y => y.num == k) = if x.num = k then some x else xs.find? fun y => y.num == k := by
  induction xs with
  | nil => simp [insertSplit, List.find?_cons]; split <;> simp_all
  | cons y ys ih =>
    have hy := h y List.mem_cons_self
    have ih := ih fun z hz => h z (List.mem_cons_of_mem y hz)
    unfold insertSplit
    split
    · by_cases hk : x.num = k <;> simp [List.find?_cons, hk]
    · by_cases hk : x.num = k
      · have : ¬ y.num = k := fun e => hy (e.trans hk.symm)
        simp [hk, this, ih]
      · simp [List.find?_cons, hk, ih]

/-- A free number is no live split's. -/
theorem Wave.num_ne_of_freeNum {w : Wave} {n : Nat} (h : w.freeNum = some n) : ∀ y ∈ w.splits, y.num ≠ n := by
  intro y hy e
  have hn : n ∉ w.numsInUse := by simpa [Wave.freeNum] using List.find?_some h
  exact hn (List.mem_append_left _ (List.mem_map.mpr ⟨y, hy, e⟩))

theorem Wave.mem_of_split? {w : Wave} {k : Nat} {x : Split} (h : w.split? k = some x) : x ∈ w.splits := List.mem_of_find?_eq_some h

/-! ## BRX's division -/

/-- The entry that a divergent BRX pushes: it holds the split's LIVE and MODE and names the rejoin bundle (04 R72). -/
def brxEntry (c : Ctx) (rejoin : Nat) : Entry :=
  { pc := c.pc, rejoin := rejoin, mask := c.sp.live, mode := c.sp.mode, kind := 0, owner := c.sp.num, cause := 0, prog := 0, orphan := false }

/-- The lanes that BRX takes leave the split. -/
def Split.without (x : Split) (t : Word) : Split := { x with live := x.live &&& ~~~t, exec := x.exec &&& ~~~t }

/-- The wave before its taken lanes are given a place. -/
def Wave.brxPushed (w : Wave) (c : Ctx) (t : Word) (rejoin : Nat) : Wave :=
  (w.push (brxEntry c rejoin)).modSplit c.sp.num fun y => y.without t

section
variable (w : Wave) (c : Ctx) (t : Word) (target rejoin at_ : Nat)

theorem Wave.diverge_none : w.diverge c t target rejoin none at_ =
    (w.brxPushed c t rejoin).push { brxEntry c rejoin with pc := target, mask := t, kind := 1 } := rfl

theorem Wave.diverge_some (n : Nat) : w.diverge c t target rejoin (some n) at_ =
    { w.brxPushed c t rejoin with
      splits := insertSplit (newSplit n (target + 4) t t c.sp.mode (some w.stack.length) at_) (w.brxPushed c t rejoin).splits } := rfl

/-- BRX leaves the registers and the wave's live lanes as they are. -/
theorem Wave.diverge_frame (fresh : Option Nat) : (w.diverge c t target rejoin fresh at_).v = w.v ∧
    (w.diverge c t target rejoin fresh at_).s = w.s ∧ (w.diverge c t target rejoin fresh at_).p = w.p ∧
    (w.diverge c t target rejoin fresh at_).alive = w.alive := by
  cases fresh <;> exact ⟨rfl, rfl, rfl, rfl⟩

end

theorem Wave.brxPushed_split {w : Wave} {c : Ctx} {x : Split} (h : w.split? c.sp.num = some x) (t : Word) (rejoin : Nat) :
    (w.brxPushed c t rejoin).split? c.sp.num = some (x.without t) :=
  Wave.split?_modSplit (w := w.push (brxEntry c rejoin)) h fun _ => rfl

theorem Wave.brxPushed_num_ne {w : Wave} {c : Ctx} {n : Nat} (h : ∀ y ∈ w.splits, y.num ≠ n) (t : Word) (rejoin : Nat) :
    ∀ y ∈ (w.brxPushed c t rejoin).splits, y.num ≠ n := by
  intro y hy
  obtain ⟨z, hz, rfl⟩ := List.mem_map.mp hy
  have := h z hz
  split <;> exact this

/-- The lanes that BRX does not take stay in the issuing split. -/
theorem Wave.diverge_issuer {w : Wave} {c : Ctx} {x : Split} (h : w.split? c.sp.num = some x) (t : Word) (target rejoin at_ : Nat)
    {fresh : Option Nat} (hf : ∀ n, fresh = some n → ∀ y ∈ w.splits, y.num ≠ n) :
    (w.diverge c t target rejoin fresh at_).split? c.sp.num = some (x.without t) := by
  have hx := Wave.brxPushed_split h t rejoin
  cases fresh with
  | none => exact hx
  | some n =>
    have hn := hf n rfl
    have hne : n ≠ c.sp.num := fun e => hn x (Wave.mem_of_split? h) ((Wave.split?_num h).trans e.symm)
    rw [Wave.diverge_some, Wave.split?, find?_insertSplit (Wave.brxPushed_num_ne hn t rejoin), newSplit, if_neg hne]
    exact hx

/-- The lanes that it takes become a split of a free number. -/
theorem Wave.diverge_fresh {w : Wave} {n : Nat} (hn : ∀ y ∈ w.splits, y.num ≠ n) (c : Ctx) (t : Word) (target rejoin at_ : Nat) :
    (w.diverge c t target rejoin (some n) at_).split? n = some (newSplit n (target + 4) t t c.sp.mode (some w.stack.length) at_) := by
  rw [Wave.diverge_some, Wave.split?, find?_insertSplit (Wave.brxPushed_num_ne hn t rejoin), newSplit, if_pos rfl]

/-- The number that a divergent BRX gives its taken lanes. -/
def Wave.brxNum (w : Wave) : Option Nat := if w.splits.length < 4 then w.freeNum else none

theorem Wave.brxNum_free {w : Wave} {n : Nat} (h : w.brxNum = some n) : ∀ y ∈ w.splits, y.num ≠ n := by
  unfold Wave.brxNum at h
  split at h
  · exact Wave.num_ne_of_freeNum h
  · cases h

theorem Wave.brxNum_of_full {w : Wave} (h : (decide (4 ≤ w.splits.length) || w.freeNum.isNone) = true) : w.brxNum = none := by
  unfold Wave.brxNum
  split
  · next hl => simpa [Nat.not_le.mpr hl] using h
  · rfl

/-- The entries that a divergent BRX pushes. -/
theorem Wave.brxPushes_eq (w : Wave) :
    (if w.brxNum.isSome then 1 else 2) = if decide (4 ≤ w.splits.length) || w.freeNum.isNone then 2 else 1 := by
  unfold Wave.brxNum
  split
  · next hl => cases w.freeNum <;> simp [hl]
  · next hl => simp [Nat.not_lt.mp hl]

/-- Lanes of a mask that a part of it excludes. -/
theorem and_not_and_self (x t : Word) : x &&& ~~~(x &&& t) = x &&& ~~~t := by
  ext i hi
  simp only [BitVec.getElem_and, BitVec.getElem_not]
  cases x[i] <;> simp

/-- The body of a BRX whose results have come and both of whose arms have lanes. -/
theorem execBrx_divergent {r : Operand} {off : BitVec 16} {rj : Word} {s : State} {c : Ctx} (h : Ready (.brx r off rj) {} s c)
    (hsb : c.w.sbOf c.sp.num = []) (ht : c.sp.exec &&& rawU c r ≠ 0) (hn : c.sp.exec &&& ~~~(rawU c r) ≠ 0)
    (htgt : targetOf c off < Config.vaEnd) (hrj : targetOf c (rj.setWidth 16) < Config.vaEnd) :
    exec (.brx r off rj) s = .next (Effect.finish c s
      (if 28 < c.w.stack.length + (if c.w.brxNum.isSome then 1 else 2) then .trap Cause.stackOvf 0 c.sp.exec
       else .ok (s.setWave c.wi (c.w.diverge c (c.sp.exec &&& rawU c r) (targetOf c off) (targetOf c (rj.setWidth 16)) c.w.brxNum s.seq)))) := by
  simp only [exec, execBrx]
  rw [wordOf_ready h]
  simp only [hsb, ht, hn, branchTarget_eq, Nat.not_le.mpr htgt, Nat.not_le.mpr hrj, List.isEmpty_nil, Bool.not_true, Bool.false_eq_true,
    if_false, Wave.brxNum]
  rfl

end Sys2Proof.Machine

namespace Sys2Proof

open Machine Safety

/-- Settles O31: by BRX's checks in order; where it divides its split, `Wave.diverge_issuer` and `Wave.diverge_fresh` say which lanes go
where. -/
theorem divergentBranch : Obligations.DivergentBranch := by
  unfold Obligations.DivergentBranch
  intro r off rj s c h
  have hx := State.ctx?_split h.1
  refine ⟨fun hsb => ?waits, fun hsb => ⟨fun ht => ?none, fun ht hn htgt => ?all, fun ht hn htgt hrj => ⟨fun hd => ?full, fun hd => ?divides⟩⟩⟩
  case waits =>
    simp only [exec, execBrx]
    rw [wordOf_ready h, if_pos (by simpa using hsb), Effect.finish]
  case none =>
    simp only [exec, execBrx]
    exact wordOf_same h (by simp only [hsb, ht, List.isEmpty_nil, Bool.not_true, Bool.false_eq_true, if_false, if_true])
  case all =>
    simp only [exec, execBrx]
    exact wordOf_jumped h (by simp only [hsb, ht, hn, branchTarget_eq, List.isEmpty_nil, Bool.not_true, Bool.false_eq_true, if_false, if_true]) htgt
  case full =>
    rw [execBrx_divergent h hsb ht hn htgt hrj, Wave.brxPushes_eq, if_pos hd, Effect.finish]
  case divides =>
    have hfree (n) (e : c.w.brxNum = some n) := Wave.brxNum_free e
    rw [execBrx_divergent h hsb ht hn htgt hrj, Wave.brxPushes_eq, if_neg (Nat.not_lt.mpr hd), Effect.finish]
    refine ⟨_, _, rfl, onlyWave_goOn s c _ _ false, goOn_setWave s c _ _ false,
      ⟨_, Wave.split?_modSplit (Wave.diverge_issuer hx _ _ _ _ hfree) fun _ => rfl, rfl, rfl, and_not_and_self _ _, rfl⟩,
      fun k hl hk => ?fresh, fun hf => ?deferred, ?_⟩
    case fresh =>
      have hb : c.w.brxNum = some k := (if_pos hl).trans hk
      have hne : k ≠ c.sp.num := fun e => hfree k hb _ (Wave.mem_of_split? hx) e.symm
      rw [hb]
      have hy := Wave.diverge_fresh (hfree k hb) c (c.sp.exec &&& rawU c r) (targetOf c off) (targetOf c (rj.setWidth 16)) s.seq
      refine ⟨rfl, _, Eq.trans ?_ hy, rfl, rfl, rfl, rfl, rfl, rfl⟩
      exact Wave.split?_modSplit_other hne fun _ => rfl
    case deferred =>
      rw [Wave.brxNum_of_full hf, Wave.diverge_none]
      refine ⟨?_, rfl⟩
      simp only [Wave.modSplit, Wave.push, Wave.brxPushed, List.length_map]
    exact Wave.diverge_frame c.w c _ _ _ _ _

end Sys2Proof
end

section
/-! PROOFS. JOINW, EXIT and YIELD (04 R67, R73, R74, R77, 22 R322, 24 R418). -/

namespace Sys2Proof.Machine

open Safety

/-! ## Lanes that exit -/

/-- Lanes exit: they leave the wave's live lanes and every stack entry, and LIVE and EXEC of their split, which stays while it has others. -/
theorem Wave.exitLanes_live {w : Wave} {k : Nat} {m : Word} {x : Split} (hx : w.split? k = some x) (hl : x.live &&& ~~~m ≠ 0) :
    w.exitLanes k m = ({ w with alive := w.alive &&& ~~~m, stack := w.stack.map fun e => { e with mask := e.mask &&& ~~~m } } : Wave).modSplit k
      fun y => y.without m := by
  have hs := Wave.split?_modSplit (f := fun y => y.without m)
    (w := { w with alive := w.alive &&& ~~~m, stack := w.stack.map fun e => { e with mask := e.mask &&& ~~~m } }) hx fun _ => rfl
  have hne : (x.live &&& ~~~m == 0) = false := by simpa using hl
  unfold Wave.exitLanes
  rw [if_neg]
  · rfl
  · simp only [Split.without] at hs
    simp only [hs, Option.any_some, hne, Bool.false_eq_true, not_false_iff]

/-! ## Slots -/

@[simp] theorem State.quad_setQuad_self (s : State) (q : Nat) (x : Quad) : (s.setQuad q x).quad q = x := by
  simp [State.quad]

theorem State.quad_setQuad_other (s : State) {q k : Nat} (x : Quad) (h : k ≠ q) : (s.setQuad q x).quad k = s.quad k := by
  simp [State.quad, Table.find_put_other _ _ _ _ h]

theorem State.fillSlot_quad (s : State) (q i : Nat) (e : Nat × Nat) :
    (s.fillSlot q i e).quad q = { s.quad q with slots := setAt (s.quad q).slots i (some e) } := State.quad_setQuad_self s q _

theorem State.fillSlot_quad_other (s : State) {q k : Nat} (i : Nat) (e : Nat × Nat) (h : k ≠ q) : (s.fillSlot q i e).quad k = s.quad k :=
  State.quad_setQuad_other s _ h

/-- A split that gives up its slot is ready from then on. -/
def Split.readied (x : Split) (at_ : Nat) : Split := { x with readyAt := at_ }

/-- The issuing split gone on: it is found at its next PC, and became ready when it did before. -/
theorem goOn_issuer {s : State} {c : Ctx} {w : Wave} {x : Split} (hw : s.wave? c.wi = some w) (hx : w.split? c.sp.num = some x) (pc : Nat)
    (b : Bool) : ∃ v y, (s.goOn c pc b).wave? c.wi = some v ∧ v.split? c.sp.num = some y ∧ y.pc = pc ∧ y.readyAt = x.readyAt := by
  refine ⟨_, _, (State.wave?_modWave_self _ _ _).trans (congrArg _ hw), Wave.split?_modSplit hx fun _ => rfl, ?_, ?_⟩ <;> rfl

/-- YIELD for a split in its slot, where another is pending: the other takes the slot (24 R418). -/
theorem exec_yield {s : State} {c : Ctx} {e : Nat × Nat} {i : Nat} (hc : s.ctx? = some c) (he : s.nextPending c.w.quad = some e)
    (hi : (s.quad c.w.quad).slots.findIdx? (· == some (c.wi, c.sp.num)) = some i) :
    exec .yield s = .next (((s.fillSlot c.w.quad i e).modSplit c.wi c.sp.num fun x => x.readied s.seq).goOn c c.next false) := by
  simp only [exec, execYield, runWord, hc, he, hi, Bool.not_true, Bool.or_self, Bool.false_eq_true, if_false, List.find?_nil, List.any_nil,
    Effect.finish]
  rfl

end Sys2Proof.Machine

namespace Sys2Proof

open Machine Safety

/-- Settles O32: by the checks of JOINW and EXIT in order, what lanes that exit leave (`Wave.exitLanes_live`), and who takes a slot that is
given up (`exec_yield`). -/
theorem joinExitYield : Obligations.JoinExitYield := by
  unfold Obligations.JoinExitYield
  refine ⟨fun a s c h hsb => ⟨fun hin => ?within, fun hout => ?parks⟩, fun s c h hsb hx hk ha => ?exit, fun w k m hl => ?lanes,
    fun s c hc e i he hi => ?yield⟩
  case within =>
    simp only [exec, execJoinw]
    exact wordOf_same h (by simp only [hsb, hin, List.isEmpty_nil, Bool.not_true, Bool.false_eq_true, if_false, if_true])
  case parks =>
    simp only [exec, execJoinw]
    rw [wordOf_ready h]
    simp only [hsb, hout, List.isEmpty_nil, Bool.not_true, Bool.false_eq_true, if_false, Effect.finish]
  case exit =>
    have hp : (if c.w.alive &&& ~~~c.sp.exec = 0 then c.w.preemptArea else none) = none := by
      rcases ha with ha | ha
      · exact if_neg ha
      · rw [ha, ite_self]
    simp only [exec, execExit]
    rw [wordOf_ready h]
    simp only [hsb, hx, hk, hp, List.isEmpty_nil, Option.isSome_none, Bool.not_true, Bool.false_eq_true, false_and, if_false, Effect.finish]
  case lanes =>
    obtain ⟨x, hx, hl⟩ := hl
    rw [Wave.exitLanes_live hx hl]
    refine ⟨rfl, rfl, fun y hy => ?_⟩
    exact Wave.split?_modSplit (w := { w with alive := _, stack := _ }) hy fun _ => rfl
  case yield =>
    have hf : (s.fillSlot c.w.quad i e).wave? c.wi = some c.w := State.ctx?_wave hc
    have hy := Wave.split?_modSplit (f := fun x => x.readied s.seq) (State.ctx?_split hc) fun _ => rfl
    have hw : ((s.fillSlot c.w.quad i e).modSplit c.wi c.sp.num fun x => x.readied s.seq).wave? c.wi = _ :=
      (State.wave?_modWave_self _ _ _).trans (congrArg _ hf)
    obtain ⟨w, x, hgw, hgx, hpc, hr⟩ := goOn_issuer hw hy c.next false
    exact ⟨_, exec_yield hc he hi, congrArg (·.slots) (State.fillSlot_quad s c.w.quad i e), w, x, hgw, hgx, hpc, hr⟩

end Sys2Proof
end

section
/-! PROOFS. The steps of the barrel that leave the reconvergence stack alone: slots, results, trap entry, regrouping, timeouts and clocks
(04 R75 to R82, 05 R105, 18 R246, 23 R355). -/

namespace Sys2Proof.Machine

open Safety

/-! ## What the shared operations of an event leave alone -/

/-- Tidying a wave's slots changes nothing but the slots. -/
theorem State.tidySlots_eq (s : State) (wi : Nat) : ∃ q, s.tidySlots wi = { s with quads := q } := by
  unfold State.tidySlots
  split
  · exact ⟨_, rfl⟩
  · split <;> exact ⟨_, rfl⟩

theorem State.wave?_tidySlots (s : State) (wi v : Nat) : (s.tidySlots wi).wave? v = s.wave? v := by
  obtain ⟨q, h⟩ := s.tidySlots_eq wi
  rw [h]; rfl

theorem State.sameMemory_tidySlots {s t : State} (h : SameMemory s t) (wi : Nat) : SameMemory s (t.tidySlots wi) := by
  obtain ⟨q, hq⟩ := t.tidySlots_eq wi
  rw [hq]; exact h

/-- Withdrawing a wave's waits changes nothing but its block. -/
theorem State.withdraw_eq (s : State) (wi : Nat) : ∃ b, s.withdraw wi = { s with blocks := b } := by
  unfold State.withdraw
  split <;> exact ⟨_, rfl⟩

theorem State.tryTrapEntry_none {s : State} {wi : Nat} {w : Wave} (hw : s.wave? wi = some w) (ht : w.trap = none) :
    s.tryTrapEntry wi = s := by
  simp only [State.tryTrapEntry, hw, ht]

/-! ## Results -/

/-- A register write changes only registers. -/
theorem Wave.apply_rest (w : Wave) (r : RegWrite) : { w.apply r with v := w.v, s := w.s, p := w.p } = w := by
  cases r with
  | v r mask xs => rfl
  | s r x => rfl
  | p r x =>
    simp only [Wave.apply, Wave.writeP]
    split <;> rfl

theorem Wave.foldl_apply_rest (w : Wave) (ws : List RegWrite) : { ws.foldl Wave.apply w with v := w.v, s := w.s, p := w.p } = w := by
  induction ws generalizing w with
  | nil => rfl
  | cons r ws ih =>
    have h := congrArg (fun x : Wave => { x with v := w.v, s := w.s, p := w.p }) (ih (w.apply r))
    exact h.trans (w.apply_rest r)

/-- Register writes leave the pending records, the splits, the stack and a waiting trap. -/
theorem Wave.foldl_apply_frame (w : Wave) (ws : List RegWrite) : (ws.foldl Wave.apply w).pend = w.pend ∧
    (ws.foldl Wave.apply w).splits = w.splits ∧ (ws.foldl Wave.apply w).stack = w.stack ∧ (ws.foldl Wave.apply w).trap = w.trap := by
  have h := congrArg (fun x : Wave => (x.pend, x.splits, x.stack, x.trap)) (w.foldl_apply_rest ws)
  simpa only [Prod.mk.injEq] using h

/-- The wave once the record of a result has been written. -/
def Wave.received (w : Wave) (n : Nat) (ws : List RegWrite) : Wave :=
  { ws.foldl Wave.apply w with pend := w.pend.filter fun q => q.n != n }

/-- A split at its switch marker goes on. -/
def Split.leaveMarker (x : Split) (at_ : Nat) : Split := if x.park = .marker then { x with park := .none, readyAt := at_ } else x

/-- The wave that RESULT_WRITE leaves. -/
def Wave.resultWritten (w : Wave) (n k : Nat) (ws : List RegWrite) (at_ : Nat) : Wave :=
  if (w.received n ws).sbOf k = [] then (w.received n ws).modSplit k fun x => x.leaveMarker at_ else w.received n ws

/-- RESULT_WRITE of a record that is ready, while no trap waits. -/
theorem exec_resultWrite {s : State} {wi n : Nat} {w : Wave} {p : Pend} {ws : List RegWrite} (hw : s.wave? wi = some w) (ht : w.trap = none)
    (hp : w.ready? n = some p) (hop : p.op = .ready ws) :
    exec (.resultWrite wi n) s = .next (s.setWave wi (w.resultWritten n p.split ws s.seq)) := by
  obtain ⟨hpend, -, -, htrap⟩ := w.foldl_apply_frame ws
  simp only [exec, execResultWrite, hw, hp, hop, hpend, List.isEmpty_iff]
  rw [State.tryTrapEntry_none (State.wave?_setWave_self s wi _)]
  · rfl
  · split <;> exact htrap.trans ht

theorem Wave.modSplit_leaveMarker (w : Wave) (k at_ : Nat) : (w.modSplit k fun x => x.leaveMarker at_).splits =
    w.splits.map fun x => if x.num = k ∧ x.park = .marker then { x with park := .none, readyAt := at_ } else x := by
  refine List.map_congr_left fun x _ => ?_
  by_cases hn : x.num = k <;> simp [hn, Split.leaveMarker]

/-- The record is gone, the registers are those written, and the stack is as before. -/
theorem Wave.resultWritten_frame (w : Wave) (n k : Nat) (ws : List RegWrite) (at_ : Nat) :
    (w.resultWritten n k ws at_).pend = w.pend.filter (fun x => x.n != n) ∧ (w.resultWritten n k ws at_).v = (ws.foldl Wave.apply w).v ∧
    (w.resultWritten n k ws at_).s = (ws.foldl Wave.apply w).s ∧ (w.resultWritten n k ws at_).p = (ws.foldl Wave.apply w).p ∧
    (w.resultWritten n k ws at_).stack = w.stack := by
  obtain ⟨-, -, hst, -⟩ := w.foldl_apply_frame ws
  unfold Wave.resultWritten
  split <;> exact ⟨rfl, rfl, rfl, rfl, hst⟩

/-- With the last pending bit of its split a split at its switch marker goes on. -/
theorem Wave.resultWritten_splits (w : Wave) (n k : Nat) (ws : List RegWrite) (at_ : Nat) :
    (w.resultWritten n k ws at_).splits = if (w.resultWritten n k ws at_).sbOf k = [] then w.splits.map fun x =>
      if x.num = k ∧ x.park = .marker then { x with park := .none, readyAt := at_ } else x else w.splits := by
  obtain ⟨-, hsp, -, -⟩ := w.foldl_apply_frame ws
  have hsb : (w.resultWritten n k ws at_).sbOf k = (w.received n ws).sbOf k := by
    unfold Wave.resultWritten
    split <;> rfl
  rw [hsb]
  unfold Wave.resultWritten
  split
  · exact ((w.received n ws).modSplit_leaveMarker k at_).trans (congrArg _ hsp)
  · exact hsp

/-! ## CONVDEAD -/

theorem exec_convdead {s : State} {wi l : Nat} {w : Wave} {x : Split} (hw : s.wave? wi = some w) (he : w.exited = false)
    (ht : w.trap = none) (hp : ∀ y ∈ w.splits, (∃ pos, y.park = .rejoin pos) ∨ ∃ m, y.park = .joinw m) (hs : w.settleOnce s.seq = .none)
    (hl : l < 32) (hx : w.splits.find? (fun y => bit y.live l) = some x) (hlow : ∀ j < l, ∀ y ∈ w.splits, bit y.live j = false) :
    exec (.convdead wi) s = .next (s.raise wi x.num Cause.convDead x.pc x.exec x.pc) := by
  have hne : w.splits.isEmpty = false := by
    cases hsp : w.splits with
    | nil => rw [hsp] at hx; cases hx
    | cons => rfl
  have hstuck : (w.splits.all fun y => (match y.park with | .rejoin _ => true | _ => false) || y.joinWord.isSome) = true := by
    refine List.all_eq_true.mpr fun y hy => ?_
    rcases hp y hy with ⟨pos, h⟩ | ⟨m, h⟩ <;> simp [h, Split.joinWord]
  have hfirst : (lanes.findSome? fun l => w.splits.find? fun y => bit y.live l) = some x := by
    have hlanes : lanes = List.range 32 := rfl
    rw [hlanes, List.findSome?_eq_some_iff]
    refine ⟨List.range l, l, (List.range (31 - l)).map (l + 1 + ·), ?_, hx, fun j hj => ?_⟩
    · have : 32 = l + (1 + (31 - l)) := by omega
      rw [this, List.range_add, List.range_add]
      simp [List.map_map, Function.comp_def, Nat.add_assoc]
    · simpa [List.find?_eq_none] using hlow j (List.mem_range.mp hj)
  simp only [exec, execConvdead, hw, he, hne, ht, hs, hfirst]
  rw [if_neg]
  rw [Option.isSome_none, Bool.false_or, Bool.false_or, Bool.false_or, Bool.not_eq_true', Bool.not_eq_false]
  exact hstuck

/-! ## Trap entry -/

/-- The split is in no wait of 18 R419. -/
def Split.Unwaiting (x : Split) : Prop := ∀ f n m, x.park ≠ .wait f n m

theorem State.mustComplete_unwaiting {x : Split} (h : x.Unwaiting) (s : State) (wi : Nat) (w : Wave) : s.mustComplete wi w x = false := by
  unfold State.mustComplete
  split
  · next f n m hp => exact absurd hp (h f n m)
  · rfl

/-- With no split in a wait, none is met. -/
theorem State.meetWaits_unwaiting {s : State} {wi : Nat} {w : Wave} (hw : s.wave? wi = some w) (h : ∀ x ∈ w.splits, x.Unwaiting)
    (ks : List Nat) : s.meetWaits wi ks = s := by
  unfold State.meetWaits
  induction ks with
  | nil => rfl
  | cons k ks ih =>
    rw [List.foldl_cons]
    simp only [hw]
    split
    · next f n m hp =>
      obtain ⟨x, hx, hxp⟩ := Option.map_eq_some_iff.mp hp
      exact absurd hxp (h x (Wave.mem_of_split? hx) f n m)
    · exact ih

/-- A waiting trap is taken (18 R246). -/
theorem State.tryTrapEntry_enters {s : State} {wi : Nat} {w : Wave} {x : Split} {tr : TrapReq} (hw : s.wave? wi = some w)
    (ht : w.trap = some tr) (hr : w.trapReady = true) (hu : ∀ y ∈ w.splits, y.Unwaiting) (hx : w.split? tr.split = some x)
    (hsp : (s.part w.part).special = false) (hd : w.stack.length + w.splits.length ≤ 32) :
    ∃ b, s.tryTrapEntry wi =
      (({ s with blocks := b } : State).setWave wi (w.enterTrap { tr with pc := tr.framePc x } x s.seq)).tidySlots wi := by
  obtain ⟨b, hb⟩ := s.withdraw_eq wi
  have hwb : ({ s with blocks := b } : State).wave? wi = some w := hw
  have hpb : ({ s with blocks := b } : State).part w.part = s.part w.part := rfl
  have hm : (w.splits.any fun y => s.mustComplete wi w y) = false :=
    List.any_eq_false.mpr fun y hy => by simp [State.mustComplete_unwaiting (hu y hy)]
  refine ⟨b, ?_⟩
  simp only [State.tryTrapEntry, hw, ht, hr, hm, State.meetWaits_unwaiting hw hu, hb, hwb, hpb, hx, hsp, Nat.not_lt.mpr hd, Bool.not_true,
    Bool.false_eq_true, or_self, if_false]

/-! ## MWAIT_TIMEOUT -/

theorem Table.find_drop_self {α : Type} (t : Table α) (i : Nat) : (t.drop i).find i = none := by
  induction t with
  | nil => rfl
  | cons e t ih =>
    by_cases he : e.1 = i
    · have : Table.drop (e :: t) i = Table.drop t i := by simp [Table.drop, he]
      rw [this, ih]
    · have : Table.drop (e :: t) i = e :: Table.drop t i := by simp [Table.drop, he]
      rw [this]
      simp only [Table.find, if_neg (Ne.symm he), ih, ite_self]

/-- The timeout of a parked MWAIT: the register receives 2, the monitor is gone and the split goes on (23 R355). -/
theorem exec_mwaitTimeout {s : State} {wi k t0 tm d next : Nat} {marked : Bool} {w : Wave} {x : Split} (hw : s.wave? wi = some w)
    (hx : w.split? k = some x) (hp : x.park = .wait (.monitor t0 tm d) next marked) (ht : w.trap = none)
    (hst : s.monitorStatus w k t0 tm = some 2) :
    exec (.mwaitTimeout wi k) s = .next ((s.setWave wi { w.writeS d 2 with mons := w.mons.drop k }).endWait wi k next marked) := by
  have hm : (w.split? k).map (fun x : Split => x.park) = some (.wait (.monitor t0 tm d) next marked) := by rw [hx, Option.map_some, hp]
  simp only [exec, execMwaitTimeout, hw, hm, ht, hst, Option.isSome_none, Bool.false_eq_true, ne_eq, not_true_eq_false, or_self, if_false]

/-- A split whose wait is over is found at its next PC; registers and monitors stay. -/
theorem State.endWait_split {s : State} {wi k : Nat} {w : Wave} {x : Split} (hw : s.wave? wi = some w) (hx : w.split? k = some x) (next : Nat)
    (marked : Bool) : ∃ v y, (s.endWait wi k next marked).wave? wi = some v ∧ v.s = w.s ∧ v.mons = w.mons ∧ v.split? k = some y ∧
      y.pc = next := by
  refine ⟨_, _, (State.wave?_modWave_self s wi _).trans (congrArg _ hw), rfl, rfl, Wave.split?_modSplit hx fun _ => rfl, ?_⟩
  rfl

/-! ## Clocks -/

@[simp] theorem State.core_setCore_self (s : State) (c : Nat) (x : Core) : (s.setCore c x).core c = x := by
  simp [State.core]

theorem State.core_setCore_other (s : State) {c k : Nat} (x : Core) (h : k ≠ c) : (s.setCore c x).core k = s.core k := by
  simp [State.core, Table.find_put_other _ _ _ _ h]

theorem exec_coreWake {s : State} {c : Nat} (hg : (s.core c).gated = true) (he : ∃ e ∈ s.waves, e.2.core = c ∧ e.2.exited = false ∧
    e.2.res = .resident ∧ ∃ x ∈ e.2.splits, s.mayIssue e.1 e.2 x = true) :
    exec (.coreWake c) s = .next (s.modCore c fun k => { k with gated := false }) := by
  obtain ⟨e, he, hc, hx, hr, x, hxs, hm⟩ := he
  have hany : (s.waves.any fun e => e.2.core == c && !e.2.exited && e.2.res == .resident &&
      e.2.splits.any fun x => s.mayIssue e.1 e.2 x) = true := by
    refine List.any_eq_true.mpr ⟨e, he, ?_⟩
    simp only [hc, hx, hr, beq_self_eq_true, Bool.not_false, Bool.true_and]
    exact List.any_eq_true.mpr ⟨x, hxs, hm⟩
  simp only [exec, execCoreWake, hg, hany, Bool.not_true, Bool.false_eq_true, if_false, if_true]

end Sys2Proof.Machine
end

section
/-! PROOFS. Arrival at a rejoin (04 R71, R73, R421): which entry completes, which splits it merges, and which lanes go on. -/

namespace Sys2Proof.Machine

open Safety

/-! ## Positions of the stack -/

/-- A position and the entry that stands there, counted from the bottom. -/
theorem Wave.mem_positions {w : Wave} {p : Nat} {e : Entry} : (p, e) ∈ w.positions ↔ w.stack.reverse[p]? = some e := by
  unfold Wave.positions upTo
  rw [List.mem_reverse, List.mem_iff_getElem?]
  constructor
  · rintro ⟨i, h⟩
    obtain ⟨h1, h2⟩ := List.getElem?_zip_eq_some.mp h
    obtain ⟨_, hi⟩ := List.getElem?_eq_some_iff.mp h1
    rw [List.getElem_range] at hi
    subst hi
    exact h2
  · intro h
    have hp := (List.getElem?_eq_some_iff.mp h).1
    exact ⟨p, List.getElem?_zip_eq_some.mpr ⟨List.getElem?_range (by simpa using hp), h⟩⟩

/-- From the top down: the top entry stands at the highest position. -/
theorem Wave.positions_cons {w : Wave} {e : Entry} {st : List Entry} (h : w.stack = e :: st) :
    ∃ below, w.positions = (st.length, e) :: below := by
  refine ⟨((upTo st.length).zip st.reverse).reverse, ?_⟩
  unfold Wave.positions upTo
  rw [h, List.length_cons, List.range_succ, List.reverse_cons, List.zip_append (by simp), List.reverse_append]
  rfl

theorem Wave.map_snd_positions (w : Wave) : w.positions.map (·.2) = w.stack := by
  unfold Wave.positions upTo
  rw [List.map_reverse, List.map_snd_zip (by simp), List.reverse_reverse]

/-- The governing entry is on the stack, of kind 0 or 1. -/
theorem Wave.governing_mem {w : Wave} {k pos : Nat} {g : Entry} (h : w.governing k = some (pos, g)) : (pos, g) ∈ w.positions :=
  List.mem_of_find?_eq_some h

/-! ## Splits found by number -/

theorem Wave.split?_of_mem {w : Wave} {x : Split} (hn : w.splitNums.Nodup) (hx : x ∈ w.splits) : w.split? x.num = some x := by
  cases hf : w.split? x.num with
  | none =>
    have := List.find?_eq_none.mp hf x hx
    simp at this
  | some y =>
    have : y = x := List.inj_on_of_nodup_map hn (Wave.mem_of_split? hf) hx (Wave.split?_num hf)
    rw [this]

theorem Wave.split?_modSplit_map (w : Wave) (j k : Nat) {f : Split → Split} (hf : ∀ y, (f y).num = y.num) :
    (w.modSplit j f).split? k = (w.split? k).map fun x => if k = j then f x else x := by
  by_cases h : k = j
  · subst h
    cases hx : w.split? k with
    | some x => rw [Wave.split?_modSplit hx hf, Option.map_some, if_pos rfl]
    | none =>
      rw [Wave.split?, List.find?_eq_none] at hx
      rw [Option.map_none, Wave.split?, List.find?_eq_none]
      intro y hy
      obtain ⟨z, hz, rfl⟩ := List.mem_map.mp hy
      have := hx z hz
      split <;> simp_all
  · rw [Wave.split?_modSplit_other h hf]
    simp [h]

theorem Wave.splitNums_modSplit (w : Wave) (j : Nat) {f : Split → Split} (hf : ∀ y, (f y).num = y.num) :
    (w.modSplit j f).splitNums = w.splitNums := by
  simp only [Wave.splitNums, Wave.modSplit, List.map_map]
  refine List.map_congr_left fun x _ => ?_
  simp only [Function.comp_def]
  split <;> simp [hf]

/-! ## Popping and changing entries -/

theorem Wave.split?_popAt (w : Wave) (pos k : Nat) :
    (w.popAt pos).split? k = (w.split? k).map fun x => { x with join := joinAfterPop pos x.join, park := x.park.afterPop pos } := by
  simp only [Wave.split?, Wave.popAt, List.find?_map, Function.comp_def]

/-- Popping the top entry leaves the masks of the others. -/
theorem Wave.popAt_top_masks {w : Wave} {pos : Nat} (h : w.stack.length = pos + 1) :
    (w.popAt pos).stack.map (·.mask) = (w.stack.drop 1).map (·.mask) := by
  cases hs : w.stack with
  | nil => rw [hs] at h; cases h
  | cons e st =>
    rw [hs, List.length_cons, Nat.add_right_cancel_iff] at h
    subst h
    simp only [Wave.popAt, hs, List.reverse_cons, List.drop_one, List.tail_cons]
    rw [List.eraseIdx_append_of_length_le (by simp)]
    simp only [List.length_reverse, Nat.sub_self, List.eraseIdx_cons_zero, List.append_nil, List.reverse_reverse, List.map_map]
    refine List.map_congr_left fun g _ => ?_
    simp only [Function.comp_def]
    split <;> rfl

theorem Wave.length_popAt {w : Wave} {pos : Nat} (h : pos < w.stack.length) : (w.popAt pos).stack.length + 1 = w.stack.length := by
  simp only [Wave.popAt, List.length_map, List.length_reverse, List.length_eraseIdx, if_pos h]
  omega

/-- A kind 0 or 1 entry below a popped one stays as it is, where it is. -/
theorem Wave.mem_positions_popAt {w : Wave} {q pos : Nat} {e : Entry} (h : (q, e) ∈ w.positions) (hq : q < pos) (hk : e.kind < 2) :
    (q, e) ∈ (w.popAt pos).positions := by
  rw [Wave.mem_positions] at h ⊢
  simp only [Wave.popAt, ← List.map_reverse, List.reverse_reverse, List.getElem?_map, List.getElem?_eraseIdx_of_lt hq, h, Option.map_some,
    if_pos hk]

theorem Wave.mem_positions_modEntry {w : Wave} {q : Nat} {e : Entry} (h : (q, e) ∈ w.positions) (f : Entry → Entry) :
    (q, f e) ∈ (w.modEntry q f).positions := by
  rw [Wave.mem_positions] at h ⊢
  simp only [Wave.modEntry, List.reverse_reverse, List.getElem?_modify, h, if_true]
  rfl

theorem Wave.length_modEntry (w : Wave) (q : Nat) (f : Entry → Entry) : (w.modEntry q f).stack.length = w.stack.length := by
  simp [Wave.modEntry]

/-! ## Merging splits -/

/-- Two splits with the same lanes, mask, PC and MODE. -/
def Split.Alike (x y : Split) : Prop := y.num = x.num ∧ y.live = x.live ∧ y.exec = x.exec ∧ y.mode = x.mode ∧ y.pc = x.pc

theorem Split.Alike.trans {x y z : Split} (h : x.Alike y) (k : y.Alike z) : x.Alike z := by
  obtain ⟨h1, h2, h3, h4, h5⟩ := h
  obtain ⟨k1, k2, k3, k4, k5⟩ := k
  exact ⟨k1.trans h1, k2.trans h2, k3.trans h3, k4.trans h4, k5.trans h5⟩

theorem Wave.absorb_split?_self (w : Wave) (j k : Nat) : (w.absorb j k).split? k = none := by
  simp [Wave.absorb, Wave.split?, List.find?_eq_none]

theorem Wave.absorb_split?_other (w : Wave) (j : Nat) {i k : Nat} (h : i ≠ k) : (w.absorb j k).split? i =
    (w.split? i).map fun x => if i = j then { x with acq := max x.acq ((w.split? k).elim 0 (·.acq)) } else x := by
  have hm := (w.passEntries k j).split?_modSplit_map j i (f := fun x => { x with acq := max x.acq ((w.split? k).elim 0 (·.acq)) }) fun _ => rfl
  refine Eq.trans ?_ hm
  simp only [Wave.absorb, Wave.split?, List.find?_filter]
  refine congrArg (fun p => List.find? p _) (funext fun x => ?_)
  by_cases hx : x.num = i <;> simp [hx, h]

theorem Wave.absorb_masks (w : Wave) (j k : Nat) : (w.absorb j k).stack.map (·.mask) = w.stack.map (·.mask) := by
  conv => rhs; rw [← w.map_snd_positions]
  simp only [Wave.absorb, Wave.passEntries, Wave.modSplit, List.map_map]
  refine List.map_congr_left fun pe _ => ?_
  simp only [Function.comp_def]
  split <;> rfl

/-- Split j takes in splits one after another. -/
def Wave.absorbAll (w : Wave) (j : Nat) (xs : List Split) : Wave := xs.foldl (fun w x => w.absorb j x.num) w

theorem Wave.absorbAll_masks (w : Wave) (j : Nat) (xs : List Split) : (w.absorbAll j xs).stack.map (·.mask) = w.stack.map (·.mask) := by
  induction xs generalizing w with
  | nil => rfl
  | cons x xs ih => exact (ih (w.absorb j x.num)).trans (w.absorb_masks j x.num)

/-- A split that is not taken in keeps its lanes, mask, PC and MODE. -/
theorem Wave.absorbAll_kept {w : Wave} {i : Nat} {y : Split} (j : Nat) {xs : List Split} (h : ∀ x ∈ xs, i ≠ x.num)
    (hy : w.split? i = some y) : ∃ z, (w.absorbAll j xs).split? i = some z ∧ y.Alike z := by
  induction xs generalizing w y with
  | nil => exact ⟨y, hy, rfl, rfl, rfl, rfl, rfl⟩
  | cons x xs ih =>
    have h1 := w.absorb_split?_other j (h x List.mem_cons_self)
    rw [hy, Option.map_some] at h1
    obtain ⟨z, hz, ha⟩ := ih (fun z hz => h z (List.mem_cons_of_mem x hz)) h1
    refine ⟨z, hz, Split.Alike.trans ?_ ha⟩
    split <;> exact ⟨rfl, rfl, rfl, rfl, rfl⟩

/-- A split that is not there, or is taken in, is not there afterwards. -/
theorem Wave.absorbAll_gone {w : Wave} {i : Nat} (j : Nat) {xs : List Split} (h : w.split? i = none ∨ ∃ x ∈ xs, x.num = i) :
    (w.absorbAll j xs).split? i = none := by
  induction xs generalizing w with
  | nil =>
    rcases h with h | ⟨x, hx, -⟩
    · exact h
    · cases hx
  | cons x xs ih =>
    refine ih ?_
    by_cases hx : i = x.num
    · subst hx
      exact .inl (w.absorb_split?_self j x.num)
    · rcases h with h | ⟨y, hy, hyi⟩
      · exact .inl (by rw [w.absorb_split?_other j hx, h, Option.map_none])
      · rcases List.mem_cons.mp hy with rfl | hy
        · exact absurd hyi.symm hx
        · exact .inr ⟨y, hy, hyi⟩

/-! ## Lanes -/

/-- The lanes of a mask and of splits together. -/
def liveOf (m : Word) (xs : List Split) : Word := xs.foldl (fun m y => m ||| y.live) m

theorem liveOf_bit (m : Word) (xs : List Split) (l : Nat) : bit (liveOf m xs) l = (bit m l || xs.any fun y => bit y.live l) := by
  induction xs generalizing m with
  | nil => simp [liveOf]
  | cons x xs ih =>
    have h := ih (m ||| x.live)
    simp only [liveOf, List.foldl_cons] at h ⊢
    rw [h, List.any_cons, bit, bit, BitVec.getLsbD_or, Bool.or_assoc]
    rfl

/-- One split's lanes and those of the others. -/
theorem liveOf_apart {xs : List Split} {x : Split} (hn : (xs.map (·.num)).Nodup) (hx : x ∈ xs) (m : Word) :
    liveOf (x.live ||| m) (xs.filter fun y => y.num != x.num) = liveOf m xs := by
  refine BitVec.eq_of_getLsbD_eq fun l _ => ?_
  have h1 := liveOf_bit (x.live ||| m) (xs.filter fun y => y.num != x.num) l
  have h2 := liveOf_bit m xs l
  unfold bit at h1 h2
  rw [h1, h2, BitVec.getLsbD_or, Bool.eq_iff_iff]
  simp only [Bool.or_eq_true, List.any_eq_true, List.mem_filter, bne_iff_ne, ne_eq]
  constructor
  · rintro ((h | h) | ⟨y, ⟨hy, -⟩, h⟩)
    · exact .inr ⟨x, hx, h⟩
    · exact .inl h
    · exact .inr ⟨y, hy, h⟩
  · rintro (h | ⟨y, hy, h⟩)
    · exact .inl (.inr h)
    · by_cases hxy : y.num = x.num
      · have : y = x := List.inj_on_of_nodup_map hn hy hx hxy
        subst this
        exact .inl (.inl h)
      · exact .inr ⟨y, ⟨hy, hxy⟩, h⟩

/-- The lanes that an entry holds do not depend on where the splits stand. -/
theorem Wave.held_modSplit (w : Wave) (k pos : Nat) (e : Entry) {f : Split → Split} (hf : ∀ y, (f y).live = y.live) :
    (w.modSplit k f).held pos e = w.held pos e := by
  have hl (y : Split) : (if y.num = k then f y else y).live = y.live := by split <;> simp [hf]
  have hs : (w.modSplit k f).liveSeen pos = w.liveSeen pos := by
    simp only [Wave.liveSeen, Wave.modSplit, List.foldl_map, hl]
    rfl
  unfold Wave.held
  rw [hs]
  rfl

/-! ## Completion of a kind 0 entry -/

/-- The splits that are parked at the rejoin of the entry at a position. -/
def Wave.participants (w : Wave) (pos : Nat) : List Split := w.splits.filter fun y => y.park == .rejoin pos

/-- The split that goes on where an entry completes: the owner, if it takes part. -/
def survivor (parts : List Split) (e : Entry) : Option Split := (parts.find? fun z => z.num == e.owner).or parts.head?

theorem survivor_mem {parts : List Split} {e : Entry} {sv : Split} (h : survivor parts e = some sv) : sv ∈ parts := by
  rcases Option.or_eq_some_iff.mp h with h | ⟨-, h⟩
  · exact List.mem_of_find?_eq_some h
  · exact List.mem_of_head? h

theorem survivor_isSome {parts : List Split} (e : Entry) (h : parts ≠ []) : ∃ sv, survivor parts e = some sv := by
  refine Option.isSome_iff_exists.mp ?_
  cases parts with
  | nil => exact absurd rfl h
  | cons x xs => simp [survivor]

/-- The lanes of the entry at a position: those it holds and those of its participants. -/
def Wave.rejoinLanes (w : Wave) (pos : Nat) (e : Entry) : Word := liveOf (w.held pos e) (w.participants pos)

/-- A split goes on at an entry's rejoin with the entry's lanes. -/
def Split.rejoins (x : Split) (e : Entry) (lanes : Word) (at_ : Nat) : Split := { x.enter e.rejoin at_ with live := lanes, exec := lanes }

/-- The participants but split j. -/
def Wave.merging (w : Wave) (pos j : Nat) : List Split := (w.participants pos).filter fun x => x.num != j

/-- The entry at a position has completed: split j has taken in the other participants and goes on with all the lanes, and the entry is
popped. -/
def Wave.rejoined (w : Wave) (pos : Nat) (e : Entry) (j at_ : Nat) : Wave :=
  ((w.absorbAll j (w.merging pos j)).modSplit j fun x => x.rejoins e (w.rejoinLanes pos e) at_).popAt pos

section
variable {w : Wave} {pos j : Nat} (e : Entry) (at_ : Nat)

theorem Wave.rejoined_split? (k : Nat) : (w.rejoined pos e j at_).split? k =
    ((w.absorbAll j (w.merging pos j)).split? k).map fun x =>
      let y := if k = j then x.rejoins e (w.rejoinLanes pos e) at_ else x
      { y with join := joinAfterPop pos y.join, park := y.park.afterPop pos } := by
  rw [Wave.rejoined, Wave.split?_popAt, Wave.split?_modSplit_map _ _ _ (by intro; rfl), Option.map_map]
  rfl

/-- The survivor goes on with all the lanes, in its own MODE. -/
theorem Wave.rejoined_survivor {x : Split} (hx : w.split? j = some x) : ∃ y, (w.rejoined pos e j at_).split? j = some y ∧
    y.live = w.rejoinLanes pos e ∧ y.exec = w.rejoinLanes pos e ∧ y.mode = x.mode ∧ y.pc = e.rejoin + 4 ∧ y.park = .none := by
  have hj : ∀ y ∈ w.merging pos j, j ≠ y.num := fun y hy e => by simpa [e] using (List.mem_filter.mp hy).2
  obtain ⟨z, hz, -, -, -, hm, -⟩ := Wave.absorbAll_kept j hj hx
  refine ⟨_, by rw [Wave.rejoined_split?, hz, Option.map_some], ?_⟩
  simp only [if_true]
  exact ⟨rfl, rfl, hm, rfl, rfl⟩

/-- The other participants are gone. -/
theorem Wave.rejoined_gone {z : Split} (hz : z ∈ w.participants pos) (hj : z.num ≠ j) : (w.rejoined pos e j at_).split? z.num = none := by
  have hm : z ∈ w.merging pos j := List.mem_filter.mpr ⟨hz, by simpa using hj⟩
  rw [Wave.rejoined_split?, Wave.absorbAll_gone j (.inr ⟨z, hm, rfl⟩), Option.map_none]

/-- A split that does not take part keeps its lanes, mask and PC. -/
theorem Wave.rejoined_other {z : Split} (hz : w.split? z.num = some z) (hp : ∀ p ∈ w.participants pos, p.num ≠ z.num) (hj : z.num ≠ j) :
    ∃ y ∈ (w.rejoined pos e j at_).splits, z.Alike y := by
  obtain ⟨y, hy, ha⟩ := Wave.absorbAll_kept j (fun p hp' => (hp p (List.mem_filter.mp hp').1).symm) hz (xs := w.merging pos j)
  have h := Wave.rejoined_split? (w := w) (pos := pos) (j := j) e at_ z.num
  rw [hy, Option.map_some] at h
  refine ⟨_, Wave.mem_of_split? h, ha.trans ?_⟩
  rw [if_neg hj]
  exact ⟨rfl, rfl, rfl, rfl, rfl⟩

/-- The top entry is popped; the others' masks stay. -/
theorem Wave.rejoined_masks (hs : w.stack.length = pos + 1) :
    (w.rejoined pos e j at_).stack.map (·.mask) = (w.stack.drop 1).map (·.mask) := by
  have hm := w.absorbAll_masks j (w.merging pos j)
  have hl : (w.absorbAll j (w.merging pos j)).stack.length = pos + 1 := by
    rw [← hs, ← List.length_map (f := (·.mask)), hm, List.length_map]
  refine (Wave.popAt_top_masks (w := (w.absorbAll j (w.merging pos j)).modSplit j _) hl).trans ?_
  rw [List.map_drop, List.map_drop]
  exact congrArg (List.drop 1) hm

end

section
variable {w : Wave} {pos : Nat} {e : Entry} (hk : e.kind = 0) (ho : e.orphan = false) (hf : w.frameDepth ≤ pos)
include hk ho hf

theorem Wave.survivor_eq : ((w.participants pos).find? fun x => w.owns x.num pos e).or (w.participants pos).head? =
    survivor (w.participants pos) e := by
  have howns (x : Split) : w.owns x.num pos e = (x.num == e.owner) := by
    simp only [Wave.owns, hk, ho, hf, Nat.zero_lt_two, decide_true, Bool.not_false, Bool.true_and, Bool.and_true]
    exact Bool.beq_comm
  simp only [howns, survivor]

/-- Participants of one MODE, which is also that of the held lanes if there are any: the survivor takes in the others, the entry is
popped, and the survivor goes on with all the lanes. -/
theorem Wave.completeOwned_oneMode {mode : Word} {sv : Split} (at_ : Nat) (hn : ((w.participants pos).map (·.num)).Nodup)
    (hsv : survivor (w.participants pos) e = some sv) (hm : ∀ y ∈ w.participants pos, y.mode = mode)
    (hh : w.held pos e = 0 ∨ e.mode = mode) :
    w.completeOwned pos e (w.participants pos) at_ = .merged (w.rejoined pos e sv.num at_) := by
  have hmem := survivor_mem hsv
  have hsame : ((w.participants pos).filter fun x => x.mode == sv.mode && x.num != sv.num) =
      (w.participants pos).filter fun x => x.num != sv.num := by
    refine List.filter_congr fun x hx => ?_
    simp [hm x hx, hm sv hmem]
  have hapart : ((w.participants pos).filter fun x => x.mode != sv.mode) = [] := by
    refine List.filter_eq_nil_iff.mpr fun x hx => ?_
    simp [hm x hx, hm sv hmem]
  have hfresh : ¬ (w.held pos e ≠ 0 ∧ e.mode ≠ sv.mode) := by
    rintro ⟨h0, h1⟩
    rcases hh with hh | hh
    · exact h0 hh
    · exact h1 (hh.trans (hm sv hmem).symm)
  have hjoins : (if w.held pos e ≠ 0 ∧ e.mode = sv.mode then w.held pos e else 0) = w.held pos e := by
    by_cases h0 : w.held pos e = 0
    · simp [h0]
    · exact if_pos ⟨h0, Decidable.not_not.mp fun h1 => hfresh ⟨h0, h1⟩⟩
  have hlanes := liveOf_apart hn hmem (w.held pos e)
  unfold liveOf at hlanes
  unfold Wave.completeOwned
  rw [Wave.survivor_eq hk ho hf, hsv]
  simp only [hsame, hapart, hjoins, hlanes, if_neg hfresh, Wave.finishOwned, List.foldl_nil]
  split <;> rfl

/-- The entry's condition holds with participants and all its lanes there. -/
theorem Wave.settleEntry_complete (at_ : Nat) (hp : w.participants pos ≠ [])
    (hl : e.mask &&& ~~~(liveOf (w.held pos e) (w.participants pos)) = 0) :
    w.settleEntry at_ (pos, e) = w.completeOwned pos e (w.participants pos) at_ := by
  have hp' : (w.participants pos).isEmpty = false := by simpa using hp
  have hk' : ¬ (e.kind ≠ 0 ∨ pos < w.frameDepth) := by
    rintro (h | h)
    · exact h hk
    · exact absurd hf (Nat.not_le.mpr h)
  unfold liveOf at hl
  unfold Wave.participants at hp' hl ⊢
  unfold Wave.settleEntry
  simp only [if_neg hk', ho, hp', hl, Bool.false_eq_true, if_false, ne_eq, not_true_eq_false, or_self]

end

/-- The topmost entry's condition is looked at first. -/
theorem Wave.settleOnce_top {w u : Wave} {at_ pos : Nat} {g : Entry} (hs : w.stack.length = pos + 1) (hg : (pos, g) ∈ w.positions)
    (h : w.settleEntry at_ (pos, g) = .merged u) : w.settleOnce at_ = .merged u := by
  obtain ⟨e, st, hst⟩ := List.exists_cons_of_length_eq_add_one hs
  obtain ⟨below, hb⟩ := Wave.positions_cons hst
  have hl : st.length = pos := by simpa [hst] using hs
  have hge : g = e := by
    rw [Wave.mem_positions, hst, List.reverse_cons, ← hl] at hg
    simpa using hg.symm
  subst hge
  unfold Wave.settleOnce
  simp only [hb, hl, List.map_cons, h, List.find?_cons]

/-! ## Settling and arriving -/

theorem State.settle_none {s : State} {wi : Nat} {w : Wave} (hw : s.wave? wi = some w) (ht : w.trap = none)
    (h : w.settleOnce s.seq = .none) (n : Nat) : s.settle wi (n + 1) = s.tidySlots wi := by
  simp only [State.settle, hw, ht, h, Option.isSome_none, Bool.false_eq_true, if_false]

theorem State.settle_merged {s : State} {wi : Nat} {w u : Wave} (hw : s.wave? wi = some w) (ht : w.trap = none)
    (h : w.settleOnce s.seq = .merged u) (n : Nat) : s.settle wi (n + 1) = State.settle (s.setWave wi u) wi n := by
  simp only [State.settle, hw, ht, h, Option.isSome_none, Bool.false_eq_true, if_false]

theorem Wave.arriving_trap {w : Wave} {k : Nat} (h : w.arriving k = true) : w.trap = none := by
  unfold Wave.arriving at h
  split at h
  · simp only [Bool.and_eq_true, Option.isNone_iff_eq_none] at h
    exact h.2
  · cases h

/-- A split that has arrived at an entry's rejoin. -/
def Split.arrived (x : Split) (pos rejoin at_ : Nat) : Split := { x.parkAs (.rejoin pos) at_ with pc := rejoin }

/-- A deferred arm is taken (04 R73): its split goes on at the arm with the arm's lanes and MODE, the entry q holds the split's MODE and
the arm's entry is popped. -/
def Wave.takeArm (w : Wave) (k q pos : Nat) (mode : Word) (g : Entry) (at_ : Nat) : Wave :=
  ((w.modEntry q fun y => { y with mode := mode }).popAt pos).modSplit k fun y =>
    { y.enter g.pc at_ with live := g.mask, exec := g.mask, mode := g.mode }

theorem Wave.takeArm_split {w : Wave} {k : Nat} {x : Split} (hx : w.split? k = some x) (q pos : Nat) (mode : Word) (g : Entry) (at_ : Nat) :
    ∃ y, (w.takeArm k q pos mode g at_).split? k = some y ∧ y.live = g.mask ∧ y.exec = g.mask ∧ y.mode = g.mode ∧ y.pc = g.pc + 4 ∧
      y.park = .none := by
  have hp : ((w.modEntry q fun y => { y with mode := mode }).popAt pos).split? k = _ :=
    (Wave.split?_popAt _ pos k).trans (congrArg (Option.map _) hx)
  refine ⟨_, Wave.split?_modSplit hp fun _ => rfl, ?_, ?_, ?_, ?_, ?_⟩ <;> rfl

/-- One entry fewer stands on the stack. -/
theorem Wave.takeArm_depth {w : Wave} {pos : Nat} {g : Entry} (hg : (pos, g) ∈ w.positions) (k q : Nat) (mode : Word) (at_ : Nat) :
    (w.takeArm k q pos mode g at_).stack.length + 1 = w.stack.length := by
  have hp : pos < w.stack.length := by
    simpa using (List.getElem?_eq_some_iff.mp (Wave.mem_positions.mp hg)).1
  have hl := w.length_modEntry q fun y => { y with mode := mode }
  exact (Wave.length_popAt (hl ▸ hp)).trans hl

/-- The kind 0 entry that a deferred arm's split owns beneath the arm. -/
def Wave.pushedBelow (w : Wave) (k pos : Nat) : Option (Nat × Entry) :=
  w.positions.find? fun pe => decide (pe.1 < pos) && pe.2.kind == 0 && w.owns k pe.1 pe.2

/-- The entry beneath the arm stays where it is, with the MODE of the split that took the arm. -/
theorem Wave.takeArm_holds {w : Wave} {k pos q : Nat} {e : Entry} (h : w.pushedBelow k pos = some (q, e)) (mode : Word) (g : Entry) (at_ : Nat) :
    (q, { e with mode := mode }) ∈ (w.takeArm k q pos mode g at_).positions := by
  have hp := List.find?_some h
  simp only [Bool.and_eq_true, decide_eq_true_eq, beq_iff_eq] at hp
  obtain ⟨⟨hq, hk⟩, -⟩ := hp
  have hm := Wave.mem_positions_modEntry (List.mem_of_find?_eq_some h) fun y => { y with mode := mode }
  have hk' : ({ e with mode := mode } : Entry).kind < 2 := by
    rw [show ({ e with mode := mode } : Entry).kind = 0 from hk]
    decide
  exact Wave.mem_positions_popAt hm hq hk'

section
variable {s : State} {wi k pos : Nat} {w : Wave} {x : Split} {g : Entry} (hw : s.wave? wi = some w) (hx : w.split? k = some x)
  (hg : w.governing k = some (pos, g))
include hw hx hg

theorem State.arrive_rejoin (hk : g.kind = 0) (n : Nat) :
    s.arrive wi k (n + 1) = State.settle (s.setWave wi (w.modSplit k fun y => y.arrived pos g.rejoin s.seq)) wi 64 := by
  simp only [State.arrive, hw, hx, hg, hk, if_true]
  rfl

variable {q : Nat} {e : Entry} (hk : g.kind = 1) (he : w.pushedBelow k pos = some (q, e))
include hk he

theorem State.arrive_arm_illConv (hl : x.live &&& ~~~e.mask ≠ 0) (n : Nat) :
    s.arrive wi k (n + 1) = s.raise wi k Cause.illConv 0 x.exec g.rejoin := by
  unfold Wave.pushedBelow at he
  simp only [State.arrive, hw, hx, hg, hk, he, Nat.one_ne_zero, if_false, if_pos hl]

theorem State.arrive_arm (hl : x.live &&& ~~~e.mask = 0) (hm : g.mask ≠ 0) (n : Nat) :
    s.arrive wi k (n + 1) = s.setWave wi (w.takeArm k q pos x.mode g s.seq) := by
  unfold Wave.pushedBelow at he
  simp only [State.arrive, hw, hx, hg, hk, he, hl, hm, Nat.one_ne_zero, ne_eq, not_true_eq_false, if_false]
  rfl

end

/-! ## An arrival that completes its entry -/

/-- The wave with a split that has arrived at an entry's rejoin. -/
def Wave.arrivedAt (w : Wave) (k pos rejoin at_ : Nat) : Wave := w.modSplit k fun y => y.arrived pos rejoin at_

section
variable {w : Wave} {k : Nat} {x : Split} (hx : w.split? k = some x) (pos rejoin at_ : Nat)
include hx

/-- The split that has arrived takes part. -/
theorem Wave.arrived_mem : x.arrived pos rejoin at_ ∈ (w.arrivedAt k pos rejoin at_).participants pos :=
  List.mem_filter.mpr ⟨Wave.mem_of_split? (Wave.split?_modSplit hx fun _ => rfl), beq_self_eq_true _⟩

/-- A split that does not take part is where it was. -/
theorem Wave.arrivedAt_other {z : Split} (hn : w.splitNums.Nodup) (hz : z ∈ w.splits)
    (hp : ∀ p ∈ (w.arrivedAt k pos rejoin at_).participants pos, p.num ≠ z.num) : (w.arrivedAt k pos rejoin at_).split? z.num = some z := by
  have hk : z.num ≠ k := fun e => hp _ (Wave.arrived_mem hx pos rejoin at_) ((Wave.split?_num hx).trans e.symm)
  exact (Wave.split?_modSplit_other (f := fun y => y.arrived pos rejoin at_) hk fun _ => rfl).trans (Wave.split?_of_mem hn hz)

end

theorem Wave.rejoinLanes_arrivedAt (w : Wave) (k pos at_ : Nat) (g : Entry) : (w.arrivedAt k pos g.rejoin at_).rejoinLanes pos g =
    liveOf (w.held pos g) ((w.arrivedAt k pos g.rejoin at_).participants pos) := by
  rw [Wave.rejoinLanes, Wave.arrivedAt, Wave.held_modSplit _ _ _ _ (by intro; rfl)]

/-- The participants of an entry have different numbers. -/
theorem Wave.participants_nodup {w : Wave} (hn : w.splitNums.Nodup) (pos : Nat) : ((w.participants pos).map (·.num)).Nodup :=
  hn.sublist (List.filter_sublist.map _)

theorem Wave.splitNums_arrivedAt (w : Wave) (k pos rejoin at_ : Nat) : (w.arrivedAt k pos rejoin at_).splitNums = w.splitNums :=
  w.splitNums_modSplit k fun _ => rfl

/-- With the last lanes of the topmost entry, of one MODE, the entry completes. -/
theorem State.arrive_completes {s : State} {wi k pos : Nat} {w : Wave} {x : Split} {g : Entry} (hw : s.wave? wi = some w)
    (ht : w.trap = none) (hx : w.split? k = some x) (hg : w.governing k = some (pos, g)) (hn : w.splitNums.Nodup) (hk : g.kind = 0)
    (ho : g.orphan = false) (hf : w.frameDepth ≤ pos) (hl : w.stack.length = pos + 1)
    (hm : ∀ y ∈ (w.arrivedAt k pos g.rejoin s.seq).participants pos, y.mode = x.mode) (hh : w.held pos g = 0 ∨ g.mode = x.mode)
    (hmask : g.mask &&& ~~~((w.arrivedAt k pos g.rejoin s.seq).rejoinLanes pos g) = 0) (n : Nat) :
    ∃ sv, survivor ((w.arrivedAt k pos g.rejoin s.seq).participants pos) g = some sv ∧ s.arrive wi k (n + 1) =
      State.settle ((s.setWave wi (w.arrivedAt k pos g.rejoin s.seq)).setWave wi
        ((w.arrivedAt k pos g.rejoin s.seq).rejoined pos g sv.num s.seq)) wi 63 := by
  have hne : (w.arrivedAt k pos g.rejoin s.seq).participants pos ≠ [] := List.ne_nil_of_mem (Wave.arrived_mem hx pos g.rejoin s.seq)
  have hnod := Wave.participants_nodup (w.splitNums_arrivedAt k pos g.rejoin s.seq ▸ hn) pos
  have hheld : (w.arrivedAt k pos g.rejoin s.seq).held pos g = w.held pos g := w.held_modSplit k pos g fun _ => rfl
  obtain ⟨sv, hsv⟩ := survivor_isSome g hne
  have hpos : (pos, g) ∈ (w.arrivedAt k pos g.rejoin s.seq).positions :=
    Wave.governing_mem (w := w) hg
  have hcond := Wave.settleEntry_complete (w := w.arrivedAt k pos g.rejoin s.seq) hk ho hf s.seq hne hmask
  have hmerge := Wave.completeOwned_oneMode (w := w.arrivedAt k pos g.rejoin s.seq) hk ho hf s.seq hnod hsv hm (by rwa [hheld])
  have htop := Wave.settleOnce_top (w := w.arrivedAt k pos g.rejoin s.seq) hl hpos (hcond.trans hmerge)
  refine ⟨sv, hsv, (State.arrive_rejoin hw hx hg hk n).trans ?_⟩
  exact State.settle_merged (State.wave?_setWave_self s wi (w.arrivedAt k pos g.rejoin s.seq)) ht htop 63

theorem exec_rejoinArrival {s : State} {wi k : Nat} {w : Wave} (hw : s.wave? wi = some w) (ha : w.arriving k = true)
    (hr : s.waveRuns w = true) (hb : s.heldBack wi w k = false) : exec (.rejoinArrival wi k) s = .next (s.arrive wi k 8) := by
  simp only [exec, execRejoinArrival, hw, ha, hr, hb, Bool.not_false, Bool.and_self, if_true]

end Sys2Proof.Machine
end

section
/-! PROOFS. The steps of the barrel, clause by clause (04 R71 to R82, 05 R105, 18 R246, 23 R355). -/

namespace Sys2Proof

open Machine Safety

/-- Settles O52: slots and clocks by their definitions; results, CONVDEAD and trap entry by the lemma that says what each event does; an
arrival by what the completion of the topmost entry leaves (`Wave.completeOwned_oneMode`, `Wave.rejoined_survivor`) or by the arm that is
taken (`State.arrive_arm`). -/
theorem pipelineEvents : Obligations.PipelineEvents := by
  unfold Obligations.PipelineEvents
  refine ⟨fun s q i e he hi => ?swap, fun s wi n w p ws hw ht hp hop => ?result, fun s wi k w hw ha hr hb => exec_rejoinArrival hw ha hr hb,
    fun s wi k pos w x g hw ha hr hb hx hg hn => ⟨fun hk hs => ?parks, fun hk ho hf hl hm hh hmask => ?completes, fun q e hk hq => ?arm⟩,
    fun s wi l w x hw he ht hp hs hl hx hlow => exec_convdead hw he ht hp hs hl hx hlow,
    fun s wi w x tr hw ht hr hu hx hsp hd => ?trap, fun s b tag bk g hb hg hnext => ?regroup,
    fun s wi k t0 tm d next marked w x hw hx hp ht hst => ?timeout, fun s c => ⟨fun hc hg => ?gate, fun hg he => ?wake⟩⟩
  case swap =>
    simp only [exec, execSplitSwap, he, hi]
    exact ⟨_, rfl, congrArg (·.slots) (s.fillSlot_quad q i e), congrArg (·.mxq) (s.fillSlot_quad q i e),
      fun k hk => s.fillSlot_quad_other i e hk, rfl⟩
  case result =>
    obtain ⟨hpend, hv, hs, hp', hst⟩ := w.resultWritten_frame n p.split ws s.seq
    exact ⟨_, _, exec_resultWrite hw ht hp hop, State.wave?_setWave_self s wi _, hpend, hv, hs, hp', hst,
      ⟨rfl, rfl, rfl, rfl, rfl, rfl, rfl⟩, w.resultWritten_splits n p.split ws s.seq⟩
  case parks =>
    have ht := Wave.arriving_trap ha
    refine ⟨_, (exec_rejoinArrival hw ha hr hb).trans (congrArg _ (State.arrive_rejoin hw hx hg hk 7)), ?_⟩
    have hset := State.settle_none (State.wave?_setWave_self s wi (w.modSplit k fun y => y.arrived pos g.rejoin s.seq)) ht hs 63
    rw [hset, State.wave?_tidySlots]
    exact State.wave?_setWave_self s wi _
  case completes =>
    have hlanes := w.rejoinLanes_arrivedAt k pos s.seq g
    have hn1 := w.splitNums_arrivedAt k pos g.rejoin s.seq ▸ hn
    obtain ⟨sv, hsv, hset⟩ := State.arrive_completes hw (Wave.arriving_trap ha) hx hg hn hk ho hf hl hm hh (hlanes ▸ hmask) 7
    have hmem := survivor_mem hsv
    obtain ⟨y, hy, hlive, hexec, hmode, hpc, hpark⟩ :=
      Wave.rejoined_survivor (pos := pos) g s.seq (Wave.split?_of_mem hn1 (List.mem_filter.mp hmem).1)
    refine ⟨sv, _, y, hsv, (exec_rejoinArrival hw ha hr hb).trans (congrArg _ hset), hy, hlive.trans hlanes, hexec.trans hlanes,
      hmode.trans (hm sv hmem), hpc, hpark, fun z hz hj => Wave.rejoined_gone g s.seq hz hj,
      Wave.rejoined_masks (w := w.arrivedAt k pos g.rejoin s.seq) g s.seq hl, fun z hz hp => ?_⟩
    obtain ⟨z', hz', hnum, hlive', hexec', -, hpc'⟩ :=
      Wave.rejoined_other g s.seq (Wave.arrivedAt_other hx pos g.rejoin s.seq hn hz hp) hp (hp sv hmem).symm
    exact ⟨z', hz', hnum, hlive', hexec', hpc'⟩
  case arm =>
    refine ⟨fun hl => ?illConv, fun hl hm => ?taken⟩
    case illConv => rw [exec_rejoinArrival hw ha hr hb, State.arrive_arm_illConv hw hx hg hk hq hl]
    case taken =>
      obtain ⟨y, hy, hlive, hexec, hmode, hpc, hpark⟩ := Wave.takeArm_split hx q pos x.mode g s.seq
      exact ⟨_, _, y, (exec_rejoinArrival hw ha hr hb).trans (congrArg _ (State.arrive_arm hw hx hg hk hq hl hm 7)),
        State.wave?_setWave_self s wi _, hy, hlive, hexec, hmode, hpc, hpark, Wave.takeArm_depth (Wave.governing_mem hg) k q x.mode s.seq,
        Wave.takeArm_holds hq x.mode g s.seq⟩
  case trap =>
    obtain ⟨b, h⟩ := State.tryTrapEntry_enters hw ht hr hu hx hsp hd
    refine ⟨_, rfl, ?_, ?_⟩
    · rw [State.wave?_tidySlots, h, State.wave?_tidySlots]
      exact State.wave?_setWave_self _ wi _
    · refine State.sameMemory_tidySlots ?_ wi
      rw [h]
      exact State.sameMemory_tidySlots ⟨rfl, rfl, rfl, rfl, rfl, rfl, rfl⟩ wi
  case regroup =>
    have hall : (g.waves.any fun wi => (s.groupNext tag wi).isNone) = false :=
      List.any_eq_false.mpr fun wi hwi => by simpa using Option.isSome_iff_ne_none.mp (hnext wi hwi)
    simp only [exec, execRegroupResume, hb, hg, hall, Bool.false_eq_true, if_false, beq_true, beq_false]
  case timeout =>
    have hw1 := State.wave?_setWave_self s wi { w.writeS d 2 with mons := w.mons.drop k }
    obtain ⟨v, y, hv, hs, hmons, hy, hpc⟩ := State.endWait_split (x := x) hw1 hx next marked
    exact ⟨_, v, y, exec_mwaitTimeout hw hx hp ht hst, hv, hs, hmons ▸ w.mons.find_drop_self k, hy, hpc, ⟨rfl, rfl, rfl, rfl, rfl, rfl, rfl⟩⟩
  case gate =>
    simp only [exec, execCoreClockGate, Nat.not_le.mpr hc, hg, Bool.not_true, Bool.false_eq_true, or_self, if_false]
    exact ⟨_, rfl, s.core_setCore_self c _, fun k hk => s.core_setCore_other _ hk⟩
  case wake => exact ⟨_, exec_coreWake hg he, s.core_setCore_self c _, fun k hk => s.core_setCore_other _ hk⟩

end Sys2Proof
end

section
/-! PROOFS. What the words of the rings, barriers and handles share: a word that acts once, a wait of 18 R419, an acquire within the block,
and the records of a block. -/

namespace Sys2Proof.Machine

open Safety

/-! ## Tables and lists -/

theorem Table.modify_modify {α : Type} (t : Table α) (i : Nat) (f g : α → α) :
    (t.modify i f).modify i g = t.modify i fun x => g (f x) := by
  unfold Table.modify
  rw [List.map_map]
  refine List.map_congr_left fun e _ => ?_
  by_cases he : e.1 = i <;> simp [he]

theorem setAt_eq_set {α : Type} (xs : List α) (i : Nat) (y : α) : setAt xs i y = xs.set i y := by
  induction xs generalizing i with
  | nil => rfl
  | cons x xs ih =>
    cases i with
    | zero => rfl
    | succ i => exact congrArg (x :: ·) (ih i)

/-! ## Blocks -/

@[simp] theorem State.block?_modBlock_self (s : State) (b : Nat) (f : Block → Block) : (s.modBlock b f).block? b = (s.block? b).map f := by
  simp [State.block?]

theorem State.block?_modBlock_other (s : State) {b k : Nat} (f : Block → Block) (h : k ≠ b) : (s.modBlock b f).block? k = s.block? k := by
  simp [State.block?, Table.find_modify_other _ _ _ _ h]

@[simp] theorem State.block?_modWave (s : State) (wi b : Nat) (f : Wave → Wave) : (s.modWave wi f).block? b = s.block? b := rfl

@[simp] theorem State.block?_modSplit (s : State) (wi k b : Nat) (f : Split → Split) : (s.modSplit wi k f).block? b = s.block? b := rfl

@[simp] theorem State.block?_unmark (s : State) (wi b : Nat) : (s.unmark wi).block? b = s.block? b := rfl

@[simp] theorem State.block?_goOn (s : State) (c : Ctx) (pc b : Nat) (br : Bool) : (s.goOn c pc br).block? b = s.block? b := rfl

@[simp] theorem State.unmark_seq (s : State) (wi : Nat) : (s.unmark wi).seq = s.seq := rfl

/-- A state with the waves and the blocks of another. -/
def State.withUnits (u s : State) : State := { u with waves := s.waves, blocks := s.blocks }

section
variable (u s : State)

@[simp] theorem State.withUnits_self : s.withUnits s = s := rfl
@[simp] theorem State.withUnits_modWave (wi : Nat) (f : Wave → Wave) : (u.modWave wi f).withUnits s = u.withUnits s := rfl
@[simp] theorem State.withUnits_unmark (wi : Nat) : (u.unmark wi).withUnits s = u.withUnits s := rfl
@[simp] theorem State.withUnits_modBlock (b : Nat) (f : Block → Block) : (u.modBlock b f).withUnits s = u.withUnits s := rfl
@[simp] theorem State.withUnits_goOn (c : Ctx) (pc : Nat) (b : Bool) : (u.goOn c pc b).withUnits s = u.withUnits s := rfl

end

/-! ## A word that acts once (22 R289) -/

/-- A uniform word that nothing refuses does what its body says where ACT has a lane. -/
theorem uniformWord_ready {i : Instr} {k : Checks} {s : State} {c : Ctx} (h : Ready i k s c) (ha : c.act ≠ 0)
    (body : Ctx → State → Effect) :
    uniformWord i k body s = .next ((body c s).finish c s) := by
  rw [uniformWord, wordOf_ready h, if_neg ha]

/-! ## Going on after changes elsewhere -/

theorem State.wave?_unmark {s : State} {c : Ctx} (h : s.ctx? = some c) : (s.unmark c.wi).wave? c.wi = some c.w.unmark :=
  (State.wave?_modWave_self s c.wi _).trans (congrArg _ (State.ctx?_wave h))

theorem State.wave?_modSplit {s : State} {wi : Nat} {w : Wave} (h : s.wave? wi = some w) (k : Nat) (f : Split → Split) :
    (s.modSplit wi k f).wave? wi = some (w.modSplit k f) :=
  (State.wave?_modWave_self s wi _).trans (congrArg _ h)

section
variable {s u : State} {c : Ctx} {w : Wave} (hw : u.wave? c.wi = some w) (hsp : w.splits = c.w.splits) (hq : u.seq = s.seq)
include hw

/-- The issuing wave after going on. -/
theorem State.wave?_goOn (pc : Nat) (b : Bool) : (u.goOn c pc b).wave? c.wi = some (w.modSplit c.sp.num fun x =>
    { x.goTo pc with park := w.marker c.marked c.sp.num, parkedAt := u.seq, entered := if b then none else x.entered }) := by
  simp [State.goOn, hw]

include hsp hq

/-- The issuing wave has gone on from the state that the word has left: its splits are those of before, the issuing one at its next PC. -/
theorem wentOn_goOn : ∃ v, (u.goOn c c.next false).wave? c.wi = some v ∧ { v with splits := c.w.splits } = w ∧
    WentOn c s v c.next false := by
  refine ⟨_, State.wave?_goOn hw c.next false, ?_, ?_⟩
  · rw [← hsp]; rfl
  · simp only [WentOn, Wave.modSplit, hsp, hq]
    rfl

end

theorem State.wave?_goOn_other (u : State) {c : Ctx} {v : Nat} (hv : v ≠ c.wi) (pc : Nat) (b : Bool) :
    (u.goOn c pc b).wave? v = u.wave? v := State.wave?_modWave_other _ _ _ _ hv

theorem onlyWave_modWave (s : State) (c : Ctx) (f : Wave → Wave) : OnlyWave c s (s.modWave c.wi f) :=
  ⟨fun _ hv => State.wave?_modWave_other _ _ _ _ hv, rfl⟩

/-- Going on changes only the issuing wave. -/
theorem onlyWave_goOn_of {c : Ctx} {s u : State} (h : OnlyWave c s u) (pc : Nat) (b : Bool) : OnlyWave c s (u.goOn c pc b) := by
  obtain ⟨hothers, hrest⟩ := h
  exact ⟨fun v hv => (u.wave?_goOn_other hv pc b).trans (hothers v hv), hrest⟩

/-- What a wave has received does not depend on its splits. -/
theorem received_of_splits {w0 w v : Wave} {d : Operand} {mask : Word} {n : Nat} {f : Nat → Nat → Word} {fl : Flags} {xs : List Split}
    (h : Received w0 w d mask n f fl) (hv : { v with splits := xs } = { w with splits := xs }) : Received w0 v d mask n f fl := by
  have e : v = { w with splits := v.splits } := congrArg (fun x : Wave => { x with splits := v.splits }) hv
  obtain ⟨hvec, hscal, hflags, hrest⟩ := h
  rw [e]
  exact ⟨hvec, hscal, hflags, hrest⟩

section
variable {s u : State} {c : Ctx} {w : Wave} (hw : u.wave? c.wi = some w) (hsp : w.splits = c.w.splits)
include hw hsp

/-- A word that leaves its wave as w and all else as it is. -/
theorem leftWave_goOn (ho : OnlyWave c s u) : LeftWave c s (u.goOn c c.next false) w := by
  have hq : u.seq = s.seq := by
    have h := congrArg State.seq ho.2
    exact h
  obtain ⟨v, hv, hsame, hon⟩ := wentOn_goOn hw hsp hq
  exact ⟨onlyWave_goOn_of ho _ _, v, hv, by rw [hsame, ← hsp], hon⟩

variable {w0 : Wave} {d : Operand} {n : Nat} {f : Nat → Nat → Word}

/-- A word that writes a register group of its wave and leaves the other waves as they are. -/
theorem took_goOn (ho : ∀ v, v ≠ c.wi → u.wave? v = s.wave? v) (hq : u.seq = s.seq) (hr : Received w0 w d c.act n f 0) :
    Took c s (u.goOn c c.next false) w0 d n f := by
  obtain ⟨v, hv, hsame, hon⟩ := wentOn_goOn hw hsp hq
  refine ⟨fun k hk => (u.wave?_goOn_other hk _ _).trans (ho k hk), v, hv, received_of_splits (xs := c.w.splits) hr ?_, hon⟩
  rw [hsame, ← hsp]

end

/-- A group written in the issuing wave, its split gone on. -/
theorem wrote_modWave {s : State} {c : Ctx} (h : s.ctx? = some c) (d : Operand) (n : Nat) (f : Nat → Nat → Word) :
    Wrote c s ((s.modWave c.wi fun w => w.writeGroup d c.act n f).goOn c c.next false) d c.act n f 0 := by
  have hw := (State.wave?_modWave_self s c.wi fun w => w.writeGroup d c.act n f).trans (congrArg _ (State.ctx?_wave h))
  have hsp := c.w.writeGroup_splits d c.act n f
  have ho := onlyWave_modWave s c fun w => w.writeGroup d c.act n f
  obtain ⟨-, v, hv, hr, hon⟩ := took_goOn hw hsp ho.1 rfl (c.w.writeGroup_received' d c.act n f)
  exact ⟨onlyWave_goOn_of ho _ _, v, hv, hr, hon⟩

/-- A value written to D in a wave that is marked no more, its block changed, its split gone on. -/
theorem tookB_goOn {s : State} {c : Ctx} {bk : Block} (h : s.ctx? = some c) (hb : s.block? c.w.block = some bk) (g : Block → Block)
    (d : Operand) (v : Word) :
    TookB c s ((((s.unmark c.wi).modBlock c.w.block g).modWave c.wi fun w => w.writeGroup d c.act 1 fun _ _ => v).goOn c c.next false)
      d v (g bk) := by
  have hu : ((s.unmark c.wi).modBlock c.w.block g).wave? c.wi = some c.w.unmark := State.wave?_unmark h
  have hw := (State.wave?_modWave_self _ c.wi fun w => w.writeGroup d c.act 1 fun _ _ => v).trans (congrArg _ hu)
  have ho (k : Nat) (hk : k ≠ c.wi) : (((s.unmark c.wi).modBlock c.w.block g).modWave c.wi fun w =>
      w.writeGroup d c.act 1 fun _ _ => v).wave? k = s.wave? k := by
    rw [State.wave?_modWave_other _ _ _ _ hk]
    exact State.wave?_modWave_other s _ _ _ hk
  have htook := took_goOn (s := s) hw (Wave.writeGroup_splits _ _ _ _ _) ho (by simp) (c.w.unmark.writeGroup_received' d c.act 1 _)
  have hrest : State.withUnits ((((s.unmark c.wi).modBlock c.w.block g).modWave c.wi fun w =>
      w.writeGroup d c.act 1 fun _ _ => v).goOn c c.next false) s = s := by simp
  refine ⟨htook, hrest, ?_, fun k hk => ?_⟩
  · rw [State.block?_goOn, State.block?_modWave, State.block?_modBlock_self, State.block?_unmark, hb, Option.map_some]
  · rw [State.block?_goOn, State.block?_modWave, State.block?_modBlock_other _ _ hk, State.block?_unmark]

/-! ## Waits (18 R419) -/

/-- The issuing split parked at its word in a wait. -/
def State.parkedIn (s : State) (c : Ctx) (f : WaitFor) : State :=
  s.modSplit c.wi c.sp.num fun x => { x.parkAs (.wait f c.next c.marked) s.seq with pc := c.pc }

theorem Effect.finish_park (c : Ctx) (s u : State) (f : WaitFor) : (Effect.park u f).finish c s = u.parkedIn c f := rfl

@[simp] theorem State.block?_parkedIn (s : State) (c : Ctx) (f : WaitFor) (b : Nat) : (s.parkedIn c f).block? b = s.block? b := rfl

theorem parkChecked_eq (c : Ctx) (u : State) (f : WaitFor) : parkChecked c u f = .done ((u.parkedIn c f).checkDeadlock c.w.block) := rfl

/-- A split that is parked in a wait waits there at its own PC. -/
theorem waits_parkedIn {u : State} {c : Ctx} {w : Wave} {x : Split} (hw : u.wave? c.wi = some w) (hx : w.split? c.sp.num = some x)
    (f : WaitFor) : Waits c (u.parkedIn c f) f :=
  ⟨_, _, State.wave?_modSplit hw _ _, Wave.split?_modSplit hx fun _ => rfl, rfl, rfl⟩

/-! ## An acquire within the block (08 Table 8.4) -/

/-- An acquire at block scope drops no copy: it orders the split's own loads. -/
theorem State.acquireBy_block (s : State) (wi k : Nat) : s.acquireBy wi k 2 = s.modSplit wi k fun x => { x with acq := s.seq } := by
  have h : s.acquireAt wi 2 false = s := by
    unfold State.acquireAt
    split <;> simp
  rw [State.acquireBy, h]

/-- An acquire at block scope before the split goes on. -/
theorem acquired_goOn {c : Ctx} {s u : State} (hq : u.seq = s.seq) (pc : Nat) (b : Bool) :
    Acquired c s (u.goOn c pc b) ((u.acquireBy c.wi c.sp.num 2).goOn c pc b) := by
  have hn (y : Split) : (if y.num = c.sp.num then { y with acq := u.seq } else y).num = y.num := by split <;> rfl
  rw [Acquired, State.acquireBy_block, ← hq]
  simp only [State.goOn, State.modSplit, State.modWave, Table.modify_modify]
  congr 2
  funext w
  rw [Wave.modSplit_modSplit _ _ _ (by intro; rfl), Wave.modSplit_modSplit _ _ _ (by intro; rfl)]
  rfl

end Sys2Proof.Machine
end

section
/-! PROOFS. Rings (05 R99, 24 R380 to R382). -/

namespace Sys2Proof.Machine

open Safety

/-! ## Slots -/

/-- Changing a slot changes that slot alone. -/
theorem Ring.slot_modSlot (r : Ring) {k : Nat} (hk : k < r.slots.length) (f : RingSlot → RingSlot) (j : Nat) :
    (r.modSlot k f).slot j = if j = k then f (r.slot k) else r.slot j := by
  simp only [Ring.slot, Ring.modSlot, nth, setAt_eq_set]
  by_cases hj : j = k
  · subst hj
    rw [if_pos rfl, List.getElem?_set_self hk, Option.getD_some]
  · rw [if_neg hj, List.getElem?_set_ne (Ne.symm hj)]

/-- RACQ's transition claims the slot at the producer cursor alone and moves that cursor on. -/
theorem Ring.claim_spec {r : Ring} (hp : r.prod < r.slots.length) :
    r.claim.slot r.prod = { r.slot r.prod with st := .claimed, lap := r.prodLap } ∧ (∀ j, j ≠ r.prod → r.claim.slot j = r.slot j) ∧
      r.claim.prod = (r.prod + 1) % 8 ∧ r.claim.prodLap = (if r.prod = 7 then !r.prodLap else r.prodLap) ∧ r.claim.cons = r.cons := by
  have h := r.slot_modSlot hp fun x => { x with st := .claimed, lap := r.prodLap }
  exact ⟨(h r.prod).trans (if_pos rfl), fun j hj => (h j).trans (if_neg hj), rfl, rfl, rfl⟩

/-- RGET's transition takes the slot at the consumer cursor alone and moves that cursor on. -/
theorem Ring.take_spec {r : Ring} (hc : r.cons < r.slots.length) :
    r.take.slot r.cons = { r.slot r.cons with st := .taken } ∧ (∀ j, j ≠ r.cons → r.take.slot j = r.slot j) ∧
      r.take.cons = (r.cons + 1) % 8 ∧ r.take.consLap = (if r.cons = 7 then !r.consLap else r.consLap) ∧ r.take.prod = r.prod := by
  have h := r.slot_modSlot hc fun x => { x with st := .taken }
  exact ⟨(h r.cons).trans (if_pos rfl), fun j hj => (h j).trans (if_neg hj), rfl, rfl, rfl⟩

theorem Ring.canClaim_iff {r : Ring} : r.canClaim = true ↔ (r.slot r.prod).st = .empty := beq_iff_eq

theorem Ring.canTake_iff {r : Ring} : r.canTake = true ↔ (r.slot r.cons).st = .full ∧ (r.slot r.cons).phase = r.consLap := by
  simp [Ring.canTake]

/-! ## The ring of a block -/

theorem ringOf_eq {s : State} {c : Ctx} {bk : Block} {r : Ring} {k : Nat} (hb : s.block? c.w.block = some bk) (hr : bk.rings[k]? = some r) :
    ringOf c s k = some r := by
  rw [ringOf, hb, Option.bind_some, hr]

/-- With nobody waiting on the ring there is nothing to serve. -/
theorem State.serveRing_idle {s : State} {b k : Nat} {bk : Block} {r : Ring} (hb : s.block? b = some bk) (hr : bk.rings[k]? = some r)
    (ha : r.acqs = []) (hg : r.gets = []) (n : Nat) : s.serveRing b k n = s := by
  cases n with
  | zero => rfl
  | succ n => simp only [State.serveRing, hb, Option.bind_some, hr, ha, hg]

/-- Who waits on a ring does not change with a slot's state. -/
theorem State.serveRing_modSlot {s : State} {b k : Nat} {bk : Block} {r : Ring} (hb : s.block? b = some bk) (hr : bk.rings[k]? = some r)
    (ha : r.acqs = []) (hg : r.gets = []) (j : Nat) (f : RingSlot → RingSlot) (n : Nat) :
    (s.modBlock b fun x => x.modRing k fun r => r.modSlot j f).serveRing b k n =
      s.modBlock b fun x => x.modRing k fun r => r.modSlot j f := by
  have hb' : (s.modBlock b fun x => x.modRing k fun r => r.modSlot j f).block? b = some (bk.modRing k fun r => r.modSlot j f) := by
    rw [State.block?_modBlock_self, hb, Option.map_some]
  have hr' : (bk.modRing k fun r => r.modSlot j f).rings[k]? = some (r.modSlot j f) := by
    simp [Block.modRing, hr]
  exact State.serveRing_idle hb' hr' ha hg n

/-! ## The words -/

section
variable {d a b : Operand} {s : State} {c : Ctx} {bk : Block} {r : Ring} (ha : c.act ≠ 0) (hb : s.block? c.w.block = some bk)
  (hr : bk.rings[rawN c a]? = some r)
include ha hb hr

theorem exec_racq_claims (h : Ready (.racq d a) {} s c) (he : (r.slot r.prod).st = .empty) (hq : r.acqs = []) :
    exec (.racq d a) s = .next ((((s.unmark c.wi).modBlock c.w.block fun x => x.modRing (rawN c a) fun _ => r.claim).modWave c.wi fun w =>
      w.writeGroup d c.act 1 fun _ _ => word r.prod).goOn c c.next false) := by
  simp only [exec, execRacq]
  rw [uniformWord_ready h ha]
  simp only [ringOf_eq hb hr, Ring.canClaim_iff, he, hq, List.isEmpty_nil, and_self, if_true, Effect.finish]

theorem exec_racq_parks (h : Ready (.racq d a) {} s c) (hn : (r.slot r.prod).st ≠ .empty ∨ r.acqs ≠ []) :
    exec (.racq d a) s = .next (((s.unmark c.wi).modBlock c.w.block fun x => x.modRing (rawN c a) fun r =>
      { r with acqs := r.acqs ++ [(c.wi, c.sp.num)] }).parkedIn c (.racq (rawN c a) (regCode d - 0x80))) := by
  have hno : ¬ (r.canClaim = true ∧ r.acqs.isEmpty = true) := by
    rw [Ring.canClaim_iff, List.isEmpty_iff, not_and_or]
    exact hn
  simp only [exec, execRacq]
  rw [uniformWord_ready h ha]
  simp only [ringOf_eq hb hr, hno, if_false, Effect.finish_park]

theorem exec_rget_takes (h : Ready (.rget d a) {} s c) (hf : (r.slot r.cons).st = .full) (hp : (r.slot r.cons).phase = r.consLap)
    (hq : r.gets = []) :
    exec (.rget d a) s = .next (((((s.unmark c.wi).modBlock c.w.block fun x => x.modRing (rawN c a) fun _ => r.take).modWave c.wi fun w =>
      w.writeGroup d c.act 1 fun _ _ => word r.cons).acquireBy c.wi c.sp.num 2).goOn c c.next false) := by
  simp only [exec, execRget]
  rw [uniformWord_ready h ha]
  simp only [ringOf_eq hb hr, Ring.canTake_iff, hf, hp, hq, List.isEmpty_nil, and_self, if_true, Effect.finish]

theorem exec_rget_parks (h : Ready (.rget d a) {} s c)
    (hn : (r.slot r.cons).st ≠ .full ∨ (r.slot r.cons).phase ≠ r.consLap ∨ r.gets ≠ []) :
    exec (.rget d a) s = .next (((s.unmark c.wi).modBlock c.w.block fun x => x.modRing (rawN c a) fun r =>
      { r with gets := r.gets ++ [(c.wi, c.sp.num)] }).parkedIn c (.rget (rawN c a) (regCode d - 0x80))) := by
  have hno : ¬ (r.canTake = true ∧ r.gets.isEmpty = true) := by
    rw [Ring.canTake_iff, List.isEmpty_iff, not_and_or, not_and_or, or_assoc]
    exact hn
  simp only [exec, execRget]
  rw [uniformWord_ready h ha]
  simp only [ringOf_eq hb hr, hno, if_false, Effect.finish_park]

theorem exec_rpub_refused (h : Ready (.rpub a b) {} s c) (hj : rawN c b < 8) (hn : (r.slot (rawN c b)).st ≠ .claimed) :
    exec (.rpub a b) s = .next (s.raise c.wi c.sp.num Cause.illegal (rawN c b) c.sp.exec c.pc) := by
  simp only [exec, execRpub]
  rw [uniformWord_ready h ha]
  simp only [ringOf_eq hb hr, Nat.not_le.mpr hj, hn, if_false, ne_eq, not_false_eq_true, if_true, Effect.finish]

theorem exec_rpub_publishes (h : Ready (.rpub a b) {} s c) (hj : rawN c b < 8) (hs : (r.slot (rawN c b)).st = .claimed)
    (hf : c.w.flushed = true) :
    exec (.rpub a b) s = .next ((((s.unmark c.wi).modBlock c.w.block fun x => x.modRing (rawN c a) fun r =>
      r.modSlot (rawN c b) fun y => { y with st := .full, phase := y.lap }).serveRing c.w.block (rawN c a) 16).goOn c c.next false) := by
  simp only [exec, execRpub]
  rw [uniformWord_ready h ha]
  simp only [ringOf_eq hb hr, Nat.not_le.mpr hj, hs, hf, if_false, ne_eq, not_true_eq_false, Bool.not_true, Bool.false_eq_true, Effect.finish]

theorem exec_rrel_refused (h : Ready (.rrel a b) {} s c) (hj : rawN c b < 8) (hn : (r.slot (rawN c b)).st ≠ .taken) :
    exec (.rrel a b) s = .next (s.raise c.wi c.sp.num Cause.illegal (rawN c b) c.sp.exec c.pc) := by
  simp only [exec, execRrel]
  rw [uniformWord_ready h ha]
  simp only [ringOf_eq hb hr, Nat.not_le.mpr hj, hn, if_false, ne_eq, not_false_eq_true, if_true, Effect.finish]

theorem exec_rrel_releases (h : Ready (.rrel a b) {} s c) (hj : rawN c b < 8) (hs : (r.slot (rawN c b)).st = .taken) :
    exec (.rrel a b) s = .next ((((s.unmark c.wi).modBlock c.w.block fun x => x.modRing (rawN c a) fun r =>
      r.modSlot (rawN c b) fun y => { y with st := .empty }).serveRing c.w.block (rawN c a) 16).goOn c c.next false) := by
  simp only [exec, execRrel]
  rw [uniformWord_ready h ha]
  simp only [ringOf_eq hb hr, Nat.not_le.mpr hj, hs, if_false, ne_eq, not_true_eq_false, Effect.finish]

end

/-- A split that has entered its ring's waiting order is parked there. -/
theorem waits_inRing {s : State} {c : Ctx} {bk : Block} (h : s.ctx? = some c) (hb : s.block? c.w.block = some bk) (g : Block → Block)
    (f : WaitFor) : Waits c (((s.unmark c.wi).modBlock c.w.block g).parkedIn c f) f ∧
      (((s.unmark c.wi).modBlock c.w.block g).parkedIn c f).block? c.w.block = some (g bk) := by
  refine ⟨waits_parkedIn (u := (s.unmark c.wi).modBlock c.w.block g) (State.wave?_unmark h) (State.ctx?_split h) f, ?_⟩
  rw [State.block?_parkedIn, State.block?_modBlock_self, State.block?_unmark, hb, Option.map_some]

end Sys2Proof.Machine

namespace Sys2Proof

open Machine Safety

/-- Settles O44: what the two transitions do to a ring (`Ring.claim_spec`, `Ring.take_spec`), and what each word leaves where its slot is
in the state that it asks for, where it has to wait, and where its slot is in another state. -/
theorem ringWords : Obligations.RingWords := by
  unfold Obligations.RingWords
  refine ⟨fun r hl hp hc => ⟨Ring.claim_spec (hl ▸ hp), Ring.take_spec (hl ▸ hc)⟩, fun d a b s c bk r ha hb hr =>
    ⟨fun h => ⟨fun he hq => ?claims, fun hn => ?racqParks⟩, fun h => ⟨fun hf hp hq => ?takes, fun hn => ?rgetParks⟩,
      fun h hj => ⟨fun hn => exec_rpub_refused ha hb hr h hj hn, fun hs hf => ?publishes⟩,
      fun h hj => ⟨fun hn => exec_rrel_refused ha hb hr h hj hn, fun hs => ?releases⟩⟩⟩
  case claims => exact ⟨_, exec_racq_claims ha hb hr h he hq, tookB_goOn h.1 hb _ d _⟩
  case racqParks => exact ⟨_, exec_racq_parks ha hb hr h hn, waits_inRing h.1 hb _ _⟩
  case takes => exact ⟨_, _, exec_rget_takes ha hb hr h hf hp hq, tookB_goOn h.1 hb _ d _, acquired_goOn (by simp) _ _⟩
  case rgetParks => exact ⟨_, exec_rget_parks ha hb hr h hn, waits_inRing h.1 hb _ _⟩
  case publishes =>
    have he := exec_rpub_publishes ha hb hr h hj hs hf
    refine ⟨he, fun hq hg => ?_⟩
    rw [he, State.serveRing_modSlot (s := s.unmark c.wi) hb hr hq hg]
  case releases =>
    have he := exec_rrel_releases ha hb hr h hj hs
    refine ⟨he, fun hq hg => ?_⟩
    rw [he, State.serveRing_modSlot (s := s.unmark c.wi) hb hr hq hg]

end Sys2Proof
end

section
/-! PROOFS. Barriers (05 R100, R101, 22 R302). -/

namespace Sys2Proof.Machine

open Safety

/-! ## Arriving -/

/-- A barrier at whose open phase a wave has arrived with a count. -/
def Barrier.arrive (x : Barrier) (wi n : Nat) : Barrier :=
  { x with arrivals := x.arrivals + 1, expected := n, fixed := true, who := x.who ++ [wi] }

/-- The barrier after that, its next phase open where the arrival completes the phase. -/
def Barrier.after (x : Barrier) (live : Nat) : Barrier := if x.completes live then x.open else x

/-- A phase whose count is given completes with the count's last wave, or with count 0 with the last that has not exited (05 R100). -/
theorem Barrier.completes_iff {x : Barrier} (hx : x.fixed = true) (live : Nat) :
    x.completes live = true ↔ if x.expected = 0 then x.arrivals = live else x.expected ≤ x.arrivals := by
  by_cases h : x.expected = 0 <;> simp [Barrier.completes, hx, h]

theorem Barrier.arrive_completes (x : Barrier) (wi n live : Nat) :
    (x.arrive wi n).completes live = true ↔ if n = 0 then x.arrivals + 1 = live else n ≤ x.arrivals + 1 :=
  Barrier.completes_iff (x := x.arrive wi n) rfl live

/-- The waves of a block that have not exited are as many after a change that ends none. -/
theorem State.liveWaves_length_modWave (s : State) (wi : Nat) {f : Wave → Wave} (hf : ∀ w, (f w).exited = w.exited) (b : Block) :
    ((s.modWave wi f).liveWaves b).length = (s.liveWaves b).length := by
  unfold State.liveWaves
  rw [List.length_filterMap_eq_countP, List.length_filterMap_eq_countP]
  refine List.countP_congr fun k _ => ?_
  by_cases hk : k = wi
  · subst hk
    rw [State.wave?_modWave_self]
    cases s.wave? k with
    | none => rfl
    | some w =>
      simp only [Option.map_some, Option.bind_some, hf]
      cases w.exited <;> simp
  · rw [State.wave?_modWave_other _ _ _ _ hk]

theorem State.settleBars_eq {s : State} {b : Nat} {bk : Block} (hb : s.block? b = some bk) :
    s.settleBars b = s.modBlock b fun y => { y with bars := y.bars.map fun z => z.after (s.liveWaves bk).length } := by
  simp only [State.settleBars, hb]
  rfl

/-- A wave that has arrived at barrier k in a phase. -/
def Wave.arrivedIn (w : Wave) (k phase : Nat) : Wave := { w.unmark with barPhase := w.barPhase.put k phase }

theorem State.wave?_settleBars (s : State) (b v : Nat) : (s.settleBars b).wave? v = s.wave? v := by
  unfold State.settleBars
  split <;> rfl

/-- The state of an arrival before the phases are looked at. -/
def arrivingBar (c : Ctx) (s : State) (k n : Nat) (x : Barrier) : State :=
  ((s.unmark c.wi).modBlock c.w.block fun b => b.modBar k fun y => y.arrive c.wi n).modWave c.wi fun w =>
    { w with barPhase := w.barPhase.put k x.phase }

theorem arriveBar_eq (c : Ctx) (s : State) (k n : Nat) (x : Barrier) :
    arriveBar c s k n x = (arrivingBar c s k n x).settleBars c.w.block := rfl

section
variable {s : State} {c : Ctx} {bk : Block} {x : Barrier} {k : Nat} (n : Nat)

/-- The wave is noted as arrived in the phase that was open. -/
theorem arriveBar_wave (hc : s.ctx? = some c) : (arriveBar c s k n x).wave? c.wi = some (c.w.arrivedIn k x.phase) := by
  have hu : ((s.unmark c.wi).modBlock c.w.block fun b => b.modBar k fun y => y.arrive c.wi n).wave? c.wi = some c.w.unmark :=
    State.wave?_unmark hc
  rw [arriveBar_eq, State.wave?_settleBars]
  exact (State.wave?_modWave_self _ c.wi _).trans (congrArg _ hu)

theorem arrivingBar_live (b : Block) : ((arrivingBar c s k n x).liveWaves b).length = (s.liveWaves b).length := by
  rw [arrivingBar, State.liveWaves_length_modWave _ _ (by intro; rfl)]
  exact State.liveWaves_length_modWave s c.wi (f := Wave.unmark) (fun _ => rfl) b

/-- The barrier has one arrival more, or its next phase is open. -/
theorem arriveBar_bar (hb : s.block? c.w.block = some bk) (hx : bk.bars[k]? = some x) :
    ((arriveBar c s k n x).block? c.w.block).bind (fun q => q.bars[k]?) = some ((x.arrive c.wi n).after (s.liveWaves bk).length) := by
  have hb1 : (arrivingBar c s k n x).block? c.w.block = some (bk.modBar k fun y => y.arrive c.wi n) :=
    (State.block?_modBlock_self (s.unmark c.wi) c.w.block fun b => b.modBar k fun y => y.arrive c.wi n).trans (congrArg _ hb)
  rw [arriveBar_eq, State.settleBars_eq hb1, State.block?_modBlock_self, hb1, arrivingBar_live]
  simp only [Block.modBar, Option.map_some, Option.bind_some, List.getElem?_map, List.getElem?_modify, hx, if_true]
  rfl

end

/-! ## Waiting for a phase -/

section
variable {s : State} {w : Wave} {k : Nat} (wi sp : Nat)

/-- The phase of the wave's last arrival is still open. -/
theorem State.waitRes_barrier_stay {x : Barrier} (hp : w.barPhase.find k = some x.phase)
    (hx : (s.block? w.block).bind (fun b => b.bars[k]?) = some x) : s.waitRes wi w sp (.barrier k) = .stay := by
  simp only [State.waitRes, hp, hx, if_true]

/-- The wave has not arrived, or the phase of its last arrival has completed. -/
theorem State.waitRes_barrier_met {x : Barrier} (hx : (s.block? w.block).bind (fun b => b.bars[k]?) = some x)
    (hp : w.barPhase.find k ≠ some x.phase) : s.waitRes wi w sp (.barrier k) = .met (s.acquireBy wi sp 2) := by
  cases h : w.barPhase.find k with
  | none => simp only [State.waitRes, h]
  | some ph =>
    have hne : x.phase ≠ ph := fun e => hp (by rw [h, e])
    simp only [State.waitRes, h, hx, if_neg hne]

end

section
variable {s : State} {c : Ctx} {w : Wave} {k : Nat} {x : Barrier} (hw : s.wave? c.wi = some w)
  (hx : (s.block? w.block).bind (fun b => b.bars[k]?) = some x)
include hw hx

theorem waitBar_parks (hp : w.barPhase.find k = some x.phase) :
    waitBar c s k = .done ((s.parkedIn c (.barrier k)).checkDeadlock c.w.block) := by
  simp only [waitBar, hw, State.waitRes_barrier_stay _ _ hp hx, parkChecked_eq]

theorem waitBar_goes (hp : w.barPhase.find k ≠ some x.phase) : waitBar c s k = .ok (s.acquireBy c.wi c.sp.num 2) := by
  simp only [waitBar, hw, State.waitRes_barrier_met _ _ hx hp]

end

/-! ## A wave that keeps its registers and its split's lanes -/

/-- The issuing wave with its registers and stack as before and its issuing split with the LIVE, EXEC and MODE of before. -/
def Keeps (c : Ctx) (w : Wave) : Prop :=
  w.v = c.w.v ∧ w.s = c.w.s ∧ w.p = c.w.p ∧ w.stack = c.w.stack ∧ w.alive = c.w.alive ∧
    ∃ x, w.split? c.sp.num = some x ∧ x.live = c.sp.live ∧ x.exec = c.sp.exec ∧ x.mode = c.sp.mode

theorem keeps_modSplit {c : Ctx} {w : Wave} (h : Keeps c w) {f : Split → Split} (hn : ∀ x, (f x).num = x.num)
    (hf : ∀ x, (f x).live = x.live ∧ (f x).exec = x.exec ∧ (f x).mode = x.mode) : Keeps c (w.modSplit c.sp.num f) := by
  obtain ⟨hv, hs, hp, hst, ha, x, hx, hl, he, hm⟩ := h
  obtain ⟨hl', he', hm'⟩ := hf x
  exact ⟨hv, hs, hp, hst, ha, f x, Wave.split?_modSplit hx hn, hl'.trans hl, he'.trans he, hm'.trans hm⟩

theorem keeps_arrivedIn {s : State} {c : Ctx} (hc : s.ctx? = some c) (k phase : Nat) : Keeps c (c.w.arrivedIn k phase) :=
  ⟨rfl, rfl, rfl, rfl, rfl, c.sp, State.ctx?_split hc, rfl, rfl, rfl⟩

/-- Its split gone on, such a wave is one that has gone on (`Onward`), and nothing but the splits has changed. -/
theorem onward_goOn {c : Ctx} {u : State} {w : Wave} (hw : u.wave? c.wi = some w) (h : Keeps c w) :
    ∃ v, Onward c (u.goOn c c.next false) v ∧ v.barPhase = w.barPhase := by
  obtain ⟨hv, hs, hp, hst, ha, x, hx, hl, he, hm⟩ := h
  exact ⟨_, ⟨State.wave?_goOn hw c.next false, hv, hs, hp, hst, ha, _, Wave.split?_modSplit hx fun _ => rfl, rfl, hl, he, hm⟩, rfl⟩

/-! ## The words -/

/-- The state in which BAR waits after its arrival: its progress says that it has arrived (18 Table 18.2). -/
def arrivedBar (c : Ctx) (s : State) (k n : Nat) (x : Barrier) : State :=
  (arriveBar c s k n x).modSplit c.wi c.sp.num fun y => { y with prog := 1 }

section
variable {a b : Operand} {s : State} {c : Ctx} {bk : Block} {x : Barrier} (hb : s.block? c.w.block = some bk)
  (hx : bk.bars[rawN c a]? = some x) (hf : c.w.flushed = true)
include hb hx hf

theorem exec_bara (h : Ready (.bara a b) (barChecks s a b false) s c) :
    exec (.bara a b) s = .next ((arriveBar c s (rawN c a) (rawN c b) x).goOn c c.next false) := by
  simp only [exec, execBara, barWord]
  rw [wordOf_ready h]
  simp only [hb, Option.bind_some, hx, hf, Bool.false_eq_true, false_and, Bool.not_true, if_false, Effect.finish]

theorem exec_bar (h : Ready (.bar a b) (barChecks s a b true) s c) (hp : c.sp.prog = 0) :
    exec (.bar a b) s = .next ((waitBar c (arrivedBar c s (rawN c a) (rawN c b) x) (rawN c a)).finish c s) := by
  have hn : ¬ (c.sp.prog = 1) := by rw [hp]; decide
  simp only [exec, execBar, barWord]
  rw [wordOf_ready h]
  simp only [hb, Option.bind_some, hx, hf, hn, and_false, Bool.not_true, Bool.false_eq_true, if_false, if_true]
  rfl

end

theorem exec_barw {a : Operand} {s : State} {c : Ctx} (h : Ready (.barw a) {} s c) (ha : rawN c a < 16) :
    exec (.barw a) s = .next ((waitBar c (s.unmark c.wi) (rawN c a)).finish c s) := by
  simp only [exec, execBarw]
  rw [wordOf_ready h, if_neg (Nat.not_le.mpr ha)]

/-- After its arrival BAR's wave waits at the barrier as it stands then, as the wave that has arrived. -/
theorem arrivedBar_spec {s : State} {c : Ctx} {bk : Block} {x : Barrier} {k : Nat} (hc : s.ctx? = some c)
    (hb : s.block? c.w.block = some bk) (hx : bk.bars[k]? = some x) (n : Nat) :
    ((arrivedBar c s k n x).block? c.w.block).bind (fun q => q.bars[k]?) = some ((x.arrive c.wi n).after (s.liveWaves bk).length) ∧
      ∃ w, (arrivedBar c s k n x).wave? c.wi = some w ∧ w.block = c.w.block ∧ w.barPhase.find k = some x.phase ∧ Keeps c w :=
  ⟨arriveBar_bar n hb hx, _, State.wave?_modSplit (arriveBar_wave n hc) _ _, rfl,
    Table.find_put_self c.w.barPhase k x.phase, keeps_modSplit (keeps_arrivedIn hc k x.phase) (fun _ => rfl) fun _ => ⟨rfl, rfl, rfl⟩⟩

end Sys2Proof.Machine

namespace Sys2Proof

open Machine Safety

/-- Settles O45: what an arrival leaves of the barrier and the wave (`arriveBar_bar`, `arriveBar_wave`), and whether the wait that follows
is over (`waitBar_goes`) or parks the split (`waitBar_parks`). -/
theorem barrierWords : Obligations.BarrierWords := by
  unfold Obligations.BarrierWords
  dsimp only
  intro a b s c bk x hb hx
  refine ⟨fun _ _ _ _ hf hp => ?arrivals, fun h ha => ⟨fun hph => ?barwGoes, fun hph => ?barwParks⟩⟩
  case arrivals =>
    have hfull : ((x.arrive c.wi (rawN c b)).completes (s.liveWaves bk).length = true ↔ _) :=
      x.arrive_completes c.wi (rawN c b) (s.liveWaves bk).length
    have hafter (h : _) : (x.arrive c.wi (rawN c b)).after (s.liveWaves bk).length = (x.arrive c.wi (rawN c b)).open := if_pos (hfull.mpr h)
    have hopen (h : ¬ _) : (x.arrive c.wi (rawN c b)).after (s.liveWaves bk).length = x.arrive c.wi (rawN c b) :=
      if_neg fun e => h (hfull.mp e)
    refine ⟨fun h => ?bara, fun h => ?bar⟩
    case bara =>
      obtain ⟨w, hon, hph⟩ := onward_goOn (arriveBar_wave (rawN c b) h.1) (keeps_arrivedIn h.1 (rawN c a) x.phase)
      have hbar := arriveBar_bar (rawN c b) hb hx
      have hfind : w.barPhase.find (rawN c a) = some x.phase := hph ▸ Table.find_put_self c.w.barPhase (rawN c a) x.phase
      have he := exec_bara hb hx hf h
      exact ⟨fun hl => ⟨_, w, he, hon, hbar.trans (congrArg _ (hafter hl)), hfind⟩,
        fun hl => ⟨_, w, he, hon, hbar.trans (congrArg _ (hopen hl)), hfind⟩⟩
    case bar =>
      obtain ⟨hbar, w, hw, hblock, hph, hkeeps⟩ := arrivedBar_spec h.1 hb hx (rawN c b)
      have he := exec_bar hb hx hf h hp
      refine ⟨fun hl => ?goes, fun hl => ?parks⟩
      case goes =>
        rw [hafter hl] at hbar
        have hne : w.barPhase.find (rawN c a) ≠ some (x.arrive c.wi (rawN c b)).open.phase := by
          simp [hph, Barrier.open, Barrier.arrive]
        rw [waitBar_goes hw (hblock ▸ hbar) hne, Effect.finish, State.acquireBy_block] at he
        obtain ⟨v, hon, hvp⟩ := onward_goOn (State.wave?_modSplit hw c.sp.num fun y =>
          { y with acq := (arrivedBar c s (rawN c a) (rawN c b) x).seq }) (keeps_modSplit hkeeps (fun _ => rfl) fun _ => ⟨rfl, rfl, rfl⟩)
        refine ⟨_, v, he, hon, ?_, hvp ▸ hph⟩
        rw [State.block?_goOn, State.block?_modSplit]
        exact hbar
      case parks =>
        rw [hopen hl] at hbar
        rw [waitBar_parks (x := x.arrive c.wi (rawN c b)) hw (hblock ▸ hbar) hph, Effect.finish] at he
        obtain ⟨-, -, -, -, -, y, hy, -⟩ := hkeeps
        exact ⟨_, he, waits_parkedIn hw hy _, _, State.wave?_modSplit hw _ _, hbar, hph⟩
  case barwGoes =>
    have hw := State.wave?_unmark h.1
    have hne : c.w.unmark.barPhase.find (rawN c a) ≠ some x.phase := by
      rcases hph with hnone | ⟨ph, hsome, hne⟩
      · exact fun e => Option.some_ne_none _ (e.symm.trans hnone)
      · exact fun e => hne (Option.some.inj (e.symm.trans hsome))
    have hbar : ((s.unmark c.wi).block? c.w.unmark.block).bind (fun q => q.bars[rawN c a]?) = some x :=
      (congrArg (Option.bind · _) hb).trans hx
    refine ⟨_, _, ?_, leftWave_goOn hw rfl (onlyWave_modWave s c _), acquired_goOn rfl _ _⟩
    rw [exec_barw h ha, waitBar_goes hw hbar hne, Effect.finish]
  case barwParks =>
    have hw := State.wave?_unmark h.1
    have hbar : ((s.unmark c.wi).block? c.w.unmark.block).bind (fun q => q.bars[rawN c a]?) = some x :=
      (congrArg (Option.bind · _) hb).trans hx
    refine ⟨_, ?_, waits_parkedIn hw (State.ctx?_split (s := s) h.1) _⟩
    rw [exec_barw h ha, waitBar_parks hw hbar hph, Effect.finish]

end Sys2Proof
end

section
/-! PROOFS. Handles (22 R328 to R332) and predecessors (05 R97). -/

namespace Sys2Proof.Machine

open Safety

/-! ## The wait for a handle (22 R332, Table 22.7) -/

/-- What HWAIT gives for a handle whose operation has ended, or that has none. -/
def HState.waitCode : HState → Option Nat
  | .empty | .done => some 1
  | .cancelled => some 2
  | .pending _ | .failed => none

/-- What HTEST gives for a state. -/
def HState.testCode : HState → Nat
  | .pending _ => 0
  | .empty | .done => 1
  | .cancelled => 2
  | .failed => 3

section
variable (s : State) (wi sp : Nat) (w : Wave) (r : Nat) (dst : Option Nat)

theorem State.waitRes_handle_over {v : Nat} (h : (vget w.h r .empty).waitCode = some v) : s.waitRes wi w sp (.handle r dst) =
    .met ((match dst with | none => s | some d => s.setWave wi (w.writeS d (word v))).acquireBy wi sp 0) := by
  cases hs : vget w.h r .empty <;> rw [hs] at h <;> cases h <;> simp only [State.waitRes, hs] <;> rfl

theorem State.waitRes_handle_failed (h : vget w.h r .empty = .failed) :
    s.waitRes wi w sp (.handle r dst) = .trap Cause.engFail (0xC8 + r) := by
  simp only [State.waitRes, h]

theorem State.waitRes_handle_pending {n : Nat} (h : vget w.h r .empty = .pending n) : s.waitRes wi w sp (.handle r dst) = .stay := by
  simp only [State.waitRes, h]

end

/-! ## The words -/

section
variable {d a : Operand} {r : Fin 16} {s : State} {c : Ctx} (ha : c.act ≠ 0)
include ha

theorem exec_htest (h : Ready (.htest d a) {} s c) : exec (.htest d a) s = .next ((s.modWave c.wi fun w =>
    w.writeGroup d c.act 1 fun _ _ => word (handleState c.w a).testCode).goOn c c.next false) := by
  simp only [exec, execHtest]
  rw [uniformWord_ready h ha, Effect.finish]
  rfl

omit ha in
theorem exec_hwait : exec (.hwait d a) s = execHwait d a s := rfl

/-- HWAIT goes on at once where the handle's operation has ended otherwise than by a failure. -/
theorem exec_hwait_over (h : Ready (.hwait d (.h r)) {} s c) {v : Nat} (hv : (handleState c.w (.h r)).waitCode = some v) :
    exec (.hwait d (.h r)) s = .next (((match d with | .s k => s.setWave c.wi (c.w.writeS k.val (word v)) | _ => s).acquireBy
      c.wi c.sp.num 0).goOn c c.next false) := by
  rw [exec_hwait]
  unfold execHwait
  rw [uniformWord_ready h ha]
  simp only [handleOf, State.waitRes_handle_over _ _ _ c.w r.val _ hv, Effect.finish]
  cases d <;> rfl

theorem exec_hwait_failed (h : Ready (.hwait d (.h r)) {} s c) (hf : handleState c.w (.h r) = .failed) :
    exec (.hwait d (.h r)) s = .next (s.raise c.wi c.sp.num Cause.engFail (0xC8 + r.val) c.sp.exec c.pc) := by
  rw [exec_hwait]
  unfold execHwait
  rw [uniformWord_ready h ha]
  simp only [handleOf, State.waitRes_handle_failed _ _ _ c.w r.val _ hf, Effect.finish]

theorem exec_hwait_pending (h : Ready (.hwait d (.h r)) {} s c) {n : Nat} (hp : handleState c.w (.h r) = .pending n) :
    ∃ dst, exec (.hwait d (.h r)) s = .next (s.parkedIn c (.handle r.val dst)) := by
  rw [exec_hwait]
  unfold execHwait
  rw [uniformWord_ready h ha]
  simp only [handleOf, State.waitRes_handle_pending _ _ _ c.w r.val _ hp, Effect.finish_park]
  exact ⟨_, rfl⟩

theorem exec_hmov_reads (h : Ready (.hmov d a) {} s c) (hd : isH d = false) : exec (.hmov d a) s = .next ((s.modWave c.wi fun w =>
    w.writeGroup d c.act 2 fun i _ => if i = 0 then word (handleState c.w a).code.1 else word (handleState c.w a).code.2).goOn
      c c.next false) := by
  simp only [exec, execHmov]
  rw [uniformWord_ready h ha]
  cases d with
  | h r => cases hd
  | _ => rfl

theorem exec_hmov_writes (h : Ready (.hmov (.h r) a) {} s c) (hf : (handleState c.w (.h r)).isPending = false) {st : HState}
    (hst : HState.ofCode (rawN c a) = some st) :
    exec (.hmov (.h r) a) s = .next ((s.modWave c.wi fun w => { w with h := vset w.h r.val st }).goOn c c.next false) := by
  simp only [exec, execHmov]
  rw [uniformWord_ready h ha]
  simp only [hst, hf, Bool.false_eq_true, if_false, Effect.finish]
  rfl

theorem exec_hcancel_idle (h : Ready (.hcancel a) {} s c) (hn : ∀ n, handleState c.w a ≠ .pending n) :
    exec (.hcancel a) s = .next (s.goOn c c.next false) := by
  simp only [exec, execHcancel]
  rw [uniformWord_ready h ha]
  cases hs : handleState c.w a with
  | pending n => exact absurd hs (hn n)
  | _ => rfl

theorem exec_hcancel_pending (h : Ready (.hcancel a) {} s c) {n : Nat} (hp : handleState c.w a = .pending n) :
    exec (.hcancel a) s = .next ((s.cancelOp c.w.part n).goOn c c.next false) := by
  simp only [exec, execHcancel]
  rw [uniformWord_ready h ha]
  simp only [hp, Effect.finish]

theorem exec_predwait (h : Ready .predwait {} s c) : exec .predwait s = .next (if s.predDone c.w.launch = true
    then (s.acquireBy c.wi c.sp.num 0).goOn c c.next false else s.parkedIn c .pred) := by
  simp only [exec, execPredwait]
  rw [uniformWord_ready h ha]
  split <;> rfl

end

end Sys2Proof.Machine

namespace Sys2Proof

open Machine Safety

/-- Settles O46: each word by the state of its handle; HWAIT by the wait that it shares with a parked HWAIT (`State.waitRes_handle_over`). -/
theorem handleWords : Obligations.HandleWords := by
  unfold Obligations.HandleWords
  intro d a s c ha
  refine ⟨fun h => ?htest, fun r hr h => ?hwait, fun hd h => ?reads, fun r n st hd hfree hn hst h => ?writes,
    fun h => ⟨fun hn => ?idle, fun n hp => exec_hcancel_pending ha h hp⟩, fun h => ⟨fun hp => ?goes, fun hp => ?parks⟩⟩
  case htest =>
    refine ⟨_, exec_htest ha h, ?_⟩
    have hw := wrote_modWave h.1 d 1 fun _ _ => word (handleState c.w a).testCode
    refine (congrArg (fun f => Wrote c s _ d c.act 1 f 0) (funext fun _ => funext fun _ => ?_)).mp hw
    cases handleState c.w a <;> rfl
  case hwait =>
    subst hr
    refine ⟨fun v hv => ?ended, fun hf => exec_hwait_failed ha h hf, fun n hp => ?unfinished⟩
    case ended =>
      have hcode : (handleState c.w (.h r)).waitCode = some v := by
        rcases hv with ⟨hs, rfl⟩ | ⟨hs, rfl⟩ | ⟨hs, rfl⟩ <;> rw [hs] <;> rfl
      exact exec_hwait_over ha h hcode
    case unfinished =>
      obtain ⟨dst, he⟩ := exec_hwait_pending ha h hp
      exact ⟨_, he, dst, waits_parkedIn (State.ctx?_wave h.1) (State.ctx?_split h.1) _⟩
  case reads =>
    refine ⟨_, exec_hmov_reads ha h hd, ?_⟩
    have hw := wrote_modWave h.1 d 2 fun i _ => if i = 0 then word (handleState c.w a).code.1 else word (handleState c.w a).code.2
    refine (congrArg (fun f => Wrote c s _ d c.act 2 f 0) (funext fun k => funext fun _ => ?_)).mp hw
    by_cases hk : k = 0 <;> cases handleState c.w a <;> simp only [hk, HState.code, if_true, if_false] <;> rfl
  case writes =>
    subst hd hn
    have hcode : HState.ofCode (rawN c a) = some st := by
      simp only [List.mem_cons, Prod.mk.injEq, List.not_mem_nil, or_false] at hst
      rcases hst with ⟨hv, rfl⟩ | ⟨hv, rfl⟩ | ⟨hv, rfl⟩ | ⟨hv, rfl⟩ <;> rw [hv] <;> rfl
    have ho := onlyWave_modWave s c fun w => { w with h := vset w.h r.val st }
    exact ⟨_, exec_hmov_writes ha h (hfree rfl) hcode,
      leftWave_goOn ((State.wave?_modWave_self s c.wi _).trans (congrArg _ (State.ctx?_wave h.1))) rfl ho⟩
  case idle => exact ⟨_, exec_hcancel_idle ha h hn, leftWave_goOn (State.ctx?_wave h.1) rfl ⟨fun _ _ => rfl, rfl⟩⟩
  case goes => rw [exec_predwait ha h, if_pos hp]
  case parks =>
    refine ⟨_, exec_predwait ha h, ?_⟩
    rw [hp, if_neg Bool.false_ne_true]
    exact waits_parkedIn (State.ctx?_wave h.1) (State.ctx?_split h.1) _

end Sys2Proof
end

section
/-! PROOFS. The engines' steps: copies (06 R138), gather and scatter (06 R141, R142), and matrix commands with their lease (05 R98, 12 R190,
R191). -/

namespace Sys2Proof.Machine

open Safety

/-! ## Copies -/

/-- A copy that may take its step. -/
def State.CopyGoes (s : State) (core p : Nat) (o : CopyOp) : Prop :=
  (s.core core).copyQ.find? (fun o => o.part == p) = some o ∧ o.st = .ready ∧ s.opFree o.rel o.fences = true

/-- Where a copy writes next. -/
def CopyOp.dstNow (o : CopyOp) : Nat := o.dst + o.moved / o.rowBytes * o.dpitch + o.moved % o.rowBytes

/-- Where a copy reads next. -/
def CopyOp.srcNow (o : CopyOp) : Nat := o.src + o.moved / o.rowBytes * o.spitch + o.moved % o.rowBytes

/-- How many bytes a copy moves in its next step. -/
def CopyOp.bytesNow (o : CopyOp) : Nat := stepBytes o.dstNow o.srcNow (o.rowBytes - o.moved % o.rowBytes)

theorem exec_copyStep_ends {s : State} {core p : Nat} {o : CopyOp} (h : s.CopyGoes core p o) (hm : o.rows * o.rowBytes ≤ o.moved) :
    exec (.copyStep core p) s = .next ((s.setCopy core o none).endOp o.tag) := by
  obtain ⟨ho, hst, hfree⟩ := h
  simp only [exec, execCopyStep, ho, hst, hfree, hm, ne_eq, not_true_eq_false, Bool.not_true, Bool.false_eq_true, or_self, if_false, if_true]

theorem exec_copyStep_moves {s s1 s2 : State} {core p : Nat} {o : CopyOp} {bs : List Byte} (h : s.CopyGoes core p o)
    (hm : o.moved < o.rows * o.rowBytes) (hr : s.engRead o.block o.srcNow o.bytesNow = .ok (bs, s1))
    (hw : s1.engWrite o.block o.dstNow bs = .ok s2) :
    exec (.copyStep core p) s = .next (if o.rows * o.rowBytes ≤ o.moved + o.bytesNow
      then ((s2.setCopy core o none).endOp o.tag).settleReleases
      else (s2.setCopy core o (some { o with moved := o.moved + o.bytesNow })).settleReleases) := by
  obtain ⟨ho, hst, hfree⟩ := h
  unfold CopyOp.bytesNow CopyOp.dstNow CopyOp.srcNow at *
  simp only [exec, execCopyStep, ho, hst, hfree, Nat.not_le.mpr hm, hr, hw, ne_eq, not_true_eq_false, Bool.not_true, Bool.false_eq_true,
    or_self, if_false]
  split <;> rfl

/-! ## Gather and scatter -/

/-- An operation with its element i done. -/
def SliceOp.withDone (o : SliceOp) (i : Nat) : SliceOp := { o with done := insertNat i o.done, sent := o.sent.filter fun e => e.1 != i }

/-- The operation's element i is done, and with the last one the operation. -/
def State.elementDone (s : State) (o : SliceOp) (i : Nat) : State :=
  if (o.withDone i).finished = true then s.endSlice (o.withDone i) else s.setSlice o (some (o.withDone i))

/-- The head operation of a block's queue may take the step of its element i, which stands at an index. -/
structure State.SliceGoes (s : State) (bi i index : Nat) (o : SliceOp) (b : Block) : Prop where
  head : s.sliceQ.find? (fun o => o.block == bi) = some o
  block : s.block? bi = some b
  ready : o.st = .ready
  free : s.opFree o.rel o.fences = true
  sent : (o.sent.find? fun e => e.1 == i) = some (i, index)
  first : o.gather = false → ∀ e ∈ o.sent, e.1 < i → e.2 ≠ index

section
variable {s : State} {bi i index : Nat} {o : SliceOp} {b : Block} (h : s.SliceGoes bi i index o b)
include h

theorem State.SliceGoes.not_held : ¬ (o.tag ≠ o.tag ∨ o.st ≠ .ready ∨ (!s.opFree o.rel o.fences) = true) := by
  simp [h.ready, h.free]

/-- No earlier element of a scatter is for the same address (06 R142). -/
theorem State.SliceGoes.not_behind : ¬ ((!o.gather) = true ∧ (o.sent.any fun e => decide (e.1 < i) && e.2 == index) = true) := by
  rintro ⟨hg, hany⟩
  obtain ⟨e, he, hlt⟩ := List.any_eq_true.mp hany
  rw [Bool.and_eq_true, decide_eq_true_eq, beq_iff_eq] at hlt
  exact h.first (by simpa using hg) e he hlt.1 hlt.2

theorem exec_sliceElement_gathers {bs : List Byte} {s2 : State} (hg : o.gather = true)
    (hc : s.engCheck b.part b.core (s.asidOf b.part) (o.addr index) .read = .go)
    (hr : s.engineRead (s.asidOf b.part) (o.addr index) o.elem = some bs)
    (hw : s.engWrite bi (Config.aperture + (o.data + o.elem * i)) bs = .ok s2) :
    exec (.sliceElement bi o.tag i) s = .next (s2.elementDone o i).settleReleases := by
  simp only [exec, execSliceElement, h.head, h.block, if_neg h.not_held, h.sent, if_neg h.not_behind, if_pos hg, hc, hr, hw]
  rfl

theorem exec_sliceElement_scatters {bs : List Byte} {s1 s2 : State} (hg : o.gather = false)
    (hc : s.engCheck b.part b.core (s.asidOf b.part) (o.addr index) .write = .go)
    (hr : s.engRead bi (Config.aperture + (o.data + o.elem * i)) o.elem = .ok (bs, s1))
    (hw : s1.stamp.2.engineWrite (s.asidOf b.part) (o.addr index) bs s1.seq = some s2) :
    exec (.sliceElement bi o.tag i) s = .next (s2.elementDone o i).settleReleases := by
  have hs : ¬ (o.gather = true) := by simp [hg]
  have hw' : s1.stamp.2.engineWrite (s.asidOf b.part) (o.addr index) bs s1.stamp.1 = some s2 := hw
  simp only [exec, execSliceElement, h.head, h.block, if_neg h.not_held, h.sent, if_neg h.not_behind, if_neg hs, hc, hr, hw']
  rfl

end

/-! ## Matrix commands and the lease -/

/-- A command of its launch that the engine may work on ends with the engine's work on it. -/
theorem State.mxWork_ends {s s1 : State} {lim : Option Nat} {q : Nat} {x : MxCmd} {op : MxOp} {ops : List MxOp}
    (hx : ((s.quad q).mxq.find? fun y => y.tag == x.tag) = some x) (ho : x.ops = op :: ops)
    (hfirst : ((s.quad q).firstOf x.launch).map (·.tag) = some x.tag) (hst : x.st ≠ .parked) (hfree : s.opFree x.rel x.fences = true)
    (hlease : x.started = true ∨ s.leaseAllows q x.launch = true)
    (hrun : op.run lim x.wave x.block x.prog x.chains (if x.started = true then s else s.leaseCount q) = .done s1) :
    s.mxWork lim q x.tag = (s1.mxNext q x).settleReleases := by
  have hmay : ¬ (x.started = false ∧ (!s.leaseAllows q x.launch) = true) := by
    rintro ⟨h1, h2⟩
    rcases hlease with h | h
    · rw [h] at h1
      cases h1
    · rw [h] at h2
      cases h2
  simp only [State.mxWork, hx, ho, hfirst, hst, hfree, hmay, hrun, ne_eq, not_true_eq_false, Bool.not_true, Bool.false_eq_true, or_self,
    if_false]

theorem exec_matrixCommandDone {s : State} {q n : Nat} {x : MxCmd} (hx : ((s.quad q).mxq.find? fun x => x.tag == n && x.done) = some x) :
    exec (.matrixCommandDone q n) s = .next ((s.setMx q x none).endHandle x.href x.tag
      (if x.dropped = true then .cancelled else if x.failed = true then .failed else .done)) := by
  simp only [exec, execMatrixCommandDone, hx]

/-- The commands that the holder of a quadrant's lease has queued. -/
def Quad.heldCommands (k : Quad) : List MxCmd := k.mxq.filter fun x => !x.done && k.lease == some x.launch

/-- A quadrant's lease is used up, or nobody holds it. -/
def State.leaseOver (s : State) (k : Quad) : Bool := match k.lease with | none => true | some l => decide (s.leaseOf l ≤ k.leaseUsed)

theorem Quad.mem_heldCommands {k : Quad} {x : MxCmd} :
    x ∈ k.heldCommands ↔ x ∈ k.mxq ∧ x.done = false ∧ k.lease = some x.launch := by
  simp [Quad.heldCommands]

theorem State.leaseOver_iff {s : State} {k : Quad} :
    s.leaseOver k = true ↔ k.lease = none ∨ ∃ h, k.lease = some h ∧ s.leaseOf h ≤ k.leaseUsed := by
  unfold State.leaseOver
  cases k.lease <;> simp

/-- The engine passes to the heir: no command of the holder has started, and its lease is used up or it has none queued. -/
theorem exec_leasePass {s : State} {q l : Nat} (hl : s.leaseHeir q = some l) (hidle : ∀ x ∈ (s.quad q).heldCommands, x.started = false)
    (hover : (s.quad q).heldCommands = [] ∨ s.leaseOver (s.quad q) = true) :
    exec (.leasePass q) s = .next (s.modQuad q fun k => { k with lease := some l, leaseUsed := 0 }) := by
  have hcond : ¬ ((s.quad q).heldCommands.any (·.started) = true ∨
      (!(s.leaseOver (s.quad q) || (s.quad q).heldCommands.isEmpty)) = true) := by
    rintro (h | h)
    · obtain ⟨x, hx, hs⟩ := List.any_eq_true.mp h
      exact Bool.false_ne_true ((hidle x hx).symm.trans hs)
    · rcases hover with he | he <;> simp [he] at h
  simp only [exec, execLeasePass, hl]
  exact if_neg hcond

end Sys2Proof.Machine

namespace Sys2Proof

open Machine Safety

/-- Settles O55: ENGINE by the queue that it names; the other events by what lets each take its step and what the step comes to. -/
theorem copyAndMatrixEvents : Obligations.CopyAndMatrixEvents := by
  unfold Obligations.CopyAndMatrixEvents
  dsimp only
  refine ⟨fun s c p b sec q => ⟨rfl, rfl, rfl, fun x xs hq => ?matrix, fun o e ho hf he => ?slice⟩,
    fun s core p o ho hst hfree => ⟨exec_copyStep_ends ⟨ho, hst, hfree⟩, fun hm bs s1 s2 => exec_copyStep_moves ⟨ho, hst, hfree⟩ hm⟩,
    fun s bi i index o b ho hb hst hfree hi hfirst => ?element,
    fun s s1 q x op ops hx ho hfirst hst hfree hlease hrun => congrArg Host.Outcome.next (State.mxWork_ends hx ho hfirst hst hfree hlease hrun),
    fun s q n x hx => exec_matrixCommandDone hx, fun s q l hl hidle hover => ⟨_, exec_leasePass hl ?idle ?used, ?passed, rfl⟩⟩
  case matrix =>
    simp only [exec, execEngine, hq, List.head?_cons]
  case slice => simp only [exec, execEngine, ho, hf, he, Bool.false_eq_true, if_false]
  case element =>
    have h : s.SliceGoes bi i index o b := ⟨ho, hb, hst, hfree, hi, hfirst⟩
    exact ⟨fun bs s2 hg hc hr hw => exec_sliceElement_gathers h hg hc hr hw,
      fun bs s1 s2 hg hc hr hw => exec_sliceElement_scatters h hg hc hr hw⟩
  case idle =>
    intro x hx
    obtain ⟨hmem, hd, hh⟩ := Quad.mem_heldCommands.mp hx
    exact hidle x hmem hd hh
  case used =>
    refine hover.imp (fun hnone => List.eq_nil_iff_forall_not_mem.mpr fun x hx => ?_) State.leaseOver_iff.mpr
    obtain ⟨hmem, hd, hh⟩ := Quad.mem_heldCommands.mp hx
    exact hnone x hmem hd hh
  case passed => exact State.quad_setQuad_self s q _

end Sys2Proof
end

section
/-! PROOFS. The dispatcher's queues (05 R84 to R87): doorbells, control words and the fetch of launch records. -/

namespace Sys2Proof.Machine

open Safety

/-! ## Partitions and queues -/

@[simp] theorem State.part_modPart_self (s : State) (p : Nat) (f : Part → Part) : (s.modPart p f).part p = f (s.part p) := by
  simp [State.part]

theorem State.part_modPart (s : State) (p k : Nat) (f : Part → Part) :
    (s.modPart p f).part k = if k = p then f (s.part p) else s.part k := by
  by_cases hk : k = p
  · subst hk
    rw [State.part_modPart_self, if_pos rfl]
  · simp [State.part, Table.find_put_other _ _ _ _ hk, hk]

@[simp] theorem Part.queue_modQueue_self (x : Part) (q : Nat) (f : Queue → Queue) : (x.modQueue q f).queue q = f (x.queue q) := by
  simp [Part.queue, Part.modQueue]

/-- A queue changed is found changed. -/
theorem State.queue_modQueue (s : State) (p q : Nat) (f : Queue → Queue) :
    ((s.modQueue p q f).part p).queue q = f ((s.part p).queue q) := by
  rw [State.modQueue, State.part_modPart_self, Part.queue_modQueue_self]

theorem Part.queue_of_find {x : Part} {q : Nat} {y : Queue} (h : x.queues.find q = some y) : x.queue q = y := by
  rw [Part.queue, h, Option.getD_some]

/-! ## Doorbells (05 R84, R85) -/

theorem Part.kickable_of_on {x : Part} (hs : x.state ≠ 2) (hst : x.stopping = none) : x.kickable = true := by
  simp [Part.kickable, hs, hst]

/-- What serving a doorbell does to its queue. -/
theorem Queue.ring_eq (x : Queue) (t : Nat) : x.ring t = if x.en = false then x
    else if 2 ^ x.logn < (t + 4294967296 - x.head % 4294967296) % 4294967296 then { x with err := 4 } else { x with tail := t } := by
  cases h : x.en <;> simp [Queue.ring, sub32, h]

section
variable {s : State} {p q : Nat} (hq : q < 64) (hk : (s.part p).kickable = true)
include hq hk

theorem exec_doorbell (v : BitVec 64) : exec (.doorbell p q v) s = .next (if (s.part p).state = 1
    then s.modPart p fun y => { y with latched := y.latched.put q (v.toNat % 4294967296) }
    else s.modQueue p q fun y => y.ring (v.toNat % 4294967296)) := by
  simp only [exec, execDoorbell, Nat.not_le.mpr hq, hk, Bool.not_true, Bool.false_eq_true, or_self, if_false]
  split <;> rfl

/-! ## Control words (05 R84, Table 5.2) -/

variable {v : Word}

theorem exec_queueEnable_enables (hv : v.getLsbD 8 = true) (he : ((s.part p).queue q).en = false) (h1 : 1 ≤ v.toNat % 32)
    (h16 : v.toNat % 32 ≤ 16) : ∃ ls, exec (.queueEnable p q v) s =
      .next (({ s with launches := ls } : State).modQueue p q fun y => { y.fields v.toNat with en := true }) := by
  have hsize : ¬ (v.toNat % 32 = 0 ∨ 16 < v.toNat % 32) := by omega
  simp only [exec, execQueueEnable, Nat.not_le.mpr hq, hk, hv, he, hsize, Bool.not_true, Bool.false_eq_true, or_self, if_false]
  exact ⟨_, rfl⟩

/-- The control word of a queue that is enabled already, or of a size that no queue has, enables nothing. -/
theorem exec_queueEnable_fields (hv : v.getLsbD 8 = true)
    (h : ((s.part p).queue q).en = true ∨ v.toNat % 32 = 0 ∨ 16 < v.toNat % 32) :
    exec (.queueEnable p q v) s = .next (s.modQueue p q fun y => y.fields v.toNat) := by
  simp only [exec, execQueueEnable, Nat.not_le.mpr hq, hk, hv, Bool.not_true, Bool.false_eq_true, or_self, if_false]
  by_cases he : ((s.part p).queue q).en = true
  · rw [if_pos he]
  · rw [if_neg he, if_pos (h.resolve_left he)]

theorem exec_queueDisable (hv : v.getLsbD 8 = false) : ∃ ls, exec (.queueDisable p q v) s =
    .next (({ s with launches := ls } : State).modQueue p q fun y =>
      { y.fields v.toNat with en := false, err := 0, head := 0, fetched := 0, tail := 0 }) := by
  simp only [exec, execQueueDisable, Nat.not_le.mpr hq, hk, hv, Bool.not_true, Bool.false_eq_true, or_self, if_false]
  exact ⟨_, rfl⟩

end

/-! ## Fetching a record (05 R86, R87) -/

/-- The state after the next record of queue q has been read: its turn among its equals is over. -/
def State.recordRead (s : State) (p q : Nat) (x : Queue) : State :=
  (s.modPart p fun y => { y with lastQueue := y.lastQueue.put x.prio q }).modQueue p q fun y =>
    { y with fetched := (y.fetched + 1) % 4294967296 }

theorem State.recordRead_queue {s : State} {p q : Nat} {x : Queue} (hx : (s.part p).queues.find q = some x) :
    ((s.recordRead p q x).part p).queue q = { x with fetched := (x.fetched + 1) % 4294967296 } := by
  rw [State.recordRead, State.queue_modQueue, State.part_modPart_self]
  exact congrArg (fun y : Queue => { y with fetched := (y.fetched + 1) % 4294967296 }) (Part.queue_of_find hx)

/-- The launch of a record that queue q gives. -/
def State.newLaunch (s : State) (p q : Nat) (x : Queue) (r : LaunchRec) : Launch :=
  { part := p, queue := q, id := launchId q x.fetched, order := s.seq, record := r
    pred := if r.pred = 0 then none else (s.recordRead p q x).named p r.pred, hasPred := r.pred != 0, nextBlock := 0
    halted := false, counts := true, skipped := none, served := false, yielding := false
    yielded := false, keyedBlocks := 0, bind := none, past := [], complete := false }

section
variable {s : State} {p q : Nat} {x : Queue} {bs : List Byte} (hrun : (s.part p).running = true) (hq : (s.part p).nextQueue = some (q, x))
  (hc : s.deviceCheck p (s.asidOf p) (x.base + 64 * (x.fetched % 2 ^ x.logn)) .read = .go)
  (hr : s.engineRead (s.asidOf p) (x.base + 64 * (x.fetched % 2 ^ x.logn)) 64 = some bs)
include hrun hq hc hr

theorem exec_launchFetch_bad (hb : parseRecord bs x.cls = none) :
    exec (.launchFetch p) s = .next ((s.recordRead p q x).modQueue p q fun y => { y with err := 1 }) := by
  simp only [exec, execLaunchFetch, hrun, hq, hc, hr, hb, Bool.not_true, Bool.false_eq_true, if_false]
  rfl

theorem exec_launchFetch_good {r : LaunchRec} (hb : parseRecord bs x.cls = some r) :
    exec (.launchFetch p) s =
      .next (((s.recordRead p q x).stamp.2.dropCode (s.asidOf p)).setLaunch s.seq (s.newLaunch p q x r)) := by
  simp only [exec, execLaunchFetch, hrun, hq, hc, hr, hb, Bool.not_true, Bool.false_eq_true, if_false]
  rfl

end

theorem State.launch?_setLaunch_self (s : State) (l : Nat) (x : Launch) : (s.setLaunch l x).launch? l = some x := by
  simp [State.launch?, State.setLaunch]

end Sys2Proof.Machine
end

section
/-! PROOFS. Placing blocks and children, completing launches and making them yield (05 R89, R91 to R95, R106). -/

namespace Sys2Proof.Machine

open Safety

/-! ## Launches -/

theorem State.launch?_modLaunch (s : State) (h l : Nat) (f : Launch → Launch) :
    (s.modLaunch h f).launch? l = (s.launch? l).map fun x => if l = h then f x else x := by
  by_cases e : l = h
  · subst e
    simp [State.launch?]
  · simp [State.launch?, Table.find_modify_other _ _ _ _ e, e]

theorem State.launch?_modLaunch_some {s : State} {l : Nat} {x : Launch} (h : s.launch? l = some x) (f : Launch → Launch) :
    (s.modLaunch l f).launch? l = some (f x) := by
  rw [State.launch?_modLaunch, h, Option.map_some, if_pos rfl]

/-! ## What placing a block leaves -/

/-- Placing a wave changes no launch, no block and no partition's children. -/
theorem State.placeWave_frame (s : State) (b : Start) (key waveId role pc : Nat) (sregs : List Nat) :
    (s.placeWave b key waveId role pc sregs).launches = s.launches ∧ (s.placeWave b key waveId role pc sregs).blocks = s.blocks ∧
      ∀ p, ((s.placeWave b key waveId role pc sregs).part p).children = (s.part p).children := by
  refine ⟨rfl, rfl, fun p => ?_⟩
  have h := State.part_modPart s b.part p fun x => { x with waveCounter := (x.waveCounter + 1) % 1073741824 }
  refine (congrArg Part.children h).trans ?_
  split
  · next hp => rw [hp]
  · rfl

/-- Nor does placing a block's waves one after another. -/
theorem State.placeWaves_frame (b : Start) (r : LaunchRec) (es : List (Nat × Nat)) (s : State) :
    let t := es.foldl (fun s e => s.placeWave b e.2 e.1 (r.role e.1) r.entry (b.scalars e.1)) s
    t.launches = s.launches ∧ t.blocks = s.blocks ∧ ∀ p, (t.part p).children = (s.part p).children := by
  induction es generalizing s with
  | nil => exact ⟨rfl, rfl, fun _ => rfl⟩
  | cons e es ih =>
    obtain ⟨hl, hb, hc⟩ := ih (s.placeWave b e.2 e.1 (r.role e.1) r.entry (b.scalars e.1))
    obtain ⟨hl', hb', hc'⟩ := s.placeWave_frame b e.2 e.1 (r.role e.1) r.entry (b.scalars e.1)
    exact ⟨hl.trans hl', hb.trans hb', fun p => (hc p).trans (hc' p)⟩

/-- A placed block starts with n waves where it was placed, under the order stamp that it took. -/
theorem State.placeBlock_spec (s : State) (part launch core blockId size pos n : Nat) (r : LaunchRec) (child : Option ChildInfo) :
    let t := s.placeBlock part launch core blockId size pos n r child
    t.launches = s.launches ∧ (∀ p, (t.part p).children = (s.part p).children) ∧ ∃ b, t.block? s.seq = some b ∧
      b.core = core ∧ b.pos = pos ∧ b.launch = launch ∧ b.blockId = blockId ∧ b.waves.length = n ∧ b.child = child := by
  obtain ⟨hl, hb, hc⟩ := State.placeWaves_frame _ r ((upTo n).zip ((upTo n).map fun i => s.stamp.1 + 1 + i)) _
  refine ⟨hl, hc, _, (congrArg (Table.find · s.seq) hb).trans (Table.find_put_self _ _ _), rfl, rfl, rfl, rfl, ?_, rfl⟩
  simp [startBlock, upTo]

/-! ## Placing (05 R91 to R95) -/

theorem State.neverFits_iff {s : State} {p n : Nat} {r : LaunchRec} :
    s.neverFits p r n = true ↔ ∀ c ∈ (s.part p).coreList, s.everFits p c r n = false := by
  simp [State.neverFits]

theorem State.neverFits_false {s : State} {p n : Nat} {r : LaunchRec} (h : ∃ c ∈ (s.part p).coreList, s.everFits p c r n = true) :
    s.neverFits p r n = false := by
  simpa [State.neverFits] using h

/-- A launch that is halted is found halted, and its queue has ERR 3. -/
theorem State.haltLaunch_spec {s : State} {l : Nat} {x : Launch} (h : s.launch? l = some x) :
    ((s.haltLaunch l x).launch? l).map (·.halted) = some true ∧ (((s.haltLaunch l x).part x.part).queue x.queue).err = 3 := by
  exact ⟨congrArg (Option.map (·.halted)) (State.launch?_modLaunch_some h fun y => { y with halted := true }),
    congrArg (·.err) (State.queue_modQueue _ x.part x.queue _)⟩

section
variable {s : State} {l : Nat} {x : Launch} (hl : s.launch? l = some x) (hp : s.placing x.part = true)
include hl hp

/-- A launch that has yielded, or is to, resumes when no higher one waits (05 R106). -/
theorem exec_blockPlace_resumes (hy : x.yielded = true ∨ x.yielding = true) (ho : s.outranked x = false) :
    exec (.blockPlace l) s = .next (s.modLaunch l fun y => { y with yielding := false, yielded := false }) := by
  simp only [exec, execBlockPlace, hl, hp, hy, ho, Bool.not_true, Bool.false_eq_true, if_false, if_true]

variable (hy : x.yielded = false) (hyi : x.yielding = false) (hw : s.wantsPlace l x = true)
  (hlook : s.looks x.part x.nextBlock x.skipped = true)
include hy hyi hw hlook

theorem exec_blockPlace_halts (hn : s.neverFits x.part x.record x.record.waves = true) :
    exec (.blockPlace l) s = .next (s.haltLaunch l x) := by
  simp only [exec, execBlockPlace, hl, hp, hy, hyi, hw, hlook, hn, Bool.not_true, Bool.false_eq_true, or_self, if_false, if_true]

theorem exec_blockPlace_skips (hn : s.neverFits x.part x.record x.record.waves = false)
    (hf : s.placeFor x.part x.record x.record.waves x.nextBlock = none) :
    exec (.blockPlace l) s = .next (s.stamp.2.modLaunch l fun y => { y with skipped := some s.seq, served := false }) := by
  simp only [exec, execBlockPlace, hl, hp, hy, hyi, hw, hlook, hn, hf, Bool.not_true, Bool.false_eq_true, or_self, if_false]
  rfl

theorem exec_blockPlace_places {core pos : Nat} (hn : s.neverFits x.part x.record x.record.waves = false)
    (hf : s.placeFor x.part x.record x.record.waves x.nextBlock = some (core, pos)) :
    exec (.blockPlace l) s = .next (((s.wakeCore core).placeBlock x.part l core x.nextBlock x.record.waves pos x.record.waves x.record
      none).modLaunch l fun y => { y with nextBlock := y.nextBlock + 1, skipped := none, served := false }) := by
  simp only [exec, execBlockPlace, hl, hp, hy, hyi, hw, hlook, hn, hf, Bool.not_true, Bool.false_eq_true, or_self, if_false]

end

section
variable {s : State} {p : Nat} {c : Child} (hp : s.placing p = true)
  (hc : (s.part p).children.find? (fun c => (s.launch? c.launch).all fun l => !l.yielded && !l.halted) = some c)
  (hr : s.releasing c.rel = false) (hlook : s.looks p (s.part p).childCounter (s.part p).childSkipped = true)
include hp hc hr hlook

theorem exec_childPlace_halts {l : Launch} (hn : s.neverFits p c.record 1 = true) (hl : s.launch? c.launch = some l) :
    exec (.childPlace p) s = .next (s.haltLaunch c.launch l) := by
  simp only [exec, execChildPlace, hp, hc, hr, hlook, hn, hl, Bool.not_true, Bool.false_eq_true, or_self, if_false, if_true, Option.elim_some]

theorem exec_childPlace_places {core pos : Nat} (hn : s.neverFits p c.record 1 = false)
    (hf : s.placeFor p c.record 1 (s.part p).childCounter = some (core, pos)) :
    exec (.childPlace p) s = .next (((s.modPart p fun y => y.takeChild c).wakeCore core).placeBlock p c.launch core 0 1 pos 1 c.record
      (some c.info)) := by
  simp only [exec, execChildPlace, hp, hc, hr, hlook, hn, hf, Bool.not_true, Bool.false_eq_true, or_self, if_false]

end

/-! ## Completing (05 R89) -/

section
variable {s s1 : State} {l : Nat} {x : Launch} (hl : s.launch? l = some x) (hrun : (s.part x.part).running = true)
  (hc : s.completeChildren l = s1)
include hl hrun hc

theorem exec_launchComplete_children (hd : s1.launchDone l x = false) : exec (.launchComplete l) s = .next s1 := by
  simp only [exec, execLaunchComplete, hl, hrun, hc, hd, Bool.not_true, Bool.not_false, Bool.false_eq_true, if_false, if_true]

theorem exec_launchComplete_done {s2 : State} (hd : s1.launchDone l x = true) (he : s1.endBindings x.part l = .ok s2) :
    exec (.launchComplete l) s = .next (if s2.launchReleased l x = true then s2.completeLaunch l x else s2) := by
  simp only [exec, execLaunchComplete, hl, hrun, hc, hd, he, Bool.not_true, Bool.false_eq_true, if_false]

end

/-! ## Yielding (05 R106) -/

theorem Table.find_map {α : Type} (t : Table α) (f : α → α) (i : Nat) : Table.find (t.map fun e => (e.1, f e.2)) i = (t.find i).map f := by
  induction t with
  | nil => rfl
  | cons e t ih =>
    obtain ⟨k, x⟩ := e
    simp only [List.map_cons, Table.find, ih]
    split
    · rfl
    · split <;> rfl

/-- Waves that are asked to leave: each that is resident, has not exited and is not leaving already has a window from now on. -/
theorem State.wave?_askToLeave (s : State) (f : Wave → Bool) (wi : Nat) : (s.askToLeave f).wave? wi = (s.wave? wi).map fun w =>
    if (f w && w.res == .resident && !w.exited && w.preempt == .none) = true then { w with preempt := .window (s.core w.core).clk.toNat }
    else w := by
  refine Eq.trans (congrArg (Table.find · wi) (List.map_congr_left fun e _ => ?_)) (Table.find_map s.waves _ wi)
  split <;> rfl

theorem State.launch?_askToLeave (s : State) (f : Wave → Bool) (l : Nat) : (s.askToLeave f).launch? l = s.launch? l := rfl

theorem exec_launchPreempt {s : State} {l h : Nat} {x : Launch} (hl : s.launch? l = some x) (hp : s.placing x.part = true)
    (hb : s.beneficiary l x = some h) : exec (.launchPreempt l) s = .next (if x.record.cls = 1
      then (s.modLaunch h fun y => { y with served := true }).modLaunch l fun y => { y with yielding := true }
      else ((s.modLaunch h fun y => { y with served := true }).modLaunch l fun y => { y with yielded := true }).askToLeave
        fun w => w.launch == l) := by
  simp only [exec, execLaunchPreempt, hl, hp, hb, Bool.not_true, Bool.false_eq_true, if_false]

end Sys2Proof.Machine
end

section
/-! PROOFS. Leaving residence and coming back (18 R261 to R270). -/

namespace Sys2Proof.Machine

open Safety

/-! ## WAVE_SAVE (18 R261, R264) -/

section
variable {s : State} {wi t0 : Nat} {w : Wave} {b : Block} (hw : s.wave? wi = some w) (hb : s.block? w.block = some b)
  (hr : w.res = .resident) (he : w.exited = false) (hrun : (s.part w.part).running = true)
include hw hb hr he hrun

/-- A wave that is to leave, with its rewindable flag set: by the descriptor of its mark. -/
theorem exec_waveSave_rewindable {m : Mark} (hp : w.preempt = .window t0) (hf : w.rewindable = true) (hm : w.mark = some m) :
    (∀ r, s.recipe w m = .ok r → s.saveWaits wi w = false → exec (.waveSave wi) s = .next (s.saveRewound wi w b r m)) ∧
      (∀ s1, s.recipe w m = .wait s1 → exec (.waveSave wi) s = .next s1) ∧
      (s.recipe w m = .bad → w.trap = none → exec (.waveSave wi) s = .next (s.saveOrFreeze wi w b t0)) := by
  refine ⟨fun r hd hwait => ?_, fun s1 hd => ?_, fun hd ht => ?_⟩
  · simp only [exec, execWaveSave, hw, hb, hr, he, hrun, hp, hf, hm, hd, hwait, ne_eq, not_true_eq_false, Bool.not_true, Bool.false_eq_true,
      or_self, if_false, if_true]
  · simp only [exec, execWaveSave, hw, hb, hr, he, hrun, hp, hf, hm, hd, ne_eq, not_true_eq_false, Bool.not_true, Bool.false_eq_true,
      or_self, if_false, if_true]
  · simp only [exec, execWaveSave, hw, hb, hr, he, hrun, hp, hf, hm, hd, ht, Option.isSome_none, ne_eq, not_true_eq_false, Bool.not_true,
      Bool.false_eq_true, or_self, if_false, if_true]

/-- A wave that is to leave, with no mark to rewind to, once all its splits are parked. -/
theorem exec_waveSave_parked (hp : w.preempt = .window t0) (hm : w.rewindable = false ∨ w.mark = none) (ht : w.trap = none)
    (hall : s.allParked wi w = true) : exec (.waveSave wi) s = .next (s.saveOrFreeze wi w b t0) := by
  have hnone : (if w.rewindable = true then w.mark else none) = none := by
    rcases hm with h | h <;> simp [h]
  simp only [exec, execWaveSave, hw, hb, hr, he, hrun, hp, hnone, ht, hall, Option.isNone_none, ne_eq, not_true_eq_false, Bool.not_true,
    Bool.false_eq_true, or_self, and_self, if_false, if_true]

/-- A wave that is being saved goes on with its save. -/
theorem exec_waveSave_saving (hp : w.preempt = .saving t0) (ht : w.trap = none) :
    exec (.waveSave wi) s = .next (s.saveOrFreeze wi w b t0) := by
  simp only [exec, execWaveSave, hw, hb, hr, he, hrun, hp, ht, Option.isSome_none, ne_eq, not_true_eq_false, Bool.not_true,
    Bool.false_eq_true, or_self, if_false]

end

theorem State.saveOrFreeze_whole {s : State} {wi : Nat} {w : Wave} (hp : w.pend = []) (hx : ∀ x ∈ w.splits, x.isCompleting = false)
    (hwait : s.saveWaits wi w = false) (b : Block) (t0 : Nat) : s.saveOrFreeze wi w b t0 = s.saveWhole wi w b := by
  have hclear : w.sbClear = true := List.isEmpty_iff.mpr hp
  have hnone : (w.splits.any Split.isCompleting) = false := List.any_eq_false.mpr fun x h => by simp [hx x h]
  simp only [State.saveOrFreeze, hclear, hnone, hwait, Bool.not_false, and_self, if_true]

/-! ## PREEMPT (18 R264) -/

section
variable {s : State} {wi t0 : Nat} {w : Wave} {x : Split} (hw : s.wave? wi = some w) (hlow : w.lowest = some x) (he : w.exited = false)
  (hr : w.res = .resident)
include hw hlow he hr

/-- The window of a running wave is over: it takes PREEMPT, or without room for its save area the partition stops with REASON 8. -/
theorem exec_markWindowExpiry (hp : w.preempt = .window t0) (ht : w.trap = none) (hf : w.rewindable = false)
    (hrun : (s.part w.part).running = true) (hlate : 60000 ≤ s.since w.core t0) (hall : s.allParked wi w = false)
    (hx : x.isCompleting = false) :
    (∀ addr s1, s.allocArea w = some (addr, s1) → exec (.markWindowExpiry wi) s = .next ((s1.modWave wi fun y =>
      { y with preempt := .raised addr (s.core w.core).clk.toNat w.splits.length }).preempt wi x addr)) ∧
    (s.allocArea w = none → exec (.markWindowExpiry wi) s = .next (s.beginStop w.part 8 (w.token * 4 + x.num))) := by
  refine ⟨fun addr s1 ha => ?_, fun ha => ?_⟩
  · simp only [exec, execMarkWindowExpiry, hw, hlow, he, hr, hp, ht, hf, hrun, hall, hx, ha, Nat.not_lt.mpr hlate, Option.isSome_none, ne_eq,
      not_true_eq_false, Bool.not_true, Bool.false_eq_true, or_self, if_false]
  · simp only [exec, execMarkWindowExpiry, hw, hlow, he, hr, hp, ht, hf, hrun, hall, hx, ha, Nat.not_lt.mpr hlate, Option.isSome_none, ne_eq,
      not_true_eq_false, Bool.not_true, Bool.false_eq_true, or_self, if_false, State.poolFull, Wave.tokenOf, Option.elim_some]

theorem exec_preemptHandlerTimeout {addr n : Nat} (hp : w.preempt = .raised addr t0 n) (hex : w.exiting = false)
    (hlate : 240000 ≤ s.since w.core t0) :
    exec (.preemptHandlerTimeout wi) s = .next (s.beginStop w.part 5 (w.token * 4 + x.num)) := by
  simp only [exec, execPreemptHandlerTimeout, hw, hlow, he, hr, hp, hex, Nat.not_lt.mpr hlate, ne_eq, not_true_eq_false, Bool.false_eq_true,
    or_self, if_false, Wave.tokenOf, Option.elim_some]

end

/-! ## WAVE_RESTORE (18 R265, R267, R270) -/

section
variable {s : State} {wi addr : Nat} {w : Wave} (hw : s.wave? wi = some w) (hp : s.placing w.part = true) (he : w.exited = false)
include hw hp he

/-- The block of a descheduled partition is placed first (21 R277). -/
theorem exec_waveRestore_block {b : Block} (hr : w.res ≠ .resident) (hb : s.block? w.block = some b) (hs : b.saved = true) :
    exec (.waveRestore wi) s = .next (s.replaceBlock w.block) := by
  simp only [exec, execWaveRestore, hw, hp, he, hr, hb, hs, Option.any_some, Bool.not_true, Bool.false_eq_true, or_self, if_false, if_true]

variable (hb : (s.block? w.block).any (·.saved) = false) (hfit : s.fitsAgain w = true) (hmay : s.mayReturn w = true)
include hb hfit hmay

/-- A wave that its handler saved restores itself by its handler. -/
theorem exec_waveRestore_handler (hr : w.res = .handler addr) : exec (.waveRestore wi) s =
    .next ((s.returns wi addr (w.restoreByHandler Cause.preempt addr s.seq)).acquireAt wi 0 false) := by
  have hne : w.res ≠ .resident := by simp [hr]
  simp only [exec, execWaveRestore, hw, hp, he, hne, hb, hfit, hmay, Bool.not_true, Bool.false_eq_true, or_self, if_false]
  simp only [hr]

/-- A wave that the device saved: by what its save area holds. -/
theorem exec_waveRestore_saved {rew : Bool} {bs : List Byte} (hr : w.res = .saved addr rew)
    (ha : s.engineRead (s.asidOf w.part) addr w.areaSize = some bs) : exec (.waveRestore wi) s = .next (
      if areaOk bs w rew = false then (s.returns wi addr (w.restoreByHandler Cause.illegal addr s.seq)).acquireAt wi 0 false
      else if rew = true then (s.freeBytes (4096 * w.tileCount)).2.returns wi addr
        (w.restoreRewound bs (s.freeBytes (4096 * w.tileCount)).1 s.seq)
      else s.returns wi addr (w.restoreWhole bs s.seq)) := by
  have hne : w.res ≠ .resident := by simp [hr]
  simp only [exec, execWaveRestore, hw, hp, he, hne, hb, hfit, hmay, Bool.not_true, Bool.false_eq_true, or_self, if_false]
  simp only [hr, ha, Bool.not_eq_true']
  split
  · rfl
  · split <;> rfl

end

end Sys2Proof.Machine

namespace Sys2Proof

open Machine Safety

/-- Settles O58: each event by what lets it act and what it then leaves, clause by clause. -/
theorem dispatchEvents : Obligations.DispatchEvents := by
  unfold Obligations.DispatchEvents
  dsimp only
  refine ⟨fun s p q v hq hs hst => ?doorbell,
    fun s p q v hq hk => ⟨fun hv he h1 h16 => ?enables, fun hv h => ?fields, fun hv => ?disables⟩,
    fun s p q x bs hrun hq hx hc hr => ⟨fun hb => ?bad, fun r hb => ?good⟩,
    fun s l x hl hp => ⟨fun hy ho => exec_blockPlace_resumes hl hp hy ho, fun hy hyi hw hlook =>
      ⟨fun hn => ?halts, fun hex hf => ?skips, fun core pos hex hf => ?places⟩⟩,
    fun s p core pos c hp hc hr hlook => ⟨fun l hn hl => exec_childPlace_halts hp hc hr hlook hn hl, fun hn hf => ?child⟩,
    fun s s1 s2 l x hl hrun hc => ⟨exec_launchComplete_children hl hrun hc, exec_launchComplete_done hl hrun hc⟩,
    fun s l h x hl hp hb => ?preempts,
    fun s s1 wi t0 w b hw hb hr he hrun => ?save,
    fun s s1 wi t0 addr w x hw hp hlow hr he ht hf hrun hlate hall hx => ?window,
    fun s wi addr t0 n w x hw hp he hex hr hlate hlow => exec_preemptHandlerTimeout hw hlow he hr hp hex hlate,
    fun s wi addr w hw hp he hr => ⟨fun b hb hs => exec_waveRestore_block hw hp he hr hb hs, fun hb hfit hmay => ?restore⟩⟩
  case doorbell =>
    have he := exec_doorbell hq (Part.kickable_of_on hs hst) v
    refine ⟨fun h1 => ?latched, fun h1 => ?served⟩
    case latched =>
      rw [if_pos h1] at he
      refine ⟨_, he, ?_, ?_⟩
      · rw [State.part_modPart_self]
        exact Table.find_put_self _ _ _
      · exact congrArg (·.queue q) (State.part_modPart_self s p _)
    case served =>
      rw [if_neg h1] at he
      exact ⟨_, he, rfl, (State.queue_modQueue s p q _).trans (Queue.ring_eq _ _)⟩
  case enables =>
    obtain ⟨ls, he⟩ := exec_queueEnable_enables hq hk hv he h1 h16
    exact ⟨_, he, State.queue_modQueue _ p q _⟩
  case fields => exact ⟨_, exec_queueEnable_fields hq hk hv h, State.queue_modQueue s p q _⟩
  case disables =>
    obtain ⟨ls, he⟩ := exec_queueDisable hq hk hv
    exact ⟨_, he, State.queue_modQueue _ p q _⟩
  case bad =>
    refine ⟨_, exec_launchFetch_bad hrun hq hc hr hb, ?_, rfl⟩
    rw [State.queue_modQueue, State.recordRead_queue hx]
  case good =>
    exact ⟨_, _, exec_launchFetch_good hrun hq hc hr hb, State.recordRead_queue hx, State.launch?_setLaunch_self _ _ _, rfl, rfl, rfl, rfl,
      rfl, rfl⟩
  case halts => exact ⟨_, exec_blockPlace_halts hl hp hy hyi hw hlook (State.neverFits_iff.mpr hn), State.haltLaunch_spec hl⟩
  case skips =>
    exact ⟨_, exec_blockPlace_skips hl hp hy hyi hw hlook (State.neverFits_false hex) hf,
      congrArg (Option.map (·.skipped)) (State.launch?_modLaunch_some (s := s.stamp.2) hl _), rfl⟩
  case places =>
    obtain ⟨hls, -, b, hb, hcore, hpos, hlaunch, hid, hn, hchild⟩ := (s.wakeCore core).placeBlock_spec x.part l core x.nextBlock
      x.record.waves pos x.record.waves x.record none
    have hl' := (congrArg (Table.find · l) hls).trans hl
    exact ⟨_, b, exec_blockPlace_places hl hp hy hyi hw hlook (State.neverFits_false hex) hf,
      congrArg (Option.map (·.nextBlock)) (State.launch?_modLaunch_some hl' _), hb, hcore, hpos, hlaunch, hid, hn, hchild⟩
  case child =>
    obtain ⟨-, hcs, b, hb, hcore, hpos, hlaunch, -, -, hchild⟩ := ((s.modPart p fun y => y.takeChild c).wakeCore core).placeBlock_spec p
      c.launch core 0 1 pos 1 c.record (some c.info)
    refine ⟨_, b, exec_childPlace_places hp hc hr hlook hn hf, (hcs p).trans ?_, hb, hcore, hpos, hlaunch, hchild⟩
    exact congrArg (·.children) (State.part_modPart_self s p fun y => y.takeChild c)
  case preempts =>
    have hl' := (State.launch?_modLaunch s h l fun y => { y with served := true }).trans (congrArg _ hl)
    refine ⟨_, exec_launchPreempt hl hp hb, fun hc => ?yields, fun hc => ?leaves⟩
    case yields =>
      rw [if_pos hc]
      exact ⟨congrArg (Option.map (·.yielding)) (State.launch?_modLaunch_some hl' _), rfl⟩
    case leaves =>
      rw [if_neg hc]
      refine ⟨congrArg (Option.map (·.yielded)) ((State.launch?_askToLeave _ _ l).trans (State.launch?_modLaunch_some hl' _)),
        fun wi w hw hlaunch hr he hp => ?_⟩
      have hw' := (State.wave?_askToLeave ((s.modLaunch h fun y => { y with served := true }).modLaunch l fun y =>
        { y with yielded := true }) (fun w => w.launch == l) wi).trans (congrArg _ hw)
      rw [hw', Option.map_some, if_pos (by simp [hlaunch, hr, he, hp])]
      rfl
  case save =>
    refine ⟨fun m hp hf hm => ?rewindable, fun hp hm ht hall => exec_waveSave_parked hw hb hr he hrun hp hm ht hall,
      fun hp ht => exec_waveSave_saving hw hb hr he hrun hp ht, fun hp hx hwait => State.saveOrFreeze_whole hp hx hwait b t0⟩
    obtain ⟨hok, hwait, hbad⟩ := exec_waveSave_rewindable hw hb hr he hrun hp hf hm
    exact ⟨hok, hwait s1, hbad⟩
  case window =>
    obtain ⟨hroom, hfull⟩ := exec_markWindowExpiry hw hlow he hr hp ht hf hrun hlate hall hx
    exact ⟨hroom addr s1, hfull⟩
  case restore =>
    have hsaved : (s.block? w.block).any (·.saved) = false := by
      cases h : s.block? w.block with
      | none => rfl
      | some b => exact hb b h
    refine ⟨exec_waveRestore_handler hw hp he hsaved hfit hmay, fun bs rew hres ha => ?_⟩
    rw [exec_waveRestore_saved hw hp he hsaved hfit hmay hres ha]
    refine ⟨fun hbad => congrArg Host.Outcome.next (if_pos hbad), fun hwhole hok => ?_, fun hrew hok => ?_⟩
    · rw [if_neg (by simp [hok]), if_neg (by simp [hwhole])]
    · rw [if_neg (by simp [hok]), if_pos hrew]

end Sys2Proof
end

section
/-! PROOFS. The causes that an access's addresses have (06 R107 to R109, 18 R249): which lanes have one, and which of them FADDR and FMASK
name. -/

namespace Sys2Proof.Machine

open Safety

/-! ## The cause of one address -/

/-- An address lies beyond the global region and the declared scratch. -/
def State.beyond (s : State) (w : Wave) (va : Nat) : Bool :=
  !(decide (va < Config.aperture)) && !(decide (va < Config.aperture + s.scratchOf w))

section
variable {s : State} {w : Wave} (hs : s.scratchOf w ≤ 524288)
include hs

/-- A block's scratch, of at most 512 KiB, ends below the reserved region: an address with no place is one beyond it. -/
theorem State.beyond_eq (va : Nat) :
    (!(isGlobal va) && !(inAperture va && decide (va + 1 ≤ Config.aperture + s.scratchOf w))) = s.beyond w va := by
  have hend : Config.aperture + s.scratchOf w ≤ Config.reservedRegion := by
    simp only [Config.aperture, Config.reservedRegion]; omega
  rw [Bool.eq_iff_iff]
  simp only [State.beyond, isGlobal, inAperture, Bool.and_eq_true, Bool.not_eq_true', Bool.and_eq_false_iff,
    decide_eq_false_iff_not]
  omega

variable (width : Nat) (stores : Bool) {va : Nat}

theorem addrCause_aperture : (addrCause s w width stores va == some Cause.aperture) = s.beyond w va := by
  rw [addrCause, State.beyond_eq hs]
  cases s.beyond w va with
  | true => rfl
  | false =>
    rw [if_neg Bool.false_ne_true]
    split_ifs <;> rfl

theorem addrCause_misalign (h : s.beyond w va = false) :
    (addrCause s w width stores va == some Cause.misalign) = decide (va % width ≠ 0) := by
  rw [addrCause, State.beyond_eq hs, h, if_neg Bool.false_ne_true]
  split_ifs <;> simp_all [Cause.snapFull, Cause.misalign]

end

/-! ## The cause that an access raises (18 R249) -/

/-- The lanes that a list names. -/
def laneMask (ls : List (Nat × Nat)) : Word := ls.foldl (fun m e => m ||| laneBit e.1) 0

/-- Each lane with its address and the cause of that address, as the check of an access has it. -/
def laneCauses (s : State) (c : Ctx) (width : Nat) (stores : Bool) (ls : List (Nat × Nat)) : List (Nat × Nat × Option Nat) :=
  ls.map fun e => (e.1, e.2, addrCause s c.w width stores e.2)

/-- What one cause raises, the lanes that have it being given: FADDR is the lowest one's address. -/
def causeTrap (c : Ctx) (uniform : Bool) (k : Nat) : List (Nat × Nat × Option Nat) → Option Effect
  | [] => none
  | e :: es => some (.trap k e.2.1 (if uniform then c.act else (e :: es).foldl (fun m x => m ||| laneBit x.1) 0))

theorem lanesTrap_eq (c : Ctx) (uniform : Bool) (cs : List (Nat × Nat × Option Nat)) :
    lanesTrap c uniform cs = [Cause.aperture, Cause.misalign, Cause.snapFull].findSome? fun k =>
      causeTrap c uniform k (cs.filter fun e => e.2.2 == some k) := rfl

section
variable {s : State} {c : Ctx} {width : Nat} {stores : Bool} {ls : List (Nat × Nat)} {k : Nat} {f : Nat → Bool}
  (hf : ∀ e ∈ ls, (addrCause s c.w width stores e.2 == some k) = f e.2)
include hf

/-- The lanes with a cause are those whose address has it. -/
theorem laneCauses_filter : (laneCauses s c width stores ls).filter (fun e => e.2.2 == some k) =
    laneCauses s c width stores (ls.filter fun e => f e.2) := by
  rw [laneCauses, List.filter_map]
  exact congrArg _ (List.filter_congr hf)

theorem causeTrap_none (uniform : Bool) (hn : (ls.filter fun e => f e.2) = []) :
    causeTrap c uniform k ((laneCauses s c width stores ls).filter fun e => e.2.2 == some k) = none := by
  rw [laneCauses_filter hf, hn]
  rfl

/-- FADDR is the address of the lowest lane with the cause; FMASK holds those lanes, or ACT. -/
theorem causeTrap_some (uniform : Bool) {e : Nat × Nat} (he : (ls.filter fun e => f e.2).head? = some e) :
    causeTrap c uniform k ((laneCauses s c width stores ls).filter fun e => e.2.2 == some k) =
      some (.trap k e.2 (if uniform then c.act else laneMask (ls.filter fun e => f e.2))) := by
  obtain ⟨es, hes⟩ := List.head?_eq_some_iff.mp he
  rw [laneCauses_filter hf, hes]
  simp only [laneCauses, laneMask, List.map_cons, causeTrap, List.foldl_cons, List.foldl_map]

end

/-- APERTURE comes first, MISALIGN where no lane has the former. -/
theorem lanesTrap_address {s : State} {c : Ctx} (hs : s.scratchOf c.w ≤ 524288) (uniform : Bool) (width : Nat) (stores : Bool)
    (ls : List (Nat × Nat)) :
    (∀ e, (ls.filter fun e => s.beyond c.w e.2).head? = some e → lanesTrap c uniform (laneCauses s c width stores ls) =
      some (.trap Cause.aperture e.2 (if uniform then c.act else laneMask (ls.filter fun e => s.beyond c.w e.2)))) ∧
    ((ls.filter fun e => s.beyond c.w e.2) = [] → ∀ e, (ls.filter fun e => decide (e.2 % width ≠ 0)).head? = some e →
      lanesTrap c uniform (laneCauses s c width stores ls) =
        some (.trap Cause.misalign e.2 (if uniform then c.act else laneMask (ls.filter fun e => decide (e.2 % width ≠ 0))))) := by
  have hap : ∀ e ∈ ls, (addrCause s c.w width stores e.2 == some Cause.aperture) = s.beyond c.w e.2 := fun e _ =>
    addrCause_aperture hs width stores
  refine ⟨fun e he => ?_, fun hn e he => ?_⟩
  · rw [lanesTrap_eq, List.findSome?_cons, causeTrap_some hap uniform he]
  · have hmis : ∀ e ∈ ls, (addrCause s c.w width stores e.2 == some Cause.misalign) = decide (e.2 % width ≠ 0) := fun e he =>
      addrCause_misalign hs width stores (Bool.eq_false_of_not_eq_true (List.filter_eq_nil_iff.mp hn e he))
    rw [lanesTrap_eq, List.findSome?_cons, causeTrap_none hap uniform hn, List.findSome?_cons,
      causeTrap_some (f := fun va => decide (va % width ≠ 0)) hmis uniform he]

/-- Lanes with such a cause: the access raises it and nothing is performed. -/
theorem withLanes_trap {c : Ctx} {s : State} {uniform stores : Bool} {width : Nat} {ls : List (Nat × Nat)} {x : Effect}
    (h : lanesTrap c uniform (laneCauses s c width stores ls) = some x) (need : Need) (kind : Nat) (k : State → Effect) :
    withLanes c s uniform width stores need kind ls k = x := by
  rw [laneCauses] at h
  simp only [withLanes, h]

/-! ## The words whose lanes are checked together -/

/-- The loads and stores of more than one byte whose lanes are checked together, each with its width. -/
def accessWords (d a b : Operand) : List (Instr × Nat) :=
  [(.ld16 d a b, 2), (.ld32 d a b, 4), (.ld64 d a b, 8), (.st16 d a b, 2), (.st32 d a b, 4), (.st64 d a b, 8),
    (.lds32 d a b, 4), (.lds64 d a b, 8), (.lds128 d a b, 16), (.sts32 d a b, 4)]

theorem loadWord_eq (i : Instr) (d a b : Operand) (width : Nat) (acq : Ctx → Option Nat) (promote : Bool) (s : State) :
    loadWord i d a b width acq promote s = wordOf i {} (fun c s =>
      withLanes c s (!(isV d)) width false .read 0 (accessLanes c (!(isV d)) a b) fun s =>
        .ok (addLoad c d width (acq c) promote s (accessLanes c (!(isV d)) a b))) s := rfl

theorem storeWord_eq (i : Instr) (d a b : Operand) (width : Nat) (s : State) :
    storeWord i d a b width s = wordOf i {} (fun c s =>
      withLanes c s (!(isV d)) width true .write 1 (accessLanes c (!(isV d)) a b) fun s =>
        .ok (enterLanes c d width true false [] s (accessLanes c (!(isV d)) a b))) s := rfl

theorem exec_accessWord {d a b : Operand} {i : Instr} {width : Nat} (hi : (i, width) ∈ accessWords d a b) (s : State) :
    ∃ (stores : Bool) (need : Need) (kind : Nat) (k : Ctx → State → Effect), exec i s = wordOf i {} (fun c s =>
      withLanes c s (!(isV d)) width stores need kind (accessLanes c (!(isV d)) a b) (k c)) s := by
  have hform : exec i s = loadWord i d a b width (fun _ => none) false s ∨ exec i s = storeWord i d a b width s := by
    simp only [accessWords, List.mem_cons, Prod.mk.injEq, List.not_mem_nil, or_false] at hi
    rcases hi with ⟨rfl, rfl⟩ | ⟨rfl, rfl⟩ | ⟨rfl, rfl⟩ | ⟨rfl, rfl⟩ | ⟨rfl, rfl⟩ | ⟨rfl, rfl⟩ | ⟨rfl, rfl⟩ | ⟨rfl, rfl⟩ | ⟨rfl, rfl⟩ |
      ⟨rfl, rfl⟩
    iterate 3 exact .inl rfl
    iterate 3 exact .inr rfl
    iterate 3 exact .inl rfl
    exact .inr rfl
  rcases hform with h | h
  · exact ⟨_, _, _, _, h.trans (loadWord_eq _ _ _ _ _ _ _ _)⟩
  · exact ⟨_, _, _, _, h.trans (storeWord_eq _ _ _ _ _ _)⟩

end Sys2Proof.Machine

namespace Sys2Proof

open Machine Safety

/-- Settles O36: each of the words checks its lanes together (`exec_accessWord`), for APERTURE first (`lanesTrap_address`). -/
theorem addressCauses : Obligations.AddressCauses := by
  unfold Obligations.AddressCauses
  intro d a b s c i width hi h hs
  obtain ⟨stores, need, kind, k, hexec⟩ := exec_accessWord hi s
  obtain ⟨hap, hmis⟩ := lanesTrap_address hs (!(isV d)) width stores (accessLanes c (!(isV d)) a b)
  have hmask (m : Word) : (if (!(isV d)) = true then c.act else m) = if isV d = true then m else c.act := by cases isV d <;> rfl
  dsimp only
  rw [hexec]
  refine ⟨fun e he => ?aperture, fun hn e he => ?misalign⟩
  case aperture => exact wordOf_raises h ((withLanes_trap (hap e he) need kind _).trans (by rw [hmask]; rfl))
  case misalign => exact wordOf_raises h ((withLanes_trap (hmis hn e he) need kind _).trans (by rw [hmask]; rfl))

end Sys2Proof
end

section
/-! PROOFS. PIN and CWB (06 R123, R126, R127): what an access whose lanes are all granted goes on to, what a home line takes in and what that
leaves of the waves, and what a word does that waits for write-backs. -/

namespace Sys2Proof.Machine

open Safety

/-! ## An access whose lanes are all granted -/

theorem lanesTrap_none {s : State} {c : Ctx} {width : Nat} {stores : Bool} {ls : List (Nat × Nat)}
    (h : ∀ e ∈ ls, addrCause s c.w width stores e.2 = none) (uniform : Bool) :
    lanesTrap c uniform (laneCauses s c width stores ls) = none := by
  have hn (k : Nat) : causeTrap c uniform k ((laneCauses s c width stores ls).filter fun e => e.2.2 == some k) = none :=
    causeTrap_none (f := fun _ => false) (fun e he => by rw [h e he]; rfl) uniform (List.filter_eq_nil_iff.mpr fun _ _ => Bool.false_ne_true)
  rw [lanesTrap_eq]
  exact List.findSome?_eq_none_iff.mpr fun k _ => hn k

theorem State.grant_ok {s : State} {c : Ctx} {need : Need} {gs : List Nat}
    (h : ∀ g ∈ gs, ∃ r, s.access c.w.core (s.asidOf c.w.part) (g * 65536) need = .granted r) : s.grant c need gs = .ok := by
  unfold State.grant
  rw [if_neg, if_neg, if_pos]
  · rw [List.isEmpty_iff, List.filterMap_map, List.filterMap_eq_nil_iff]
    intro g hg
    obtain ⟨r, hr⟩ := h g hg
    simp only [Function.comp_def, hr]
  · rw [Bool.not_eq_true', Bool.not_eq_false, List.isEmpty_iff, List.filterMap_map, List.filterMap_eq_nil_iff]
    intro g hg
    obtain ⟨r, hr⟩ := h g hg
    simp only [Function.comp_def, hr]
  · rw [List.any_map, List.any_eq_true]
    rintro ⟨g, hg, hm⟩
    obtain ⟨r, hr⟩ := h g hg
    simp only [Function.comp_def, hr, Bool.false_eq_true] at hm

/-- Such an access performs in every lane. -/
theorem withLanes_granted {s : State} {c : Ctx} {width : Nat} {stores : Bool} {need : Need} {ls : List (Nat × Nat)}
    (h : AllGranted c s width stores need ls) (uniform : Bool) (kind : Nat) (k : State → Effect) :
    withLanes c s uniform width stores need kind ls k = k s := by
  have hn := lanesTrap_none h.1 uniform
  rw [laneCauses] at hn
  simp only [withLanes, hn, State.grant_ok h.2]

/-! ## Waves whose releases alone have changed -/

/-- Every wave is as before but for its releases. -/
def State.KeepsWaves (s t : State) : Prop := ∀ v w, s.wave? v = some w → ∃ rs, t.wave? v = some { w with releases := rs }

theorem State.keepsWaves_of_waves {s t : State} (h : t.waves = s.waves) : s.KeepsWaves t := fun v w hw =>
  ⟨w.releases, (congrArg (Table.find · v) h).trans hw⟩

theorem State.KeepsWaves.trans {s t u : State} (h : s.KeepsWaves t) (k : t.KeepsWaves u) : s.KeepsWaves u := fun v w hw => by
  obtain ⟨rs, ht⟩ := h v w hw
  exact k v { w with releases := rs } ht

theorem State.keepsWaves_modReleases (s : State) (f : Release → Release) : s.KeepsWaves (s.modReleases f) := fun v w hw =>
  ⟨w.releases.map f, (Table.find_map s.waves (fun w => { w with releases := w.releases.map f }) v).trans (congrArg _ hw)⟩

/-! ## Writing back and evicting -/

theorem State.ptPut_waves (s : State) (a : Nat) (x : Byte) : (s.ptPut a x).waves = s.waves := by
  unfold State.ptPut
  split <;> rfl

theorem State.ptWrite_waves (s : State) (a : Nat) (xs : List Byte) : (s.ptWrite a xs).waves = s.waves := by
  induction xs generalizing s a with
  | nil => rfl
  | cons x xs ih => exact (ih _ _).trans (s.ptPut_waves a x)

theorem State.modLine_waves (s : State) (asid line : Nat) (f : L2Line → L2Line) : (s.modLine asid line f).waves = s.waves := rfl

theorem State.sectorBack_waves (s : State) (asid line k : Nat) : (s.sectorBack asid line k).waves = s.waves := by
  unfold State.sectorBack
  split
  · rfl
  · split
    · rfl
    · exact (State.modLine_waves _ _ _ _).trans (s.ptWrite_waves _ _)

theorem State.tidyLine_waves (s : State) (asid line : Nat) : (s.tidyLine asid line).waves = s.waves := by
  unfold State.tidyLine
  split
  · rfl
  · split <;> rfl

theorem State.keepsWaves_sectorDone (s : State) (asid line k : Nat) : s.KeepsWaves (s.sectorDone asid line k) :=
  (State.keepsWaves_of_waves (s.sectorBack_waves asid line k)).trans (State.keepsWaves_modReleases _ _)

theorem State.keepsWaves_evictHome (s : State) (asid line : Nat) : s.KeepsWaves (s.evictHome asid line) := by
  have hback (ks : List Nat) : s.KeepsWaves (ks.foldl (fun s k => s.sectorDone asid line k) s) := by
    induction ks generalizing s with
    | nil => exact State.keepsWaves_of_waves rfl
    | cons k ks ih => exact (s.keepsWaves_sectorDone asid line k).trans (ih _)
  exact (hback _).trans (State.keepsWaves_of_waves (State.tidyLine_waves _ _ _))

theorem State.keepsWaves_freeWay {s : State} {sl set : Nat} {ways : List Nat} {r : Nat × State} (h : s.freeWay sl set ways = some r) :
    s.KeepsWaves r.2 := by
  unfold State.freeWay at h
  dsimp only at h
  split at h
  · cases h
    exact State.keepsWaves_of_waves rfl
  · obtain ⟨v, -, rfl⟩ := Option.map_eq_some_iff.mp h
    dsimp only
    split
    · exact State.keepsWaves_of_waves (State.tidyLine_waves _ _ _)
    · exact s.keepsWaves_evictHome _ _

/-! ## What a home line takes in -/

/-- L2 holds a line in some way. -/
theorem State.inL2_iff {s : State} {asid line : Nat} : s.inL2 asid line = true ↔ ∃ l, s.line? asid line = some l ∧ l.way.isSome = true := by
  rw [State.inL2, Option.any_eq_true]

theorem State.line?_modLine (s : State) (asid line : Nat) (f : L2Line → L2Line) :
    (s.modLine asid line f).line? asid line = (s.line? asid line).map f := Table.find_modify_self _ _ _

/-- A line that L2 takes in stands in a way. -/
theorem State.takeWay_spec {s t : State} {asid line pa prio : Nat} (h : s.takeWay asid line pa prio = some t) :
    s.KeepsWaves t ∧ t.inL2 asid line = true := by
  obtain ⟨r, hr, rfl⟩ := Option.map_eq_some_iff.mp h
  exact ⟨(State.keepsWaves_freeWay hr).trans (State.keepsWaves_of_waves rfl),
    State.inL2_iff.mpr ⟨_, Table.find_put_self _ _ _, rfl⟩⟩

/-- A set bit of a mask stays as it is when it is set again. -/
theorem or_bit_self {v : BitVec 4} {k : Nat} (h : v.getLsbD k = true) : v ||| (1#4 <<< k) = v := by
  refine BitVec.eq_of_getLsbD_eq fun i hi => ?_
  by_cases hik : i = k
  · subst hik
    simp [h]
  · have : (1#4 <<< k).getLsbD i = false := by simp; omega
    simp [this]

/-- A fetched sector of a line in L2 is valid, and the line stays in its way. -/
theorem State.line?_fetchSector {s : State} {asid line : Nat} {l : L2Line} (h : s.line? asid line = some l) (hw : l.way.isSome = true) (k : Nat) :
    (s.fetchSector asid line k).line? asid line = some { l with valid := l.valid ||| (1#4 <<< k) } := by
  simp only [State.fetchSector, h, Option.isNone_eq_false_iff.mpr hw, Bool.false_eq_true, or_false]
  split
  · next hk => rw [h, or_bit_self hk]
  · exact Table.find_put_self _ _ _

theorem State.fetchSector_waves (s : State) (asid line k : Nat) : (s.fetchSector asid line k).waves = s.waves := by
  unfold State.fetchSector
  split
  · rfl
  · split <;> rfl

/-- A line fetched whole. -/
theorem State.line?_fetchSectors {s : State} {asid line : Nat} {l : L2Line} (h : s.line? asid line = some l) (hw : l.way.isSome = true) :
    (s.fetchSectors asid line fun _ => true).line? asid line = some { l with valid := 15 } := by
  have hall : ∀ v : BitVec 4, v ||| (1#4 <<< 0) ||| (1#4 <<< 1) ||| (1#4 <<< 2) ||| (1#4 <<< 3) = 15 := by decide
  have h0 := State.line?_fetchSector h hw 0
  have h1 := State.line?_fetchSector h0 hw 1
  have h2 := State.line?_fetchSector h1 hw 2
  have h3 := State.line?_fetchSector h2 hw 3
  rw [← hall l.valid]
  exact h3

theorem State.fetchSectors_waves (s : State) (asid line : Nat) (f : Nat → Bool) : (s.fetchSectors asid line f).waves = s.waves := by
  have h (ks : List Nat) : (ks.foldl (fun s k => if f k then s.fetchSector asid line k else s) s).waves = s.waves := by
    induction ks generalizing s with
    | nil => rfl
    | cons k ks ih =>
      refine (ih _).trans ?_
      dsimp only
      split
      · exact s.fetchSector_waves asid line k
      · rfl
  exact h _

/-! ## PIN -/

/-- PIN's line once it is pinned, fetched whole. -/
def State.pinned (s : State) (asid line : Nat) : State :=
  (s.fetchSectors asid line fun _ => true).modLine asid line fun l => { l with pinned := true }

theorem State.pinned_spec {s : State} {asid line : Nat} (h : s.inL2 asid line = true) :
    s.KeepsWaves (s.pinned asid line) ∧ ∃ l, (s.pinned asid line).line? asid line = some l ∧ l.pinned = true ∧ l.valid = 15 := by
  obtain ⟨l, hl, hw⟩ := State.inL2_iff.mp h
  exact ⟨State.keepsWaves_of_waves (s.fetchSectors_waves asid line _), _,
    (State.line?_modLine _ _ _ _).trans (congrArg _ (State.line?_fetchSectors hl hw)), rfl, rfl⟩

section
variable {s : State} {asid va : Nat}

theorem pinLine_already (h : ((s.line? asid (lineOf va)).any fun l => l.pinned) = true) : pinLine s asid va = (1, s) := by
  simp only [pinLine, h, if_true]

variable (hn : ((s.line? asid (lineOf va)).any fun l => l.pinned) = false) {r : Right} (hr : s.trans asid va = some r)
include hn hr

theorem pinLine_elsewhere (h : r.attr = 2 ∨ r.tgt ≠ 0) : pinLine s asid va = (0, s) := by
  simp only [pinLine, hn, hr, h, Bool.false_eq_true, if_false, if_true]

variable {p : Nat} (hp : l2Prio 0 r.attr = some p) (ht : r.tgt = 0)
include hp ht

/-- A page that L2 takes lines of: by the line's way, or the one that it is given. -/
theorem pinLine_local : pinLine s asid va =
    (if s.inL2 asid (lineOf va) then some s else s.takeWay asid (lineOf va) (r.linePa (lineOf va)) p).elim (0, s) fun s1 =>
      (1, s1.pinned asid (lineOf va)) := by
  have ha : r.attr ≠ 2 := fun e => by simp [l2Prio, e] at hp
  simp only [pinLine, hn, hr, ha, ht, hp, Option.getD_some, ne_eq, not_true_eq_false, or_self, Bool.false_eq_true, if_false]
  generalize (if s.inL2 asid (lineOf va) then some s else _) = way
  cases way <;> rfl

/-- A line that L2 holds, or takes in, is pinned; the taking in leaves the waves as they are but for their releases. -/
theorem pinLine_takes {s1 : State} (h : (s.inL2 asid (lineOf va) = true ∧ s1 = s) ∨
    (s.inL2 asid (lineOf va) = false ∧ s.takeWay asid (lineOf va) (r.linePa (lineOf va)) p = some s1)) :
    s1.inL2 asid (lineOf va) = true ∧ s.KeepsWaves s1 ∧ pinLine s asid va = (1, s1.pinned asid (lineOf va)) := by
  rw [pinLine_local hn hr hp ht]
  rcases h with ⟨hl, rfl⟩ | ⟨hl, hway⟩
  · rw [hl, if_pos rfl]
    exact ⟨rfl, State.keepsWaves_of_waves rfl, rfl⟩
  · obtain ⟨hkeeps, hin⟩ := State.takeWay_spec hway
    rw [hl, if_neg Bool.false_ne_true, hway]
    exact ⟨hin, hkeeps, rfl⟩

end

/-- PIN's value written to D in the wave of a state, its split gone on. -/
def State.pinWrites (s : State) (c : Ctx) (d : Operand) (v : Word) : State :=
  ((s.unmark c.wi).modWave c.wi fun w => w.writeGroup d c.act 1 fun _ _ => v).goOn c c.next false

section
variable {d a b : Operand} {s : State} {c : Ctx} (h : Ready (.pin d a b) {} s c) (ha : c.act ≠ 0)
include h ha

theorem exec_pin_scratch (hin : inAperture (laneAddr c a b 0) = true) : exec (.pin d a b) s = .next (s.pinWrites c d 0) := by
  have hp : pastGlobal (laneAddr c a b 0) = false := by
    simp only [inAperture, Bool.and_eq_true, decide_eq_true_eq] at hin
    simpa [pastGlobal] using hin.2
  simp only [exec, execPin]
  rw [uniformWord_ready h ha]
  simp only [hp, hin, Bool.false_eq_true, if_false, if_true, Effect.finish]
  rfl

theorem exec_pin_global (hg : AllGranted c s 1 false .read [(0, laneAddr c a b 0)]) (hlt : laneAddr c a b 0 < Config.aperture) :
    exec (.pin d a b) s = .next ((pinLine s (s.asidOf c.w.part) (laneAddr c a b 0)).2.pinWrites c d
      (pinLine s (s.asidOf c.w.part) (laneAddr c a b 0)).1) := by
  have hr : Config.aperture ≤ Config.reservedRegion := by decide
  have hp : pastGlobal (laneAddr c a b 0) = false := by simp [pastGlobal, hlt.trans_le hr]
  have hin : inAperture (laneAddr c a b 0) = false := by simp [inAperture, hlt]
  simp only [exec, execPin]
  rw [uniformWord_ready h ha]
  simp only [hp, hin, withLanes_granted hg, Bool.false_eq_true, if_false, Effect.finish]
  rfl

end

/-- PIN that has touched no line leaves its value in D. -/
theorem pinWrites_received {s : State} {c : Ctx} (h : s.ctx? = some c) (d : Operand) (v : Word) : ∃ w, (s.pinWrites c d v).wave? c.wi = some w ∧
    OnlyWave c s (s.pinWrites c d v) ∧ Received { c.w with rewindable := false } w d c.act 1 (fun _ _ => v) 0 := by
  have hw := (State.wave?_modWave_self _ c.wi fun w => w.writeGroup d c.act 1 fun _ _ => v).trans (congrArg _ (State.wave?_unmark h))
  have ho : OnlyWave c s ((s.unmark c.wi).modWave c.wi fun w => w.writeGroup d c.act 1 fun _ _ => v) := by
    refine ⟨fun k hk => ?_, rfl⟩
    rw [State.wave?_modWave_other _ _ _ _ hk]
    exact State.wave?_modWave_other s _ _ _ hk
  obtain ⟨-, w, hwave, hr, -⟩ := took_goOn hw (Wave.writeGroup_splits _ _ _ _ _) ho.1 rfl (c.w.unmark.writeGroup_received' d c.act 1 _)
  exact ⟨w, hwave, onlyWave_goOn_of ho _ _, hr⟩

/-- PIN's D is a scalar register (23 R371). -/
theorem pin_dst {d a b : Operand} {s : State} {c : Ctx} (h : Ready (.pin d a b) {} s c) : ∃ r, d = .s r := by
  obtain ⟨-, hdec, -⟩ := h
  have hd : isS d = true := by
    simp only [decodesFor, Instr.wellFormed, Bool.and_eq_true] at hdec
    obtain ⟨⟨⟨hd, -⟩, -⟩, -⟩ := hdec
    exact hd
  cases d with
  | s r => exact ⟨r, rfl⟩
  | _ => cases hd

/-- PIN that has taken its line in leaves its value in D of the wave, whose other registers are as before. -/
theorem pinWrites_wave {u : State} {c : Ctx} {rs : List Release} (hw : u.wave? c.wi = some { c.w with releases := rs }) (r : Fin 64) (v : Word) :
    ∃ w, (u.pinWrites c (.s r) v).wave? c.wi = some w ∧ (∀ q, q < 64 → w.readS q = if namesS (.s r) 1 q then v else c.w.readS q) ∧
      w.v = c.w.v ∧ w.p = c.w.p ∧ w.h = c.w.h ∧ w.fpflags = c.w.fpflags ∧ w.rewindable = false := by
  have hu := (State.wave?_modWave_self u c.wi Wave.unmark).trans (congrArg _ hw)
  have hd := (State.wave?_modWave_self _ c.wi fun w => w.writeGroup (.s r) c.act 1 fun _ _ => v).trans (congrArg _ hu)
  obtain ⟨-, hs, -⟩ := ({ c.w with releases := rs } : Wave).unmark.writeGroup_spec (.s r) c.act (fun _ _ => v) 1
  exact ⟨_, State.wave?_goOn hd c.next false, hs, rfl, rfl, rfl, rfl, rfl⟩

theorem State.line?_pinWrites (u : State) (c : Ctx) (d : Operand) (v : Word) (asid line : Nat) :
    (u.pinWrites c d v).line? asid line = u.line? asid line := rfl

/-! ## CWB (06 R127) -/

/-- A state with one release more of a wave, unless nothing is left of it to wait for. -/
def State.withRelease (s : State) (wi : Nat) (x : Release) : State :=
  if x.complete then s.stamp.2 else s.stamp.2.modWave wi fun w => { w with releases := w.releases ++ [x] }

theorem State.wave?_withRelease {s : State} {wi : Nat} {w : Wave} (hw : s.wave? wi = some w) (x : Release) :
    ∃ rs, (s.withRelease wi x).wave? wi = some { w with releases := rs } := by
  unfold State.withRelease
  split
  · exact ⟨w.releases, hw⟩
  · exact ⟨_, (State.wave?_modWave_self s.stamp.2 wi _).trans (congrArg _ hw)⟩

theorem State.wave?_withRelease_other (s : State) {wi v : Nat} (x : Release) (hv : v ≠ wi) :
    (s.withRelease wi x).wave? v = s.wave? v := by
  unfold State.withRelease
  split
  · rfl
  · exact State.wave?_modWave_other s.stamp.2 _ _ _ hv

theorem State.withRelease_cores (s : State) (wi : Nat) (x : Release) : (s.withRelease wi x).cores = s.cores := by
  unfold State.withRelease
  split <;> rfl

theorem State.sameMemory_withRelease {s t : State} (h : SameMemory s t) (wi : Nat) (x : Release) : SameMemory s (t.withRelease wi x) := by
  unfold State.withRelease
  split <;> exact h

/-- Write-backs that have been started leave the issuing wave as it is but for its releases. -/
theorem State.startWriteBack_wave {s : State} {wi : Nat} {w : Wave} (hw : s.wave? wi = some w) (scope : Nat)
    (stash : List (Nat × Nat × Nat × Nat)) (l2 : List (Nat × Nat)) :
    ∃ rs, (s.startWriteBack wi scope stash l2).2.wave? wi = some { w with releases := rs } := by
  simp only [State.startWriteBack, hw]
  exact State.wave?_withRelease hw _

/-- The issuing split at its next PC, where it waits for the instruction's own work. -/
def State.completingIn (s : State) (c : Ctx) (f : Waiting) : State :=
  s.modSplit c.wi c.sp.num fun x => { x.goTo c.next with park := .completing c.pc f c.marked, parkedAt := s.seq }

theorem Effect.finish_completing (c : Ctx) (s u : State) (f : Waiting) : (Effect.completing u f).finish c s = u.completingIn c f := rfl

theorem finishes_completingIn {u : State} {c : Ctx} {w : Wave} {x : Split} (hw : u.wave? c.wi = some w) (hx : w.split? c.sp.num = some x)
    (f : Waiting) : Finishes c (u.completingIn c f) f :=
  ⟨_, _, State.wave?_modSplit hw _ _, Wave.split?_modSplit hx fun _ => rfl, rfl, rfl⟩

/-- An instruction whose release is over goes on at once. -/
theorem waitRelease_over {c : Ctx} {r : Nat × State} (h : r.2.isReleasing c.wi r.1 = false) (a : After) (now : State → State) (s : State) :
    (waitRelease c r a now).finish c s = (now r.2).goOn c c.next false := by
  rw [waitRelease, if_neg (by simp [h]), Effect.finish]

theorem waitRelease_waits {c : Ctx} {r : Nat × State} (h : r.2.isReleasing c.wi r.1 = true) (a : After) (now : State → State) (s : State) :
    (waitRelease c r a now).finish c s = r.2.completingIn c (.release r.1 a) := by
  rw [waitRelease, if_pos h, Effect.finish_completing]

/-- Where the instruction has nothing else to do, its split is at its next PC: it waits there, or has gone on. -/
theorem waitRelease_proceed {c : Ctx} {r : Nat × State} {w : Wave} {x : Split} (hw : r.2.wave? c.wi = some w)
    (hx : w.split? c.sp.num = some x) (s : State) : ∃ v y, ((waitRelease c r .proceed id).finish c s).wave? c.wi = some v ∧
      v.split? c.sp.num = some y ∧ y.pc = c.next ∧
      (r.2.isReleasing c.wi r.1 = true → y.park = .completing c.pc (.release r.1 .proceed) c.marked) ∧
      (r.2.isReleasing c.wi r.1 = false → (waitRelease c r .proceed id).finish c s = r.2.goOn c c.next false) := by
  cases hrel : r.2.isReleasing c.wi r.1 with
  | true =>
    rw [waitRelease_waits hrel]
    obtain ⟨v, y, hv, hy, hpc, hpark⟩ := finishes_completingIn hw hx (.release r.1 .proceed)
    exact ⟨v, y, hv, hy, hpc, fun _ => hpark, fun hno => Bool.noConfusion hno⟩
  | false =>
    rw [waitRelease_over hrel]
    obtain ⟨v, y, hv, hy, hpc, -⟩ := goOn_issuer hw hx c.next false
    exact ⟨v, y, hv, hy, hpc, fun hyes => Bool.noConfusion hyes, fun _ => rfl⟩

/-- The write-backs that CWB starts. -/
def State.cwbStart (s : State) (c : Ctx) (base n : Nat) : Nat × State :=
  (s.unmark c.wi).startWriteBack c.wi 6 (s.dirtyStashIn (s.asidOf c.w.part) base n) (s.dirtyL2In (s.asidOf c.w.part) base n)

theorem exec_cwb {a b : Operand} {s : State} {c : Ctx} (h : Ready (.cwb a b) {} s c) (ha : c.act ≠ 0) (hn : rawN c b ≠ 0)
    (hr : pairN c a + rawN c b ≤ Config.aperture) : exec (.cwb a b) s =
      .next ((waitRelease c (s.cwbStart c (pairN c a) (rawN c b)) .proceed id).finish c s) := by
  simp only [exec, execCwb]
  rw [uniformWord_ready h ha]
  simp only [hn, globalRange, hr, decide_true, Bool.not_true, Bool.false_eq_true, if_false]
  rfl

end Sys2Proof.Machine

namespace Sys2Proof

open Machine Safety

/-- Settles O39: PIN by the cases of `pinLine`, where a line taken in leaves the waves' registers alone (`State.takeWay_spec`) and is then
fetched whole (`State.pinned_spec`); CWB by whether its release is over. -/
theorem pinAndWriteBack : Obligations.PinAndWriteBack := by
  unfold Obligations.PinAndWriteBack
  dsimp only
  refine ⟨fun d a b s c h ha => ⟨fun hin => ?scratch, fun hg hlt => ⟨fun hpin => ?already, fun hn r hr =>
    ⟨fun hfar => ?elsewhere, fun p hp ht => ⟨fun hl hway => ?full, fun s1 hs1 => ?pins⟩⟩⟩⟩, fun a b s c h ha hn hr => ?cwb⟩
  case scratch =>
    obtain ⟨w, hw, ho, hrec⟩ := pinWrites_received h.1 d 0
    exact ⟨_, w, exec_pin_scratch h ha hin, hw, ho, hrec⟩
  case already =>
    obtain ⟨w, hw, ho, hrec⟩ := pinWrites_received h.1 d 1
    refine ⟨_, w, ?_, hw, ho, hrec⟩
    rw [exec_pin_global h ha hg hlt, pinLine_already ((Option.any_eq_true _ _).mpr hpin)]
  case elsewhere =>
    obtain ⟨w, hw, ho, hrec⟩ := pinWrites_received h.1 d 0
    refine ⟨_, w, ?_, hw, ho, hrec⟩
    rw [exec_pin_global h ha hg hlt, pinLine_elsewhere hn hr hfar]
  case full =>
    obtain ⟨w, hw, ho, hrec⟩ := pinWrites_received h.1 d 0
    refine ⟨_, w, ?_, hw, ho, hrec⟩
    rw [exec_pin_global h ha hg hlt, pinLine_local hn hr hp ht]
    simp only [lineOf, hl, hway, Bool.false_eq_true, if_false, Option.elim_none]
  case pins =>
    obtain ⟨hin, hkeeps, hline⟩ := pinLine_takes hn hr hp ht hs1
    obtain ⟨hkeeps', l, hl, hpin, hvalid⟩ := State.pinned_spec hin
    obtain ⟨rs, hw⟩ := (hkeeps.trans hkeeps') c.wi c.w (State.ctx?_wave h.1)
    obtain ⟨r, rfl⟩ := pin_dst h
    obtain ⟨w, hwave, hs, hv, hpr, hh, hf, hm⟩ := pinWrites_wave hw r 1
    refine ⟨_, w, l, ?_, hwave, hs, hv, hpr, hh, hf, hm, (State.line?_pinWrites _ _ _ _ _ _).trans hl, hpin, hvalid⟩
    rw [exec_pin_global h ha hg hlt, hline]
  case cwb =>
    obtain ⟨rs, hw⟩ := State.startWriteBack_wave (State.wave?_unmark h.1) 6 (s.dirtyStashIn (s.asidOf c.w.part) (pairN c a) (rawN c b))
      (s.dirtyL2In (s.asidOf c.w.part) (pairN c a) (rawN c b))
    obtain ⟨w, x, hspec⟩ := waitRelease_proceed hw (State.ctx?_split h.1) s
    exact ⟨_, w, x, exec_cwb h ha hn hr, hspec⟩

end Sys2Proof
end

section
/-! PROOFS. The words of stash windows (06 R130 to R134, 24 R406). -/

namespace Sys2Proof.Machine

open Safety

/-! ## STMAP -/

/-- A range in its place and aligned raises nothing. -/
theorem stmapCause_none {s : State} {c : Ctx} {bk : Block} (hb : s.block? c.w.block = some bk) {g o n : Nat} (hs : o + n ≤ bk.record.scratch)
    (hg : g + n ≤ Config.aperture) (hgm : g % 256 = 0) (hom : o % 256 = 0) (hnm : n % 256 = 0) (hn : n ≠ 0) : stmapCause s c.w g o n = none := by
  have hscr : s.scratchOf c.w = bk.record.scratch := by rw [State.scratchOf, hb, Option.elim_some]
  simp only [stmapCause, hscr, Nat.not_lt.mpr hs, globalRange, hg, hgm, hom, hnm, hn, decide_true, Bool.not_true, Bool.false_eq_true, ne_eq,
    not_true_eq_false, or_self, if_false]

/-- A value written to D and the block changed, the region of a flashback over, the split gone on. -/
def State.writesB (s : State) (c : Ctx) (d : Operand) (v : Word) (g : Block → Block) : State :=
  (((s.unmark c.wi).modBlock c.w.block g).modWave c.wi fun w => w.writeGroup d c.act 1 fun _ _ => v).goOn c c.next false

theorem State.modBlock_id (s : State) (b : Nat) : s.modBlock b id = s := by
  have h : s.blocks.modify b id = s.blocks := by simp [Table.modify]
  rw [State.modBlock, h]

/-- The lowest free number is the one that the search finds. -/
theorem find?_lowest_free {xs : List Window} {i m : Nat} (hi : i < m) (hfree : ∀ x ∈ xs, x.id ≠ i)
    (hheld : ∀ j < i, ∃ x ∈ xs, x.id = j) : (upTo m).find? (fun i => !(xs.any fun x => x.id == i)) = some i := by
  rw [upTo, List.find?_range_eq_some]
  refine ⟨?_, List.mem_range.mpr hi, fun j hj => ?_⟩
  · simpa using hfree
  · simpa using hheld j hj

section
variable {d a b : Operand} {s : State} {c : Ctx} {bk : Block} (h : Ready (.stmap d a b) {} s c) (ha : c.act ≠ 0)
  (hc : stmapCause s c.w (pairN c a) (groupLane c b 0 0).toNat (groupLane c b 1 0).toNat = none)
include h ha hc

theorem exec_stmap_inUse (hu : ((s.part c.w.part).shareIn c.w.core).elim 0 (·.stash) ≤ (s.windowsOf c.w.part c.w.core).length) :
    exec (.stmap d a b) s = .next (s.writesB c d 0xFFFFFFFF id) := by
  simp only [exec, execStmap]
  rw [uniformWord_ready h ha]
  simp only [hc, hu, if_true, Effect.finish, State.writesB, State.modBlock_id]
  rfl

variable (hu : (s.windowsOf c.w.part c.w.core).length < ((s.part c.w.part).shareIn c.w.core).elim 0 (·.stash))
  (hb : s.block? c.w.block = some bk)
include hu hb

theorem exec_stmap_overlaps (ho : ∃ x ∈ bk.windows, (groupLane c b 0 0).toNat < x.off + x.len ∧
    x.off < (groupLane c b 0 0).toNat + (groupLane c b 1 0).toNat) :
    exec (.stmap d a b) s = .next (s.writesB c d 0xFFFFFFFE id) := by
  have hany : (bk.windows.any fun x => decide ((groupLane c b 0 0).toNat < x.off + x.len) &&
      decide (x.off < (groupLane c b 0 0).toNat + (groupLane c b 1 0).toNat)) = true := by
    simpa [List.any_eq_true] using ho
  simp only [exec, execStmap]
  rw [uniformWord_ready h ha]
  simp only [hc, Nat.not_le.mpr hu, hb, Option.elim_some, hany, if_false, if_true, Effect.finish, State.writesB, State.modBlock_id]
  rfl

theorem exec_stmap_maps (hn : ∀ x ∈ bk.windows, ¬((groupLane c b 0 0).toNat < x.off + x.len ∧
    x.off < (groupLane c b 0 0).toNat + (groupLane c b 1 0).toNat)) {i : Nat} (hi : i < 16)
    (hfree : ∀ x ∈ s.windowsOf c.w.part c.w.core, x.id ≠ i) (hheld : ∀ j < i, ∃ x ∈ s.windowsOf c.w.part c.w.core, x.id = j) :
    exec (.stmap d a b) s = .next (s.writesB c d (word i) fun x => { x with windows := x.windows ++
      [{ id := i, off := (groupLane c b 0 0).toNat, len := (groupLane c b 1 0).toNat, base := pairN c a
         lines := List.replicate ((groupLane c b 1 0).toNat / 256) StashLine.absent }] }) := by
  have hany : (bk.windows.any fun x => decide ((groupLane c b 0 0).toNat < x.off + x.len) &&
      decide (x.off < (groupLane c b 0 0).toNat + (groupLane c b 1 0).toNat)) = false := by
    simpa [List.any_eq_false] using hn
  simp only [exec, execStmap]
  rw [uniformWord_ready h ha]
  simp only [hc, Nat.not_le.mpr hu, hb, Option.elim_some, hany, find?_lowest_free hi hfree hheld, Bool.false_eq_true, if_false,
    Effect.finish]
  rfl

end

/-! ## STFLUSH and STUNMAP -/

/-- The write-backs that STFLUSH and STUNMAP of a window start. -/
def State.flushStart (s : State) (c : Ctx) (bk : Block) (k : Nat) : Nat × State :=
  (s.unmark c.wi).startWriteBack c.wi 0 ((bk.dirtyStash c.w.block).filter fun x => x.2.1 == k) []

/-- The issuing wave and split once they have started. -/
theorem State.flushStart_wave {s : State} {c : Ctx} (h : s.ctx? = some c) (bk : Block) (k : Nat) :
    ∃ w, (s.flushStart c bk k).2.wave? c.wi = some w ∧ w.split? c.sp.num = some c.sp := by
  obtain ⟨rs, hw⟩ := State.startWriteBack_wave (State.wave?_unmark h) 0 ((bk.dirtyStash c.w.block).filter fun x => x.2.1 == k) []
  exact ⟨_, hw, State.ctx?_split h⟩

section
variable {a : Operand} {s : State} {c : Ctx} {bk : Block} {wd : Window} (ha : c.act ≠ 0) (hb : s.block? c.w.block = some bk)
  (hw : bk.window? (rawN c a) = some wd) (hf : c.w.bufferedFor wd = false)
include ha hb hw hf

theorem exec_stflush (h : Ready (.stflush a) {} s c) :
    exec (.stflush a) s = .next ((waitRelease c (s.flushStart c bk (rawN c a)) .proceed id).finish c s) := by
  simp only [exec, execStflush, flushWord]
  rw [uniformWord_ready h ha]
  simp only [hb, Option.bind_some, Option.elim_some, hw, hf, Bool.false_eq_true, if_false]
  rfl

theorem exec_stunmap (h : Ready (.stunmap a) {} s c) :
    exec (.stunmap a) s = .next ((waitRelease c (s.flushStart c bk (rawN c a)) (.unmap (rawN c a)) fun s =>
      s.unmapWindow c.w.block (rawN c a)).finish c s) := by
  simp only [exec, execStunmap, flushWord]
  rw [uniformWord_ready h ha]
  simp only [hb, Option.bind_some, Option.elim_some, hw, hf, Bool.false_eq_true, if_false, if_true]
  rfl

end

end Sys2Proof.Machine

namespace Sys2Proof

open Machine Safety

/-- Settles O41: STMAP by whether the owner's windows are in use, the range overlaps one, or a number is free; STFLUSH and STUNMAP by
whether the release that they start is over (`waitRelease_over`, `waitRelease_waits`). -/
theorem stashWindowWords : Obligations.StashWindowWords := by
  unfold Obligations.StashWindowWords
  dsimp only
  intro d a b s c bk hb ha
  refine ⟨fun h hs hg hgm hom hnm hn => ?stmap, fun wd hwd hf => ⟨fun h => ⟨fun hover => ?flushed, fun hwait => ?flushes⟩,
    fun h => ⟨fun hover => ?unmapped, fun hwait => ?unmaps⟩⟩⟩
  case stmap =>
    have hc := stmapCause_none hb hs hg hgm hom hnm hn
    exact ⟨fun hu => ⟨_, exec_stmap_inUse h ha hc hu, tookB_goOn h.1 hb id d _⟩,
      fun hu ho => ⟨_, exec_stmap_overlaps h ha hc hu hb ho, tookB_goOn h.1 hb id d _⟩,
      fun hu hno i hi hfree hheld => ⟨_, exec_stmap_maps h ha hc hu hb hno hi hfree hheld, tookB_goOn h.1 hb _ d _⟩⟩
  case flushed => exact (exec_stflush ha hb hwd hf h).trans (congrArg _ (waitRelease_over hover _ _ _))
  case flushes =>
    obtain ⟨w, hw, hx⟩ := State.flushStart_wave h.1 bk (rawN c a)
    exact ⟨_, (exec_stflush ha hb hwd hf h).trans (congrArg _ (waitRelease_waits hwait _ _ _)), finishes_completingIn hw hx _⟩
  case unmapped => exact (exec_stunmap ha hb hwd hf h).trans (congrArg _ (waitRelease_over hover _ _ _))
  case unmaps =>
    obtain ⟨w, hw, hx⟩ := State.flushStart_wave h.1 bk (rawN c a)
    exact ⟨_, (exec_stunmap ha hb hwd hf h).trans (congrArg _ (waitRelease_waits hwait _ _ _)), finishes_completingIn hw hx _⟩

end Sys2Proof
end

section
/-! PROOFS. The words of mirrored windows and of copies (06 R135 to R139, 21 R280). -/

namespace Sys2Proof.Machine

open Safety

/-! ## MWBIND -/

theorem mwbindArgs_eq {c : Ctx} {a b : Operand} {id off len : Nat} (h : (∃ n m, c.sp.park = .wait (.mirror id off len) n m) ∨
    (∀ i o l n m, c.sp.park ≠ .wait (.mirror i o l) n m) ∧ id = rawN c b ∧ off = (groupLane c a 0 0).toNat ∧
      len = (groupLane c a 1 0).toNat) : mwbindArgs c a b = (id, off, len) := by
  unfold mwbindArgs
  rcases h with ⟨n, m, hp⟩ | ⟨hp, rfl, rfl, rfl⟩
  · rw [hp]
  · split
    · next i o l n m hw => exact absurd hw (hp i o l n m)
    · rfl

/-- The use of a group of mirrored windows that a binding joins: that of its launch's live bindings, else a new one (06 R135). -/
def State.mirrorUse (s : State) (w : Wave) (id : Nat) : Nat :=
  ((((s.mirrorsOf w.part (sectorOf w.core) id).filter fun e => !e.2.ended && e.1.launch == w.launch).head?).elim s.seq fun e => e.2.use)

/-- The binding that MWBIND makes. -/
def State.newMirror (s : State) (w : Wave) (id off len : Nat) : MirrorBind :=
  { id := id, off := off, len := len, use := s.mirrorUse w id, ended := false, at_ := s.seq }

/-- The block with a binding, in place of the one that it had of the same group. -/
def Block.bindMirror (b : Block) (m : MirrorBind) : Block := { b with mirrors := b.mirrors.filter (fun y => y.id != m.id) ++ [m] }

section
variable {a b : Operand} {s : State} {c : Ctx} {bk : Block} {id off len : Nat} (h : Ready (.mwbind a b) {} s c) (ha : c.act ≠ 0)
  (hb : s.block? c.w.block = some bk) (hx : mwbindArgs c a b = (id, off, len)) (hid : id ≤ 63) (hs : off + len ≤ bk.record.scratch)
  (hom : off % 32 = 0) (hlm : len % 32 = 0) (hl : 32 ≤ len) (hu : len ≤ 65536)
include h ha hb hx hid hs hom hlm hl hu

/-- With its range and id in order, MWBIND parks or binds. -/
theorem exec_mwbind : exec (.mwbind a b) s = .next (if s.mirrorBusy c.w id = true then (s.unmark c.wi).parkedIn c (.mirror id off len)
    else ((s.stamp.2.unmark c.wi).modBlock c.w.block fun x => x.bindMirror (s.newMirror c.w id off len)).goOn c c.next false) := by
  have hscr : s.scratchOf c.w = bk.record.scratch := by rw [State.scratchOf, hb, Option.elim_some]
  simp only [exec, execMwbind]
  rw [uniformWord_ready h ha]
  simp only [hx, hscr, Nat.not_lt.mpr hid, Nat.not_lt.mpr hs, hom, hlm, Nat.not_lt.mpr hl, Nat.not_lt.mpr hu, ne_eq, not_true_eq_false, or_self,
    if_false]
  split
  · rfl
  · rfl

end

/-! ## MWUNBIND -/

theorem State.modWave_same (s : State) (wi : Nat) {f : Wave → Wave} (hf : ∀ w, f w = w) : s.modWave wi f = s := by
  have h : s.waves.modify wi f = s.waves := by simp [Table.modify, hf]
  rw [State.modWave, h]

/-- A word without a destination that changes its block. -/
theorem State.writesB_none (s : State) (c : Ctx) (v : Word) (g : Block → Block) :
    s.writesB c (.int 0) v g = ((s.unmark c.wi).modBlock c.w.block g).goOn c c.next false := by
  have h (u : State) : (u.modWave c.wi fun w => w.writeGroup (.int 0) c.act 1 fun _ _ => v) = u := u.modWave_same c.wi fun _ => rfl
  rw [State.writesB, h]

/-- The block without its binding of a group. -/
def Block.unbind (b : Block) (id : Nat) : Block := { b with mirrors := b.mirrors.filter fun m => m.id != id }

/-- The block with that binding ended. -/
def Block.endMirror (b : Block) (id : Nat) : Block :=
  { b with mirrors := b.mirrors.map fun m => if m.id = id then { m with ended := true } else m }

section
variable {a : Operand} {s : State} {c : Ctx} {bk : Block} (h : Ready (.mwunbind a) {} s c) (ha : c.act ≠ 0)
  (hb : s.block? c.w.block = some bk) (hid : rawN c a ≤ 63)
include h ha hb hid

theorem exec_mwunbind_unbound (hn : ∀ m ∈ bk.mirrors, m.id ≠ rawN c a) :
    exec (.mwunbind a) s = .next (s.writesB c (.int 0) 0 id) := by
  have hany : (bk.mirrors.any fun m => m.id == rawN c a) = false := by simpa [List.any_eq_false] using hn
  rw [State.writesB_none, State.modBlock_id]
  simp only [exec, execMwunbind]
  rw [uniformWord_ready h ha]
  simp only [hb, Option.elim_some, hany, Nat.not_lt.mpr hid, Bool.not_false, if_false, if_true, Effect.finish]

variable (hm : ∃ m ∈ bk.mirrors, m.id = rawN c a)
include hm

theorem exec_mwunbind_ends (ho : s.outgoing c.w.block (rawN c a) = false) :
    exec (.mwunbind a) s = .next (s.writesB c (.int 0) 0 fun x => x.unbind (rawN c a)) := by
  have hany : (bk.mirrors.any fun m => m.id == rawN c a) = true := by simpa [List.any_eq_true] using hm
  rw [State.writesB_none]
  simp only [exec, execMwunbind]
  rw [uniformWord_ready h ha]
  simp only [hb, Option.elim_some, hany, ho, Nat.not_lt.mpr hid, Bool.not_true, Bool.false_eq_true, if_false, Effect.finish]
  rfl

theorem exec_mwunbind_waits (ho : s.outgoing c.w.block (rawN c a) = true) : exec (.mwunbind a) s =
    .next (((s.unmark c.wi).modBlock c.w.block fun x => x.endMirror (rawN c a)).completingIn c (.deliveries (rawN c a))) := by
  have hany : (bk.mirrors.any fun m => m.id == rawN c a) = true := by simpa [List.any_eq_true] using hm
  simp only [exec, execMwunbind]
  rw [uniformWord_ready h ha]
  simp only [hb, Option.elim_some, hany, ho, Nat.not_lt.mpr hid, Bool.not_true, Bool.false_eq_true, if_false, if_true,
    Effect.finish_completing]
  rfl

end

/-! ## CPY and CPY2D -/

/-- A release at block scope is one record more among the issuing wave's releases. -/
theorem State.startRelease_block {s : State} {wi : Nat} {w : Wave} (hw : s.wave? wi = some w) :
    ∃ x, (s.startRelease wi 2).2 = s.withRelease wi x := by
  have h2 : ¬ (2 = 0 ∨ 2 = 4 ∨ 2 = 5) := by decide
  simp only [State.startRelease, hw, h2, if_false]
  exact ⟨_, rfl⟩

theorem State.opStart_state (s : State) (wi : Nat) (w : Wave) (queue : Nat) :
    (s.opStart wi w queue).2.2 = ((s.unmark wi).startRelease wi 2).2 := rfl

theorem State.wave?_takeTag (s : State) (p v : Nat) : (s.takeTag p).2.wave? v = s.wave? v := rfl

theorem State.takeTag_cores (s : State) (p : Nat) : (s.takeTag p).2.cores = s.cores := rfl

theorem State.sameMemory_takeTag {s t : State} (h : SameMemory s t) (p : Nat) : SameMemory s (t.takeTag p).2 := h

/-- The state once an operation of the issuing wave's copy engine has started and has its tag. -/
def State.copyStart (s : State) (c : Ctx) : State := ((s.opStart c.wi c.w 0).2.2.takeTag c.w.part).2

/-- Starting an operation leaves the cores and memory, the other waves, and the issuing wave's registers and splits. -/
theorem State.copyStart_spec {s : State} {c : Ctx} (h : s.ctx? = some c) :
    (∃ rs, (s.copyStart c).wave? c.wi = some { c.w.unmark with releases := rs }) ∧
      (∀ v, v ≠ c.wi → (s.copyStart c).wave? v = s.wave? v) ∧ (s.copyStart c).cores = s.cores ∧ SameMemory s (s.copyStart c) := by
  have hu := State.wave?_unmark h
  obtain ⟨x, hx⟩ := State.startRelease_block hu
  rw [State.copyStart, State.opStart_state, hx]
  refine ⟨?_, fun v hv => ?_, ?_, State.sameMemory_takeTag ?_ _⟩
  · rw [State.wave?_takeTag]
    exact State.wave?_withRelease hu x
  · rw [State.wave?_takeTag, State.wave?_withRelease_other _ x hv]
    exact State.wave?_modWave_other s _ _ _ hv
  · rw [State.takeTag_cores, State.withRelease_cores]
    rfl
  · exact State.sameMemory_withRelease (t := s.unmark c.wi) ⟨rfl, rfl, rfl, rfl, rfl, rfl, rfl⟩ c.wi x

/-- The copy that CPY or CPY2D enters into its core's queue. -/
def State.newCopy (s : State) (c : Ctx) (dst src rows rowBytes dpitch spitch : Nat) : CopyOp :=
  { tag := ((s.opStart c.wi c.w 0).2.2.takeTag c.w.part).1, part := c.w.part, block := c.w.block, wave := c.wi, dst := dst, src := src
    rows := rows, rowBytes := rowBytes, dpitch := dpitch, spitch := spitch, moved := 0, batch := none, rel := (s.opStart c.wi c.w 0).1
    fences := (s.opStart c.wi c.w 0).2.1, st := .ready }

/-- A state with one copy more in a core's queue. -/
def State.queueCopy (s : State) (core : Nat) (x : CopyOp) : State := s.modCore core fun k => { k with copyQ := k.copyQ ++ [x] }

section
variable {s : State} {c : Ctx} {dst src rows n dp sp : Nat}

theorem copyIssue_enters (hd : stridedOk s c.w dst rows n dp = true) (hs : stridedOk s c.w src rows n sp = true)
    (hf : ((s.core c.w.core).copyQ.filter fun o => o.part == c.w.part).length < ((s.part c.w.part).shareIn c.w.core).elim 0 (·.cpq)) :
    copyIssue c s dst src rows n dp sp = .ok ((s.copyStart c).queueCopy c.w.core (s.newCopy c dst src rows n dp sp)) := by
  have hfull : s.copyFull c.w = false := decide_eq_false (Nat.not_le.mpr hf)
  simp only [copyIssue, hd, hs, hfull, Bool.not_true, Bool.false_eq_true, if_false]
  rfl

/-- A copy entered into its core's queue, its split gone on: the other cores, the other waves and memory are as before. -/
theorem queueCopy_goOn (h : s.ctx? = some c) (x : CopyOp) : ∃ w, Onward c (((s.copyStart c).queueCopy c.w.core x).goOn c c.next false) w ∧
    SameMemory s (((s.copyStart c).queueCopy c.w.core x).goOn c c.next false) ∧
    ((((s.copyStart c).queueCopy c.w.core x).goOn c c.next false).core c.w.core).copyQ = (s.core c.w.core).copyQ ++ [x] ∧
    (∀ k, k ≠ c.w.core → (((s.copyStart c).queueCopy c.w.core x).goOn c c.next false).core k = s.core k) ∧
    ∀ v, v ≠ c.wi → (((s.copyStart c).queueCopy c.w.core x).goOn c c.next false).wave? v = s.wave? v := by
  obtain ⟨⟨rs, hw⟩, ho, hcores, hmem⟩ := State.copyStart_spec h
  have hcore (k : Nat) : (s.copyStart c).core k = s.core k := by rw [State.core, State.core, hcores]
  obtain ⟨w, hon, -⟩ := onward_goOn (u := (s.copyStart c).queueCopy c.w.core x) hw
    ⟨rfl, rfl, rfl, rfl, rfl, c.sp, State.ctx?_split h, rfl, rfl, rfl⟩
  refine ⟨w, hon, hmem, ?_, fun k hk => ?_, fun v hv => ?_⟩
  · rw [← hcore]
    exact congrArg (·.copyQ) (State.core_setCore_self (s.copyStart c) c.w.core _)
  · exact (State.core_setCore_other (s.copyStart c) _ hk).trans (hcore k)
  · exact (State.wave?_goOn_other _ hv _ _).trans (ho v hv)

end

section
variable {d a b : Operand} {s : State} {c : Ctx} (ha : c.act ≠ 0)
include ha

theorem exec_cpy (h : Ready (.cpy d a b) { roleOk := copyRole } s c) :
    exec (.cpy d a b) s = .next ((copyIssue c s (pairN c a) (pairN c b) 1 (rawN c d) 0 0).finish c s) := by
  simp only [exec, execCpy]
  rw [uniformWord_ready h ha]

theorem exec_cpy2d (h : Ready (.cpy2d d a b) { roleOk := copyRole } s c) :
    exec (.cpy2d d a b) s = .next ((copyIssue c s (pairN c a) (pairN c b) (groupLane c d 0 0).toNat (groupLane c d 1 0).toNat
      (groupLane c d 2 0).toNat (groupLane c d 3 0).toNat).finish c s) := by
  simp only [exec, execCpy2d]
  rw [uniformWord_ready h ha]

end

/-! ## CPCLOSE -/

/-- The number of a batch beside what a wave has received. -/
theorem received_lastBatch {w0 w : Wave} {d : Operand} {mask : Word} {n : Nat} {f : Nat → Nat → Word} {fl : Flags}
    (h : Received w0 w d mask n f fl) (k : Nat) : Received { w0 with lastBatch := k } { w with lastBatch := k } d mask n f fl := by
  obtain ⟨hv, hs, hf, hrest⟩ := h
  exact ⟨hv, hs, hf, congrArg (fun x : Wave => { x with lastBatch := k }) hrest⟩

/-- The wave's open copies in a batch. -/
def State.closeBatch (s : State) (c : Ctx) (n : Nat) : State := s.modCore c.w.core fun k => { k with copyQ := k.copyQ.map fun o =>
  if o.wave = c.wi ∧ o.batch = none then { o with batch := some n } else o }

theorem exec_cpclose {d : Operand} {s : State} {c : Ctx} (h : Ready (.cpclose d) {} s c) (ha : c.act ≠ 0) :
    exec (.cpclose d) s = .next (((s.closeBatch c c.w.nextBatch).modWave c.wi fun w =>
      { w.writeGroup d c.act 1 (fun _ _ => word c.w.nextBatch) with lastBatch := c.w.nextBatch }).goOn c c.next false) := by
  simp only [exec, execCpclose]
  rw [uniformWord_ready h ha]
  rfl

theorem closeBatch_goOn {s : State} {c : Ctx} (h : s.ctx? = some c) (d : Operand) (n : Nat) (v : Word) :
    Took c s (((s.closeBatch c n).modWave c.wi fun w => { w.writeGroup d c.act 1 (fun _ _ => v) with lastBatch := n }).goOn c c.next false)
      { c.w with lastBatch := n } d 1 fun _ _ => v := by
  have hw := (State.wave?_modWave_self (s.closeBatch c n) c.wi fun w =>
    { w.writeGroup d c.act 1 (fun _ _ => v) with lastBatch := n }).trans (congrArg _ (State.ctx?_wave h))
  exact took_goOn (s := s) hw (Wave.writeGroup_splits _ _ _ _ _) (fun k hk => State.wave?_modWave_other (s.closeBatch c n) _ _ _ hk) rfl
    (received_lastBatch (c.w.writeGroup_received' d c.act 1 _) n)

/-! ## CPWAIT -/

section
variable {s : State} {wi : Nat} {w : Wave} (k : Nat) {n : Nat}

theorem State.waitRes_copies_left (hl : ∃ o ∈ (s.core w.core).copyQ, o.wave = wi ∧ ∃ j, o.batch = some j ∧ covered n j = true) :
    s.waitRes wi w k (.copies n) = .stay := by
  obtain ⟨o, ho, hwave, j, hj, hc⟩ := hl
  simp only [State.waitRes]
  rw [if_pos]
  exact List.any_eq_true.mpr ⟨o, ho, by simp [hwave, hj, hc]⟩

variable (hn : ∀ o ∈ (s.core w.core).copyQ, o.wave = wi → ∀ j, o.batch = some j → covered n j = false)
include hn

/-- With no copy of the batches left the wait is over, or one of them has failed. -/
theorem State.waitRes_copies_over : (w.failedBatches.find? (fun b => covered n b) = none →
      s.waitRes wi w k (.copies n) = .met (s.acquireBy wi k 0)) ∧
    ∀ b, w.failedBatches.find? (fun b => covered n b) = some b → s.waitRes wi w k (.copies n) = .trap Cause.engFail b := by
  simp only [State.waitRes]
  rw [if_neg]
  · exact ⟨fun hf => by rw [hf], fun b hf => by rw [hf]⟩
  rw [Bool.not_eq_true, List.any_eq_false]
  intro o ho hany
  rw [Bool.and_eq_true, beq_iff_eq] at hany
  obtain ⟨hwave, hbatch⟩ := hany
  cases hj : o.batch with
  | none => simp [hj] at hbatch
  | some j => simp [hj, hn o ho hwave j hj] at hbatch

end

section
variable {a : Operand} {s : State} {c : Ctx} (h : Ready (.cpwait a) {} s c) (ha : c.act ≠ 0)
include h ha

theorem exec_cpwait_none (hn : rawN c a = 0) : exec (.cpwait a) s = .next ((s.acquireBy c.wi c.sp.num 0).goOn c c.next false) := by
  simp only [exec, execCpwait]
  rw [uniformWord_ready h ha]
  simp only [hn, if_true, Effect.finish]

variable (hn : rawN c a ≠ 0) (hb : c.w.lastBatch ≠ 0) (hc : covered c.w.lastBatch (rawN c a) = true)
include hn hb hc

/-- CPWAIT of a batch that the wave has closed does what its wait comes to. -/
theorem exec_cpwait_stay (hw : s.waitRes c.wi c.w c.sp.num (.copies (rawN c a)) = .stay) :
    exec (.cpwait a) s = .next (s.parkedIn c (.copies (rawN c a))) := by
  simp only [exec, execCpwait]
  rw [uniformWord_ready h ha]
  simp only [hn, hb, hc, hw, Bool.not_true, Bool.false_eq_true, or_self, if_false, Effect.finish_park]

theorem exec_cpwait_met {s1 : State} (hw : s.waitRes c.wi c.w c.sp.num (.copies (rawN c a)) = .met s1) :
    exec (.cpwait a) s = .next (s1.goOn c c.next false) := by
  simp only [exec, execCpwait]
  rw [uniformWord_ready h ha]
  simp only [hn, hb, hc, hw, Bool.not_true, Bool.false_eq_true, or_self, if_false, Effect.finish]

theorem exec_cpwait_trap {cause faddr : Nat} (hw : s.waitRes c.wi c.w c.sp.num (.copies (rawN c a)) = .trap cause faddr) :
    exec (.cpwait a) s = .next (s.raise c.wi c.sp.num cause faddr c.sp.exec c.pc) := by
  simp only [exec, execCpwait]
  rw [uniformWord_ready h ha]
  simp only [hn, hb, hc, hw, Bool.not_true, Bool.false_eq_true, or_self, if_false, Effect.finish]

end

end Sys2Proof.Machine

namespace Sys2Proof

open Machine Safety

/-- Settles O42: each word by the checks that it makes; what a copy that enters its queue leaves alone is `queueCopy_goOn`, what the wait of
CPWAIT comes to `State.waitRes_copies_over`. -/
theorem mirrorAndCopyWords : Obligations.MirrorAndCopyWords := by
  unfold Obligations.MirrorAndCopyWords
  dsimp only
  intro d a b s c bk hb ha
  refine ⟨fun h id off len hargs hid hs hom hlm hl hu => ?mwbind, fun h hid => ⟨fun hn => ?unbound, fun hm ho => ?ends, fun hm ho => ?waits⟩,
    fun hf => ⟨fun h hd hs => ?cpy, fun h hd hs => ?cpy2d⟩, fun h => ?cpclose,
    fun h => ⟨fun hn => exec_cpwait_none h ha hn, fun hn hl hc hnone => ⟨fun hok => ?met, fun k rest hk hkc => ?failed⟩,
      fun hn hl hc hleft => ?left⟩⟩
  case mwbind =>
    have he := exec_mwbind h ha hb (mwbindArgs_eq hargs) hid hs hom hlm hl hu
    refine ⟨fun hbusy => ?parks, fun hfree => ?binds⟩
    case parks =>
      rw [if_pos hbusy] at he
      exact ⟨_, he, waits_parkedIn (State.wave?_unmark h.1) (State.ctx?_split h.1) _⟩
    case binds =>
      rw [if_neg (by simp [hfree])] at he
      have hw : ((s.stamp.2.unmark c.wi).modBlock c.w.block fun x => x.bindMirror (s.newMirror c.w id off len)).wave? c.wi =
        some c.w.unmark := State.wave?_unmark h.1
      obtain ⟨w, hon, -⟩ := onward_goOn hw ⟨rfl, rfl, rfl, rfl, rfl, c.sp, State.ctx?_split h.1, rfl, rfl, rfl⟩
      refine ⟨_, w, he, hon, ⟨rfl, rfl, rfl, rfl, rfl, rfl, rfl⟩, ?_⟩
      rw [State.block?_goOn, State.block?_modBlock_self, State.block?_unmark]
      exact congrArg (Option.map _) hb
  case unbound => exact ⟨_, exec_mwunbind_unbound h ha hb hid hn, tookB_goOn h.1 hb id _ 0⟩
  case ends => exact ⟨_, exec_mwunbind_ends h ha hb hid hm ho, tookB_goOn h.1 hb _ _ 0⟩
  case waits =>
    exact ⟨_, exec_mwunbind_waits h ha hb hid hm ho, finishes_completingIn (w := c.w.unmark) (State.wave?_unmark h.1) (State.ctx?_split h.1) _⟩
  case cpy =>
    have he := exec_cpy ha h
    rw [copyIssue_enters hd hs hf, Effect.finish] at he
    obtain ⟨w, hon, hmem, hq, hcores, hwaves⟩ := queueCopy_goOn h.1 (s.newCopy c (pairN c a) (pairN c b) 1 (rawN c d) 0 0)
    exact ⟨_, w, _, he, hon, hmem, hq, rfl, rfl, rfl, rfl, rfl, rfl, rfl, rfl, rfl, rfl, rfl, rfl, hcores, hwaves⟩
  case cpy2d =>
    have he := exec_cpy2d ha h
    rw [copyIssue_enters hd hs hf, Effect.finish] at he
    obtain ⟨w, hon, hmem, hq, hcores, hwaves⟩ := queueCopy_goOn h.1 (s.newCopy c (pairN c a) (pairN c b) (groupLane c d 0 0).toNat
      (groupLane c d 1 0).toNat (groupLane c d 2 0).toNat (groupLane c d 3 0).toNat)
    exact ⟨_, w, _, he, hon, hmem, hq, rfl, rfl, rfl, rfl, rfl, rfl, rfl, rfl, rfl, rfl, rfl, rfl, hcores, hwaves⟩
  case cpclose =>
    refine ⟨_, exec_cpclose h ha, closeBatch_goOn h.1 d _ _, ?_⟩
    exact congrArg (·.copyQ) (State.core_setCore_self s c.w.core _)
  case met =>
    obtain ⟨hover, -⟩ := State.waitRes_copies_over c.sp.num hnone
    have hfind : c.w.failedBatches.find? (fun b => covered (rawN c a) b) = none :=
      List.find?_eq_none.mpr fun k hk => by simp [hok k hk]
    exact exec_cpwait_met h ha hn hl hc (hover hfind)
  case failed =>
    obtain ⟨-, hfailed⟩ := State.waitRes_copies_over c.sp.num hnone
    have hfind : c.w.failedBatches.find? (fun b => covered (rawN c a) b) = some k := by rw [hk, List.find?_cons_of_pos hkc]
    exact exec_cpwait_trap h ha hn hl hc (hfailed k hfind)
  case left =>
    exact ⟨_, exec_cpwait_stay h ha hn hl hc (State.waitRes_copies_left _ hleft),
      waits_parkedIn (State.ctx?_wave h.1) (State.ctx?_split h.1) _⟩

end Sys2Proof
end


section
/-! PROOFS. The loads (06 R110, 08 R153, R155), the stores and STREL (24 R404, 08 R153) and the atomics (22 R291 to R294) at issue: what an
access whose lanes are all granted leaves in its wave. -/

namespace Sys2Proof.Machine

open Safety

/-! ## Loads -/

/-- One record more among the pending ones of the issuing wave. -/
def State.addPend (s : State) (c : Ctx) (p : Pend) : State := s.stamp.2.modWave c.wi fun w => { w with pend := w.pend ++ [p] }

/-- The record of a load, with its acquire the last one of its split. -/
def State.issueLoad (s : State) (c : Ctx) (p : Pend) (acquires : Bool) : State :=
  if acquires then (s.addPend c p).modSplit c.wi c.sp.num fun x => { x with acq := s.seq } else s.addPend c p

/-- A load is issued as one record, or, with no lane, not at all. -/
theorem addLoad_eq (s : State) (c : Ctx) (d : Operand) (width : Nat) (acq : Option Nat) (promote : Bool) (ls : List (Nat × Nat)) :
    (ls = [] ∧ addLoad c d width acq promote s ls = s) ∨
      ∃ p, loadPend c d width s.seq acq promote ls = [p] ∧ addLoad c d width acq promote s ls = s.issueLoad c p acq.isSome := by
  cases ls with
  | nil => exact .inl ⟨rfl, rfl⟩
  | cons e ls => exact .inr ⟨_, rfl, rfl⟩

section
variable {s u : State} {c : Ctx} {w : Wave} {x : Split}

/-- Pending records added in the issuing wave, its split gone on: what `Sent` says of it. -/
theorem sent_goOn {ps : List Pend} (hw : u.wave? c.wi = some w) (hx : w.split? c.sp.num = some x)
    (hkeep : x.live = c.sp.live ∧ x.exec = c.sp.exec ∧ x.mode = c.sp.mode) (hp : w.pend = c.w.pend ++ ps)
    (hrest : { w with pend := c.w.pend, splits := c.w.splits } = c.w) (hframe : { u with waves := s.waves, seq := s.seq, free := s.free } = s)
    (hothers : ∀ v, v ≠ c.wi → u.wave? v = s.wave? v) : Sent c s (u.goOn c c.next false) ps 0 := by
  have hflags : w.fpflags = c.w.fpflags := (congrArg (·.fpflags) hrest :)
  have hrest' : { w with pend := c.w.pend, fpflags := c.w.fpflags, splits := c.w.splits } = c.w := by
    rw [← hflags]; exact hrest
  exact ⟨hframe, fun v hv => (u.wave?_goOn_other hv _ _).trans (hothers v hv), _, State.wave?_goOn hw c.next false, hp,
    by simpa [Wave.modSplit] using hflags, hrest', _, Wave.split?_modSplit hx fun _ => rfl, rfl, hkeep⟩

variable (h : s.ctx? = some c)
include h

theorem State.wave?_addPend (p : Pend) : (s.addPend c p).wave? c.wi = some { c.w with pend := c.w.pend ++ [p] } :=
  (State.wave?_modWave_self s.stamp.2 c.wi _).trans (congrArg _ (State.ctx?_wave h))

/-- An issued load is one pending record more; its lanes have no value yet. -/
theorem sent_issueLoad (p : Pend) (acquires : Bool) : Sent c s ((s.issueLoad c p acquires).goOn c c.next false) [p] 0 := by
  have hw := State.wave?_addPend h p
  have ho (v : Nat) (hv : v ≠ c.wi) : (s.addPend c p).wave? v = s.wave? v := State.wave?_modWave_other s.stamp.2 _ _ _ hv
  cases acquires with
  | false => exact sent_goOn hw (State.ctx?_split h) ⟨rfl, rfl, rfl⟩ rfl rfl rfl ho
  | true =>
    refine sent_goOn (State.wave?_modSplit hw _ _) (Wave.split?_modSplit (State.ctx?_split h) fun _ => rfl) ⟨rfl, rfl, rfl⟩ rfl rfl rfl
      fun v hv => ?_
    exact (State.wave?_modWave_other _ _ _ _ hv).trans (ho v hv)

theorem sent_nothing : Sent c s (s.goOn c c.next false) [] 0 :=
  sent_goOn (State.ctx?_wave h) (State.ctx?_split h) ⟨rfl, rfl, rfl⟩ (List.append_nil _).symm rfl rfl fun _ _ => rfl

theorem sent_addLoad (d : Operand) (width : Nat) (acq : Option Nat) (promote : Bool) (ls : List (Nat × Nat)) :
    Sent c s ((addLoad c d width acq promote s ls).goOn c c.next false) (loadPend c d width s.seq acq promote ls) 0 := by
  rcases addLoad_eq s c d width acq promote ls with ⟨rfl, he⟩ | ⟨p, hp, he⟩
  · rw [he]
    exact sent_nothing h
  · rw [he, hp]
    exact sent_issueLoad h p _

end

/-- The loads whose lanes are checked together, each with its width and its acquire. -/
def loadForms (d a b : Operand) (c : Ctx) : List (Instr × Nat × Option Nat × Bool) :=
  [(Instr.ld8 d a b, 1, none, false), (.ld16 d a b, 2, none, false), (.ld32 d a b, 4, none, false), (.ld64 d a b, 8, none, false),
    (.lds32 d a b, 4, none, false), (.lds64 d a b, 8, none, false), (.lds128 d a b, 16, none, false),
    (.ldacq d a b, 4, some (mScope c.sp.mode), false), (.acqr d a b, 4, some 0, true)]

/-- Each of them runs in the mould of `loadWord`. -/
theorem exec_loadWord {d a b : Operand} {c : Ctx} {i : Instr} {width : Nat} {acq : Option Nat} {promote : Bool}
    (hi : (i, width, acq, promote) ∈ loadForms d a b c) (s : State) :
    ∃ f : Ctx → Option Nat, f c = acq ∧ exec i s = loadWord i d a b width f promote s := by
  simp only [loadForms, List.mem_cons, Prod.mk.injEq, List.not_mem_nil, or_false] at hi
  rcases hi with ⟨rfl, rfl, rfl, rfl⟩ | ⟨rfl, rfl, rfl, rfl⟩ | ⟨rfl, rfl, rfl, rfl⟩ | ⟨rfl, rfl, rfl, rfl⟩ | ⟨rfl, rfl, rfl, rfl⟩ |
    ⟨rfl, rfl, rfl, rfl⟩ | ⟨rfl, rfl, rfl, rfl⟩ | ⟨rfl, rfl, rfl, rfl⟩ | ⟨rfl, rfl, rfl, rfl⟩
  case inr.inr.inr.inr.inr.inr.inr.inl => exact ⟨fun c => some (mScope c.sp.mode), rfl, rfl⟩
  case inr.inr.inr.inr.inr.inr.inr.inr => exact ⟨fun _ => some 0, rfl, rfl⟩
  all_goals exact ⟨fun _ => none, rfl, rfl⟩

end Sys2Proof.Machine

namespace Sys2Proof

open Machine Safety

/-- Settles O33: each of the loads runs in the mould of `loadWord` (`exec_loadWord`), and with its lanes granted leaves one record
(`sent_addLoad`). -/
theorem loadWords : Obligations.LoadWords := by
  unfold Obligations.LoadWords
  intro d a b s c i width acq promote hi h hg
  obtain ⟨f, hf, hexec⟩ := exec_loadWord hi s
  rw [hexec, loadWord_eq, wordOf_ready h, withLanes_granted hg, Effect.finish, hf]
  exact ⟨_, rfl, sent_addLoad h.1 d width acq promote _⟩

end Sys2Proof
end

section
/-! PROOFS. The stores and STREL (24 R404, 08 R153) and the atomics (22 R291 to R294) at issue: entering writes into a store buffer. -/

namespace Sys2Proof.Machine

open Safety

/-! ## Memory -/

/-- What software or an agent can read through an address. -/
def State.memory (s : State) : Memory × Table SramLine × Memory × Memory × Memory × Table SumRec × List PortWrite :=
  (s.pt, s.sram, s.host, s.peers, s.home, s.sums, s.portWrites)

theorem sameMemory_iff {s t : State} : SameMemory s t ↔ t.memory = s.memory := by
  simp only [State.memory, SameMemory, Prod.mk.injEq]

theorem sameMemory_trans {s t u : State} (h : SameMemory s t) (k : SameMemory t u) : SameMemory s u :=
  sameMemory_iff.mpr ((sameMemory_iff.mp k).trans (sameMemory_iff.mp h))

/-! ## Entering writes -/

/-- From s to t the issuing wave has entered these writes into its store buffer, in this order; besides the stamps nothing else has changed
but, where the writes are mirrored, the deliveries. -/
structure Enters (c : Ctx) (tag : Bool) (holds : List Nat) (mirrors : Bool) (s t : State) (es : List (Nat × Payload)) : Prop where
  wave : ∀ w, s.wave? c.wi = some w → ∃ new, t.wave? c.wi = some { w with wsb := w.wsb ++ new } ∧
    new.map (fun e => (e.addr, e.payload)) = es ∧
    ∀ e ∈ new, e.wave = c.wi ∧ e.tag = tag ∧ e.holds = holds ++ w.relHolds ∧ e.read = false ∧ e.cpol = mCpol c.sp.mode
  others : ∀ v, v ≠ c.wi → t.wave? v = s.wave? v
  frame : { t with waves := s.waves, seq := s.seq, deliveries := s.deliveries } = s
  deliveries : mirrors = false → t.deliveries = s.deliveries

section
variable {c : Ctx} {tag : Bool} {holds : List Nat} {mirrors : Bool} {s t u : State} {es fs : List (Nat × Payload)}

theorem Enters.nil (s : State) : Enters c tag holds mirrors s s [] :=
  ⟨fun w hw => ⟨[], by rw [List.append_nil, hw], rfl, fun _ he => (List.not_mem_nil he).elim⟩, fun _ _ => rfl, rfl, fun _ => rfl⟩

theorem Enters.trans (h : Enters c tag holds mirrors s t es) (k : Enters c tag holds mirrors t u fs) :
    Enters c tag holds mirrors s u (es ++ fs) := by
  refine ⟨fun w hw => ?_, fun v hv => (k.others v hv).trans (h.others v hv), ?_, fun hm => (k.deliveries hm).trans (h.deliveries hm)⟩
  · obtain ⟨new, ht, hes, hnew⟩ := h.wave w hw
    obtain ⟨more, hu, hfs, hmore⟩ := k.wave _ ht
    refine ⟨new ++ more, by rw [hu, List.append_assoc], by rw [List.map_append, hes, hfs], fun e he => ?_⟩
    rcases List.mem_append.mp he with he | he
    · exact hnew e he
    · exact hmore e he
  · exact (congrArg (fun x : State => { x with waves := s.waves, seq := s.seq, deliveries := s.deliveries }) k.frame).trans h.frame

/-- An operation that enters one write a step enters those of a list in its order. -/
theorem Enters.foldl {α : Type} {f : State → α → State} {g : α → Nat × Payload}
    (hf : ∀ s x, Enters c tag holds mirrors s (f s x) [g x])
    (xs : List α) (s : State) : Enters c tag holds mirrors s (xs.foldl f s) (xs.map g) := by
  induction xs generalizing s with
  | nil => exact Enters.nil s
  | cons x xs ih => exact (hf s x).trans (ih (f s x))

theorem State.enters_enter (s : State) (addr : Nat) (p : Payload) : Enters c tag holds mirrors s (s.enter c addr p tag holds).2 [(addr, p)] := by
  refine ⟨fun w hw => ⟨_, (State.wave?_modWave_self s.stamp.2 c.wi _).trans (congrArg _ hw), rfl, fun e he => ?_⟩,
    fun v hv => State.wave?_modWave_other s.stamp.2 _ _ _ hv, rfl, fun _ => rfl⟩
  rw [List.mem_singleton.mp he]
  exact ⟨rfl, rfl, rfl, rfl, rfl⟩

/-- A delivery to the other members of a mirrored window changes nothing else. -/
theorem State.mirror_eq (s : State) (w : Wave) (q addr : Nat) (bs : List Byte) : ∃ ds, s.mirror w q addr bs = { s with deliveries := ds } := by
  unfold State.mirror
  split
  · exact ⟨_, rfl⟩
  · split <;> exact ⟨_, rfl⟩

theorem enters_enterStore (s : State) (e : Nat × List Byte) :
    Enters c tag holds mirrors s (enterStore c mirrors tag holds s e) [(e.1, .store e.2)] := by
  have h : Enters c tag holds mirrors s (s.enter c e.1 (.store e.2) tag holds).2 [(e.1, .store e.2)] := s.enters_enter e.1 _
  unfold enterStore
  cases mirrors with
  | false => exact h
  | true =>
    obtain ⟨ds, hds⟩ := State.mirror_eq (s.enter c e.1 (.store e.2) tag holds).2 c.w (s.enter c e.1 (.store e.2) tag holds).1 e.1 e.2
    dsimp only
    rw [if_pos rfl, hds]
    exact ⟨h.wave, h.others, h.frame, fun hm => Bool.noConfusion hm⟩

/-- The lanes of a store enter its bytes, one entry for each distinct address. -/
theorem enters_enterLanes (d : Operand) (width : Nat) (s : State) (ls : List (Nat × Nat)) :
    Enters c tag holds mirrors s (enterLanes c d width mirrors tag holds s ls) (storesOf c d width ls) :=
  Enters.foldl (g := fun e : Nat × Nat => (e.2, Payload.store (storeBytes c d width e.1))) (fun s _ => enters_enterStore s _) (lastLanes ls) s

theorem Enters.sameMemory (h : Enters c tag holds mirrors s t es) : SameMemory s t := 
  sameMemory_iff.mpr (congrArg State.memory h.frame :)

/-- Writes that are not mirrored change nothing but their wave and the stamps. -/
theorem Enters.frame_unmirrored (h : Enters c tag holds false s t es) : { t with waves := s.waves, seq := s.seq } = s := by
  have hf := h.frame
  rw [← h.deliveries rfl] at hf
  exact hf

/-- Writes entered, the split gone on: what `Entered` says of it, and what of the wave is as it was before the writes. -/
theorem Enters.entered {w : Wave} (h : Enters c tag holds mirrors s t es) (hw : s.wave? c.wi = some w) (hk : Keeps c w)
    (hh : w.h = c.w.h) (hwsb : w.wsb = c.w.wsb) (hrel : w.relHolds = c.w.relHolds) {s0 : State} (hm : SameMemory s0 s)
    (ho : ∀ v, v ≠ c.wi → s.wave? v = s0.wave? v) :
    Entered c s0 (t.goOn c c.next false) es tag holds ∧ ∃ w', (t.goOn c c.next false).wave? c.wi = some w' ∧ w'.rewindable = w.rewindable ∧
      w'.releases = w.releases := by
  obtain ⟨new, ht, hes, hnew⟩ := h.wave w hw
  obtain ⟨hv, hs, hp, hst, ha, x, hx, hl, he, hmode⟩ := hk
  have hg := State.wave?_goOn ht c.next false
  refine ⟨⟨sameMemory_trans (u := t.goOn c c.next false) hm h.sameMemory, fun v hv =>
    (t.wave?_goOn_other hv _ _).trans ((h.others v hv).trans (ho v hv)), _, new, hg, congrArg (· ++ new) hwsb, hes, ?_,
    hv, hs, hp, hh, ha, hst, _, Wave.split?_modSplit (f := _) hx fun _ => rfl, rfl, he, hl, hmode⟩, _, hg, rfl, rfl⟩
  rw [← hrel]
  exact hnew

end

/-! ## Starting a release -/

/-- The buffered writes that a release of a wave at a scope covers (08 R150). -/
def State.releaseCovers (s : State) (w : Wave) (scope : Nat) : List Nat :=
  let wsb := (w.wsb.filter WEntry.counts).map (·.seq)
  let oq := (s.block? w.block).elim [] fun b => (b.oq.filter WEntry.counts).map (·.seq)
  if scope = 1 then [] else if scope = 2 then wsb else wsb ++ oq

/-- A record is that of a release which has just been started. -/
def State.IsRelease (s : State) (wi : Nat) (w : Wave) (scope : Nat) (x : Release) : Prop :=
  x.n = s.seq ∧ x.scope = scope ∧ x.wave = wi ∧ x.seqs = s.releaseCovers w scope ∧ x.fault = none

section
variable {s : State} {wi : Nat} {w : Wave} (hw : s.wave? wi = some w) (scope : Nat)
include hw

theorem State.startRelease_num : (s.startRelease wi scope).1 = s.seq := by
  unfold State.startRelease
  rw [hw]
  rfl

/-- A release is one record more of its wave, unless it is complete; its block may lose its reservations (08 R157). -/
theorem State.startRelease_eq : ∃ x f, s.IsRelease wi w scope x ∧
    (s.startRelease wi scope).2 = (s.modBlock w.block f).withRelease wi x := by
  unfold State.startRelease
  rw [hw]
  by_cases hwide : scope = 0 ∨ scope = 4 ∨ scope = 5
  · exact ⟨_, fun b => { b with resv := [] }, ⟨rfl, rfl, rfl, rfl, rfl⟩, by simp only [if_pos hwide]; rfl⟩
  · exact ⟨_, id, ⟨rfl, rfl, rfl, rfl, rfl⟩, by rw [State.modBlock_id]; simp only [if_neg hwide]; rfl⟩

/-- Nothing but the wave's releases, its block's reservations and the stamps has changed. -/
theorem State.startRelease_spec : (∃ rs, (s.startRelease wi scope).2.wave? wi = some { w with releases := rs } ∧
      ((∃ x, rs = w.releases ++ [x] ∧ s.IsRelease wi w scope x) ∨ (rs = w.releases ∧ s.releaseCovers w scope = []))) ∧
    (∀ v, v ≠ wi → (s.startRelease wi scope).2.wave? v = s.wave? v) ∧
    { (s.startRelease wi scope).2 with waves := s.waves, seq := s.seq, blocks := s.blocks } = s := by
  obtain ⟨x, f, hx, he⟩ := State.startRelease_eq hw scope
  rw [he, State.withRelease]
  by_cases hc : x.complete = true
  · rw [if_pos hc]
    refine ⟨⟨w.releases, hw, .inr ⟨rfl, ?_⟩⟩, fun _ _ => rfl, rfl⟩
    obtain ⟨-, -, -, hseqs, -⟩ := hx
    simp only [Release.complete, Bool.and_eq_true, List.isEmpty_iff] at hc
    rw [← hseqs, hc.1.1.1.1]
  · rw [if_neg hc]
    exact ⟨⟨_, (State.wave?_modWave_self (s.modBlock w.block f).stamp.2 wi _).trans (congrArg _ hw), .inl ⟨x, rfl, hx⟩⟩,
      fun v hv => State.wave?_modWave_other (s.modBlock w.block f).stamp.2 _ _ _ hv, rfl⟩

end

/-! ## The words -/

/-- The stores whose lanes are checked together, each with its width. -/
def storeForms (d a b : Operand) : List (Instr × Nat) :=
  [(Instr.st8 d a b, 1), (.st16 d a b, 2), (.st32 d a b, 4), (.st64 d a b, 8), (.sts32 d a b, 4)]

theorem exec_storeWord {d a b : Operand} {i : Instr} {width : Nat} (hi : (i, width) ∈ storeForms d a b) (s : State) :
    exec i s = storeWord i d a b width s := by
  simp only [storeForms, List.mem_cons, Prod.mk.injEq, List.not_mem_nil, or_false] at hi
  rcases hi with ⟨rfl, rfl⟩ | ⟨rfl, rfl⟩ | ⟨rfl, rfl⟩ | ⟨rfl, rfl⟩ | ⟨rfl, rfl⟩ <;> rfl

theorem keeps_issuer {s : State} {c : Ctx} (h : s.ctx? = some c) : Keeps c c.w :=
  ⟨rfl, rfl, rfl, rfl, rfl, c.sp, State.ctx?_split h, rfl, rfl, rfl⟩

section
variable {d a b : Operand} {s : State} {c : Ctx} (h : Ready (.strel d a b) {} s c)
include h

theorem exec_strel_empty (ha : c.act = 0) : exec (.strel d a b) s = .next (s.goOn c c.next false) := by
  simp only [exec, execStrel]
  rw [wordOf_ready h, if_pos ha, Effect.finish]

/-- The state in which STREL enters its writes: its release has been started, and no region of a flashback goes on. -/
def State.strelStart (s : State) (c : Ctx) : State := ((s.unmark c.wi).startRelease c.wi (mScope c.sp.mode)).2

theorem exec_strel (ha : c.act ≠ 0) (hg : AllGranted c s 4 true .write (accessLanes c (!(isV d)) a b)) :
    exec (.strel d a b) s = .next ((enterLanes c d 4 false (mScope c.sp.mode == 2) [s.seq] (s.strelStart c)
      (accessLanes c (!(isV d)) a b)).goOn c c.next false) := by
  simp only [exec, execStrel]
  rw [wordOf_ready h, if_neg ha, withLanes_granted hg, State.startRelease_num (State.wave?_unmark h.1)]
  rfl

end

end Sys2Proof.Machine

namespace Sys2Proof

open Machine Safety

/-- Settles O35: the lanes of a store enter their bytes (`enters_enterLanes`) and nothing else; STREL's enter theirs in the state that its
release leaves (`State.startRelease_spec`). -/
theorem storeWords : Obligations.StoreWords := by
  unfold Obligations.StoreWords
  dsimp only
  refine fun d a b s c => ⟨fun i width hi h hg => ?stores, fun h ha => exec_strel_empty h ha, fun h ha hg => ?strel⟩
  case stores =>
    have he := enters_enterLanes (c := c) (tag := false) (holds := []) (mirrors := true) d width s (accessLanes c (!(isV d)) a b)
    obtain ⟨hent, -⟩ := he.entered (State.ctx?_wave h.1) (keeps_issuer h.1) rfl rfl rfl (s0 := s) ⟨rfl, rfl, rfl, rfl, rfl, rfl, rfl⟩
      fun _ _ => rfl
    rw [exec_storeWord hi, storeWord_eq, wordOf_ready h, withLanes_granted hg, Effect.finish]
    exact ⟨_, rfl, hent, he.frame⟩
  case strel =>
    have he := enters_enterLanes (c := c) (tag := mScope c.sp.mode == 2) (holds := [s.seq]) (mirrors := false) d 4 (s.strelStart c)
      (accessLanes c (!(isV d)) a b)
    obtain ⟨⟨rs, hw, hrs⟩, hothers, hframe⟩ := State.startRelease_spec (State.wave?_unmark h.1) (mScope c.sp.mode)
    have hframe' : { s.strelStart c with waves := s.waves, seq := s.seq, blocks := s.blocks } = s :=
      congrArg (fun x : State => { x with waves := s.waves }) hframe
    have hmem : SameMemory s (s.strelStart c) := sameMemory_iff.mpr (congrArg State.memory hframe' :)
    obtain ⟨hent, w, hwave, hmark, hrel⟩ := he.entered hw (keeps_issuer h.1) rfl rfl rfl hmem fun v hv =>
      (hothers v hv).trans (State.wave?_modWave_other s _ _ _ hv)
    refine ⟨_, w, exec_strel h ha hg, hwave, hmark, hent, ?frame, ?release⟩
    case frame =>
      have hf := congrArg (fun x : State => { x with waves := s.waves, seq := s.seq, blocks := s.blocks }) he.frame_unmirrored
      exact hf.trans hframe'
    case release =>
      rw [hrel]
      exact hrs

end Sys2Proof
end

section
/-! PROOFS. The atomics at issue (22 R291 to R294, 08 R156): in which order their lanes enter the store buffer, and what that leaves. -/

namespace Sys2Proof.Machine

open Safety

/-! ## The order of the lanes -/

theorem insertKeyed_perm (k : Nat) (e : Nat × Nat) (xs : List (Nat × Nat × Nat)) : (insertKeyed k e xs).Perm ((k, e) :: xs) := by
  induction xs with
  | nil => exact .refl _
  | cons x xs ih =>
    unfold insertKeyed
    split
    · exact .refl _
    · exact (ih.cons x).trans (.swap _ _ _)

theorem foldl_insertKeyed_perm (key : Nat → Nat) (es : List ((Nat × Nat) × Nat)) (xs : List (Nat × Nat × Nat)) :
    ((es.foldl (fun xs e => insertKeyed (key e.2) e.1 xs) xs).map fun x => x.2).Perm (es.map (·.1) ++ xs.map fun x => x.2) := by
  induction es generalizing xs with
  | nil => exact .refl _
  | cons e es ih =>
    refine (ih _).trans ?_
    refine (((insertKeyed_perm (key e.2) e.1 xs).map _).append_left _).trans ?_
    exact List.perm_middle

/-- Lanes in a free order are the same lanes. -/
theorem shuffle_perm (n : Nat) (ls : List (Nat × Nat)) : (shuffle n ls).Perm ls := by
  have h := foldl_insertKeyed_perm (fun k => Config.freeNat (n + k)) (ls.zip (upTo ls.length)) []
  rw [List.map_nil, List.append_nil, List.map_fst_zip (by simp [upTo])] at h
  exact h

section
variable (use n : Nat) (ls : List (Nat × Nat))

/-- Every lane enters once. -/
theorem atomicOrder_perm : (atomicOrder use n ls).Perm ls := by
  unfold atomicOrder
  dsimp only
  split
  · exact .refl _
  · split
    · refine .trans (.append_left _ (t₂ := ls.filter fun e => inAperture e.2) ?_) ?_
      · split
        · exact shuffle_perm n _
        · exact .refl _
      · simpa using List.filter_append_perm (fun e : Nat × Nat => !(inAperture e.2)) ls
    · exact shuffle_perm n ls

variable {use ls}

theorem atomicOrder_distinct (h : duplicated ls = false) : atomicOrder use n ls = ls := by
  rw [atomicOrder, if_pos (by rw [h]; rfl)]

/-- Unpaired and quantum atomics at global addresses enter in ascending order. -/
theorem atomicOrder_ascending (hu : use = 1 ∨ use = 3) (h : ∀ e ∈ ls, inAperture e.2 = false) : atomicOrder use n ls = ls := by
  have hglobal : ls.filter (fun e => !(inAperture e.2)) = ls := List.filter_eq_self.mpr fun e he => by rw [h e he]; rfl
  have hscratch : ls.filter (fun e => inAperture e.2) = [] := List.filter_eq_nil_iff.mpr fun e he => by rw [h e he]; exact Bool.false_ne_true
  unfold atomicOrder
  dsimp only
  rw [hglobal, hscratch, if_pos hu]
  split
  · rfl
  · exact List.append_nil _

end

/-! ## Entering atomics -/

/-- The record of a returning atomic's lanes. -/
def atomicPend (c : Ctx) (d : Operand) (n : Nat) (ls : List (Nat × Nat)) : Pend :=
  { n := n, split := c.sp.num, codes := (upTo ((if mType c.sp.mode = 14 then 8 else 4) / 4)).map (regCode d + ·), op := .atomic (ls.map (·.1)) }

/-- The state in which the lanes of an atomic enter: with a result, its registers are pending. -/
def State.atomicStart (s : State) (c : Ctx) (d : Operand) (ls : List (Nat × Nat)) : State :=
  let s0 : State := { s with free := if duplicated ls then s.free + ls.length else s.free }
  if isDiscard d then s0.stamp.2 else s0.addPend c (atomicPend c d s.seq ls)

theorem enterAtomics_eq (op : AtomicOp) (d b : Operand) (c : Ctx) (s : State) (ls : List (Nat × Nat)) : enterAtomics op d b c s ls =
    (atomicOrder (mAuse c.sp.mode) s.free ls).foldl (fun t e =>
      (t.enter c (atomicOf op d b c s.seq e).1 (atomicOf op d b c s.seq e).2 false []).2) (s.atomicStart c d ls) := by
  unfold enterAtomics State.atomicStart State.addPend atomicPend
  cases hd : isDiscard d <;>
    simp only [hd, atomicOf, Ty.n64, beq_iff_eq, Bool.not_true, Bool.not_false, if_true, if_false, Bool.false_eq_true, groupCodes]
  rfl

/-- What the issuing wave has pending once an atomic has been issued. -/
def atomicPends (c : Ctx) (d : Operand) (n : Nat) (ls : List (Nat × Nat)) : List Pend := if isDiscard d then [] else [atomicPend c d n ls]

theorem State.atomicStart_spec {s : State} {c : Ctx} {w : Wave} (hw : s.wave? c.wi = some w) (d : Operand) (ls : List (Nat × Nat)) :
    (s.atomicStart c d ls).wave? c.wi = some { w with pend := w.pend ++ atomicPends c d s.seq ls } ∧ SameMemory s (s.atomicStart c d ls) := by
  unfold State.atomicStart atomicPends
  dsimp only
  split
  · exact ⟨by rw [List.append_nil]; exact hw, ⟨rfl, rfl, rfl, rfl, rfl, rfl, rfl⟩⟩
  · exact ⟨(State.wave?_modWave_self _ c.wi _).trans (congrArg _ hw), ⟨rfl, rfl, rfl, rfl, rfl, rfl, rfl⟩⟩

/-- The lanes of an atomic enter in their order. -/
theorem enters_enterAtomics (op : AtomicOp) (d b : Operand) (c : Ctx) (s : State) (ls : List (Nat × Nat)) :
    Enters c false [] false (s.atomicStart c d ls) (enterAtomics op d b c s ls)
      ((atomicOrder (mAuse c.sp.mode) s.free ls).map (atomicOf op d b c s.seq)) := by
  rw [enterAtomics_eq]
  exact Enters.foldl (g := atomicOf op d b c s.seq) (fun t e => t.enters_enter _ _) _ _

/-! ## The words -/

/-- The atomics, each with its operation. -/
def atomicForms (d a b : Operand) : List (Instr × AtomicOp) :=
  [(Instr.aadd d a b, AtomicOp.add), (.amin d a b, .min), (.amax d a b, .max), (.aand d a b, .and), (.aor d a b, .or), (.axor d a b, .xor),
    (.axchg d a b, .xchg), (.acas d a b, .cas), (.ainc d a b, .inc)]

theorem exec_atomicWord {d a b : Operand} {i : Instr} {op : AtomicOp} (hi : (i, op) ∈ atomicForms d a b) (s : State) :
    exec i s = atomicWord i op d a b s := by
  simp only [atomicForms, List.mem_cons, Prod.mk.injEq, List.not_mem_nil, or_false] at hi
  rcases hi with ⟨rfl, rfl⟩ | ⟨rfl, rfl⟩ | ⟨rfl, rfl⟩ | ⟨rfl, rfl⟩ | ⟨rfl, rfl⟩ | ⟨rfl, rfl⟩ | ⟨rfl, rfl⟩ |
    ⟨rfl, rfl⟩ | ⟨rfl, rfl⟩ <;> rfl

/-- The lanes of an atomic with their addresses. -/
def atomicLanes (c : Ctx) (d a b : Operand) : List (Nat × Nat) := (actLanes (!(isV d)) c.act).map fun l => (l, atomicAddr c a b l)

/-- The region of a flashback goes on only past an atomic of use spec at global addresses (18 R262). -/
def State.atomicRegion (s : State) (c : Ctx) (ls : List (Nat × Nat)) : State :=
  if mAuse c.sp.mode = 4 ∧ !(ls.any fun e => inAperture e.2) then s else s.unmark c.wi

theorem State.atomicRegion_spec {s : State} {c : Ctx} (h : s.ctx? = some c) (ls : List (Nat × Nat)) :
    (s.atomicRegion c ls).wave? c.wi = some { c.w with
      rewindable := if mAuse c.sp.mode = 4 ∧ ∀ e ∈ ls, inAperture e.2 = false then c.w.rewindable else false } ∧
    SameMemory s (s.atomicRegion c ls) ∧ (s.atomicRegion c ls).seq = s.seq := by
  have hany : (!(ls.any fun e => inAperture e.2)) = true ↔ ∀ e ∈ ls, inAperture e.2 = false := by
    simp [List.any_eq_false]
  unfold State.atomicRegion
  simp only [hany]
  split
  · exact ⟨State.ctx?_wave h, ⟨rfl, rfl, rfl, rfl, rfl, rfl, rfl⟩, rfl⟩
  · exact ⟨State.wave?_unmark h, ⟨rfl, rfl, rfl, rfl, rfl, rfl, rfl⟩, rfl⟩

theorem exec_atomic {d a b : Operand} {i : Instr} {op : AtomicOp} (hi : (i, op) ∈ atomicForms d a b) {s : State} {c : Ctx}
    (h : Ready i { typeOk := atomicTypes op, illegal := fun c => !(useAllows (mAuse c.sp.mode) (mType c.sp.mode) op) } s c) (ha : c.act ≠ 0)
    (hg : AllGranted c s (if mType c.sp.mode = 14 then 8 else 4) true .both (atomicLanes c d a b)) : exec i s =
      .next ((enterAtomics op d b c (s.atomicRegion c (atomicLanes c d a b)) (atomicLanes c d a b)).goOn c c.next false) := by
  rw [exec_atomicWord hi, atomicWord, wordOf_ready h, if_neg ha]
  rw [← atomicLanes]
  exact congrArg (fun e : Effect => Host.Outcome.next (e.finish c s)) (withLanes_granted hg _ _ _)

end Sys2Proof.Machine

namespace Sys2Proof

open Machine Safety

/-- Settles O37: the lanes enter in the order of `atomicOrder` (`enters_enterAtomics`), a permutation of them that is the identity where the
use or their addresses ask for it. -/
theorem atomicWords : Obligations.AtomicWords := by
  unfold Obligations.AtomicWords
  intro d a b s c i op hi h ls ha hg
  have hls : ls = atomicLanes c d a b := List.map_congr_left fun l _ => by cases b <;> rfl
  clear_value ls
  subst hls
  obtain ⟨hw, hmem, hseq⟩ := State.atomicRegion_spec h.1 (atomicLanes c d a b)
  obtain ⟨hstart, hmem'⟩ := State.atomicStart_spec hw d (atomicLanes c d a b)
  have he := enters_enterAtomics op d b c (s.atomicRegion c (atomicLanes c d a b)) (atomicLanes c d a b)
  obtain ⟨new, hwave, hes, -⟩ := he.wave _ hstart
  rw [hseq] at hes hwave
  refine ⟨_, _, new, exec_atomic hi h ha hg, State.wave?_goOn hwave c.next false, ?memory, rfl, ?perm, fun hasc => ?ascending, rfl, rfl, rfl,
    rfl, rfl, _, Wave.split?_modSplit (State.ctx?_split h.1) fun _ => rfl, rfl⟩
  case memory => exact sameMemory_trans hmem (sameMemory_trans (u := State.goOn _ c c.next false) hmem' he.sameMemory)
  case perm =>
    rw [hes]
    exact (atomicOrder_perm _ _ _).map _
  case ascending =>
    rw [hes]
    rcases hasc with ⟨huse, hglobal⟩ | hdistinct
    · rw [atomicOrder_ascending _ huse hglobal]
    · rw [atomicOrder_distinct _ hdistinct]

end Sys2Proof
end


section
/-! PROOFS. Acquires at the wave that makes them, and the words that fence, prefetch, unpin and drop (08 R150 to R152, 06 R125 to R128). -/

namespace Sys2Proof.Machine

open Safety

/-! ## Waves that are related to what they were -/

/-- No wave goes, and each is related to what it was. -/
def State.WavesBy (R : Wave → Wave → Prop) (s t : State) : Prop := ∀ v w, s.wave? v = some w → ∃ w', t.wave? v = some w' ∧ R w w'

section
variable {R : Wave → Wave → Prop}

theorem State.WavesBy.trans {s t u : State} (hR : ∀ {u v w}, R u v → R v w → R u w) (h : State.WavesBy R s t) (k : State.WavesBy R t u) :
    State.WavesBy R s u := fun v w hw => by
  obtain ⟨w', ht, hr⟩ := h v w hw
  obtain ⟨w'', hu, hr'⟩ := k v w' ht
  exact ⟨w'', hu, hR hr hr'⟩

theorem State.WavesBy.of_waves {s t : State} (hR : ∀ w, R w w) (h : t.waves = s.waves) : State.WavesBy R s t := fun v w hw =>
  ⟨w, (congrArg (Table.find · v) h).trans hw, hR w⟩

theorem State.WavesBy.map {s t : State} {f : Wave → Wave} (hf : ∀ w, R w (f w)) (h : t.waves = s.waves.map fun e => (e.1, f e.2)) :
    State.WavesBy R s t := fun v w hw =>
  ⟨f w, ((congrArg (Table.find · v) h).trans (Table.find_map s.waves f v)).trans (congrArg _ hw), hf w⟩

theorem State.WavesBy.modWave (hR : ∀ w, R w w) (s : State) (wi : Nat) (f : Wave → Wave) (hf : ∀ w, R w (f w)) :
    State.WavesBy R s (s.modWave wi f) := by
  intro v w hw
  by_cases hv : v = wi
  · subst hv
    exact ⟨f w, (State.wave?_modWave_self s v f).trans (congrArg _ hw), hf w⟩
  · exact ⟨w, (State.wave?_modWave_other s wi v f hv).trans hw, hR w⟩

theorem State.WavesBy.setWave (hR : ∀ w, R w w) {s : State} {wi : Nat} {w w' : Wave} (hw : s.wave? wi = some w) (h : R w w') :
    State.WavesBy R s (s.setWave wi w') := by
  intro v u hu
  by_cases hv : v = wi
  · subst hv
    cases hw.symm.trans hu
    exact ⟨w', State.wave?_setWave_self s v w', h⟩
  · exact ⟨u, (State.wave?_setWave_other s wi v w' hv).trans hu, hR u⟩

end

/-- A wave with other ordering records and handles: the releases and acquires under way, and the holds of its writes. -/
def Wave.Reordered (w v : Wave) : Prop := ∃ rs as hs h, v = { w with releases := rs, acquires := as, relHolds := hs, h := h }

theorem Wave.Reordered.refl (w : Wave) : w.Reordered w := ⟨w.releases, w.acquires, w.relHolds, w.h, rfl⟩

theorem Wave.Reordered.trans {u v w : Wave} (h : u.Reordered v) (k : v.Reordered w) : u.Reordered w := by
  obtain ⟨rs, as, hs, h, rfl⟩ := h
  obtain ⟨rs', as', hs', h', rfl⟩ := k
  exact ⟨rs', as', hs', h', rfl⟩

/-- Each wave differs in its ordering records and handles at most. -/
def State.Reordered (s t : State) : Prop := State.WavesBy Wave.Reordered s t

theorem State.Reordered.trans {s t u : State} (h : s.Reordered t) (k : t.Reordered u) : s.Reordered u :=
  State.WavesBy.trans Wave.Reordered.trans h k

theorem State.Reordered.of_waves {s t : State} (h : t.waves = s.waves) : s.Reordered t := State.WavesBy.of_waves Wave.Reordered.refl h

theorem State.reordered_modWave (s : State) (wi : Nat) (f : Wave → Wave) (hf : ∀ w : Wave, w.Reordered (f w)) :
    s.Reordered (s.modWave wi f) :=
  State.WavesBy.modWave Wave.Reordered.refl s wi f hf

/-! ## What completed releases and effective acquires change -/

/-- A state without what the end of a release or an acquire changes. -/
def State.sansOrder (s : State) : State :=
  { s with waves := [], blocks := [], cores := [], copies := [], invals := [], lines := [], qfences := [] }

/-- What the end of releases and the acquires that act leave: the waves but for ordering records and handles, the blocks but for
reservations, the home lines but for records of copies and for clean sectors; and all that is no copy. -/
structure State.Settles (s t : State) : Prop where
  waves : s.Reordered t
  blocks : ∀ b, ∃ rv, t.block? b = (s.block? b).map fun x => { x with resv := rv }
  lines : ∀ k l, s.lines.find k = some l → ∃ cs v, t.lines.find k = some { l with copies := cs, valid := v } ∧
    (v = l.valid ∨ v = l.valid &&& l.dirty)
  noLines : ∀ k, s.lines.find k = none → t.lines.find k = none
  copies : t.copies ⊆ s.copies
  invals : t.invals ⊆ s.invals
  rest : t.sansOrder = s.sansOrder

theorem option_map_self {x : Option Block} : ∃ rv, x = x.map fun y => { y with resv := rv } := by
  cases x with
  | none => exact ⟨[], rfl⟩
  | some y => exact ⟨y.resv, rfl⟩

/-- Neither blocks nor home lines change. -/
theorem State.Settles.of_waves {s t : State} (hw : s.Reordered t) (hb : t.blocks = s.blocks) (hl : t.lines = s.lines)
    (hc : t.copies ⊆ s.copies) (hi : t.invals ⊆ s.invals) (hr : t.sansOrder = s.sansOrder) : s.Settles t where
  waves := hw
  blocks b := by
    rw [show t.block? b = s.block? b from congrArg (Table.find · b) hb]
    exact option_map_self
  lines k l h := ⟨l.copies, l.valid, by rw [hl, h], .inl rfl⟩
  noLines k h := by rw [hl, h]
  copies := hc
  invals := hi
  rest := hr

/-- Neither blocks nor home lines nor copies change. -/
theorem State.Settles.of_frame {s t : State} (hw : s.Reordered t) (h : ({ t with waves := [], cores := [], qfences := [] } : State) =
    { s with waves := [], cores := [], qfences := [] }) : s.Settles t := by
  have hc : t.copies = s.copies := (congrArg State.copies h :)
  have hi : t.invals = s.invals := (congrArg State.invals h :)
  exact .of_waves hw (congrArg State.blocks h :) (congrArg State.lines h :) (hc ▸ List.Subset.refl _) (hi ▸ List.Subset.refl _)
    (congrArg State.sansOrder h :)

theorem State.Settles.refl (s : State) : s.Settles s := .of_frame (.of_waves rfl) rfl

theorem State.Settles.trans {s t u : State} (h : s.Settles t) (k : t.Settles u) : s.Settles u where
  waves := h.waves.trans k.waves
  blocks b := by
    obtain ⟨rv, hb⟩ := h.blocks b
    obtain ⟨rv', hb'⟩ := k.blocks b
    exact ⟨rv', by rw [hb', hb, Option.map_map]; rfl⟩
  lines key l hl := by
    obtain ⟨cs, v, ht, hv⟩ := h.lines key l hl
    obtain ⟨cs', v', hu, hv'⟩ := k.lines key _ ht
    refine ⟨cs', v', hu, ?_⟩
    rcases hv with rfl | rfl
    · exact hv'
    · rcases hv' with rfl | rfl
      · exact .inr rfl
      · exact .inr (by rw [BitVec.and_assoc, BitVec.and_self])
  noLines key hl := k.noLines key (h.noLines key hl)
  copies _ hx := h.copies (k.copies hx)
  invals _ hx := h.invals (k.invals hx)
  rest := k.rest.trans h.rest

theorem State.Settles.ite {s t u : State} {p : Prop} [Decidable p] (h : s.Settles t) (k : s.Settles u) :
    s.Settles (if p then t else u) := by
  split
  · exact h
  · exact k

theorem State.Settles.foldl {α : Type} (f : State → α → State) (hf : ∀ (s : State) (x : α), s.Settles (f s x)) (s : State)
    (xs : List α) : s.Settles (xs.foldl f s) := by
  induction xs generalizing s with
  | nil => exact .refl s
  | cons x xs ih => exact (hf s x).trans (ih _)

theorem State.Settles.sameMemory {s t : State} (h : s.Settles t) : SameMemory s t :=
  sameMemory_iff.mpr (congrArg State.memory h.rest :)

/-! ## Acquires -/

/-- A table whose records change by their keys. -/
theorem Table.find_mapKeyed {α : Type} (t : Table α) (f : Nat → α → α) (i : Nat) :
    Table.find (t.map fun e => (e.1, f e.1 e.2)) i = (t.find i).map (f i) := by
  induction t with
  | nil => rfl
  | cons e t ih =>
    obtain ⟨k, x⟩ := e
    simp only [List.map_cons, Table.find, ih]
    split
    · next h => subst h; rfl
    · split <;> rfl

/-- Home lines lose records of copies, or clean sectors. -/
theorem State.Settles.of_lines {s t : State} (g : Nat → L2Line → L2Line) (ht : t = { s with lines := s.lines.map fun e => (e.1, g e.1 e.2) })
    (hg : ∀ k l, ∃ cs v, g k l = { l with copies := cs, valid := v } ∧ (v = l.valid ∨ v = l.valid &&& l.dirty)) : s.Settles t where
  waves := .of_waves (by rw [ht])
  blocks _ := by
    rw [ht]
    exact option_map_self
  lines k l h := by
    obtain ⟨cs, v, he, hv⟩ := hg k l
    exact ⟨cs, v, by rw [ht, Table.find_mapKeyed, h, Option.map_some, he], hv⟩
  noLines k h := by rw [ht, Table.find_mapKeyed, h, Option.map_none]
  copies _ hx := by
    rw [ht] at hx
    exact hx
  invals _ hx := by
    rw [ht] at hx
    exact hx
  rest := by rw [ht]; rfl

theorem State.settles_uncopy (s : State) (k : Nat) (f : List Nat → List Nat) :
    s.Settles { s with lines := s.lines.modify k fun l => { l with copies := f l.copies } } := by
  refine .of_lines (fun j l => if j = k then { l with copies := f l.copies } else l) ?_ fun j l => ?_
  · refine congrArg (fun x => { s with lines := x }) (List.map_congr_left fun e _ => ?_)
    split <;> rfl
  · split
    · exact ⟨_, l.valid, rfl, .inl rfl⟩
    · exact ⟨l.copies, l.valid, rfl, .inl rfl⟩

/-- The home lines' records of the copies that some messages name. -/
def State.uncopied (s : State) (ms : List Inval) : State :=
  ms.foldl (fun s m => { s with lines := s.lines.modify (lkey m.asid m.line) fun l => { l with copies := l.copies.filter (· ≠ m.sec) } }) s

theorem State.uncopied_eq (s : State) (ms : List Inval) : s.uncopied ms = { s with
    lines := ms.foldl (fun t m => t.modify (lkey m.asid m.line) fun l => { l with copies := l.copies.filter (· ≠ m.sec) }) s.lines } := by
  induction ms generalizing s with
  | nil => rfl
  | cons m ms ih => exact ih _

theorem State.settles_consumeWhere (s : State) (f : Inval → Bool) : s.Settles (s.consumeWhere f) := by
  have hlines : s.Settles (s.uncopied (s.invals.filter f)) := .foldl _ (fun s m => s.settles_uncopy _ _) s _
  rw [State.uncopied_eq] at hlines
  refine hlines.trans (.of_waves (State.WavesBy.map (f := fun w => { w with releases := w.releases.map fun r =>
    { r with invs := r.invs.filter fun q => (s.invals.filter fun m => !(f m)).any fun m => m.seq == q && m.sec == sectorOf w.core } })
    (fun w => ⟨_, w.acquires, w.relHolds, w.h, rfl⟩) rfl) rfl rfl (List.filter_subset_self _) (List.filter_subset_self _) rfl)

theorem State.settles_dropClean (s : State) (asid : Nat) : s.Settles (s.dropClean asid) := by
  refine .of_lines (fun k l => if k / 281474976710656 = asid then { l with valid := l.valid &&& l.dirty } else l) ?_ fun k l => ?_
  · refine congrArg (fun x => { s with lines := x }) (List.map_congr_left fun e _ => ?_)
    split <;> rfl
  · split
    · exact ⟨l.copies, _, rfl, .inr rfl⟩
    · exact ⟨l.copies, l.valid, rfl, .inl rfl⟩

/-- What an acquire does beyond the flash of L1: messages are consumed and copies dropped, as its scope asks. -/
theorem State.settles_acquireAt (s : State) (wi scope : Nat) (sc : Bool) : s.Settles (s.acquireAt wi scope sc) := by
  unfold State.acquireAt
  split
  · exact .refl s
  · next w hw =>
    have hflash : s.Settles (s.flashL1 w.part w.core) := .of_frame (.of_waves rfl) rfl
    have hall (t : State) (f : Inval → Bool) (h : s.Settles t) := h.trans (State.settles_consumeWhere t f)
    have hmessages := State.Settles.ite (p := scope = 3)
      (State.Settles.ite (p := sc = true) (hall _ (fun m => m.sec == sectorOf w.core) hflash) hflash)
      (hall _ (fun m => sc || m.sec == sectorOf w.core) hflash)
    have hcopies (t : State) (h : s.Settles t) := State.Settles.ite (p := scope = 4 ∨ scope = 5)
      (h.trans (u := { t with copies := t.copies.filter fun c => !(c.droppedBy (s.asidOf w.part) scope (sectorOf w.core) sc) })
        (.of_waves (.of_waves rfl) rfl rfl (List.filter_subset_self _) (List.Subset.refl _) rfl)) h
    exact .ite (.refl s) (.ite ((hcopies _ hmessages).trans (State.settles_dropClean _ _)) (hcopies _ hmessages))

theorem State.settles_settleAcquires (s : State) (wi : Nat) : s.Settles (s.settleAcquires wi) := by
  unfold State.settleAcquires
  split
  · exact .refl s
  · next w hw =>
    refine State.Settles.trans ?_ (.foldl _ (fun s (a : Acquire) => s.settles_acquireAt wi a.scope a.isSc) _ _)
    exact .of_frame (State.WavesBy.setWave Wave.Reordered.refl hw ⟨w.releases, _, w.relHolds, w.h, rfl⟩) rfl

/-! ## Releases -/

/-- The reservations that a block still holds. -/
def State.stillReserved (s : State) (b : Block) : List Reservation :=
  if b.resv.isEmpty then b.resv else b.resv.filter fun r => r.rels.all fun n => s.waves.any fun e => e.2.releasing n

theorem State.settles_endReservations (s : State) : s.Settles s.endReservations where
  waves := .of_waves rfl
  blocks b := by
    have hmap : s.endReservations.blocks = s.blocks.map fun e => (e.1, { e.2 with resv := s.stillReserved e.2 }) := by
      refine List.map_congr_left fun e _ => ?_
      unfold State.stillReserved
      split <;> rfl
    have hfind := (congrArg (Table.find · b) hmap).trans (Table.find_map s.blocks (fun x => { x with resv := s.stillReserved x }) b)
    cases hb : s.block? b with
    | none => exact ⟨[], hfind.trans (congrArg _ hb)⟩
    | some x => exact ⟨s.stillReserved x, hfind.trans (congrArg _ hb)⟩
  lines _ l h := ⟨l.copies, l.valid, h, .inl rfl⟩
  noLines _ h := h
  copies _ hx := hx
  invals _ hx := hx
  rest := rfl

theorem State.settles_dropReleases (s : State) : s.Settles s.dropReleases :=
  s.settles_endReservations.trans (.of_frame (State.WavesBy.map (f := fun w => { w with
    releases := w.releases.filter fun r => !(r.complete && r.fault.isNone)
    relHolds := w.relHolds.filter fun n => w.releasing n }) (fun w => ⟨_, w.acquires, _, w.h, rfl⟩) rfl) rfl)

theorem State.settles_endHandle (s : State) (h : Option HRef) (tag : Nat) (st : HState) : s.Settles (s.endHandle h tag st) := by
  cases h with
  | none => exact .refl s
  | some r =>
    refine .of_frame (s.reordered_modWave _ _ fun w => ?_) rfl
    split
    · exact ⟨w.releases, w.acquires, w.relHolds, _, rfl⟩
    · exact .refl w

theorem State.settles_endWaits (s : State) (gone : Nat → Bool) : s.Settles (s.endWaits gone) := by
  unfold State.endWaits
  refine State.Settles.trans ?_ (.foldl _ (fun s (f : QFenceRec) => s.settles_endHandle f.href f.tag .done) _ _)
  exact .of_frame (.of_waves rfl) rfl

/-- The end of releases and what follows from it. -/
theorem State.settles_settleReleases (s : State) : s.Settles s.settleReleases := by
  unfold State.settleReleases
  refine (s.settles_dropReleases.trans ?_).trans (State.settles_endWaits _ _)
  exact .foldl _ (fun s (e : Nat × Wave) => s.settles_settleAcquires e.1) _ _

theorem State.reordered_fenceAcquire (s : State) (wi scope : Nat) (sc : Option Nat) (isSc : Bool) :
    s.Reordered (s.fenceAcquire wi scope sc isSc) :=
  (State.Reordered.trans (t := s.stamp.2) (.of_waves rfl)
    (State.reordered_modWave _ wi _ fun w => ⟨w.releases, _, w.relHolds, w.h, rfl⟩)).trans (State.settles_settleAcquires _ wi).waves

theorem State.reordered_withRelease (s : State) (wi : Nat) (x : Release) : s.Reordered (s.withRelease wi x) := by
  unfold State.withRelease
  split
  · exact .of_waves rfl
  · exact State.Reordered.trans (t := s.stamp.2) (.of_waves rfl)
      (State.reordered_modWave _ wi _ fun w => ⟨_, w.acquires, w.relHolds, w.h, rfl⟩)

theorem State.reordered_startRelease (s : State) (wi scope : Nat) : s.Reordered (s.startRelease wi scope).2 := by
  cases hw : s.wave? wi with
  | none => simp only [State.startRelease, hw]; exact .of_waves rfl
  | some w =>
    obtain ⟨x, f, -, he⟩ := State.startRelease_eq hw scope
    rw [he]
    exact State.Reordered.trans (.of_waves rfl) (State.reordered_withRelease (s.modBlock w.block f) wi x)

theorem State.reordered_fenceRelease (s : State) (wi scope : Nat) : s.Reordered (s.fenceRelease wi scope).2 :=
  (s.reordered_startRelease wi scope).trans (State.reordered_modWave _ wi _ fun w => ⟨_, w.acquires, _, w.h, rfl⟩)

/-! ## FENCE -/

section
variable {b : Operand} {s : State} {c : Ctx} (h : Ready (.fence b) {} s c) (ha : c.act ≠ 0)
include h ha

theorem exec_fence_acq (hb : rawN c b = 0) :
    exec (.fence b) s = .next ((s.fenceAcquire c.wi (mScope c.sp.mode) none false).goOn c c.next false) := by
  simp only [exec, execFence]
  rw [uniformWord_ready h ha]
  simp only [hb, if_true, Effect.finish]

/-- What a FENCE of form 1, 2 or 3 leaves before its split goes on or waits. -/
def State.fenced (s : State) (c : Ctx) (form : Nat) : State :=
  let r := (s.unmark c.wi).fenceRelease c.wi (mScope c.sp.mode)
  if form = 1 then r.2
  else if form = 2 ∨ mScope c.sp.mode = 1 ∨ mScope c.sp.mode = 2 then r.2.fenceAcquire c.wi (mScope c.sp.mode) none false
  else r.2.fenceAcquire c.wi (mScope c.sp.mode) (some r.1) true

theorem exec_fence_release (hb : rawN c b ≠ 0) :
    let n := ((s.unmark c.wi).fenceRelease c.wi (mScope c.sp.mode)).1
    let t := s.fenced c (rawN c b)
    exec (.fence b) s = .next (if (wideScope (mScope c.sp.mode) && t.stashPending c.wi n) = true then t.completingIn c (.stash n)
      else t.goOn c c.next false) := by
  simp only [exec, execFence]
  rw [uniformWord_ready h ha]
  simp only [hb, if_false]
  rw [apply_ite (fun e : Effect => e.finish c s)]
  rfl

end

theorem State.fenced_eq {s : State} {c : Ctx} {form : Nat} {t : State} :
    let r := (s.unmark c.wi).fenceRelease c.wi (mScope c.sp.mode)
    (form = 1 ∧ t = r.2) ∨ (form = 2 ∧ t = r.2.fenceAcquire c.wi (mScope c.sp.mode) none false) ∨
      (form = 3 ∧ t = if mScope c.sp.mode = 1 ∨ mScope c.sp.mode = 2 then r.2.fenceAcquire c.wi (mScope c.sp.mode) none false
        else r.2.fenceAcquire c.wi (mScope c.sp.mode) (some r.1) true) →
    form ≠ 0 ∧ t = s.fenced c form := by
  rintro r (⟨rfl, rfl⟩ | ⟨rfl, rfl⟩ | ⟨rfl, rfl⟩)
  · exact ⟨by decide, rfl⟩
  · exact ⟨by decide, rfl⟩
  · refine ⟨by decide, ?_⟩
    unfold State.fenced
    simp only [OfNat.ofNat_ne_one, if_false, (by decide : ¬ 3 = 2), false_or]
    rfl

theorem State.reordered_fenced (s : State) (c : Ctx) (form : Nat) : (s.unmark c.wi).Reordered (s.fenced c form) := by
  have hrel := (s.unmark c.wi).reordered_fenceRelease c.wi (mScope c.sp.mode)
  unfold State.fenced
  dsimp only
  split
  · exact hrel
  · split
    · exact hrel.trans (State.reordered_fenceAcquire _ _ _ _ _)
    · exact hrel.trans (State.reordered_fenceAcquire _ _ _ _ _)

/-- The issuing split is still there, so that it can wait. -/
theorem finishes_fenced {s : State} {c : Ctx} (h : s.ctx? = some c) (form : Nat) (f : Waiting) :
    Finishes c ((s.fenced c form).completingIn c f) f := by
  obtain ⟨w, hw, rs, as, hs, _, rfl⟩ := s.reordered_fenced c form c.wi _ (State.wave?_unmark h)
  exact finishes_completingIn hw (State.ctx?_split h) f

/-! ## PREF, UNPIN, CINV and CWB -/

theorem exec_pref {a b : Operand} {s : State} {c : Ctx} (h : Ready (.pref a b) {} s c)
    (hr : ∀ e ∈ (accessLanes c false a b).filter fun e => isGlobal e.2, (s.right? c.w.core (s.asidOf c.w.part) e.2).isSome = true) :
    exec (.pref a b) s = .next ((((accessLanes c false a b).filter fun e => isGlobal e.2).foldl (fun s e => prefetchOne c s e.2) s).goOn
      c c.next false) := by
  have hany : (((accessLanes c false a b).filter fun e => isGlobal e.2).any fun e =>
      (s.right? c.w.core (s.asidOf c.w.part) e.2).isNone) = false := by
    rw [List.any_eq_false]
    exact fun e he => by simp [Option.isSome_iff_ne_none.mp (hr e he)]
  simp only [exec, execPref]
  rw [wordOf_ready h]
  simp only [hany, Bool.false_eq_true, if_false, Effect.finish]

/-- What UNPIN leaves of a line's record. -/
def L2Line.unpin (l : L2Line) : L2Line := if l.pinned then { l with pinned := false, prio := 1 } else l

theorem L2Line.unpin_spec (l : L2Line) : l.unpin.pinned = false ∧ l.unpin.valid = l.valid ∧ l.unpin.dirty = l.dirty := by
  unfold L2Line.unpin
  cases hp : l.pinned
  · exact ⟨hp, rfl, rfl⟩
  · exact ⟨rfl, rfl, rfl⟩

theorem exec_unpin {a b : Operand} {s : State} {c : Ctx} (h : Ready (.unpin a b) {} s c) (ha : c.act ≠ 0)
    (hlt : laneAddr c a b 0 < Config.aperture) : exec (.unpin a b) s =
      .next ((s.modLine (s.asidOf c.w.part) (laneAddr c a b 0 / 256) L2Line.unpin).goOn c c.next false) := by
  have hpast : pastGlobal (laneAddr c a b 0) = false := decide_eq_false (by
    have : Config.aperture ≤ Config.reservedRegion := by decide
    omega)
  have hin : inAperture (laneAddr c a b 0) = false := by simp [inAperture, Nat.not_le.mpr hlt]
  simp only [exec, execUnpin]
  rw [uniformWord_ready h ha]
  simp only [hpast, hin, Bool.false_eq_true, if_false, Effect.finish]
  rfl

/-- A core's lines in L1 after some have gone. -/
theorem State.mem_l1_filter {s : State} {k : Nat} {f : L1Line → Bool} {l : L1Line}
    (hl : l ∈ (({ s with cores := s.cores.modify k fun x => { x with l1 := x.l1.filter f } } : State).core k).l1) :
    l ∈ (s.core k).l1 ∧ f l = true := by
  unfold State.core at hl ⊢
  dsimp only at hl
  rw [Table.find_modify_self] at hl
  cases hc : s.cores.find k with
  | none =>
    rw [hc] at hl
    cases hl
  | some x =>
    rw [hc] at hl
    exact List.mem_filter.mp hl

/-- The owner's L1 lines of a range are dropped. -/
def State.dropL1 (s : State) (c : Ctx) (base n : Nat) : State :=
  { s with cores := s.cores.modify c.w.core fun x => { x with l1 := x.l1.filter fun l =>
      !(l.asid == s.asidOf c.w.part && ((s.block? l.block).any fun b => b.part == c.w.part) &&
        decide (l.line * 64 < base + n) && decide (base < l.line * 64 + 64)) } }

theorem exec_cinv {a b : Operand} {s : State} {c : Ctx} (h : Ready (.cinv a b) {} s c) (ha : c.act ≠ 0) (hn : rawN c b ≠ 0)
    (hr : pairN c a + rawN c b ≤ Config.aperture) :
    exec (.cinv a b) s = .next ((s.dropL1 c (pairN c a) (rawN c b)).goOn c c.next false) := by
  simp only [exec, execCinv]
  rw [uniformWord_ready h ha]
  simp only [hn, globalRange, hr, decide_true, Bool.not_true, Bool.false_eq_true, if_false, Effect.finish]
  rfl

/-- A core's lines after an owner's lines of a range have gone. -/
theorem State.mem_dropL1 {s : State} {c : Ctx} {base n : Nat} {l : L1Line} (hl : l ∈ ((s.dropL1 c base n).core c.w.core).l1) :
    l ∈ (s.core c.w.core).l1 ∧ ¬(l.asid = s.asidOf c.w.part ∧ ((s.block? l.block).any fun x => x.part == c.w.part) = true ∧
      l.line * 64 < base + n ∧ base < l.line * 64 + 64) := by
  obtain ⟨hmem, hkeep⟩ := State.mem_l1_filter hl
  refine ⟨hmem, fun ⟨h1, h2, h3, h4⟩ => ?_⟩
  simp only [h1, h2, h3, h4, beq_self_eq_true, decide_true, Bool.and_self, Bool.not_true] at hkeep
  cases hkeep

theorem exec_cwb_nothing {a b : Operand} {s : State} {c : Ctx} (h : Ready (.cwb a b) {} s c) (ha : c.act ≠ 0) (hn : rawN c b = 0) :
    exec (.cwb a b) s = .next ((s.unmark c.wi).goOn c c.next false) := by
  simp only [exec, execCwb]
  rw [uniformWord_ready h ha]
  simp only [hn, if_true, Effect.finish]

end Sys2Proof.Machine

namespace Sys2Proof

open Machine Safety

/-- Settles O38: a fence's release and acquire leave every wave its splits (`State.reordered_fenced`), so that the issuing one can wait;
the other words act on one line or on a range of lines. -/
theorem fenceAndCacheWords : Obligations.FenceAndCacheWords := by
  unfold Obligations.FenceAndCacheWords
  dsimp only
  refine fun a b s c => ⟨fun h ha => ⟨exec_fence_acq h ha, fun s1 hs1 => ?fence⟩, exec_pref, fun h ha hlt => ?unpin,
    fun h ha hn hr => ?cinv, fun h ha hn => ?cwb⟩
  case fence =>
    obtain ⟨hform, rfl⟩ := State.fenced_eq hs1
    have he := exec_fence_release h ha hform
    refine ⟨fun hno => ?_, fun hwait => ?_⟩
    · simp only [hno] at he
      exact he
    · simp only [hwait] at he
      exact ⟨_, he, finishes_fenced h.1 _ _⟩
  case unpin =>
    refine ⟨_, exec_unpin h ha hlt, fun l hl => ⟨l.unpin, ?_, l.unpin_spec⟩, ⟨rfl, rfl, rfl, rfl, rfl, rfl, rfl⟩⟩
    exact (State.line?_modLine s _ _ _).trans (congrArg _ hl)
  case cinv => exact ⟨_, exec_cinv h ha hn hr, fun l hl => State.mem_dropL1 hl, ⟨rfl, rfl, rfl, rfl, rfl, rfl, rfl⟩⟩
  case cwb =>
    exact ⟨_, exec_cwb_nothing h ha hn, leftWave_goOn (State.wave?_unmark h.1) rfl (onlyWave_modWave _ _ _)⟩

end Sys2Proof
end


section
/-! PROOFS. What serving a read changes: bytes and records of the memory, the copies that it makes, and what the block has seen (06 R117 to
R122, 08 R146); with it GATH, SCAT and QFENCE at issue (06 R141, 08 R160). -/

namespace Sys2Proof.Machine

open Safety

/-! ## Changes of the memory and of its caches -/

/-- A state without its memory, the caches of it beyond L1, and the releases that wait for them. -/
def State.sansMemory (s : State) : State :=
  { s with free := 0, waves := [], module := { s.module with counters := [] }, pt := [], sram := [], home := [], lines := [], copies := [] }

/-- Only the memory, its caches beyond L1 and the releases of waves have changed. -/
def State.MemoryMoved (s t : State) : Prop := s.KeepsWaves t ∧ t.sansMemory = s.sansMemory

theorem State.MemoryMoved.of_waves {s t : State} (hw : t.waves = s.waves) (h : t.sansMemory = s.sansMemory) : s.MemoryMoved t :=
  ⟨State.keepsWaves_of_waves hw, h⟩

theorem State.MemoryMoved.refl (s : State) : s.MemoryMoved s := .of_waves rfl rfl

theorem State.MemoryMoved.trans {s t u : State} (h : s.MemoryMoved t) (k : t.MemoryMoved u) : s.MemoryMoved u :=
  ⟨h.1.trans k.1, k.2.trans h.2⟩

theorem State.MemoryMoved.foldl {α : Type} (f : State → α → State) (hf : ∀ (s : State) (x : α), s.MemoryMoved (f s x)) (s : State)
    (xs : List α) : s.MemoryMoved (xs.foldl f s) := by
  induction xs generalizing s with
  | nil => exact .refl s
  | cons x xs ih => exact (hf s x).trans (ih _)

/-- The homes of lines and what they record. -/
theorem State.moved_lines (s : State) (home : Memory) (lines : Table L2Line) : s.MemoryMoved { s with home := home, lines := lines } :=
  .of_waves rfl rfl

theorem State.moved_modLine (s : State) (asid line : Nat) (f : L2Line → L2Line) : s.MemoryMoved (s.modLine asid line f) :=
  s.moved_lines s.home _

theorem State.moved_ptPut (s : State) (a : Nat) (x : Byte) : s.MemoryMoved (s.ptPut a x) := by
  unfold State.ptPut
  split
  · exact .of_waves rfl rfl
  · exact .of_waves rfl rfl

theorem State.moved_ptWrite (s : State) (a : Nat) (xs : List Byte) : s.MemoryMoved (s.ptWrite a xs) := by
  induction xs generalizing s a with
  | nil => exact .refl s
  | cons x xs ih => exact (s.moved_ptPut a x).trans (ih _ _)

theorem State.moved_ptEvict (s : State) (line : Nat) : s.MemoryMoved (s.ptEvict line) := by
  unfold State.ptEvict
  split
  · exact .refl s
  · exact .of_waves rfl rfl

theorem State.moved_ptAlloc (s : State) (line : Nat) : s.MemoryMoved (s.ptAlloc line) := by
  unfold State.ptAlloc
  split
  · exact .refl s
  · dsimp only
    split
    · exact .of_waves rfl rfl
    · exact (s.moved_ptEvict _).trans (.of_waves rfl rfl)

theorem State.moved_ptTouch (s : State) (r : Right) (line cpol : Nat) : s.MemoryMoved (s.ptTouch r line cpol) := by
  unfold State.ptTouch
  split
  · exact s.moved_ptAlloc _
  · exact .refl s

theorem State.moved_tidyLine (s : State) (asid line : Nat) : s.MemoryMoved (s.tidyLine asid line) := by
  unfold State.tidyLine
  split
  · exact .refl s
  · split
    · exact .of_waves rfl rfl
    · exact .refl s

theorem State.MemoryMoved.tidyLine {s t : State} (h : s.MemoryMoved t) (asid line : Nat) : s.MemoryMoved (t.tidyLine asid line) :=
  h.trans (t.moved_tidyLine asid line)

theorem State.moved_sectorBack (s : State) (asid line k : Nat) : s.MemoryMoved (s.sectorBack asid line k) := by
  unfold State.sectorBack
  split
  · exact .refl s
  · split
    · exact .refl s
    · exact (s.moved_ptWrite _ _).trans (State.moved_modLine _ _ _ _)

theorem State.moved_modReleases (s : State) (f : Release → Release) : s.MemoryMoved (s.modReleases f) :=
  ⟨s.keepsWaves_modReleases f, rfl⟩

theorem State.moved_sectorDone (s : State) (asid line k : Nat) : s.MemoryMoved (s.sectorDone asid line k) :=
  (s.moved_sectorBack asid line k).trans (State.moved_modReleases _ _)

theorem State.moved_evictHome (s : State) (asid line : Nat) : s.MemoryMoved (s.evictHome asid line) := by
  have hback : s.MemoryMoved ([0, 1, 2, 3].foldl (fun s k => s.sectorDone asid line k) s) :=
    .foldl (fun s k => s.sectorDone asid line k) (fun s k => s.moved_sectorDone asid line k) s _
  refine State.MemoryMoved.tidyLine ?_ asid line
  exact (hback.trans (State.moved_lines _ _ _)).trans (State.moved_modLine _ _ _ _)

theorem State.moved_dropCopy (s : State) (sec k : Nat) : s.MemoryMoved (s.dropCopy sec k) := by
  refine State.MemoryMoved.tidyLine ?_ _ _
  exact .of_waves rfl rfl

theorem State.moved_freeWay {s : State} {sl set : Nat} {ways : List Nat} {r : Nat × State} (h : s.freeWay sl set ways = some r) :
    s.MemoryMoved r.2 := by
  unfold State.freeWay at h
  dsimp only at h
  split at h
  · cases h
    exact .of_waves rfl rfl
  · obtain ⟨v, -, rfl⟩ := Option.map_eq_some_iff.mp h
    dsimp only
    split
    · exact s.moved_dropCopy _ _
    · exact s.moved_evictHome _ _

theorem State.moved_takeWay {s t : State} {asid line pa prio : Nat} (h : s.takeWay asid line pa prio = some t) : s.MemoryMoved t := by
  obtain ⟨r, hr, rfl⟩ := Option.map_eq_some_iff.mp h
  exact (State.moved_freeWay hr).trans (State.moved_lines _ _ _)

theorem State.moved_fetchSector (s : State) (asid line k : Nat) : s.MemoryMoved (s.fetchSector asid line k) := by
  unfold State.fetchSector
  split
  · exact .refl s
  · split
    · exact .refl s
    · exact s.moved_lines _ _

theorem State.moved_fetchSectors (s : State) (asid line : Nat) (f : Nat → Bool) : s.MemoryMoved (s.fetchSectors asid line f) := by
  refine .foldl (fun s k => if f k then s.fetchSector asid line k else s) (fun s k => ?_) s [0, 1, 2, 3]
  split
  · exact s.moved_fetchSector asid line k
  · exact .refl s

theorem State.moved_useCopy (s : State) (sec asid line : Nat) (prio : Option Nat) : s.MemoryMoved (s.useCopy sec asid line prio) :=
  .of_waves rfl rfl

theorem State.moved_makeCopy (s : State) (p sec asid line prio : Nat) : s.MemoryMoved (s.makeCopy p sec asid line prio) := by
  unfold State.makeCopy
  dsimp only
  split
  · split
    · exact .refl s
    · split
      · exact .refl s
      · next hfree =>
        have h := (s.moved_dropCopy sec _).trans (State.moved_freeWay hfree)
        split
        · exact h.trans (.of_waves rfl rfl)
        · exact h.trans (.of_waves rfl rfl)
  · exact .refl s

/-! ## Serving a read -/

/-- A wave with other releases, and with other notes of what is read of its store buffer. -/
def Wave.ReadBy (w v : Wave) : Prop := ∃ rs es, v = { w with releases := rs, wsb := es }

theorem Wave.ReadBy.refl (w : Wave) : w.ReadBy w := ⟨w.releases, w.wsb, rfl⟩

theorem Wave.ReadBy.trans {u v w : Wave} (h : u.ReadBy v) (k : v.ReadBy w) : u.ReadBy w := by
  obtain ⟨rs, es, rfl⟩ := h
  obtain ⟨rs', es', rfl⟩ := k
  exact ⟨rs', es', rfl⟩

theorem State.readBy_of_waves {s t : State} (h : t.waves = s.waves) : State.WavesBy Wave.ReadBy s t :=
  State.WavesBy.of_waves Wave.ReadBy.refl h

theorem State.KeepsWaves.readBy {s t : State} (h : s.KeepsWaves t) : State.WavesBy Wave.ReadBy s t := fun v w hw => by
  obtain ⟨rs, ht⟩ := h v w hw
  exact ⟨_, ht, rs, w.wsb, rfl⟩

/-- What a block shows of the operations that wait at its stash lines. -/
def Block.parking (b : Block) : Nat × List (List (Option Nat)) := (b.part, b.windows.map fun w => w.lines.map (·.parked))

/-- Blocks by what they show of waiting operations. -/
def State.parking (s : State) : Table (Nat × List (List (Option Nat))) := s.blocks.map fun e => (e.1, e.2.parking)

/-- A state without what serving a read may change. -/
def State.sansReads (s : State) : State := { s.sansMemory with parts := [], cores := [], blocks := [] }

/-- What serving a read leaves: the waves but for releases and notes, the partitions but for their counts of bypasses, the cores but for
L1, the blocks' windows but for what is noted of their bytes; and all that is not memory. -/
structure State.ServesRead (s t : State) : Prop where
  waves : State.WavesBy Wave.ReadBy s t
  parts : ∀ p, ∃ n, t.part p = { s.part p with bypass := n }
  cores : ∀ f : Core → List Nat, (∀ x ls, f { x with l1 := ls } = f x) → f Core.reset = [] →
    (t.cores.flatMap fun e => f e.2) = s.cores.flatMap fun e => f e.2
  blocks : t.parking = s.parking
  rest : t.sansReads = s.sansReads

theorem State.MemoryMoved.servesRead {s t : State} (h : s.MemoryMoved t) : s.ServesRead t where
  waves := h.1.readBy
  parts p := ⟨(s.part p).bypass, (congrArg (State.part · p) h.2 :)⟩
  cores f _ _ := (congrArg (fun x : State => x.cores.flatMap fun e => f e.2) h.2 :)
  blocks := (congrArg State.parking h.2 :)
  rest := (congrArg (fun x : State => ({ x with parts := [], cores := [], blocks := [] } : State)) h.2 :)

theorem State.ServesRead.refl (s : State) : s.ServesRead s := (State.MemoryMoved.refl s).servesRead

theorem State.ServesRead.trans {s t u : State} (h : s.ServesRead t) (k : t.ServesRead u) : s.ServesRead u where
  waves := State.WavesBy.trans Wave.ReadBy.trans h.waves k.waves
  parts p := by
    obtain ⟨n, hn⟩ := h.parts p
    obtain ⟨m, hm⟩ := k.parts p
    exact ⟨m, by rw [hm, hn]⟩
  cores f hl hr := (k.cores f hl hr).trans (h.cores f hl hr)
  blocks := k.blocks.trans h.blocks
  rest := k.rest.trans h.rest

theorem State.ServesRead.foldl {α : Type} (f : State → α → State) (hf : ∀ (s : State) (x : α), s.ServesRead (f s x)) (s : State)
    (xs : List α) : s.ServesRead (xs.foldl f s) := by
  induction xs generalizing s with
  | nil => exact .refl s
  | cons x xs ih => exact (hf s x).trans (ih _)

/-- A core's record that replaces its own, or a blank one, with the same list, leaves the lists of all. -/
theorem Table.flatMap_put {α : Type} (f : α → List Nat) (t : Table α) (i : Nat) (x d : α) (hd : f d = [])
    (hx : f x = f ((t.find i).getD d)) : ((t.put i x).flatMap fun e => f e.2) = t.flatMap fun e => f e.2 := by
  induction t with
  | nil => simpa [Table.put, Table.find, hd] using hx
  | cons e t ih =>
    obtain ⟨k, y⟩ := e
    by_cases hlt : i < k
    · have hne : i ≠ k := by omega
      simp only [Table.find, hne, hlt, if_false, if_true, Option.getD_none, hd] at hx
      simp [Table.put, hlt, hx]
    · by_cases heq : i = k
      · subst heq
        simp only [Table.find, if_true, Option.getD_some] at hx
        simp [Table.put, hx]
      · simp only [Table.find, heq, hlt, if_false] at hx
        simp [Table.put, hlt, heq, ih hx]

/-- Lines of L1 come and go. -/
theorem State.servesRead_modL1 (s : State) (k : Nat) (g : Core → List L1Line) :
    s.ServesRead (s.modCore k fun c => { c with l1 := g c }) where
  waves := State.readBy_of_waves rfl
  parts p := ⟨(s.part p).bypass, rfl⟩
  cores f hl hr := Table.flatMap_put f s.cores k _ Core.reset hr (hl _ _)
  blocks := rfl
  rest := rfl

/-- A block changes in nothing that shows operations that wait. -/
theorem State.servesRead_modBlock (s : State) (b : Nat) (f : Block → Block) (hf : ∀ x, (f x).parking = x.parking) :
    s.ServesRead (s.modBlock b f) where
  waves := State.readBy_of_waves rfl
  parts p := ⟨(s.part p).bypass, rfl⟩
  cores _ _ _ := rfl
  blocks := by
    unfold State.parking State.modBlock Table.modify
    dsimp only
    rw [List.map_map]
    refine List.map_congr_left fun e _ => ?_
    dsimp only [Function.comp]
    split
    · rw [hf]
    · rfl
  rest := rfl

theorem State.servesRead_countBypass (s : State) (p : Nat) : s.ServesRead (s.countBypass p) where
  waves := State.readBy_of_waves rfl
  parts q := by
    rw [State.countBypass, State.part_modPart]
    split
    · next h => exact ⟨(s.part p).bypass + 1, by rw [h]⟩
    · exact ⟨(s.part q).bypass, rfl⟩
  cores _ _ _ := rfl
  blocks := rfl
  rest := rfl

/-- A read that is served at H moves bytes and lines, or counts a bypass. -/
theorem State.homeTouch_cases (s : State) (p asid va cpol : Nat) :
    s.MemoryMoved (s.homeTouch p asid va cpol) ∨ s.homeTouch p asid va cpol = s.countBypass p := by
  unfold State.homeTouch
  dsimp only
  split
  · exact .inl (.refl s)
  split
  · exact .inl (.of_waves (s := s) (t := s.countAccess asid va) rfl rfl)
  split
  · exact .inl (.refl s)
  split
  · have huse (prio : Option Nat) : s.MemoryMoved (s.useLine asid (lineOf va) prio) := .of_waves rfl rfl
    split
    · exact .inl (huse _)
    split
    · exact .inl (((huse _).trans (State.moved_ptTouch _ _ _ _)).trans (State.moved_fetchSectors _ _ _ _))
    · exact .inl ((huse _).trans (State.moved_ptTouch _ _ _ _))
  · split
    · exact .inl (s.moved_ptTouch _ _ _)
    split
    · exact .inr rfl
    · next hway =>
      exact .inl (((State.moved_takeWay hway).trans (State.moved_ptTouch _ _ _ _)).trans (State.moved_fetchSectors _ _ _ _))

theorem State.servesRead_homeTouch (s : State) (p asid va cpol : Nat) : s.ServesRead (s.homeTouch p asid va cpol) := by
  rcases s.homeTouch_cases p asid va cpol with h | h
  · exact h.servesRead
  · rw [h]
    exact s.servesRead_countBypass p

theorem State.homeTouch_blocks (s : State) (p asid va cpol : Nat) : (s.homeTouch p asid va cpol).blocks = s.blocks := by
  rcases s.homeTouch_cases p asid va cpol with h | h
  · exact (congrArg State.blocks h.2 :)
  · rw [h]
    rfl

theorem State.servesRead_l1Room (s : State) (p core asid line ways : Nat) : s.ServesRead (s.l1Room p core asid line ways) := by
  unfold State.l1Room
  dsimp only
  split
  · exact .refl s
  · exact (State.MemoryMoved.of_waves (s := s) (t := s.drawn) rfl rfl).servesRead.trans (State.servesRead_modL1 _ _ _)

theorem State.servesRead_fillL1 {s t : State} {bi line : Nat} (h : s.fillL1 bi line = some t) : s.ServesRead t := by
  unfold State.fillL1 at h
  split at h
  · cases h
  dsimp only at h
  split at h
  · cases h
  split at h
  · split at h
    · cases h
    · obtain ⟨xs, -, rfl⟩ := Option.map_eq_some_iff.mp h
      exact (s.servesRead_l1Room _ _ _ _ _).trans (State.servesRead_modL1 _ _ _)
  · cases h

theorem State.servesRead_served (s : State) (w : Wave) (va cpol : Nat) (xs : List (Byte × Src)) : s.ServesRead (s.served w va cpol xs) := by
  unfold State.served
  dsimp only
  have htouch (b : Bool) : s.ServesRead (if b = true then s.homeTouch w.part (s.asidOf w.part) va cpol else s) := by
    cases b
    · exact .refl s
    · exact s.servesRead_homeTouch _ _ _ _
  have huse (t : State) (b : Bool) (prio : Option Nat) (h : s.ServesRead t) :
      s.ServesRead (if b = true then t.useCopy (sectorOf w.core) (s.asidOf w.part) (lineOf va) prio else t) := by
    cases b
    · exact h
    · exact h.trans (t.moved_useCopy _ _ _ _).servesRead
  have hcopy (t : State) (b : Bool) (p : Nat) (h : s.ServesRead t) :
      s.ServesRead (if b = true then t.makeCopy w.part (sectorOf w.core) (s.asidOf w.part) (lineOf va) p else t) := by
    cases b
    · exact h
    · exact h.trans (t.moved_makeCopy _ _ _ _ _).servesRead
  have hfill (t : State) (b : Bool) (h : s.ServesRead t) :
      s.ServesRead (if b = true then (t.fillL1 w.block (va / 64)).getD t else t) := by
    cases b
    · exact h
    · cases hf : t.fillL1 w.block (va / 64) with
      | none => exact h
      | some u => exact h.trans (State.servesRead_fillL1 hf)
  refine hfill _ _ ?_
  split
  · exact hcopy _ _ _ (huse _ _ _ (htouch _))
  · exact huse _ _ _ (htouch _)

theorem State.servesRead_sawAt (s : State) (b asid va q n : Nat) : s.ServesRead (s.sawAt b asid va q n) := by
  induction n generalizing s va with
  | zero => exact .refl s
  | succ n ih =>
    unfold State.sawAt
    refine State.ServesRead.trans ?_ (ih _ _)
    exact s.servesRead_modBlock b _ fun _ => rfl

/-- A line that is replaced by one with the same operation parked at it. -/
theorem map_parked_modLine (w : Window) (k : Nat) (f : StashLine → StashLine) (hf : ∀ l, (f l).parked = l.parked) :
    (w.modLine k f).lines.map (·.parked) = w.lines.map (·.parked) := by
  rw [Window.modLine, setAt_eq_set, List.map_set, hf]
  by_cases hk : k < w.lines.length
  · have hline : w.line k = w.lines[k] := by simp [Window.line, nth, hk]
    rw [hline, ← List.getElem_map StashLine.parked (h := by simpa using hk), List.set_getElem_self]
  · exact List.set_eq_of_length_le (by simpa using hk)

/-- What a line notes of its bytes leaves what is parked there. -/
theorem Block.parking_modLine (b : Block) (i k : Nat) (f : StashLine → StashLine) (hf : ∀ l, (f l).parked = l.parked) :
    (b.modWindow i fun z => z.modLine k f).parking = b.parking := by
  unfold Block.parking Block.modWindow
  rw [List.map_map]
  refine congrArg (Prod.mk b.part) (List.map_congr_left fun w _ => ?_)
  dsimp only [Function.comp]
  split
  · exact map_parked_modLine w k f hf
  · rfl

theorem State.servesRead_modWave (s : State) (wi : Nat) (f : Wave → Wave) (hf : ∀ w : Wave, w.ReadBy (f w)) :
    s.ServesRead (s.modWave wi f) where
  waves := State.WavesBy.modWave Wave.ReadBy.refl s wi f hf
  parts p := ⟨(s.part p).bypass, rfl⟩
  cores _ _ _ := rfl
  blocks := rfl
  rest := rfl

theorem State.servesRead_noteRead (s : State) (wi b asid va : Nat) (xs : List (Byte × Src)) : s.ServesRead (s.noteRead wi b asid va xs) := by
  refine .foldl _ (fun s e => ?_) s _
  split
  · exact s.servesRead_modWave wi _ fun w => ⟨w.releases, _, rfl⟩
  · exact s.servesRead_modBlock b _ fun _ => rfl
  · exact s.servesRead_sawAt _ _ _ _ _
  · exact s.servesRead_sawAt _ _ _ _ _
  · exact s.servesRead_sawAt _ _ _ _ _
  · exact s.servesRead_sawAt _ _ _ _ _
  · refine s.servesRead_modBlock b _ fun x => ?_
    split
    · exact Block.parking_modLine x _ _ _ fun _ => rfl
    · rfl
  · exact .refl s

/-- Reading now is serving a read. -/
theorem State.servesRead_readNow {s t : State} {c : Ctx} {va n : Nat} {bs : List Byte} (h : s.readNow c va n = some (bs, t)) :
    s.ServesRead t := by
  unfold State.readNow at h
  split at h
  · cases h
  · split at h
    · cases h
    · obtain ⟨xs, -, hx⟩ := Option.map_eq_some_iff.mp h
      obtain ⟨-, rfl⟩ := Prod.mk.inj hx
      exact (s.servesRead_served _ _ _ _).trans (State.servesRead_noteRead _ _ _ _ _ _)

/-! ## Tags -/

/-- A block's partition, through what it shows. -/
theorem State.here_eq (s : State) (p b : Nat) : ((s.block? b).any fun y => y.part == p) = ((s.parking.find b).any fun y => y.1 == p) := by
  unfold State.parking State.block?
  induction s.blocks with
  | nil => rfl
  | cons e t ih =>
    obtain ⟨k, x⟩ := e
    simp only [List.map_cons, Table.find]
    split
    · rfl
    · split
      · rfl
      · exact ih

/-- The tags that wait at stash lines, through what blocks show. -/
theorem State.parked_eq (s : State) (p : Nat) :
    ((s.blocks.filter (·.2.part == p)).flatMap fun e => e.2.windows.flatMap fun w => w.lines.filterMap (·.parked)) =
      (s.parking.filter (·.2.1 == p)).flatMap fun e => e.2.2.flatMap fun l => l.filterMap id := by
  unfold State.parking
  rw [List.filter_map, List.flatMap_map]
  refine congrArg₂ _ (funext fun e => ?_) rfl
  unfold Block.parking
  rw [List.flatMap_map]
  refine congrArg₂ _ (funext fun w => ?_) rfl
  rw [List.filterMap_map]
  rfl

theorem State.ServesRead.tagsOf {s t : State} (h : s.ServesRead t) (p : Nat) : t.tagsOf p = s.tagsOf p := by
  obtain ⟨n, hn⟩ := h.parts p
  have hcores := h.cores (fun x => (x.copyQ.filter (·.part == p)).map (·.tag) ++ (x.work.filter (·.part == p)).map (·.tag))
    (fun _ _ => rfl) rfl
  have hslice : t.sliceQ = s.sliceQ := (congrArg State.sliceQ h.rest :)
  have hquads : t.quads = s.quads := (congrArg State.quads h.rest :)
  have hbuilds : t.builds = s.builds := (congrArg State.builds h.rest :)
  have hfences : t.qfences = s.qfences := (congrArg State.qfences h.rest :)
  have hlaunches : t.launches = s.launches := (congrArg State.launches h.rest :)
  have hlinks : t.links = s.links := (congrArg State.links h.rest :)
  simp only [State.tagsOf, State.here_eq, State.parked_eq, h.blocks, hn, hslice, hquads, hbuilds, hfences, hlaunches, hlinks] at hcores ⊢
  rw [hcores]

theorem State.ServesRead.takeTag {s t : State} (h : s.ServesRead t) (p : Nat) : (t.takeTag p).1 = (s.takeTag p).1 := by
  obtain ⟨n, hn⟩ := h.parts p
  simp only [State.takeTag, h.tagsOf, hn]

/-! ## Handles -/

theorem Keeps.setHandle {c : Ctx} {w : Wave} (h : Keeps c w) (d : Operand) (st : HState) : Keeps c (w.setHandle d st) := by
  cases d <;> exact h

theorem handleIs_setHandle (w : Wave) (d : Operand) (st : HState) : HandleIs (w.setHandle d st) d st := by
  rintro r rfl
  exact (vget_vset _ _ _ _ _ r.isLt).trans (if_pos rfl)

/-- A wave that is read by keeps what an instruction may not change. -/
theorem Wave.ReadBy.keeps {c : Ctx} {w v : Wave} (h : w.ReadBy v) (k : Keeps c w) : Keeps c v := by
  obtain ⟨rs, es, rfl⟩ := h
  exact k

theorem Wave.ReadBy.split? {w v : Wave} (h : w.ReadBy v) (k : Nat) : v.split? k = w.split? k := by
  obtain ⟨rs, es, rfl⟩ := h
  rfl

theorem Wave.split?_setHandle (w : Wave) (d : Operand) (st : HState) (k : Nat) : (w.setHandle d st).split? k = w.split? k := by
  cases d <;> rfl

/-- The split has gone on, with the handles as they were left. -/
theorem onward_handles {c : Ctx} {u : State} {w : Wave} (hw : u.wave? c.wi = some w) (h : Keeps c w) :
    ∃ v, Onward c (u.goOn c c.next false) v ∧ v.h = w.h := by
  obtain ⟨v, hv, -⟩ := onward_goOn hw h
  have hv' := hv.1.symm.trans (State.wave?_goOn hw c.next false)
  exact ⟨v, hv, (congrArg Wave.h (Option.some.inj hv') :)⟩

theorem HandleIs.of_h {w v : Wave} {d : Operand} {st : HState} (h : HandleIs w d st) (hv : v.h = w.h) : HandleIs v d st := fun r hr => by
  rw [hv]
  exact h r hr

theorem handle_free {c : Ctx} {d : Operand} (h : HandleFree c d) : ¬ (isH d = true ∧ (handleState c.w d).isPending = true) :=
  fun ⟨hd, hp⟩ => Bool.false_ne_true ((h hd).symm.trans hp)

/-- An instruction that is done at once under its handle. -/
theorem done_goOn {s : State} {c : Ctx} (h : s.ctx? = some c) (d : Operand) :
    ∃ w, Onward c (((s.unmark c.wi).modWave c.wi fun w => w.setHandle d .done).goOn c c.next false) w ∧ HandleIs w d .done := by
  have hw := (State.wave?_modWave_self (s.unmark c.wi) c.wi fun w => w.setHandle d .done).trans (congrArg _ (State.wave?_unmark h))
  obtain ⟨w, hon, hh⟩ := onward_handles hw (Keeps.setHandle (w := c.w.unmark) (keeps_issuer h) d .done)
  exact ⟨w, hon, HandleIs.of_h (handleIs_setHandle _ d .done) hh⟩

/-! ## GATH and SCAT -/

theorem State.takeTag_withRelease (s : State) (wi p : Nat) (x : Release) : ((s.withRelease wi x).takeTag p).1 = (s.takeTag p).1 := by
  unfold State.withRelease
  split <;> rfl

/-- The next tag does not depend on the release that an operation starts. -/
theorem State.takeTag_startRelease {s : State} {wi : Nat} {w : Wave} (hw : s.wave? wi = some w) (p : Nat) :
    (((s.startRelease wi 2).2).takeTag p).1 = (s.takeTag p).1 := by
  obtain ⟨x, hx⟩ := State.startRelease_block hw
  rw [hx]
  exact State.takeTag_withRelease s wi p x

theorem State.takeTag_drawn (s : State) (p : Nat) : (s.drawn.takeTag p).1 = (s.takeTag p).1 := rfl

theorem State.takeTag_unmark (s : State) (wi p : Nat) : ((s.unmark wi).takeTag p).1 = (s.takeTag p).1 := rfl

/-- Index entries are read as a read is served. -/
theorem State.servesRead_readIndices {s t : State} {c : Ctx} {o n : Nat} {xs : List Nat} (h : s.readIndices c o n = .some xs t) :
    s.ServesRead t := by
  unfold State.readIndices at h
  split at h
  · cases h
  · dsimp only at h
    split at h
    · split at h <;> cases h
    · split at h
      · cases h
      · next r hr =>
        cases h
        exact State.servesRead_readNow hr

/-- The split of an instruction that sends index entries: it issues again while some are left, and else has gone on. -/
def Sends (c : Ctx) (x : SliceOp) (t : State) (w : Wave) : Prop :=
  if x.next < x.count then w.split? c.sp.num = some { c.sp with prog := word x.next } else Onward c t w

section
variable {c : Ctx} {s u : State} {o : SliceOp} {xs : List Nat} {enter : State → SliceOp → State}

/-- The state after some index entries are sent, u being that with the operation that results. -/
def State.sentIndices (u : State) (c : Ctx) (x : SliceOp) : State :=
  if x.next < x.count then u.modSplit c.wi c.sp.num fun y => { y with prog := word x.next } else u.goOn c c.next false

theorem sendIndices_finish (hr : s.drawn.readIndices c (o.list + 4 * o.next) (1 + Config.freeNat s.free % (o.count - o.next)) = .some xs u)
    (ho : o.cancelled = false) (s0 : State) :
    (sendIndices c s o enter).finish c s0 = (enter u (o.send xs)).sentIndices c (o.send xs) := by
  have hopen : (o.send xs).isOpen = decide ((o.send xs).next < (o.send xs).count) := by
    rw [SliceOp.isOpen, show (o.send xs).cancelled = false from ho]
    rfl
  simp only [sendIndices, hr, hopen, decide_eq_true_eq, State.sentIndices]
  rw [apply_ite (fun e : Effect => e.finish c s0)]
  rfl

theorem sends_sentIndices {w : Wave} (hw : u.wave? c.wi = some w) (hk : Keeps c w) (hsp : w.split? c.sp.num = some c.sp) (x : SliceOp) :
    ∃ v, (u.sentIndices c x).wave? c.wi = some v ∧ Sends c x (u.sentIndices c x) v ∧ v.h = w.h := by
  unfold State.sentIndices Sends
  by_cases hx : x.next < x.count
  · simp only [if_pos hx]
    exact ⟨_, State.wave?_modSplit hw _ _, Wave.split?_modSplit hsp fun _ => rfl, rfl⟩
  · simp only [if_neg hx]
    obtain ⟨v, hon, hh⟩ := onward_handles hw hk
    exact ⟨v, hon.1, hon, hh⟩

theorem State.sentIndices_sliceQ (u : State) (c : Ctx) (x : SliceOp) : (u.sentIndices c x).sliceQ = u.sliceQ := by
  unfold State.sentIndices
  split <;> rfl

theorem State.sameMemory_sentIndices (u : State) (c : Ctx) (x : SliceOp) (h : SameMemory s u) : SameMemory s (u.sentIndices c x) := by
  unfold State.sentIndices
  split <;> exact h

end

/-- GATH and SCAT, by whether they gather. -/
def sliceForms (d a b : Operand) : List (Instr × Bool) := [(Instr.gath d a b, true), (.scat d a b, false)]

theorem exec_sliceWord {d a b : Operand} {i : Instr} {gather : Bool} (hi : (i, gather) ∈ sliceForms d a b) (s : State) :
    exec i s = sliceWord i d a b gather s := by
  simp only [sliceForms, List.mem_cons, Prod.mk.injEq, List.not_mem_nil, or_false] at hi
  rcases hi with ⟨rfl, rfl⟩ | ⟨rfl, rfl⟩ <;> rfl

/-- The operation that GATH or SCAT enters, before it has its tag. -/
def Ctx.newSlice (c : Ctx) (d a b : Operand) (gather : Bool) : SliceOp :=
  { tag := 0, block := c.w.block, wave := c.wi, split := c.sp.num, gather := gather, base := pairN c b
    elem := (groupLane c a 2 0).toNat, data := (groupLane c a 3 0).toNat, list := (groupLane c a 0 0).toNat
    count := (groupLane c a 1 0).toNat, sent := [], next := 0, done := [], cancelled := false
    href := hrefOf c d, rel := 0, fences := [], st := .ready }

/-- The operation with its tag, its release and its fences, in a state that has started its release. -/
def State.taggedSlice (u : State) (c : Ctx) (x : SliceOp) (rel : Nat) (fences : List Nat) : SliceOp :=
  { x with tag := (u.takeTag c.w.part).1, rel := rel, fences := fences }

/-- The state in which a new operation is in the queue and its handle is pending. -/
def State.queueSlice (u : State) (c : Ctx) (d : Operand) (x : SliceOp) (rel : Nat) (fences : List Nat) : State :=
  let t := (u.takeTag c.w.part).2
  ({ t with sliceQ := t.sliceQ ++ [u.taggedSlice c x rel fences] } : State).pendHandle c d (u.takeTag c.w.part).1

/-- A new operation enters: its issuer's writes are released first. -/
def State.enterSlice (s : State) (c : Ctx) (d : Operand) (x : SliceOp) : State :=
  (s.opStart c.wi c.w 1).2.2.queueSlice c d x (s.opStart c.wi c.w 1).1 (s.opStart c.wi c.w 1).2.1

section
variable {d a b : Operand} {i : Instr} {gather : Bool} (hi : (i, gather) ∈ sliceForms d a b) {s : State} {c : Ctx}
  (h : Ready i (sliceChecks a) s c)
include hi h

theorem exec_slice_stopped (hp : c.sp.prog ≠ 0) {o : SliceOp} (ho : s.stoppedSlice c d = some o) :
    exec i s = .next ((sendIndices c (s.unmark c.wi) o fun s x => s.setSlice o (some x)).finish c s) := by
  rw [exec_sliceWord hi, sliceWord, wordOf_ready h, if_pos hp]
  simp only [ho]

variable (ha : c.act ≠ 0) (hp : c.sp.prog = 0) (hd : HandleFree c d)
  (hok : sliceCause s c (groupLane c a 0 0).toNat (groupLane c a 1 0).toNat (groupLane c a 2 0).toNat (groupLane c a 3 0).toNat
    (pairN c b) = none)
include ha hp hd hok

theorem exec_slice_none (hn : (groupLane c a 1 0).toNat = 0) :
    exec i s = .next (((s.unmark c.wi).modWave c.wi fun w => w.setHandle d .done).goOn c c.next false) := by
  rw [exec_sliceWord hi, sliceWord, wordOf_ready h, if_neg (not_not_intro hp), if_neg (handle_free hd), if_neg ha]
  dsimp only
  rw [hok]
  dsimp only
  rw [if_pos hn]
  rfl

theorem exec_slice_new (hn : (groupLane c a 1 0).toNat ≠ 0) :
    exec i s = .next ((sendIndices c s (c.newSlice d a b gather) fun s x => s.enterSlice c d x).finish c s) := by
  rw [exec_sliceWord hi, sliceWord, wordOf_ready h, if_neg (not_not_intro hp), if_neg (handle_free hd), if_neg ha]
  simp only [hok, hn, if_false]
  rfl

end

theorem State.wave?_queueSlice {u : State} {c : Ctx} {w : Wave} (hw : u.wave? c.wi = some w) (d : Operand) (x : SliceOp) (rel : Nat)
    (fences : List Nat) : (u.queueSlice c d x rel fences).wave? c.wi = some (w.setHandle d (.pending (u.takeTag c.w.part).1)) :=
  (State.wave?_modWave_self _ _ _).trans (congrArg _ hw)

theorem State.queueSlice_sliceQ (u : State) (c : Ctx) (d : Operand) (x : SliceOp) (rel : Nat) (fences : List Nat) :
    (u.queueSlice c d x rel fences).sliceQ = u.sliceQ ++ [u.taggedSlice c x rel fences] := rfl

theorem State.sameMemory_queueSlice {s u : State} (h : SameMemory s u) (c : Ctx) (d : Operand) (x : SliceOp) (rel : Nat) (fences : List Nat) :
    SameMemory s (u.queueSlice c d x rel fences) := h

theorem State.withRelease_sliceQ (s : State) (wi : Nat) (x : Release) : (s.withRelease wi x).sliceQ = s.sliceQ := by
  unfold State.withRelease
  split <;> rfl

/-- A new operation takes the next tag of its partition; its wave keeps its splits, and its handle is pending. -/
theorem State.enterSlice_spec {s : State} {c : Ctx} {w : Wave} (hw : s.wave? c.wi = some w) (hr : c.w.ReadBy w) (d : Operand) (x : SliceOp) :
    ∃ v rel fences, c.w.unmark.ReadBy v ∧
      (s.enterSlice c d x).wave? c.wi = some (v.setHandle d (.pending (s.takeTag c.w.part).1)) ∧ SameMemory s (s.enterSlice c d x) ∧
      (s.enterSlice c d x).sliceQ = s.sliceQ ++ [{ x with tag := (s.takeTag c.w.part).1, rel := rel, fences := fences }] := by
  have hu : (s.unmark c.wi).wave? c.wi = some w.unmark := (State.wave?_modWave_self s c.wi _).trans (congrArg _ hw)
  obtain ⟨y, hy⟩ := State.startRelease_block hu
  obtain ⟨rs, hrs⟩ := State.wave?_withRelease hu y
  have hmem : SameMemory s ((s.unmark c.wi).withRelease c.wi y) :=
    State.sameMemory_withRelease (t := s.unmark c.wi) ⟨rfl, rfl, rfl, rfl, rfl, rfl, rfl⟩ c.wi y
  have htag := (State.takeTag_withRelease (s.unmark c.wi) c.wi c.w.part y).trans (State.takeTag_unmark s c.wi c.w.part)
  have hq := State.withRelease_sliceQ (s.unmark c.wi) c.wi y
  rw [State.enterSlice, (State.opStart_state s c.wi c.w 1).trans hy]
  refine ⟨{ w.unmark with releases := rs }, (s.opStart c.wi c.w 1).1, (s.opStart c.wi c.w 1).2.1, ?read, ?wave,
    State.sameMemory_queueSlice hmem _ _ _ _ _, ?queue⟩
  case read =>
    obtain ⟨rs', es, rfl⟩ := hr
    exact ⟨rs, es, rfl⟩
  case wave => rw [State.wave?_queueSlice hrs, htag]
  case queue => rw [State.queueSlice_sliceQ, State.taggedSlice, htag, hq]; rfl

theorem State.setSlice_some (s : State) (o x : SliceOp) :
    (s.setSlice o (some x)).sliceQ = s.sliceQ.map fun y => if y.tag = o.tag ∧ y.block = o.block then x else y := by
  unfold State.setSlice
  dsimp only
  rw [← List.filterMap_eq_map]
  refine congrArg₂ _ (funext fun y => ?_) rfl
  dsimp only [Function.comp]
  split <;> rfl

/-- What a stopped operation is: not cancelled. -/
theorem State.stoppedSlice_open {s : State} {c : Ctx} {d : Operand} {o : SliceOp} (h : s.stoppedSlice c d = some o) :
    o.cancelled = false := by
  have hp := List.find?_some h
  simp only [SliceOp.isOpen, Bool.and_eq_true, Bool.not_eq_true'] at hp
  obtain ⟨⟨-, hcancel, -⟩, -⟩ := hp
  exact hcancel

/-- The entries that a new operation has sent are those read, from the first on. -/
theorem newSlice_sent (c : Ctx) (d a b : Operand) (gather : Bool) (xs : List Nat) :
    ((c.newSlice d a b gather).send xs).next = xs.length ∧ ((c.newSlice d a b gather).send xs).sent.map (·.2) = xs ∧
      ((c.newSlice d a b gather).send xs).sent.map (·.1) = upTo xs.length := by
  have hlen : (upTo xs.length).length = xs.length := List.length_range
  refine ⟨Nat.zero_add _, ?_, ?_⟩
  · simp only [SliceOp.send, Ctx.newSlice, List.nil_append, List.map_map, Function.comp_def]
    exact List.map_fst_zip (Nat.le_of_eq hlen.symm)
  · simp only [SliceOp.send, Ctx.newSlice, List.nil_append, List.map_map, Function.comp_def, Nat.zero_add]
    exact List.map_snd_zip (Nat.le_of_eq hlen)

/-! ## QFENCE -/

/-- The end of an operation reaches the handle that is pending with its tag. -/
theorem State.wave?_endHandle {s : State} {wi : Nat} {w : Wave} (hw : s.wave? wi = some w) (h : Option HRef) (tag : Nat) (st : HState) :
    ∃ hs, (s.endHandle h tag st).wave? wi = some { w with h := hs } ∧ ∀ r < 16, vget hs r .empty =
      if h = some { wave := wi, reg := r } ∧ vget w.h r .empty = .pending tag then st else vget w.h r .empty := by
  cases h with
  | none => exact ⟨w.h, hw, fun r _ => by simp⟩
  | some x =>
    obtain ⟨v, q⟩ := x
    by_cases hv : wi = v
    · subst hv
      by_cases hq : vget w.h q .empty = .pending tag
      · refine ⟨vset w.h q st, (State.wave?_modWave_self _ _ _).trans (by rw [hw]; simp [hq]), fun r hr => ?_⟩
        rw [vget_vset _ _ _ _ _ hr]
        by_cases hrq : r = q
        · subst hrq
          simp [hq]
        · simp [hrq, Ne.symm hrq]
      · refine ⟨w.h, (State.wave?_modWave_self _ _ _).trans (by rw [hw]; simp [hq]), fun r _ => ?_⟩
        by_cases hrq : r = q
        · subst hrq
          simp [hq]
        · simp [Ne.symm hrq]
    · refine ⟨w.h, (State.wave?_modWave_other _ _ _ _ hv).trans hw, fun r _ => ?_⟩
      simp [Ne.symm hv]

/-- Operations that are done leave a wave all but handles; a handle that one of them completes is done. -/
theorem State.wave?_endHandles {s : State} {wi : Nat} {w : Wave} (hw : s.wave? wi = some w) (fs : List QFenceRec) :
    ∃ hs, (fs.foldl (fun s f => s.endHandle f.href f.tag .done) s).wave? wi = some { w with h := hs } ∧
      ∀ r < 16, (vget w.h r .empty = .done → vget hs r .empty = .done) ∧ ∀ f ∈ fs, f.href = some { wave := wi, reg := r } →
        vget w.h r .empty = .pending f.tag → vget hs r .empty = .done := by
  induction fs generalizing s w with
  | nil => exact ⟨w.h, hw, fun r _ => ⟨id, fun f hf => absurd hf List.not_mem_nil⟩⟩
  | cons g fs ih =>
    obtain ⟨hs, hwave, hget⟩ := State.wave?_endHandle hw g.href g.tag .done
    obtain ⟨hs', hwave', hget'⟩ := ih hwave
    refine ⟨hs', hwave', fun r hr => ?_⟩
    obtain ⟨hdone, hends⟩ := hget' r hr
    have hstep := hget r hr
    refine ⟨fun h => hdone (hstep.trans ?_), fun f hf href hpend => ?_⟩
    · split
      · rfl
      · exact h
    · by_cases hg : g.href = some { wave := wi, reg := r } ∧ vget w.h r .empty = .pending g.tag
      · exact hdone (hstep.trans (if_pos hg))
      · rcases List.mem_cons.mp hf with rfl | hf
        · exact absurd ⟨href, hpend⟩ hg
        · exact hends f hf href ((hstep.trans (if_neg hg)).trans hpend)

/-- Where nothing has come, the fences that wait for nothing end and the others stay. -/
theorem State.endWaits_nothing (s : State) : s.endWaits (fun _ => false) =
    (s.qfences.filter fun f => f.waits.isEmpty).foldl (fun s f => s.endHandle f.href f.tag .done)
      { s with qfences := s.qfences.filter fun f => !f.waits.isEmpty } := by
  have hsame : (s.qfences.map fun f => { f with waits := f.waits.filter fun t => !(fun _ => false : Nat → Bool) t }) = s.qfences := by
    refine (List.map_congr_left fun f _ => ?_).trans (List.map_id _)
    exact congrArg (fun l => { f with waits := l }) (List.filter_eq_self.mpr fun _ _ => rfl)
  unfold State.endWaits
  rw [hsame]

theorem State.endHandle_qfences (s : State) (h : Option HRef) (tag : Nat) (st : HState) : (s.endHandle h tag st).qfences = s.qfences := by
  cases h <;> rfl

theorem State.endHandles_qfences (s : State) (fs : List QFenceRec) :
    (fs.foldl (fun s f => s.endHandle f.href f.tag .done) s).qfences = s.qfences := by
  induction fs generalizing s with
  | nil => rfl
  | cons f fs ih => exact (ih _).trans (State.endHandle_qfences _ _ _ _)

/-- The fence that QFENCE places in a state that has started its release; that release is among what it waits for while it is under way. -/
def State.newFence (u : State) (c : Ctx) (d : Operand) (mask rel : Nat) (ops : List Nat) : QFenceRec :=
  { n := u.seq, mask := mask, part := c.w.part, block := c.w.block, core := c.w.core, quad := c.w.quad, launch := c.w.launch
    sector := sectorOf c.w.core, waits := ops ++ if u.isReleasing c.wi rel then [8589934592 + rel] else [], href := hrefOf c d
    tag := (u.takeTag c.w.part).1 }

theorem newFence_tag (u : State) (c : Ctx) (d : Operand) (mask rel : Nat) (ops : List Nat) :
    (u.newFence c d mask rel ops).tag = (u.takeTag c.w.part).1 := rfl

/-- The state with the fence, its handle pending. -/
def State.placeFence (u : State) (c : Ctx) (d : Operand) (mask rel : Nat) (ops : List Nat) : State :=
  let t := (u.takeTag c.w.part).2.stamp.2.pendHandle c d (u.takeTag c.w.part).1
  { t with qfences := t.qfences ++ [u.newFence c d mask rel ops] }

section
variable {d a : Operand} {s : State} {c : Ctx} (h : Ready (.qfence d a) {} s c) (ha : c.act ≠ 0) (hd : HandleFree c d)
include h ha hd

theorem exec_qfence_none (hm : rawN c a = 0) :
    exec (.qfence d a) s = .next (((s.unmark c.wi).modWave c.wi fun w => w.setHandle d .done).goOn c c.next false) := by
  simp only [exec, execQfence, handleWord]
  rw [wordOf_ready h, if_neg (handle_free hd), if_neg ha]
  simp only [hm, if_true, Nat.reduceLeDiff, if_false, Effect.finish]

theorem exec_qfence (hlt : rawN c a < 32) (hm : rawN c a ≠ 0) (hq : (rawN c a).testBit 2 = true → s.mxFill c.w.quad < 64) :
    exec (.qfence d a) s = .next (((((s.unmark c.wi).startRelease c.wi 2).2.placeFence c d (rawN c a)
      ((s.unmark c.wi).startRelease c.wi 2).1 (s.opsIn c.w (rawN c a))).endWaits fun _ => false).goOn c c.next false) := by
  have hfull : ((rawN c a).testBit 2 && s.mxFull c.w.quad) = false := by
    cases hb : (rawN c a).testBit 2
    · rfl
    · exact decide_eq_false (Nat.not_le.mpr (hq hb))
  simp only [exec, execQfence, handleWord]
  rw [wordOf_ready h, if_neg (handle_free hd), if_neg ha]
  simp only [Nat.not_le.mpr hlt, hm, hfull, Bool.false_eq_true, if_false]
  rfl

end

section
variable {u : State} {c : Ctx} {w : Wave} (hw : u.wave? c.wi = some w) (hk : Keeps c w) (d : Operand) (mask rel : Nat) (ops : List Nat)
include hw hk

/-- A fence is placed and those that wait for nothing end: the issuing split has gone on. -/
theorem placeFence_goOn : ∃ v, Onward c (((u.placeFence c d mask rel ops).endWaits fun _ => false).goOn c c.next false) v ∧
    (ops = [] → u.isReleasing c.wi rel = false → HandleIs v d .done) := by
  have hp : (u.placeFence c d mask rel ops).wave? c.wi = some (w.setHandle d (.pending (u.takeTag c.w.part).1)) :=
    (State.wave?_modWave_self (u.takeTag c.w.part).2.stamp.2 c.wi fun w => w.setHandle d (.pending (u.takeTag c.w.part).1)).trans
      (congrArg _ hw)
  obtain ⟨hs, hend, hget⟩ := State.wave?_endHandles (s := { u.placeFence c d mask rel ops with
    qfences := (u.placeFence c d mask rel ops).qfences.filter fun f => !f.waits.isEmpty }) hp
    ((u.placeFence c d mask rel ops).qfences.filter fun f => f.waits.isEmpty)
  rw [← State.endWaits_nothing] at hend
  obtain ⟨v, hon, hh⟩ := onward_handles hend (hk.setHandle d _)
  refine ⟨v, hon, fun hops hrel => ?_⟩
  rintro r rfl
  rw [hh]
  obtain ⟨-, hdone⟩ := hget r r.isLt
  refine hdone (u.newFence c (.h r) mask rel ops) (List.mem_filter.mpr ⟨List.mem_append_right _ (List.mem_singleton.mpr rfl), ?_⟩) rfl
    (handleIs_setHandle w (.h r) _ r rfl)
  rw [State.newFence, hops, hrel]
  rfl

end

/-- A fence that waits for operations stays. -/
theorem newFence_stays (u : State) (c : Ctx) (d : Operand) (mask rel : Nat) {ops : List Nat} (hops : ops ≠ []) :
    u.newFence c d mask rel ops ∈ (((u.placeFence c d mask rel ops).endWaits fun _ => false).goOn c c.next false).qfences := by
  rw [State.endWaits_nothing]
  refine (State.endHandles_qfences _ _).symm ▸ List.mem_filter.mpr ⟨List.mem_append_right _ (List.mem_singleton.mpr rfl), ?_⟩
  cases ops with
  | nil => exact absurd rfl hops
  | cons x xs => rfl

end Sys2Proof.Machine

namespace Sys2Proof

open Machine Safety

/-- Settles O43: reading the index list leaves tags, queues and splits as they were (`State.ServesRead`), so that the operation takes the
partition's next tag; a fence that waits for nothing ends as it is placed. -/
theorem sliceAndFenceWords : Obligations.SliceAndFenceWords := by
  unfold Obligations.SliceAndFenceWords
  dsimp only
  refine fun d a b s c ha => ⟨fun i gather hi h => ⟨fun hp hd hok => ⟨fun hn => ?none, fun hn xs s1 hread => ?new⟩,
    fun hp o ho xs s1 hread => ?stopped⟩, fun h hd => ⟨fun hm => ?nofence, fun hlt hm hq => ?fence⟩⟩
  case none =>
    obtain ⟨w, hon, hdone⟩ := done_goOn h.1 d
    exact ⟨_, w, exec_slice_none hi h ha hp hd hok hn, hon, hdone, rfl⟩
  case new =>
    have hserves := State.servesRead_readIndices hread
    obtain ⟨w1, hw1, hre⟩ := hserves.waves c.wi c.w (State.ctx?_wave h.1)
    obtain ⟨v, rel, fences, hv, hwave, hmem, hqueue⟩ := State.enterSlice_spec hw1 hre d ((c.newSlice d a b gather).send xs)
    have htag := (hserves.takeTag c.w.part).trans (State.takeTag_drawn s c.w.part)
    have hsliceQ : s1.sliceQ = s.sliceQ := (congrArg State.sliceQ hserves.rest :)
    obtain ⟨hnext, hsent, hpos⟩ := newSlice_sent c d a b gather xs
    obtain ⟨w, hw, hsends, hh⟩ := sends_sentIndices hwave (Keeps.setHandle (hv.keeps (keeps_issuer h.1)) d _)
      ((Wave.split?_setHandle _ _ _ _).trans ((hv.split? _).trans (State.ctx?_split h.1))) ((c.newSlice d a b gather).send xs)
    rw [htag] at hqueue hh
    generalize (s.takeTag c.w.part).1 = tag at hqueue hh ⊢
    refine ⟨_, w, { (c.newSlice d a b gather).send xs with tag := tag, rel := rel, fences := fences },
      (exec_slice_new hi h ha hp hd hok hn).trans (congrArg Host.Outcome.next (sendIndices_finish hread rfl s)), hw, hsends,
      State.sameMemory_sentIndices _ _ _ hmem, (State.sentIndices_sliceQ _ _ _).trans (by rw [hqueue, hsliceQ]),
      HandleIs.of_h (handleIs_setHandle _ d _) hh, rfl, rfl, rfl, rfl, rfl, rfl, rfl, rfl, rfl, rfl, rfl, hnext, hsent, hpos⟩
  case stopped =>
    have hserves := State.servesRead_readIndices hread
    obtain ⟨w1, hw1, rs, es, rfl⟩ := hserves.waves c.wi _ (State.wave?_unmark h.1)
    have hsliceQ : s1.sliceQ = s.sliceQ := (congrArg State.sliceQ hserves.rest :)
    obtain ⟨w, hw, hsends, -⟩ := sends_sentIndices (u := s1.setSlice o (some (o.send xs))) hw1 (keeps_issuer h.1) (State.ctx?_split h.1)
      (o.send xs)
    exact ⟨_, w, o.send xs, (exec_slice_stopped hi h hp ho).trans
        (congrArg Host.Outcome.next (sendIndices_finish hread (State.stoppedSlice_open ho) s)), hw, hsends, rfl, rfl, rfl,
      (State.sentIndices_sliceQ _ _ _).trans ((State.setSlice_some s1 o _).trans (by rw [hsliceQ]))⟩
  case nofence =>
    obtain ⟨w, hon, hdone⟩ := done_goOn h.1 d
    exact ⟨_, w, exec_qfence_none h ha hd hm, hon, hdone, rfl⟩
  case fence =>
    obtain ⟨⟨rs, hw, -⟩, -⟩ := State.startRelease_spec (State.wave?_unmark h.1) 2
    have he := exec_qfence h ha hd hlt hm hq
    obtain ⟨v, hon, hdone⟩ := placeFence_goOn hw (keeps_issuer h.1) d (rawN c a) ((s.unmark c.wi).startRelease c.wi 2).1
      (s.opsIn c.w (rawN c a))
    refine ⟨fun hops hrel => ⟨_, v, he, hon, hdone hops hrel⟩, fun hops => ⟨_, v, _, he, hon, newFence_stays _ _ _ _ _ hops, rfl, rfl, ?_,
      fun o ho => List.mem_append_left _ ho, rfl, rfl⟩⟩
    exact (newFence_tag _ _ _ _ _ _).trans ((State.takeTag_startRelease (State.wave?_unmark h.1) _).trans (State.takeTag_unmark s c.wi c.w.part))

end Sys2Proof
end


section
/-! PROOFS. The events of the core's memory (06 R131, R136, 08 R145 to R149): DRAIN, SATISFY, STASH_FILL and MW_DELIVERY. -/

namespace Sys2Proof.Machine

open Safety

/-! ## DRAIN -/

/-- The wave's store buffer without an entry. -/
def State.dropEntry (s : State) (wi : Nat) (e : WEntry) : State := s.modWave wi fun x => { x with wsb := x.wsb.filter fun y => y.seq != e.seq }

section
variable {s : State} {wi line : Nat} {w : Wave} {b : Block} {e : WEntry} (hw : s.wave? wi = some w) (hb : s.block? w.block = some b)
  (he : w.wsb.find? (fun x => lineOf x.addr == line) = some e) (hd : w.mayDrain e = true)
include hw hb he hd

theorem exec_drain : exec (.drain wi line) s = .next (((if inAperture e.addr then
    (s.dropEntry wi e).drainScratch w e (e.addr - Config.aperture) else (s.dropEntry wi e).drainGlobal w b e).map
      State.settleReleases).getD s) := by
  simp only [exec, execDrain, hw, hb, he, hd, Bool.not_true, Bool.false_eq_true, if_false]
  rfl

theorem exec_drain_scratch (hin : inAperture e.addr = true) {t : State}
    (ht : (s.dropEntry wi e).drainScratch w e (e.addr - Config.aperture) = some t) :
    exec (.drain wi line) s = .next t.settleReleases := by
  rw [exec_drain hw hb he hd, if_pos hin, ht]
  rfl

theorem exec_drain_global (hin : inAperture e.addr = false) {t : State} (ht : (s.dropEntry wi e).drainGlobal w b e = some t) :
    exec (.drain wi line) s = .next t.settleReleases := by
  rw [exec_drain hw hb he hd, if_neg (by simp [hin]), ht]
  rfl

end

section
variable {s : State} {w : Wave} {e : WEntry} {o : Nat}

theorem drainScratch_store {bs : List Byte} (he : e.payload = .store bs) {r : State × List (Nat × Nat × Nat × Nat)}
    (hr : s.scratchPut w.block o bs [e.wave] = some r) :
    s.drainScratch w e o = some (if r.2 = [] then r.1.inScratch e.seq else r.1.inStash e.seq r.2) := by
  simp only [State.drainScratch, he, hr, Option.map_some, List.isEmpty_iff]

section
variable {a : AtomicReq} {b : Block} {xs : List Byte} (he : e.payload = .atomic a) (hb : s.block? w.block = some b)
  (hx : b.scratchRead o a.width = some xs)
include he hb hx

theorem drainScratch_atomic_same (hv : atomicValue a (leValue xs) = leValue xs) :
    s.drainScratch w e o = some ((s.inScratch e.seq).atomicReturn e.wave a (leValue xs)) := by
  simp only [State.drainScratch, he, hb, Option.bind_some, hx, hv, if_true]

theorem drainScratch_atomic_new (hv : atomicValue a (leValue xs) ≠ leValue xs) {r : State × List (Nat × Nat × Nat × Nat)}
    (hr : s.scratchPut w.block o (leBytes (atomicValue a (leValue xs)) a.width) [e.wave] = some r) :
    s.drainScratch w e o =
      some ((if r.2 = [] then r.1.inScratch e.seq else r.1.inStash e.seq r.2).atomicReturn e.wave a (leValue xs)) := by
  simp only [State.drainScratch, he, hb, Option.bind_some, hx, Ne.symm hv, if_false, hr, Option.map_some, List.isEmpty_iff]

end

variable {b : Block}

/-- The block's copy in L1 takes the bytes of a store that leaves for its home. -/
def State.seenInL1 (s : State) (w : Wave) (e : WEntry) : State :=
  match e.payload with
  | .store bs => s.updateL1 w.block w.core (s.asidOf w.part) e.addr bs
  | .atomic _ => s

/-- An entry enters the block's outbound queue. -/
def State.queueOut (s : State) (w : Wave) (e : WEntry) : State :=
  ((s.seenInL1 w e).modBlock w.block fun x => { x with oq := x.oq ++ [e] }).leftWsb e.seq

theorem drainGlobal_queue (h : b.stashOf e.addr = none ∨ ∃ a, e.payload = .atomic a) : s.drainGlobal w b e = some (s.queueOut w e) := by
  rcases h with h | ⟨a, ha⟩
  · simp only [State.drainGlobal, h]
    cases he : e.payload <;> simp only [State.queueOut, State.seenInL1, he]
  · simp only [State.drainGlobal, State.queueOut, State.seenInL1, ha]

theorem drainGlobal_stash {bs : List Byte} {x : Window} {k : Nat} (he : e.payload = .store bs) (hx : b.stashOf e.addr = some (x, k, o))
    {r : State × List (Nat × Nat × Nat × Nat)} (hr : s.scratchPut w.block o bs [e.wave] = some r) :
    s.drainGlobal w b e = some (r.1.inStash e.seq r.2) := by
  simp only [State.drainGlobal, he, hx, hr, Option.map_some]

end

/-- What a step has done to one wave's store buffer and to its block's fields but the reservations stands after the releases that it
completes. -/
theorem settled_view {s t : State} {wi bi : Nat} {w : Wave} {b : Block} (hw : t.wave? wi = some w) (hb : t.block? bi = some b)
    (hm : SameMemory s t) : ∃ w' rv, t.settleReleases.wave? wi = some w' ∧ w'.wsb = w.wsb ∧
      t.settleReleases.block? bi = some { b with resv := rv } ∧ SameMemory s t.settleReleases := by
  have h := t.settles_settleReleases
  obtain ⟨w', hw', rs, as, hs, hh, rfl⟩ := h.waves wi w hw
  obtain ⟨rv, hrv⟩ := h.blocks bi
  exact ⟨_, rv, hw', rfl, hrv.trans (congrArg _ hb), sameMemory_trans hm h.sameMemory⟩

theorem State.wave?_dropEntry {s : State} {wi : Nat} {w : Wave} (hw : s.wave? wi = some w) (e : WEntry) :
    (s.dropEntry wi e).wave? wi = some { w with wsb := w.wsb.filter fun y => y.seq != e.seq } :=
  (State.wave?_modWave_self s wi fun x => { x with wsb := x.wsb.filter fun y => y.seq != e.seq }).trans (congrArg _ hw)

theorem State.wave?_modReleases {s : State} {wi : Nat} {w : Wave} (hw : s.wave? wi = some w) (f : Release → Release) :
    ∃ rs, (s.modReleases f).wave? wi = some { w with releases := rs } := s.keepsWaves_modReleases f wi w hw

theorem State.queueOut_spec {s : State} {wi : Nat} {w0 w : Wave} {b : Block} (hw : s.wave? wi = some w0) (hb : s.block? w.block = some b)
    (e : WEntry) : (∃ rs, (s.queueOut w e).wave? wi = some { w0 with releases := rs }) ∧
      (s.queueOut w e).block? w.block = some { b with oq := b.oq ++ [e] } ∧ SameMemory s (s.queueOut w e) := by
  have hsame : ({ s.seenInL1 w e with cores := s.cores } : State) = s := by
    unfold State.seenInL1
    split <;> rfl
  have hwave : (s.seenInL1 w e).wave? wi = some w0 := (congrArg (State.wave? · wi) hsame :).trans hw
  have hblock : (s.seenInL1 w e).block? w.block = some b := (congrArg (State.block? · w.block) hsame :).trans hb
  have hmem : SameMemory s (s.seenInL1 w e) := sameMemory_iff.mpr (congrArg State.memory hsame :)
  exact ⟨State.wave?_modReleases (s := (s.seenInL1 w e).modBlock w.block fun x => { x with oq := x.oq ++ [e] }) hwave _,
    (State.block?_modBlock_self (s.seenInL1 w e) w.block fun x => { x with oq := x.oq ++ [e] }).trans (congrArg _ hblock), hmem⟩

/-- Bytes that fall in no window are in scratch. -/
theorem scratchPut_plain {s : State} {bi o : Nat} {b : Block} (hb : s.block? bi = some b) (ho : b.stashAt o = none) (bs : List Byte)
    (waves : List Nat) : s.scratchPut bi o bs waves = some (s.modBlock bi fun y => { y with scratch := y.scratch.write o bs }, []) := by
  simp only [State.scratchPut, hb, ho]

/-! ## SATISFY -/

section
variable {s : State} {wi n lane : Nat} {w : Wave} {b : Block} {p : Pend} {l : LoadOp} {x : LaneLoad} (hw : s.wave? wi = some w)
  (hb : s.block? w.block = some b) (hp : w.pend.find? (fun p => p.n == n) = some p) (hl : p.op = .load l)
  (hx : l.lanes.find? (fun x => x.lane == lane && x.got.isNone) = some x) (hm : w.maySatisfy p l.after l.width x.addr = true)
include hw hb hp hl hx hm

theorem exec_satisfy : exec (.satisfy wi n lane) s =
    .next (((s.beforeRead wi w b n l x).bind fun s1 => s1.satisfyLane wi n l x).getD s) := by
  simp only [exec, execSatisfy, hw, hp, hb, hl, hx, hm, Bool.not_true, Bool.false_eq_true, if_false]

theorem exec_satisfy_read {s1 s2 : State} (h1 : s.beforeRead wi w b n l x = some s1) (h2 : s1.satisfyLane wi n l x = some s2) :
    exec (.satisfy wi n lane) s = .next s2 := by
  rw [exec_satisfy hw hb hp hl hx hm, h1, Option.bind_some, h2, Option.getD_some]

end

/-- The state in which a load's bytes are served and noted, from the sources xs. -/
def State.readFrom (s : State) (wi : Nat) (w : Wave) (l : LoadOp) (x : LaneLoad) (xs : List (Byte × Src)) : State :=
  (s.served w x.addr l.cpol xs).noteRead wi w.block (s.asidOf w.part) x.addr xs

section
variable {s : State} {wi n : Nat} {w : Wave} {b : Block} {l : LoadOp} {x : LaneLoad} {xs : List (Byte × Src)}

/-- A load that promotes no block reads in the state as it is. -/
theorem beforeRead_plain (hl : l.promote = false) (hs : s.sources wi w b (l.readAt n x) 0 x.addr l.width = some xs) :
    s.beforeRead wi w b n l x = some s := by
  simp only [State.beforeRead, hs, hl, Bool.false_eq_true, false_and, if_false]

theorem satisfyLane_eq (hw : s.wave? wi = some w) (hb : s.block? w.block = some b)
    (hs : s.sources wi w b (l.readAt n x) 0 x.addr l.width = some xs) :
    s.satisfyLane wi n l x = some ((s.readFrom wi w l x xs).laneGot wi n x.lane (xs.map (·.1))) := by
  simp only [State.satisfyLane, hw, hb, hs, Option.map_some]
  rfl

end

/-- A load with a lane's bytes. -/
def LoadOp.gotLane (l : LoadOp) (lane : Nat) (bs : List Byte) : LoadOp :=
  { l with lanes := l.lanes.map fun x => if x.lane = lane then { x with got := some bs } else x }

/-- A load in progress, or its results once every lane has its bytes. -/
def LoadOp.progress (l : LoadOp) : PendOp := if ∀ y ∈ l.lanes, y.got.isSome = true then .ready l.writes else .load l

/-- What becomes of a wave's pending instructions when a lane of load n has its bytes. -/
def Pend.gotLane (n lane : Nat) (bs : List Byte) (p : Pend) : Pend :=
  if p.n ≠ n then p
  else match p.op with
    | .load l => { p with op := (l.gotLane lane bs).progress }
    | _ => p

theorem Pend.gotLane_load {n lane : Nat} {bs : List Byte} {p : Pend} {l : LoadOp} (hn : p.n = n) (hl : p.op = .load l) :
    p.gotLane n lane bs = { p with op := (l.gotLane lane bs).progress } := by
  rw [Pend.gotLane, if_neg (not_not_intro hn), hl]

theorem Pend.gotLane_n (n lane : Nat) (bs : List Byte) (p : Pend) : (p.gotLane n lane bs).n = p.n := by
  unfold Pend.gotLane
  split
  · rfl
  · split <;> rfl

/-- A lane's bytes arrive: the wave's pending loads have them, and its ordering records may follow. -/
theorem State.laneGot_wave {s : State} {wi : Nat} {w : Wave} (hw : s.wave? wi = some w) (n lane : Nat) (bs : List Byte) :
    ∃ v, (s.laneGot wi n lane bs).wave? wi = some v ∧ v.pend = w.pend.map (Pend.gotLane n lane bs) ∧ v.v = w.v ∧ v.s = w.s := by
  have hput : w.pend.map (Pend.gotLane n lane bs) = w.pend.map fun p =>
      if p.n ≠ n then p
      else match p.op with
        | .load l => { p with op :=
            if (l.gotLane lane bs).lanes.all (fun x => x.got.isSome) then .ready (l.gotLane lane bs).writes else .load (l.gotLane lane bs) }
        | _ => p := by
    refine List.map_congr_left fun p _ => ?_
    unfold Pend.gotLane LoadOp.progress
    simp only [List.all_eq_true]
  have hset : (s.setWave wi { w with pend := w.pend.map (Pend.gotLane n lane bs) }).wave? wi =
      some { w with pend := w.pend.map (Pend.gotLane n lane bs) } := State.wave?_setWave_self _ _ _
  have hafter (u : State) (h : (s.setWave wi { w with pend := w.pend.map (Pend.gotLane n lane bs) }).Settles u) :
      ∃ v, u.wave? wi = some v ∧ v.pend = w.pend.map (Pend.gotLane n lane bs) ∧ v.v = w.v ∧ v.s = w.s := by
    obtain ⟨v, hv, rs, as, hs, hh, rfl⟩ := h.waves wi _ hset
    exact ⟨_, hv, rfl, rfl, rfl⟩
  refine hafter _ ?_
  rw [hput]
  unfold State.laneGot
  simp only [hw]
  split
  · split
    · refine State.Settles.trans ?_ (State.settles_settleAcquires _ _)
      split
      · exact State.settles_acquireAt _ _ _ _
      · exact .refl _
    · exact .refl _
  · exact .refl _

/-- The load among the pending instructions once a lane has its bytes. -/
theorem find?_gotLane {ps : List Pend} {n lane : Nat} {bs : List Byte} {p : Pend} {l : LoadOp} (hp : ps.find? (fun p => p.n == n) = some p)
    (hl : p.op = .load l) : (ps.map (Pend.gotLane n lane bs)).find? (fun p => p.n == n) =
      some { p with op := (l.gotLane lane bs).progress } := by
  have hn : p.n = n := by simpa using List.find?_some hp
  rw [List.find?_map, show (fun p : Pend => p.n == n) ∘ Pend.gotLane n lane bs = fun p => p.n == n from
    funext fun p => congrArg (· == n) (Pend.gotLane_n n lane bs p), hp, Option.map_some, Pend.gotLane_load hn hl]

/-! ## STASH_FILL -/

theorem exec_stashFill {s : State} {b i k : Nat} {bk : Block} {w : Window} (hb : s.block? b = some bk) (hw : bk.window? i = some w)
    (hk : s.wantsLine b w k = true) : exec (.stashFill b i k) s = .next (s.fillFor b i k) := by
  simp only [exec, execStashFill, hb, Option.bind_some, hw, hk, if_true]

/-- A block whose window line has taken in the bytes of its home. -/
def Block.filledLine (x : Block) (i k : Nat) (w : Window) (bs : List (Byte × Nat)) : Block :=
  ({ x with scratch := x.scratch.write (w.off + 256 * k) (bs.map (·.1)) } : Block).modWindow i fun z => z.modLine k fun l =>
    { l with present := true, dirty := 0, faulted := false, parked := none, filled := bs.map (·.2), own := [], read := [] }

/-- A fill that is granted and finds its bytes: the line is filled, and the window owns it where none did. -/
theorem State.fillFor_granted {s : State} {b i k : Nat} {bk : Block} {w : Window} {r : Right} {bs : List (Byte × Nat)} (hb : s.block? b = some bk)
    (hw : bk.window? i = some w) (hp : (w.line k).present = false) (hparked : (w.line k).parked = none) (hk : k < w.lines.length)
    (ha : s.access bk.core (s.asidOf bk.part) (w.base + 256 * k) .read = .granted r)
    (hr : s.homeRead (s.asidOf bk.part) (w.base + 256 * k) 256 = some bs) : s.fillFor b i k =
      ((s.modBlock b fun y => y.filledLine i k w bs).homeTouch bk.part (s.asidOf bk.part) (w.base + 256 * k) 0).record (s.asidOf bk.part)
        (lineOf (w.base + 256 * k)) fun l => if l.owner.isSome then l else { l with owner := some (b, i) } := by
  simp only [State.fillFor, hb, hw, hparked, Option.isSome_none, Bool.false_eq_true, if_false, State.fillStash, hp, Nat.not_le.mpr hk, or_self, ha, hr]
  rfl

theorem State.block?_record (s : State) (asid line b : Nat) (f : L2Line → L2Line) : (s.record asid line f).block? b = s.block? b := rfl

theorem State.block?_homeTouch (s : State) (p asid va cpol b : Nat) : (s.homeTouch p asid va cpol).block? b = s.block? b :=
  congrArg (Table.find · b) (s.homeTouch_blocks p asid va cpol)

theorem Block.window?_modWindow {x : Block} {i : Nat} {w : Window} (hw : x.window? i = some w) {f : Window → Window} (hf : ∀ w, (f w).id = w.id) :
    (x.modWindow i f).window? i = some (f w) := by
  have hid : w.id = i := by simpa using List.find?_some hw
  have hcomp : ((fun w : Window => w.id == i) ∘ fun w => if w.id = i then f w else w) = fun w => w.id == i := by
    funext w
    dsimp only [Function.comp]
    split
    · rw [hf]
    · rfl
  have hfind : x.windows.find? (fun w => w.id == i) = some w := hw
  rw [Block.window?, Block.modWindow, List.find?_map, hcomp, hfind, Option.map_some, if_pos hid]

theorem Window.line_modLine {w : Window} {k : Nat} (hk : k < w.lines.length) (f : StashLine → StashLine) :
    (w.modLine k f).line k = f (w.line k) := by
  rw [Window.line, Window.modLine, setAt_eq_set]
  simp [nth, hk]

/-- The filled line of the block's window. -/
theorem Block.filledLine_spec {x : Block} {i k : Nat} {w : Window} (hw : x.window? i = some w) (hk : k < w.lines.length)
    (bs : List (Byte × Nat)) : ∃ w', (x.filledLine i k w bs).window? i = some w' ∧ (w'.line k).present = true ∧ (w'.line k).dirty = 0 ∧
      (x.filledLine i k w bs).scratch = x.scratch.write (w.off + 256 * k) (bs.map (·.1)) := by
  refine ⟨_, Block.window?_modWindow (x := { x with scratch := x.scratch.write (w.off + 256 * k) (bs.map (·.1)) }) hw fun _ => rfl, ?_, ?_, rfl⟩
  · rw [Window.line_modLine hk]
  · rw [Window.line_modLine hk]

/-! ## MW_DELIVERY -/

/-- A delivery belongs to a binding of a member. -/
def Delivery.isFor (d : Delivery) (m : MirrorBind) : Bool := m.id == d.id && m.use == d.use && decide (m.at_ < d.seq)

/-- The state without a delivery. -/
def State.deliveryGone (s : State) (src : Nat) (d : Delivery) : State := ({ s with deliveries := s.deliveries.erase d } : State).freeMirrors src

section
variable {s : State} {src dst : Nat} {d : Delivery} (hd : s.deliveries.find? (fun x => x.src == src && x.dst == dst) = some d)
  (hl : s.storeLeft d = true)
include hd hl

theorem exec_mwDelivery_writes {b : Block} {m : MirrorBind} {t : State} (hb : s.block? dst = some b) (hm : b.mirrors.find? d.isFor = some m)
    (hfit : d.off + d.bytes.length ≤ m.len) (ht : (s.deliveryGone src d).scratchWrite dst (m.off + d.off) d.bytes = some t) :
    exec (.mwDelivery src dst) s = .next t := by
  have hm' : b.mirrors.find? (fun m => m.id == d.id && m.use == d.use && decide (m.at_ < d.seq)) = some m := hm
  have ht' : (({ s with deliveries := s.deliveries.erase d } : State).freeMirrors src).scratchWrite dst (m.off + d.off) d.bytes = some t := ht
  simp only [exec, execMwDelivery, hd, hl, Bool.not_true, Bool.false_eq_true, if_false, hb, Option.elim_some, hm', Nat.not_lt.mpr hfit, ht',
    Option.getD_some]

theorem exec_mwDelivery_drops (hno : ∀ b, s.block? dst = some b → ∀ m, b.mirrors.find? d.isFor = some m → m.len < d.off + d.bytes.length) :
    exec (.mwDelivery src dst) s = .next (s.deliveryGone src d) := by
  simp only [exec, execMwDelivery, hd, hl, Bool.not_true, Bool.false_eq_true, if_false]
  cases hb : s.block? dst with
  | none => rfl
  | some b =>
    cases hm : b.mirrors.find? d.isFor with
    | none =>
      have hm' : b.mirrors.find? (fun m => m.id == d.id && m.use == d.use && decide (m.at_ < d.seq)) = none := hm
      simp only [Option.elim_some, hm']
      rfl
    | some m =>
      have hm' : b.mirrors.find? (fun m => m.id == d.id && m.use == d.use && decide (m.at_ < d.seq)) = some m := hm
      simp only [Option.elim_some, hm', if_pos (hno b hb m hm)]
      rfl

end

end Sys2Proof.Machine

namespace Sys2Proof

open Machine Safety

/-- Settles O53: an event changes its own entry, line or lane, and the releases that it completes change none of what is stated
(`State.Settles`). -/
theorem coreMemoryEvents : Obligations.CoreMemoryEvents := by
  unfold Obligations.CoreMemoryEvents
  dsimp only
  refine ⟨fun s wi line w b e hw hb he hd => ⟨fun hin hq => ?queue, fun bs hp => ⟨fun hin ho => ?scratch, fun r hin hr => ?put,
      fun x k off r hin hx hr => ?stash⟩, fun a xs hp hin hx => ⟨fun hv => ?same, fun r hv hr => ?new⟩⟩,
    fun s wi n lane w b p l x hw hb hp hl hx hm => ⟨fun s1 s2 => exec_satisfy_read hw hb hp hl hx hm, fun xs hpro hs => ?satisfy⟩,
    fun s b i k bk w hb hw hk => ⟨exec_stashFill hb hw hk, fun r bs hp hparked hlt ha hr => ?fill⟩,
    fun s src dst d hd hl => ⟨fun b m s2 hb hm hfit ht => exec_mwDelivery_writes hd hl hb hm hfit ht,
      fun hno => exec_mwDelivery_drops hd hl hno⟩⟩
  case queue =>
    obtain ⟨⟨rs, hw1⟩, hb1, hm⟩ := State.queueOut_spec (State.wave?_dropEntry hw e) (hb : (s.dropEntry wi e).block? w.block = some b) e
    obtain ⟨w', rv, hw', hwsb, hb', hm'⟩ := settled_view hw1 hb1 hm
    exact ⟨_, w', exec_drain_global hw hb he hd hin (drainGlobal_queue hq), hw', hwsb, by rw [hb']; rfl, hm'⟩
  case scratch =>
    have hput := scratchPut_plain (s := s.dropEntry wi e) hb ho bs [e.wave]
    obtain ⟨rs, hw1⟩ := State.wave?_modReleases (s := (s.dropEntry wi e).modBlock w.block fun y =>
      { y with scratch := y.scratch.write (e.addr - Config.aperture) bs }) (State.wave?_dropEntry hw e)
      fun r => { r with seqs := r.seqs.filter (· ≠ e.seq) }
    have hb1 := (State.block?_modBlock_self (s.dropEntry wi e) w.block fun y =>
      { y with scratch := y.scratch.write (e.addr - Config.aperture) bs }).trans (congrArg _ hb)
    obtain ⟨w', rv, hw', hwsb, hb', hm'⟩ := settled_view (s := s) hw1 hb1 ⟨rfl, rfl, rfl, rfl, rfl, rfl, rfl⟩
    exact ⟨_, w', exec_drain_scratch hw hb he hd hin (drainScratch_store hp hput), hw', hwsb,
      (congrArg (Option.map Block.scratch) hb' :), hm'⟩
  case put => exact exec_drain_scratch hw hb he hd hin (drainScratch_store hp hr)
  case stash => exact exec_drain_global hw hb he hd hin (drainGlobal_stash hp hx hr)
  case same => exact exec_drain_scratch hw hb he hd hin (drainScratch_atomic_same hp hb hx hv)
  case new => exact exec_drain_scratch hw hb he hd hin (drainScratch_atomic_new (s := s.dropEntry wi e) hp hb hx hv hr)
  case satisfy =>
    have hread : s.ServesRead (s.readFrom wi w l x xs) := (s.servesRead_served _ _ _ _).trans (State.servesRead_noteRead _ _ _ _ _ _)
    obtain ⟨w1, hw1, rs, es, rfl⟩ := hread.waves wi w hw
    have hlane : x.lane = lane := by
      have := List.find?_some hx
      simp only [Bool.and_eq_true, beq_iff_eq] at this
      exact this.1
    obtain ⟨v, hv, hpend, hvv, hvs⟩ := State.laneGot_wave hw1 n x.lane (xs.map (·.1))
    refine ⟨_, v, _, exec_satisfy_read hw hb hp hl hx hm (beforeRead_plain hpro hs) (satisfyLane_eq hw hb hs), hv,
      (congrArg _ hpend).trans (find?_gotLane hp hl), rfl, hvv, hvs, ?_⟩
    rw [hlane]
    rfl
  case fill =>
    have hb1 : (s.modBlock b fun y => y.filledLine i k w bs).block? b = some (bk.filledLine i k w bs) :=
      (State.block?_modBlock_self s b fun y => y.filledLine i k w bs).trans (congrArg _ hb)
    obtain ⟨w', hw', hpres, hdirty, hscr⟩ := Block.filledLine_spec hw hlt bs
    exact ⟨_, _, w', (exec_stashFill hb hw hk).trans (congrArg Host.Outcome.next (State.fillFor_granted hb hw hp hparked hlt ha hr)),
      (State.block?_record _ _ _ _ _).trans ((State.block?_homeTouch _ _ _ _ _ _).trans hb1), hw', hpres, hdirty, hscr⟩

end Sys2Proof
end


section
/-! PROOFS. The events of the homes that do not perform a write (08 Table 8.2, 18 R255): PORT, FILL_L1, FILL_COPY, EVICT, CONSUME and
WRITE_BACK. -/

namespace Sys2Proof.Machine

open Safety

/-! ## PORT -/

/-- The oldest write in transit through a port. -/
def State.oldestAt (s : State) (port : Port) : Option PortWrite :=
  s.portWrites.find? fun p => match port with | .fabric => p.tgt == 2 && s.reaches p.peer | .system => p.tgt == 1

/-- The releases that waited for a port's write go on. -/
def State.leftPort (s : State) (x : PortWrite) : State := (s.modReleases fun r => { r with ports := r.ports.filter (· ≠ x.seq) }).settleReleases

theorem exec_port {s : State} {port : Port} {x : PortWrite} (hx : s.oldestAt port = some x) :
    exec (.port port) s = .next ((({ s with portWrites := s.portWrites.erase x } : State).deliver x).leftPort x) := by
  unfold State.oldestAt at hx
  simp only [exec, execPort]
  cases port <;> (dsimp only at hx ⊢; rw [hx]; rfl)

theorem State.sameMemory_leftPort (s : State) (x : PortWrite) : SameMemory s (s.leftPort x) :=
  (State.settles_settleReleases (s.modReleases fun r => { r with ports := r.ports.filter (· ≠ x.seq) })).sameMemory

/-- A write reaches the host's memory, where no kick page is. -/
theorem deliver_host {s : State} {x : PortWrite} (hx : x.tgt = 1) (hbar : s.barAt x.addr = none) : s.deliver x =
    ((({ s with host := s.host.write x.addr x.bytes } : State).endSumsAt (portKey 1 0 x.addr) x.bytes.length).fire x.asid x.va x.bytes.length) := by
  simp only [State.deliver, hx, hbar, if_true, State.physWrite, Nat.one_ne_zero, if_false, Option.isSome_none, Bool.false_eq_true]

theorem deliver_peer {s : State} {x : PortWrite} (hx : x.tgt = 2) : s.deliver x =
    ((({ s with peers := s.peers.write (peerKey x.peer x.addr) x.bytes } : State).endSumsAt (portKey 2 x.peer x.addr) x.bytes.length).fire
      x.asid x.va x.bytes.length) := by
  simp only [State.deliver, hx, State.physWrite, OfNat.ofNat_ne_one, OfNat.ofNat_ne_zero, if_false]

/-! ## Doorbells through a port -/

theorem execDoorbell_next (p q : Nat) (v : BitVec 64) (s : State) : ∃ t, execDoorbell p q v s = .next t := by
  unfold execDoorbell
  dsimp only
  split
  · exact ⟨_, rfl⟩
  · split <;> exact ⟨_, rfl⟩

/-- A write of a whole doorbell is one piece. -/
theorem kickPieces_doorbell {q : Nat} (hq : q < 64) {bs : List Byte} (hbs : bs.length = 8) : kickPieces (8 * q) bs bs.length = [(8 * q, bs)] := by
  have hsize : kickSize (8 * q) = 8 := if_pos (.inl (by omega))
  have hne : bs.isEmpty = false := by
    cases bs with
    | nil => cases hbs
    | cons b bs => rfl
  have hk : 8 - 8 * q % 8 = 8 := by omega
  rw [hbs]
  simp only [kickPieces, hne, hsize, hk, Bool.false_eq_true, if_false, List.take_of_length_le (Nat.le_of_eq hbs),
    List.drop_of_length_le (Nat.le_of_eq hbs), List.isEmpty_nil, if_true]

theorem kickWrite_doorbell {p q : Nat} (hq : q < 64) {bs : List Byte} (hbs : bs.length = 8) {s t : State}
    (ht : execDoorbell p q (BitVec.ofNat 64 (leValue bs)) s = .next t) : s.kickWrite p (8 * q) bs = t := by
  have hact : kickAct p (8 * q) bs s = .next t := by
    have hlt : 8 * q < 0x200 := by omega
    have hmod : 8 * q % 8 = 0 := by omega
    have hdiv : 8 * q / 8 = q := by omega
    simp only [kickAct, hlt, hmod, hdiv, if_true, ht]
  rw [State.kickWrite, kickPieces_doorbell hq hbs]
  simp only [List.foldl_cons, List.foldl_nil, hact]

/-! ## Copies in L1 and in the sectors -/

theorem State.sameMemory_l1Room (s : State) (p core asid line ways : Nat) : SameMemory s (s.l1Room p core asid line ways) := by
  unfold State.l1Room
  dsimp only
  split <;> exact ⟨rfl, rfl, rfl, rfl, rfl, rfl, rfl⟩

/-- The block's copy of a line in L1, beside the lines that its owner keeps there. -/
theorem State.fillL1_granted {s : State} {b line : Nat} {bk : Block} {r : Right} {e : QuadEntry} {xs : List (Byte × Nat)} (hb : s.block? b = some bk)
    (he : (s.part bk.part).shareIn bk.core = some e) (hw : e.l1w ≠ 0)
    (ha : s.access bk.core (s.asidOf bk.part) (line * 64) .read = .granted r) (hr : r.attr = 0)
    (hx : s.fillBytes bk (s.asidOf bk.part) line = some xs) : s.fillL1 b line =
      some ((s.l1Room bk.part bk.core (s.asidOf bk.part) line e.l1w).modCore bk.core fun c =>
        { c with l1 := c.l1.filter (fun l => !(l.block == b && l.asid == s.asidOf bk.part && l.line == line)) ++
          [{ block := b, asid := s.asidOf bk.part, line := line, bytes := xs }] }) := by
  simp only [State.fillL1, hb, he, Option.elim_some, hw, ha, hr, hx, if_false, not_true_eq_false, ne_eq, Option.map_some]

theorem exec_fillL1 {s t : State} {b line : Nat} (h : s.fillL1 b line = some t) : exec (.fillL1 b line) s = .next t := by
  simp only [exec, execFillL1, h, Option.getD_some]

theorem exec_fillCopy {s : State} {sec asid line p prio : Nat} {r : Right} (hp : s.partOfAsid asid = some p)
    (hr : s.trans asid (line * 256) = some r) (hsec : sec < 6) (hout : s.homedOutside p asid line sec = true)
    (hprio : l2Prio 0 r.attr = some prio) : exec (.fillCopy sec asid line) s = .next (s.makeCopy p sec asid line prio) := by
  have hcond : sec < Config.sectors ∧ s.homedOutside p asid line sec = true := ⟨hsec, hout⟩
  simp only [exec, execFillCopy, hp, hr, hprio, if_pos hcond]

/-- The home of a line counts a sector's copy, unless the line is a peer's. -/
def State.countCopy (s : State) (sec asid line tgt : Nat) : State :=
  if tgt = 2 then s else s.record asid line fun l => { l with copies := insertNat sec l.copies }

/-- A copy is made in a way that is free or freed for it. -/
theorem makeCopy_made {s s1 : State} {p sec asid line prio sl way : Nat} {r : Right} {xs : List (Byte × Nat)}
    (hr : s.trans asid (line * 256) = some r) (htgt : r.tgt = 0 ∨ r.tgt = 2) (hsl : s.copySlice p sec line = some sl)
    (hpin : s.setPinned sl (lkey asid line) = false) (hx : s.homeRead asid (line * 256) 256 = some xs)
    (hway : (s.dropCopy sec (lkey asid line)).freeWay sl (setOf (lkey asid line))
      ((s.dropCopy sec (lkey asid line)).copyWays sl (setOf (lkey asid line))) = some (way, s1)) :
    s.makeCopy p sec asid line prio = State.countCopy { s1 with copies := s1.copies ++
      [{ sec := sec, asid := asid, line := line, bytes := xs, peer := r.tgt == 2, way := way, prio := prio, used := s.seq }] }
        sec asid line r.tgt := by
  have hcond : ¬ (r.tgt = 1 ∨ s.setPinned sl (lkey asid line) = true) := by
    rcases htgt with h | h <;> simp [h, hpin]
  simp only [State.makeCopy, hsl, hr, hx, if_neg hcond, hway]
  rfl

theorem State.sameMemory_countCopy (s : State) (sec asid line tgt : Nat) : SameMemory s (s.countCopy sec asid line tgt) := by
  unfold State.countCopy
  split <;> exact ⟨rfl, rfl, rfl, rfl, rfl, rfl, rfl⟩

theorem State.countCopy_copies (s : State) (sec asid line tgt : Nat) : (s.countCopy sec asid line tgt).copies = s.copies := by
  unfold State.countCopy
  split <;> rfl

theorem mem_insertNat (x : Nat) (xs : List Nat) : x ∈ insertNat x xs := by
  induction xs with
  | nil => exact List.mem_singleton.mpr rfl
  | cons y ys ih =>
    unfold insertNat
    split
    · exact List.mem_cons_self
    · split
      · next h => exact h ▸ List.mem_cons_self
      · exact List.mem_cons_of_mem _ ih

theorem State.countCopy_counts (s : State) (sec asid line : Nat) :
    ((s.countCopy sec asid line 0).line? asid line).any (fun l => l.copies.contains sec) = true := by
  have hput : (s.countCopy sec asid line 0).line? asid line =
      some { (s.line? asid line).getD L2Line.blank with copies := insertNat sec ((s.line? asid line).getD L2Line.blank).copies } :=
    Table.find_put_self _ _ _
  rw [hput]
  simpa using mem_insertNat sec _

/-- A record that goes is not found; another is as it was. -/
theorem State.sameMemory_tidyLine (s : State) (asid line : Nat) : SameMemory s (s.tidyLine asid line) := by
  unfold State.tidyLine
  split
  · exact ⟨rfl, rfl, rfl, rfl, rfl, rfl, rfl⟩
  · split <;> exact ⟨rfl, rfl, rfl, rfl, rfl, rfl, rfl⟩

theorem State.tidyLine_copies (s : State) (asid line : Nat) : (s.tidyLine asid line).copies = s.copies := by
  unfold State.tidyLine
  split
  · rfl
  · split <;> rfl

theorem State.tidyLine_invals (s : State) (asid line : Nat) : (s.tidyLine asid line).invals = s.invals := by
  unfold State.tidyLine
  split
  · rfl
  · split <;> rfl

theorem State.line?_tidyLine {s : State} {asid line : Nat} {l : L2Line} (h : (s.tidyLine asid line).line? asid line = some l) :
    s.line? asid line = some l := by
  unfold State.tidyLine at h
  split at h
  · exact h
  · split at h
    · cases (Table.find_drop_self s.lines (lkey asid line)).symm.trans h
    · exact h

theorem State.sameMemory_dropCopy (s : State) (sec k : Nat) : SameMemory s (s.dropCopy sec k) :=
  sameMemory_trans (t := ({ s with copies := s.copies.filter fun c => !(c.sec == sec && lkey c.asid c.line == k) } : State).modLine
    (keyAsid k) (keyLine k) fun l => { l with copies := l.copies.filter (· ≠ sec) }) ⟨rfl, rfl, rfl, rfl, rfl, rfl, rfl⟩
    (State.sameMemory_tidyLine _ _ _)

theorem State.dropCopy_copies (s : State) (sec k : Nat) :
    (s.dropCopy sec k).copies = s.copies.filter fun c => !(c.sec == sec && lkey c.asid c.line == k) := State.tidyLine_copies _ _ _

/-- With a way that nothing is in, nothing leaves for an allocation. -/
theorem State.freeWay_free {s t : State} {sl set v way : Nat} {ways : List Nat} (hv : v ∈ ways) (hfree : ∀ x ∈ s.occupants sl set, x.way ≠ v)
    (h : s.freeWay sl set ways = some (way, t)) : t = s.drawn := by
  have hmem : v ∈ ways.filter fun w => !(((s.occupants sl set).filter fun x => ways.contains x.way).any fun x => x.way == w) := by
    refine List.mem_filter.mpr ⟨hv, ?_⟩
    rw [Bool.not_eq_true', List.any_eq_false]
    exact fun x hx => by simpa using hfree x (List.mem_of_mem_filter hx)
  unfold State.freeWay at h
  dsimp only at h
  split at h
  · cases h
    rfl
  · next hnone => rw [hnone] at hmem; cases hmem

/-! ## EVICT -/

/-- A home line that has been evicted holds nothing. -/
theorem State.line?_evictHome {s : State} {asid line : Nat} {l : L2Line} (h : (s.evictHome asid line).line? asid line = some l) :
    l.valid = 0 ∧ l.dirty = 0 ∧ l.way = none := by
  have hline := State.line?_tidyLine h
  rw [State.line?_modLine] at hline
  obtain ⟨l0, -, rfl⟩ := Option.map_eq_some_iff.mp hline
  exact ⟨rfl, rfl, rfl⟩

theorem State.Settles.line? {s t : State} (h : s.Settles t) {asid line : Nat} {l : L2Line} (hl : t.line? asid line = some l) :
    ∃ l0 cs v, s.line? asid line = some l0 ∧ l = { l0 with copies := cs, valid := v } ∧ (v = l0.valid ∨ v = l0.valid &&& l0.dirty) := by
  cases hs : s.line? asid line with
  | none => cases (h.noLines _ hs).symm.trans hl
  | some l0 =>
    obtain ⟨cs, v, ht, hv⟩ := h.lines _ l0 hs
    exact ⟨l0, cs, v, rfl, Option.some.inj (hl.symm.trans ht), hv⟩

theorem Memory.get_write {m : Memory} (hm : m.wf = true) (o : Nat) (bs : List Byte) (a : Nat) :
    (m.write o bs).get a = if o ≤ a ∧ a < o + bs.length then nth bs (a - o) 0 else m.get a := by
  induction bs generalizing m o with
  | nil =>
    have hno : ¬ (o ≤ a ∧ a < o + ([] : List Byte).length) := by simp
    rw [if_neg hno]
    rfl
  | cons b bs ih =>
    rw [Memory.write, ih (Memory.set_wf m o b hm)]
    by_cases ha : a = o
    · subst ha
      simp [nth, Memory.get_set_self m a b hm]
    · rw [Memory.get_set_other m o a b hm ha]
      by_cases hin : o + 1 ≤ a ∧ a < o + 1 + bs.length
      · have hin' : o ≤ a ∧ a < o + (b :: bs).length := ⟨by omega, by rw [List.length_cons]; omega⟩
        obtain ⟨j, hj⟩ : ∃ j, a - o = j + 1 := ⟨a - o - 1, by omega⟩
        have hj' : a - (o + 1) = j := by omega
        rw [if_pos hin, if_pos hin', hj, hj']
        simp [nth]
      · have hno : ¬ (o ≤ a ∧ a < o + (b :: bs).length) := by
          rw [List.length_cons]
          omega
        rw [if_neg hin, if_neg hno]

/-- A line of the SRAM cache with one more sector written to GDDR7. -/
def sectorOut (bytes : List Byte) (line : Nat) (m : Memory) (k : Nat) : Memory := m.write (256 * line + 64 * k) ((bytes.drop (64 * k)).take 64)

/-- Sectors of a line reach GDDR7, the others' bytes there stay. -/
theorem get_sectorsOut {bytes : List Byte} (hb : bytes.length = 256) {line a : Nat} (ha : a / 256 = line) (ks : List Nat) (hks : ∀ k ∈ ks, k < 4)
    {m : Memory} (hm : m.wf = true) : (ks.foldl (sectorOut bytes line) m).get a =
      if a / 64 % 4 ∈ ks then nth bytes (a % 256) 0 else m.get a := by
  induction ks generalizing m with
  | nil => simp
  | cons k ks ih =>
    have hk : k < 4 := hks k List.mem_cons_self
    have hwf : (sectorOut bytes line m k).wf = true := Memory.write_wf _ _ _ hm
    rw [List.foldl_cons, ih (fun j hj => hks j (List.mem_cons_of_mem _ hj)) hwf]
    by_cases hmem : a / 64 % 4 ∈ ks
    · rw [if_pos hmem, if_pos (List.mem_cons_of_mem _ hmem)]
    · rw [if_neg hmem, sectorOut, Memory.get_write hm]
      have hlen : ((bytes.drop (64 * k)).take 64).length = 64 := by
        rw [List.length_take, List.length_drop]
        omega
      rw [hlen]
      by_cases hak : a / 64 % 4 = k
      · have hin : 256 * line + 64 * k ≤ a ∧ a < 256 * line + 64 * k + 64 := by omega
        have hidx : a - (256 * line + 64 * k) = a % 64 := by omega
        have hpos : 64 * k + a % 64 = a % 256 := by omega
        rw [if_pos hin, if_pos (List.mem_cons.mpr (.inl hak)), hidx, nth, List.getElem?_take, if_pos (Nat.mod_lt _ (by decide)),
          List.getElem?_drop, hpos, nth]
      · have hno : ¬ (256 * line + 64 * k ≤ a ∧ a < 256 * line + 64 * k + 64) := by omega
        rw [if_neg hno, if_neg (by simp [hak, hmem])]

theorem exec_evict_sram {s : State} {line : Nat} {l : SramLine} (hl : s.sram.find line = some l) : exec (.evict (.sram line)) s =
    .next { s with pt := ([0, 1, 2, 3].filter fun k => l.dirty.getLsbD k).foldl (sectorOut l.bytes line) s.pt, sram := s.sram.drop line } := by
  simp only [exec, execEvict, State.ptEvict, hl]
  rfl

/-- The instruction cache of a core without a bundle. -/
def State.dropBundle (s : State) (c k : Nat) : State := { s with cores := s.cores.modify c fun x => { x with icache := x.icache.drop k } }

theorem State.dropBundle_spec (s : State) (c k : Nat) : ((s.dropBundle c k).core c).icache.find k = none := by
  unfold State.core State.dropBundle
  dsimp only
  rw [Table.find_modify_self]
  cases s.cores.find c with
  | none => rfl
  | some x => exact Table.find_drop_self _ _

/-! ## CONSUME -/

theorem State.sameMemory_consumeWhere (s : State) (f : Inval → Bool) : SameMemory s (s.consumeWhere f) := (s.settles_consumeWhere f).sameMemory

/-- A message is consumed: it is gone, and the copy that it names. -/
theorem consume_spec {s t : State} {m : Inval} (hm : m ∈ s.invals) (ht : ((s.consumeWhere fun x => x == m).tidyLine m.asid m.line).Settles t) :
    (∀ i ∈ t.invals, i ∈ s.invals.erase m) ∧
      ∀ x ∈ t.copies, x ∈ s.copies ∧ ¬(x.sec = m.sec ∧ x.asid = m.asid ∧ x.line = m.line) := by
  refine ⟨fun i hi => ?_, fun x hx => ?_⟩
  · have hi' := ht.invals hi
    rw [State.tidyLine_invals] at hi'
    obtain ⟨hmem, hne⟩ := List.mem_filter.mp hi'
    exact (List.mem_erase_of_ne (by simpa using hne)).mpr hmem
  · have hx' := ht.copies hx
    rw [State.tidyLine_copies] at hx'
    obtain ⟨hmem, hkeep⟩ := List.mem_filter.mp hx'
    refine ⟨hmem, fun ⟨h1, h2, h3⟩ => ?_⟩
    rw [Bool.not_eq_true', List.any_eq_false] at hkeep
    exact hkeep m (List.mem_filter.mpr ⟨hm, beq_self_eq_true m⟩) (by simp [h1, h2, h3])

/-! ## WRITE_BACK -/

theorem exec_writeBack_home {s : State} {asid line k : Nat} {l : L2Line} (hl : s.line? asid line = some l) (hk : k < 4)
    (hd : l.dirty.getLsbD k = true) (hp : l.pinned = false ∨ ∃ e ∈ s.waves, ∃ r ∈ e.2.releases, (lkey asid line, k) ∈ r.l2) :
    exec (.writeBack (.home asid line k)) s = .next (s.sectorDone asid line k).settleReleases := by
  have hcond : ¬ (4 ≤ k ∨ (!(l.dirty.getLsbD k)) = true ∨ l.pinned = true ∧
      (!(s.waves.any fun e => e.2.releases.any fun r => r.l2.contains (lkey asid line, k))) = true) := by
    rintro (h | h | ⟨hpin, hno⟩)
    · omega
    · simp [hd] at h
    · rcases hp with hp | ⟨e, he, r, hr, hmem⟩
      · exact Bool.false_ne_true (hp.symm.trans hpin)
      · rw [Bool.not_eq_true', List.any_eq_false] at hno
        refine hno e he (List.any_eq_true.mpr ⟨r, hr, by simpa using hmem⟩)
  simp only [exec, execWriteBack, hl]
  rw [if_neg hcond]

/-- A sector goes to the physical tiers: its bytes are there, and it is clean. -/
theorem State.sectorBack_eq {s : State} {asid line k : Nat} {l : L2Line} (hl : s.line? asid line = some l) (hd : l.dirty.getLsbD k = true) :
    s.sectorBack asid line k = (s.ptWrite (l.pa + 64 * k) (s.home.read (gkey asid (line * 256 + 64 * k)) 64)).modLine asid line fun l =>
      { l with dirty := l.dirty &&& ~~~(1#4 <<< k), writers := l.writers.filter fun x => x.1 != k } := by
  simp only [State.sectorBack, hl, hd, Bool.not_true, Bool.false_eq_true, if_false]

/-- A write to the physical tiers changes nothing beside them. -/
theorem State.ptWrite_frame (s : State) (a : Nat) (xs : List Byte) : ({ s.ptWrite a xs with pt := s.pt, sram := s.sram } : State) = s := by
  induction xs generalizing s a with
  | nil => rfl
  | cons x xs ih =>
    have hput : ({ s.ptPut a x with pt := s.pt, sram := s.sram } : State) = s := by
      unfold State.ptPut
      split <;> rfl
    exact (congrArg (fun u : State => ({ u with pt := s.pt, sram := s.sram } : State)) (ih (s.ptPut a x) (a + 1)) :).trans hput

/-- A sector that goes to the physical tiers changes no other memory. -/
theorem State.sectorDone_memory {s : State} {asid line k : Nat} {l : L2Line} (hl : s.line? asid line = some l)
    (hd : l.dirty.getLsbD k = true) :
    SameMemory (s.ptWrite (l.pa + 64 * k) (s.home.read (gkey asid (line * 256 + 64 * k)) 64)) (s.sectorDone asid line k) := by
  unfold State.sectorDone
  rw [State.sectorBack_eq hl hd]
  generalize s.ptWrite (l.pa + 64 * k) (s.home.read (gkey asid (line * 256 + 64 * k)) 64) = u
  exact ⟨rfl, rfl, rfl, rfl, rfl, rfl, rfl⟩

theorem State.ptWrite_home (s : State) (a : Nat) (xs : List Byte) : (s.ptWrite a xs).home = s.home :=
  (congrArg State.home (s.ptWrite_frame a xs) :)

theorem State.ptWrite_host (s : State) (a : Nat) (xs : List Byte) : (s.ptWrite a xs).host = s.host :=
  (congrArg State.host (s.ptWrite_frame a xs) :)

theorem State.ptWrite_peers (s : State) (a : Nat) (xs : List Byte) : (s.ptWrite a xs).peers = s.peers :=
  (congrArg State.peers (s.ptWrite_frame a xs) :)

/-- A sector that has been written back is clean. -/
theorem clean_bit (d : BitVec 4) {k : Nat} (hk : k < 4) : (d &&& ~~~(1#4 <<< k)).getLsbD k = false := by
  simp [hk]

theorem exec_writeBack_stash {s s1 : State} {b i k j : Nat} {bk : Block} (hb : s.block? b = some bk)
    (hp : ∀ w, bk.window? i = some w → (w.line k).parked = none) (hs : s.stashBack b i k j = .done s1) :
    exec (.writeBack (.stash b i k j)) s = .next (s1.settleReleases.tryEndBlock b) := by
  have hno : ((bk.window? i).any fun w => (w.line k).parked.isSome) = false := by
    cases hw : bk.window? i with
    | none => rfl
    | some w => simp [hp w hw]
  simp only [exec, execWriteBack, hb, hno, Bool.false_eq_true, if_false, hs]

end Sys2Proof.Machine
end


section
/-! PROOFS. What translations and the bytes behind them depend on (18 R253 to R255, 21 R273). -/

namespace Sys2Proof.Machine

open Safety

/-- What translation and the bytes behind it depend on, besides partitions. -/
def State.space (s : State) : State :=
  { State.reset with tlb := s.tlb, roots := s.roots, bars := s.bars, pt := s.pt, sram := s.sram, host := s.host, peers := s.peers
                     portWrites := s.portWrites, module := { Module.reset with ports := s.module.ports } }

/-- Two states translate alike, and the bytes behind translations are the same: the partitions differ in their dirty bits and their counts of
bypasses at most. -/
structure State.SameSpace (s t : State) : Prop where
  parts : ∀ p, ∃ d o n, t.part p = { s.part p with dirty := d, dirtyOvf := o, bypass := n }
  asids : ∀ a, t.partOfAsid a = s.partOfAsid a
  space : t.space = s.space

theorem State.SameSpace.of_parts {s t : State} (hp : t.parts = s.parts) (h : t.space = s.space) : s.SameSpace t where
  parts p := ⟨(s.part p).dirty, (s.part p).dirtyOvf, (s.part p).bypass, by rw [State.part, hp]; rfl⟩
  asids a := by rw [State.partOfAsid, hp]; rfl
  space := h

theorem State.SameSpace.trans {s t u : State} (h : s.SameSpace t) (k : t.SameSpace u) : s.SameSpace u where
  parts p := by
    obtain ⟨d, o, n, ht⟩ := h.parts p
    obtain ⟨d', o', n', hu⟩ := k.parts p
    exact ⟨d', o', n', by rw [hu, ht]⟩
  asids a := (k.asids a).trans (h.asids a)
  space := k.space.trans h.space

section
variable {s t : State} (h : s.SameSpace t)
include h

theorem State.SameSpace.ptByte (a : Nat) : t.ptByte a = s.ptByte a := by
  have hpt : t.pt = s.pt := (congrArg State.pt h.space :)
  have hsram : t.sram = s.sram := (congrArg State.sram h.space :)
  simp only [State.ptByte, hpt, hsram]

theorem State.SameSpace.ptRead (a n : Nat) : t.ptRead a n = s.ptRead a n := by
  induction n generalizing a with
  | zero => rfl
  | succ n ih => rw [State.ptRead, State.ptRead, h.ptByte, ih]

theorem State.SameSpace.barAt (a : Nat) : t.barAt a = s.barAt a := by
  have hbars : t.bars = s.bars := (congrArg State.bars h.space :)
  simp only [State.barAt, hbars]

theorem State.SameSpace.kickRead (p a : Nat) : t.kickRead p a = s.kickRead p a := by
  obtain ⟨d, o, n, hp⟩ := h.parts p
  unfold State.kickRead
  rw [hp]
  rfl

theorem State.SameSpace.hostByte (a : Nat) : t.hostByte a = s.hostByte a := by
  have hhost : t.host = s.host := (congrArg State.host h.space :)
  simp only [State.hostByte, h.barAt, h.kickRead, hhost]

theorem State.SameSpace.physByte (tgt peer a : Nat) : t.physByte tgt peer a = s.physByte tgt peer a := by
  have hpeers : t.peers = s.peers := (congrArg State.peers h.space :)
  have hport : t.portWrites = s.portWrites := (congrArg State.portWrites h.space :)
  simp only [State.physByte, State.inTransit, h.ptByte, h.hostByte, hpeers, hport]

theorem State.SameSpace.physRead (tgt peer a n : Nat) : t.physRead tgt peer a n = s.physRead tgt peer a n := by
  induction n generalizing a with
  | zero => rfl
  | succ n ih => rw [State.physRead, State.physRead, h.physByte, ih]

theorem State.SameSpace.kickBusy (a : Nat) : t.kickBusy a = s.kickBusy a := by
  have hport : t.portWrites = s.portWrites := (congrArg State.portWrites h.space :)
  simp only [State.kickBusy, h.barAt, hport]

theorem State.SameSpace.reaches (peer : Nat) : t.reaches peer = s.reaches peer := by
  have hports : t.module.ports = s.module.ports := (congrArg (fun x : State => x.module.ports) h.space :)
  simp only [State.reaches, State.pzPort, hports]

theorem State.SameSpace.entry (p : Nat) : (t.part p).entry = (s.part p).entry := by
  obtain ⟨d, o, n, hp⟩ := h.parts p
  rw [hp]

theorem State.SameSpace.regions (p : Nat) : (t.part p).regions = (s.part p).regions := by
  obtain ⟨d, o, n, hp⟩ := h.parts p
  rw [hp]

theorem State.SameSpace.stage2 (p ipa : Nat) : t.stage2 p ipa = s.stage2 p ipa := by
  simp only [State.stage2, State.ptLe, h.ptRead, h.entry, h.reaches]

theorem State.SameSpace.walk (p asid va : Nat) : t.walk p asid va = s.walk p asid va := by
  have hroots : t.roots = s.roots := (congrArg State.roots h.space :)
  simp only [State.walk, hroots, h.stage2, h.physRead]

theorem State.SameSpace.trans? (asid va : Nat) : t.trans asid va = s.trans asid va := by
  have htlb : t.tlb = s.tlb := (congrArg State.tlb h.space :)
  have hopen : t.open? = s.open? := funext fun r => by simp only [State.open?, h.reaches]
  have hwalk : t.walk = s.walk := funext fun p => funext fun asid => funext fun va => h.walk p asid va
  unfold State.trans
  rw [htlb, h.asids, hopen, hwalk]

theorem State.SameSpace.shadowDue (asid line : Nat) : t.shadowDue asid line = s.shadowDue asid line := by
  simp only [State.shadowDue, h.asids, h.regions, h.trans?]

end

/-- A translation is that of the address's granule. -/
theorem State.trans_granule (s : State) (asid : Nat) {a b : Nat} (h : a / 65536 = b / 65536) : s.trans asid a = s.trans asid b := by
  simp only [State.trans, rkey, State.walk, h]

theorem lineOf_granule (a : Nat) : lineOf a * 256 / 65536 = a / 65536 := by
  unfold lineOf
  omega

/-- A page that is not resident is not covered by a region (17 R239). -/
theorem shadowDue_elsewhere {s : State} {asid va p : Nat} {r : Right} (hp : s.partOfAsid asid = some p)
    (hr : s.trans asid va = some r) (ht : r.tgt ≠ 0) :
    s.shadowDue asid (lineOf va) = none := by
  have hline : s.trans asid (lineOf va * 256) = some r := (s.trans_granule asid (lineOf_granule va)).trans hr
  have hany : ((s.trans asid (lineOf va * 256)).any fun r => r.tgt != 0) = true := by simpa [hline] using ht
  unfold State.shadowDue
  rw [hp]
  dsimp only
  split
  · rfl
  · rw [if_pos hany]

/-! ## A partition's dirty bits -/

/-- A record that is put at a key, of the same kind as that which stood there, or of no kind where none did, leaves the first key of that
kind. -/
theorem Table.find?_key_put {α : Type} (f : α → Bool) (t : Table α) (i : Nat) (x d : α) (hd : f d = false) (hx : f x = f ((t.find i).getD d)) :
    ((t.put i x).find? fun e => f e.2).map (·.1) = (t.find? fun e => f e.2).map (·.1) := by
  induction t with
  | nil =>
    have hx' : f x = false := hx.trans hd
    simp [Table.put, hx']
  | cons e t ih =>
    obtain ⟨k, y⟩ := e
    by_cases hlt : i < k
    · have hne : i ≠ k := by omega
      simp only [Table.find, hne, hlt, if_false, if_true, Option.getD_none, hd] at hx
      simp [Table.put, hlt, hx]
    · by_cases heq : i = k
      · subst heq
        simp only [Table.find, if_true, Option.getD_some] at hx
        simp only [Table.put, Nat.lt_irrefl, if_false, if_true, List.find?_cons, hx]
        cases f y <;> rfl
      · simp only [Table.find, heq, hlt, if_false] at hx
        simp only [Table.put, hlt, heq, if_false, List.find?_cons]
        cases f y
        · exact ih hx
        · rfl

/-- A partition's dirty bits and its count of bypasses say nothing of where an ASID belongs. -/
theorem State.sameSpace_modPart (s : State) (p : Nat) (f : Part → Part)
    (hf : ∀ x, ∃ d o n, f x = { x with dirty := d, dirtyOvf := o, bypass := n }) :
    s.SameSpace (s.modPart p f) where
  parts q := by
    rw [State.part_modPart]
    split
    · next h =>
      subst h
      exact hf _
    · exact ⟨(s.part q).dirty, (s.part q).dirtyOvf, (s.part q).bypass, rfl⟩
  asids a := by
    obtain ⟨d, o, n, hx⟩ := hf (s.part p)
    have hfirst := Table.find?_key_put (fun x : Part => x.state != 2 && x.entry.hasAsid a) s.parts p (f (s.part p)) Part.reset
      rfl (by rw [hx]; rfl)
    have hsecond := Table.find?_key_put (fun x : Part => x.entry != PartEntry.zero && x.entry.hasAsid a) s.parts p (f (s.part p)) Part.reset
      rfl (by rw [hx]; rfl)
    simp only [State.partOfAsid, Option.map_or]
    exact congrArg₂ Option.or hfirst hsecond
  space := rfl

theorem State.sameSpace_markDirty (s : State) (asid va : Nat) : s.SameSpace (s.markDirty asid va) := by
  unfold State.markDirty
  split
  · split
    · exact .of_parts rfl rfl
    · exact s.sameSpace_modPart _ _ fun x => ⟨_, _, x.bypass, rfl⟩
  · exact .of_parts rfl rfl

end Sys2Proof.Machine
end


section
/-! PROOFS. A store's bytes at their home (06 R117, R121 to R123, 08 Table 8.2): the sectors that are fetched, the bytes written, and what of
the machine follows. -/

namespace Sys2Proof.Machine

open Safety

/-! ## Sectors and addresses -/

theorem bit_or_shift (m : BitVec 4) {j k : Nat} (hj : j < 4) : (m ||| (1#4 <<< k)).getLsbD j = (m.getLsbD j || decide (j = k)) := by
  by_cases h : j = k
  · subst h
    simp [hj]
  · have hbit : (1#4 <<< k).getLsbD j = false := by simp; omega
    simp [hbit, h]

/-- The sectors that bytes of a line meet. -/
theorem sectorMask_bit (a n : Nat) {j : Nat} (hj : j < 4) :
    (sectorMask a n).getLsbD j = decide (a % 256 < 64 * (j + 1) ∧ 64 * j < a % 256 + n) := by
  have hfold : ∀ (ks : List Nat) (m : BitVec 4),
      (ks.foldl (fun m k => if a % 256 < 64 * (k + 1) ∧ 64 * k < a % 256 + n then m ||| (1#4 <<< k) else m) m).getLsbD j =
        (m.getLsbD j || decide (j ∈ ks ∧ a % 256 < 64 * (j + 1) ∧ 64 * j < a % 256 + n)) := by
    intro ks
    induction ks with
    | nil => simp
    | cons k ks ih =>
      intro m
      rw [List.foldl_cons, ih]
      by_cases hk : a % 256 < 64 * (k + 1) ∧ 64 * k < a % 256 + n
      · rw [if_pos hk, bit_or_shift m hj]
        by_cases hjk : j = k
        · subst hjk
          simp [hk]
        · simp [hjk]
      · rw [if_neg hk]
        by_cases hjk : j = k
        · subst hjk
          simp [hk]
        · simp [hjk]
  have hmem : j ∈ [0, 1, 2, 3] := by
    simp only [List.mem_cons, List.not_mem_nil, or_false]
    omega
  rw [sectorMask, hfold]
  simp [hmem]

theorem sectorIn_lt (a : Nat) : sectorIn a < 4 := Nat.mod_lt _ (by decide)

/-- A byte of a store that lies in one line is in that line, in a sector that the store meets. -/
theorem store_byte {va n i : Nat} (hfit : va % 256 + n ≤ 256) (hi : i < n) :
    lineOf (va + i) = lineOf va ∧ (sectorMask va n).getLsbD (sectorIn (va + i)) = true := by
  refine ⟨by unfold lineOf; omega, ?_⟩
  rw [sectorMask_bit _ _ (sectorIn_lt _), decide_eq_true_eq]
  unfold sectorIn
  omega

theorem gkey_add (asid a i : Nat) : gkey asid (a + i) = gkey asid a + i := (Nat.add_assoc _ _ _).symm

theorem ptRead_nth (s : State) (a n : Nat) {i : Nat} (hi : i < n) (d : Byte) : nth (s.ptRead a n) i d = s.ptByte (a + i) := by
  induction n generalizing a i with
  | zero => omega
  | succ n ih =>
    cases i with
    | zero => simp [nth, State.ptRead]
    | succ i =>
      have hrec : nth (s.ptRead a (n + 1)) (i + 1) d = nth (s.ptRead (a + 1) n) i d := by simp [nth, State.ptRead]
      rw [hrec, ih _ (by omega)]
      exact congrArg _ (by omega)

theorem ptRead_length (s : State) (a n : Nat) : (s.ptRead a n).length = n := by
  induction n generalizing a with
  | zero => rfl
  | succ n ih => rw [State.ptRead, List.length_cons, ih]

/-! ## Sectors that are fetched -/

/-- t is s with those sectors of a line in L2 fetched that f names and that were not valid. -/
structure SectorsFetched (s t : State) (asid line : Nat) (l : L2Line) (f : Nat → Bool) : Prop where
  record : ∃ v, t.line? asid line = some { l with valid := v } ∧ ∀ j < 4, v.getLsbD j = (l.valid.getLsbD j || f j)
  home : ∀ a, lineOf a = line → t.home.get (gkey asid a) =
    if (f (sectorIn a) && !(l.valid.getLsbD (sectorIn a))) = true then s.ptByte (l.pa + a % 256) else s.home.get (gkey asid a)
  far : ∀ x, (x < gkey asid (line * 256) ∨ gkey asid (line * 256) + 256 ≤ x) → t.home.get x = s.home.get x
  others : ∀ k, k ≠ lkey asid line → t.lines.find k = s.lines.find k
  wf : t.home.wf = true
  frame : ({ t with home := s.home, lines := s.lines } : State) = s

section
variable {s t u : State} {asid line : Nat} {l : L2Line}

theorem SectorsFetched.refl (hl : s.line? asid line = some l) (hwf : s.home.wf = true) : SectorsFetched s s asid line l fun _ => false where
  record := ⟨l.valid, hl, fun _ _ => (Bool.or_false _).symm⟩
  home _ _ := rfl
  far _ _ := rfl
  others _ _ := rfl
  wf := hwf
  frame := rfl

theorem SectorsFetched.ptByte {f : Nat → Bool} (h : SectorsFetched s t asid line l f) (a : Nat) : t.ptByte a = s.ptByte a :=
  (congrArg (State.ptByte · a) h.frame :)

/-- A later fetch in a line whose record differs in its valid sectors. -/
theorem SectorsFetched.trans {f g : Nat → Bool} (h : SectorsFetched s t asid line l f)
    (k : ∀ v, t.line? asid line = some { l with valid := v } → SectorsFetched t u asid line { l with valid := v } g) :
    SectorsFetched s u asid line l fun j => f j || g j := by
  obtain ⟨v, hv, hbits⟩ := h.record
  have k := k v hv
  obtain ⟨v', hv', hbits'⟩ := k.record
  refine ⟨⟨v', hv', fun j hj => ?_⟩, fun a ha => ?_, fun x hx => (k.far x hx).trans (h.far x hx),
    fun i hi => (k.others i hi).trans (h.others i hi), k.wf,
    (congrArg (fun x : State => ({ x with home := s.home, lines := s.lines } : State)) k.frame :).trans h.frame⟩
  · rw [hbits' j hj, ← Bool.or_assoc, ← hbits j hj]
  · rw [k.home a ha, h.home a ha, h.ptByte, show (({ l with valid := v } : L2Line).valid) = v from rfl, hbits _ (sectorIn_lt a)]
    cases f (sectorIn a) <;> cases g (sectorIn a) <;> cases l.valid.getLsbD (sectorIn a) <;> rfl

theorem SectorsFetched.congr {f g : Nat → Bool} (h : SectorsFetched s t asid line l f) (hfg : ∀ j < 4, f j = g j) :
    SectorsFetched s t asid line l g := by
  obtain ⟨v, hv, hbits⟩ := h.record
  exact ⟨⟨v, hv, fun j hj => (hbits j hj).trans (by rw [hfg j hj])⟩, fun a ha => (h.home a ha).trans (by rw [hfg _ (sectorIn_lt a)]), h.far,
    h.others, h.wf, h.frame⟩

/-- The bytes of a sector that is written into the home of a line. -/
theorem get_sectorIn {m : Memory} (hm : m.wf = true) (s : State) (asid pa : Nat) {a k : Nat} (hk : k < 4) :
    (m.write (gkey asid (lineOf a * 256 + 64 * k)) (s.ptRead (pa + 64 * k) 64)).get (gkey asid a) =
      if sectorIn a = k then s.ptByte (pa + a % 256) else m.get (gkey asid a) := by
  rw [Memory.get_write hm, ptRead_length]
  by_cases hak : sectorIn a = k
  · have hsplit : a = lineOf a * 256 + 64 * k + a % 64 := by
      unfold sectorIn lineOf at *
      omega
    have hkey : gkey asid a = gkey asid (lineOf a * 256 + 64 * k) + a % 64 := by
      rw [← gkey_add]
      exact congrArg _ hsplit
    have hlt : a % 64 < 64 := Nat.mod_lt _ (by decide)
    have hpa : pa + 64 * k + a % 64 = pa + a % 256 := by
      unfold sectorIn at hak
      omega
    rw [if_pos hak, hkey, if_pos ⟨Nat.le_add_right _ _, Nat.add_lt_add_left hlt _⟩, Nat.add_sub_cancel_left, ptRead_nth _ _ _ hlt, hpa]
  · rw [if_neg hak, if_neg]
    unfold sectorIn gkey lineOf at *
    omega

/-- A sector of a line leaves the homes of other lines. -/
theorem get_sectorFar {m : Memory} (hm : m.wf = true) {asid line x : Nat} {k : Nat} (hk : k < 4) {bs : List Byte} (hbs : bs.length = 64)
    (hx : x < gkey asid (line * 256) ∨ gkey asid (line * 256) + 256 ≤ x) :
    (m.write (gkey asid (line * 256 + 64 * k)) bs).get x = m.get x := by
  rw [Memory.get_write hm, hbs, gkey_add, if_neg]
  omega

variable (hl : s.line? asid line = some l)
include hl

theorem fetchSector_valid {k : Nat} (hv : l.valid.getLsbD k = true) : s.fetchSector asid line k = s := by
  simp only [State.fetchSector, hl, hv, true_or, if_true]

variable (hway : l.way.isSome = true)
include hway

theorem fetchSector_fetches {k : Nat} (hv : ¬ l.valid.getLsbD k = true) : s.fetchSector asid line k = { s with
    home := s.home.write (gkey asid (line * 256 + 64 * k)) (s.ptRead (l.pa + 64 * k) 64)
    lines := s.lines.put (lkey asid line) { l with valid := l.valid ||| (1#4 <<< k) } } := by
  simp only [State.fetchSector, hl, hv, Option.isNone_eq_false_iff.mpr hway, Bool.false_eq_true, or_self, if_false]

variable (hwf : s.home.wf = true)
include hwf

/-- One sector is fetched unless it is valid. -/
theorem sectorsFetched_fetchSector {k : Nat} (hk : k < 4) : SectorsFetched s (s.fetchSector asid line k) asid line l (· == k) := by
  have hbits : ∀ j < 4, (l.valid ||| (1#4 <<< k)).getLsbD j = (l.valid.getLsbD j || j == k) := fun j hj => bit_or_shift l.valid hj
  have hrecord := And.intro (State.line?_fetchSector hl hway k) hbits
  by_cases hv : l.valid.getLsbD k = true
  · rw [fetchSector_valid hl hv] at hrecord ⊢
    refine ⟨⟨_, hrecord⟩, fun a _ => ?_, fun _ _ => rfl, fun _ _ => rfl, hwf, rfl⟩
    rw [if_neg]
    simp only [Bool.and_eq_true, beq_iff_eq, Bool.not_eq_true', not_and]
    rintro rfl
    simp [hv]
  · rw [fetchSector_fetches hl hway hv] at hrecord ⊢
    refine ⟨⟨_, hrecord⟩, fun a ha => ?_, fun x hx => ?far,
      fun i hi => Table.find_put_other _ _ _ _ hi, ?wf, rfl⟩
    case wf =>
      dsimp only
      exact Memory.write_wf _ _ _ hwf
    case far =>
      dsimp only
      exact get_sectorFar hwf hk (ptRead_length _ _ _) hx
    subst ha
    dsimp only
    rw [get_sectorIn hwf s asid l.pa hk]
    by_cases hak : sectorIn a = k
    · rw [if_pos hak, if_pos (by simp [hak, hv])]
    · rw [if_neg hak, if_neg (by simp [hak])]

/-- Sectors of a line in L2 are fetched. -/
theorem sectorsFetched_fetchSectors (f : Nat → Bool) : SectorsFetched s (s.fetchSectors asid line f) asid line l f := by
  have hstep (ks : List Nat) (hks : ∀ k ∈ ks, k < 4) (s : State) (l : L2Line) (hl : s.line? asid line = some l) (hway : l.way.isSome = true)
      (hwf : s.home.wf = true) : SectorsFetched s (ks.foldl (fun s k => if f k then s.fetchSector asid line k else s) s) asid line l
        fun j => ks.contains j && f j := by
    induction ks generalizing s l with
    | nil => exact .refl hl hwf
    | cons k ks ih =>
      have hone : SectorsFetched s (if f k then s.fetchSector asid line k else s) asid line l fun j => j == k && f k := by
        cases hf : f k
        · exact (SectorsFetched.refl hl hwf).congr fun j _ => by simp
        · exact (sectorsFetched_fetchSector hl hway hwf (hks k List.mem_cons_self)).congr fun j _ => by simp
      refine (hone.trans fun v hv => ih (fun j hj => hks j (List.mem_cons_of_mem _ hj)) _ { l with valid := v } hv hway hone.wf).congr fun j _ => ?_
      rw [List.contains_cons]
      by_cases hjk : j = k
      · subst hjk
        cases f j <;> simp
      · simp [beq_false_of_ne hjk]
  refine (hstep [0, 1, 2, 3] (by decide) s l hl hway hwf).congr fun j hj => ?_
  have hmem : [0, 1, 2, 3].contains j = true := by
    simp only [List.contains_eq_mem, List.mem_cons, List.not_mem_nil, or_false, decide_eq_true_eq]
    omega
  rw [hmem, Bool.true_and]

end

/-! ## Bytes that a line of L2 takes in -/

/-- t is s with a store's bytes in a line of L2: its sectors are valid and dirty, the other bytes of those that were not valid are what the
physical tiers hold, and nothing else is touched. -/
structure StoredAt (s t : State) (asid va : Nat) (bs : List Byte) (l : L2Line) : Prop where
  record : ∃ l', t.line? asid (lineOf va) = some l' ∧ l'.owner = l.owner ∧ l'.way.isSome = true ∧
    (∀ j < 4, l'.valid.getLsbD j = (l.valid.getLsbD j || (sectorMask va bs.length).getLsbD j)) ∧
    ∀ j, (sectorMask va bs.length).getLsbD j = true → l'.dirty.getLsbD j = true
  bytes : ∀ i < bs.length, t.home.get (gkey asid (va + i)) = nth bs i 0
  around : ∀ a, lineOf a = lineOf va → (a < va ∨ va + bs.length ≤ a) → t.home.get (gkey asid a) =
    if ((sectorMask va bs.length).getLsbD (sectorIn a) && !(l.valid.getLsbD (sectorIn a))) = true then s.ptByte (l.pa + a % 256)
    else s.home.get (gkey asid a)
  far : ∀ x, (x < gkey asid (lineOf va * 256) ∨ gkey asid (lineOf va * 256) + 256 ≤ x) → t.home.get x = s.home.get x
  others : ∀ k, k ≠ lkey asid (lineOf va) → t.lines.find k = s.lines.find k
  frame : ({ t with home := s.home, lines := s.lines } : State) = s

/-- A store that misses a sector has it fetched unless it covers it whole (06 R117). -/
def storeFetches (va n k : Nat) : Bool := (sectorMask va n).getLsbD k && !(decide (va % 256 ≤ 64 * k) && decide (64 * (k + 1) ≤ va % 256 + n))

/-- A byte beside those of a store is fetched where its sector is one of the store's. -/
theorem storeFetches_beside {va n a : Nat} (ha : lineOf a = lineOf va) (hout : a < va ∨ va + n ≤ a) :
    storeFetches va n (sectorIn a) = (sectorMask va n).getLsbD (sectorIn a) := by
  have hcover : (decide (va % 256 ≤ 64 * sectorIn a) && decide (64 * (sectorIn a + 1) ≤ va % 256 + n)) = false := by
    rw [Bool.and_eq_false_iff, decide_eq_false_iff_not, decide_eq_false_iff_not]
    unfold lineOf sectorIn at *
    omega
  rw [storeFetches, hcover]
  simp

/-- A store's bytes in a home, and what is beside them. -/
theorem get_storeIn {m : Memory} (hm : m.wf = true) (asid va : Nat) (bs : List Byte) :
    (∀ i < bs.length, (m.write (gkey asid va) bs).get (gkey asid (va + i)) = nth bs i 0) ∧
      (∀ a, (a < va ∨ va + bs.length ≤ a) → (m.write (gkey asid va) bs).get (gkey asid a) = m.get (gkey asid a)) ∧
      ∀ x, va % 256 + bs.length ≤ 256 → (x < gkey asid (lineOf va * 256) ∨ gkey asid (lineOf va * 256) + 256 ≤ x) →
        (m.write (gkey asid va) bs).get x = m.get x := by
  refine ⟨fun i hi => ?_, fun a ha => ?_, fun x hfit hx => ?_⟩
  · rw [Memory.get_write hm, gkey_add, if_pos ⟨Nat.le_add_right _ _, Nat.add_lt_add_left hi _⟩, Nat.add_sub_cancel_left]
  · rw [Memory.get_write hm, if_neg]
    unfold gkey
    omega
  · rw [Memory.get_write hm, if_neg]
    unfold gkey lineOf at *
    omega

/-- What a line's record is after bytes are written to it. -/
def L2Line.written (l : L2Line) (va n : Nat) (waves : List Nat) : L2Line :=
  let ws := ([0, 1, 2, 3].filter fun k => (sectorMask va n).getLsbD k).flatMap fun k => waves.map fun w => (k, w)
  { l with valid := l.valid ||| sectorMask va n, dirty := l.dirty ||| sectorMask va n
           writers := l.writers.filter (fun x => !(ws.contains x)) ++ ws }

theorem State.lines_modLine_other (s : State) {asid line k : Nat} (f : L2Line → L2Line) (hk : k ≠ lkey asid line) :
    (s.modLine asid line f).lines.find k = s.lines.find k := Table.find_modify_other _ _ _ _ hk

theorem putLine_eq (s : State) (asid va : Nat) (bs : List Byte) (waves : List Nat) : s.putLine asid va bs waves =
    ({ s with home := s.home.write (gkey asid va) bs } : State).modLine asid (lineOf va) fun l => l.written va bs.length waves := rfl

section
variable {s : State} {asid va : Nat} {bs : List Byte} {l : L2Line} (hfit : va % 256 + bs.length ≤ 256) (waves : List Nat)

include hfit

/-- A line of L2 takes in a store. -/
theorem storedAt_putLine (hl : s.line? asid (lineOf va) = some l) (hway : l.way.isSome = true) (hwf : s.home.wf = true) :
    StoredAt s ((s.fetchSectors asid (lineOf va) (storeFetches va bs.length)).putLine asid va bs waves) asid va bs l := by
  have hf := sectorsFetched_fetchSectors hl hway hwf (storeFetches va bs.length)
  obtain ⟨v, hv, hbits⟩ := hf.record
  obtain ⟨hin, hbeside, hfar⟩ := get_storeIn hf.wf asid va bs
  rw [putLine_eq]
  refine ⟨⟨_, (State.line?_modLine _ _ _ _).trans (congrArg _ hv), rfl, hway, fun j hj => ?_, fun j hj => ?_⟩, hin, fun a ha hout => ?_,
    fun x hx => (hfar x hfit hx).trans (hf.far x hx), fun k hk => (State.lines_modLine_other _ _ hk).trans (hf.others k hk), ?_⟩
  · simp only [L2Line.written, BitVec.getLsbD_or, hbits j hj, storeFetches]
    cases (sectorMask va bs.length).getLsbD j <;> simp
  · simp only [L2Line.written, BitVec.getLsbD_or, hj, Bool.or_true]
  · refine (hbeside a hout).trans ((hf.home a ha).trans ?_)
    rw [storeFetches_beside ha hout]
  · exact hf.frame

end

/-- A line's record once it is used. -/
def L2Line.usedAt (l : L2Line) (prio : Option Nat) (seq : Nat) : L2Line :=
  { l with prio := match prio with | some p => max l.prio p | none => l.prio
           used := seq }

/-- A line's use changes nothing of what a store does there. -/
theorem storedAt_useLine {s t : State} {asid va : Nat} {bs : List Byte} {l : L2Line} (prio : Option Nat)
    (h : StoredAt (s.useLine asid (lineOf va) prio) t asid va bs (l.usedAt prio s.seq)) : StoredAt s t asid va bs l where
  record := h.record
  bytes := h.bytes
  around := h.around
  far := h.far
  others k hk := (h.others k hk).trans (State.lines_modLine_other _ _ hk)
  frame := (congrArg (fun x : State => ({ x with home := s.home, lines := s.lines } : State)) h.frame :)

/-- A store hits L2. -/
theorem storedAt_hit {s : State} {asid va p : Nat} {r : Right} {bs : List Byte} {l : L2Line} (hfit : va % 256 + bs.length ≤ 256)
    (waves : List Nat) (cpol : Nat) (hl : s.line? asid (lineOf va) = some l) (hway : l.way.isSome = true) (hwf : s.home.wf = true) :
    StoredAt s (s.storeLine p r asid va bs waves cpol) asid va bs l := by
  have hin : s.inL2 asid (lineOf va) = true := State.inL2_iff.mpr ⟨l, hl, hway⟩
  unfold State.storeLine
  dsimp only
  rw [if_pos hin]
  refine storedAt_useLine (l2Prio cpol r.attr) (storedAt_putLine hfit waves ?_ hway hwf)
  exact (State.line?_modLine _ _ _ _).trans (congrArg _ hl)

/-- Bytes stand in a line of L2, in sectors that are valid and dirty. -/
structure TookIn (t : State) (asid va : Nat) (bs : List Byte) : Prop where
  record : ∃ l, t.line? asid (lineOf va) = some l ∧ l.way.isSome = true ∧
    ∀ j, (sectorMask va bs.length).getLsbD j = true → l.valid.getLsbD j = true ∧ l.dirty.getLsbD j = true
  bytes : ∀ i < bs.length, t.home.get (gkey asid (va + i)) = nth bs i 0

theorem StoredAt.tookIn {s t : State} {asid va : Nat} {bs : List Byte} {l : L2Line} (h : StoredAt s t asid va bs l) : TookIn t asid va bs where
  record := by
    obtain ⟨l', hl', -, hway, hvalid, hdirty⟩ := h.record
    refine ⟨l', hl', hway, fun j hj => ⟨?_, hdirty j hj⟩⟩
    rw [hvalid j (BitVec.lt_of_getLsbD hj), hj, Bool.or_true]
  bytes := h.bytes

/-- A line of L2 has a store's bytes once they are put there. -/
theorem tookIn_putLine {s : State} {asid va : Nat} {bs : List Byte} {l : L2Line} (waves : List Nat) (hl : s.line? asid (lineOf va) = some l)
    (hway : l.way.isSome = true) (hwf : s.home.wf = true) : TookIn (s.putLine asid va bs waves) asid va bs where
  record := by
    refine ⟨_, (State.line?_modLine _ _ _ _).trans (congrArg _ hl), hway, fun j hj => ?_⟩
    simp only [BitVec.getLsbD_or, hj, Bool.or_true, and_self]
  bytes := (get_storeIn hwf asid va bs).1

/-! ## Room in a set -/

/-- A set that is not all pinned has a way for a line (06 R122). -/
theorem freeWay_exists {s : State} {sl k : Nat} (h : s.setPinned sl k = false) : ∃ r, s.freeWay sl (setOf k) allWays = some r := by
  unfold State.freeWay
  dsimp only
  split
  · exact ⟨_, rfl⟩
  · next hnone =>
    cases hv : victimOf ((s.occupants sl (setOf k)).filter fun x => allWays.contains x.way) with
    | some v => exact ⟨_, rfl⟩
    | none =>
      exfalso
      have hused : ∀ w ∈ allWays, ∃ x ∈ (s.occupants sl (setOf k)).filter (fun x => allWays.contains x.way), x.way = w := fun w hw => by
        have hno := List.filter_eq_nil_iff.mp hnone w hw
        simpa [and_assoc] using hno
      have hpinned : ∀ x ∈ (s.occupants sl (setOf k)).filter (fun x => allWays.contains x.way), x.pinned = true := fun x hx => by
        unfold victimOf at hv
        split at hv
        · next hall => simpa using List.filter_eq_nil_iff.mp hall x hx
        · cases hv
      have hsub : allWays ⊆ ((s.occupants sl (setOf k)).filter (·.pinned)).map (·.way) := fun w hw => by
        obtain ⟨x, hx, rfl⟩ := hused w hw
        exact List.mem_map.mpr ⟨x, List.mem_filter.mpr ⟨List.mem_of_mem_filter hx, hpinned x hx⟩, rfl⟩
      have hcard : allWays.length ≤ (((s.occupants sl (setOf k)).filter (·.pinned)).map (·.way)).length :=
        (List.subperm_of_subset (by decide) hsub).length_le
      rw [List.length_map] at hcard
      exact of_decide_eq_false h hcard

theorem State.modLine_home (s : State) (asid line : Nat) (f : L2Line → L2Line) : (s.modLine asid line f).home = s.home := rfl

theorem State.sectorDone_home (s : State) (asid line k : Nat) : (s.sectorDone asid line k).home = s.home := by
  have hback : (s.sectorBack asid line k).home = s.home := by
    unfold State.sectorBack
    split
    · rfl
    · split
      · rfl
      · exact (State.modLine_home _ _ _ _).trans (s.ptWrite_home _ _)
  exact hback

theorem State.tidyLine_home (s : State) (asid line : Nat) : (s.tidyLine asid line).home = s.home := by
  unfold State.tidyLine
  split
  · rfl
  · split <;> rfl

theorem State.evictHome_wf {s : State} (h : s.home.wf = true) (asid line : Nat) : (s.evictHome asid line).home.wf = true := by
  have hback (ks : List Nat) (s : State) : (ks.foldl (fun s k => s.sectorDone asid line k) s).home = s.home := by
    induction ks generalizing s with
    | nil => rfl
    | cons k ks ih => exact (ih _).trans (s.sectorDone_home asid line k)
  unfold State.evictHome
  rw [State.tidyLine_home]
  refine Memory.clear_wf _ _ _ ?_
  rw [hback]
  exact h

theorem State.freeWay_wf {s : State} {sl set : Nat} {ways : List Nat} {r : Nat × State} (h : s.freeWay sl set ways = some r)
    (hwf : s.home.wf = true) : r.2.home.wf = true := by
  unfold State.freeWay at h
  dsimp only at h
  split at h
  · cases h
    exact hwf
  · obtain ⟨v, -, rfl⟩ := Option.map_eq_some_iff.mp h
    dsimp only
    split
    · rw [State.dropCopy, State.tidyLine_home]
      exact hwf
    · exact State.evictHome_wf hwf _ _

/-- A store that misses takes a way, where its policy allocates and the set has one. -/
theorem takeWay_exists {s : State} {asid line pa prio : Nat} (h : s.setPinned (s.keySlice (lkey asid line)) (lkey asid line) = false)
    (hwf : s.home.wf = true) : ∃ t l, s.takeWay asid line pa prio = some t ∧ t.line? asid line = some l ∧ l.way.isSome = true ∧
      t.home.wf = true := by
  obtain ⟨r, hr⟩ := freeWay_exists h
  refine ⟨_, _, congrArg (Option.map _) hr, Table.find_put_self _ _ _, rfl, State.freeWay_wf hr hwf⟩

theorem State.ptTouch_frame (s : State) (r : Right) (line cpol : Nat) :
    ({ s.ptTouch r line cpol with free := s.free, pt := s.pt, sram := s.sram } : State) = s := by
  have hevict (u : State) (k : Nat) : ({ (u.ptEvict k).drawn with free := u.free, pt := u.pt, sram := u.sram } : State) = u := by
    unfold State.ptEvict
    split <;> rfl
  unfold State.ptTouch State.ptAlloc
  split
  · split
    · rfl
    · dsimp only
      split
      · rfl
      · exact hevict s _
  · rfl

section
variable {s : State} {asid va p : Nat} {r : Right} {bs : List Byte} (waves : List Nat) (cpol : Nat) (hwf : s.home.wf = true)
include hwf

/-- A store that misses, of a policy that allocates: the line is taken in with its bytes. -/
theorem tookIn_miss (hmiss : s.inL2 asid (lineOf va) = false) (hprio : l2Prio cpol r.attr ≠ none)
    (hpin : s.setPinned (s.keySlice (lkey asid (lineOf va))) (lkey asid (lineOf va)) = false) :
    TookIn (s.storeLine p r asid va bs waves cpol) asid va bs := by
  obtain ⟨pr, hpr⟩ := Option.ne_none_iff_exists'.mp hprio
  obtain ⟨s1, l, hs1, hl, hway, hwf1⟩ := takeWay_exists (pa := r.linePa (lineOf va)) (prio := pr) hpin hwf
  have hframe := s1.ptTouch_frame r (lineOf va) cpol
  have hl2 : (s1.ptTouch r (lineOf va) cpol).line? asid (lineOf va) = some l := (congrArg (State.line? · asid (lineOf va)) hframe :).trans hl
  have hwf2 : (s1.ptTouch r (lineOf va) cpol).home.wf = true := (congrArg (fun u : State => u.home.wf) hframe :).trans hwf1
  unfold State.storeLine
  simp only [hmiss, hpr, hs1, Bool.false_eq_true, if_false]
  have hf := sectorsFetched_fetchSectors hl2 hway hwf2 fun k =>
    !(decide (va % 256 ≤ 64 * k) && decide (64 * (k + 1) ≤ va % 256 + bs.length))
  obtain ⟨v, hv, -⟩ := hf.record
  exact tookIn_putLine waves hv hway hf.wf

/-- A store's bytes are in L2 where it holds the line or takes it in. -/
theorem tookIn_storeLine (hfit : va % 256 + bs.length ≤ 256) (h : s.inL2 asid (lineOf va) = true ∨ (l2Prio cpol r.attr ≠ none ∧
    s.setPinned (s.keySlice (lkey asid (lineOf va))) (lkey asid (lineOf va)) = false)) :
    TookIn (s.storeLine p r asid va bs waves cpol) asid va bs := by
  cases hin : s.inL2 asid (lineOf va) with
  | true =>
    obtain ⟨l, hl, hway⟩ := State.inL2_iff.mp hin
    exact (storedAt_hit hfit waves cpol hl hway hwf).tookIn
  | false =>
    rcases h with h | ⟨hprio, hpin⟩
    · exact absurd (hin.symm.trans h) (by decide)
    · exact tookIn_miss waves cpol hwf hin hprio hpin

end

/-- Whatever a store does in L2 and beyond, it touches the memory and the slice's counter of bypasses only. -/
theorem storeLine_frame (s : State) (p : Nat) (r : Right) (asid va : Nat) (bs : List Byte) (waves : List Nat) (cpol : Nat) :
    ({ s.storeLine p r asid va bs waves cpol with parts := s.parts } : State).sansMemory = s.sansMemory := by
  have hpast (u : State) (hu : s.MemoryMoved u) : s.MemoryMoved ((u.ptTouch r (lineOf va) cpol).ptWrite (r.pa + va % 65536) bs) :=
    (hu.trans (State.moved_ptTouch _ _ _ _)).trans (State.moved_ptWrite _ _ _)
  have hput (u : State) (f : Nat → Bool) (hu : s.MemoryMoved u) : s.MemoryMoved ((u.fetchSectors asid (lineOf va) f).putLine asid va bs waves) :=
    (hu.trans (State.moved_fetchSectors _ _ _ _)).trans ((State.moved_lines _ _ _).trans (State.moved_modLine _ _ _ _))
  have hkeep (u : State) (hu : s.MemoryMoved u) : ({ u with parts := s.parts } : State).sansMemory = s.sansMemory :=
    (congrArg (fun x : State => ({ x with parts := s.parts } : State)) hu.2 :)
  unfold State.storeLine
  dsimp only
  split
  · exact hkeep _ (hput _ _ (State.moved_modLine _ _ _ _))
  · split
    · exact hkeep _ (hpast _ (.refl s))
    · split
      · exact (hkeep _ (hpast _ (.refl s)) :)
      · next hway => exact hkeep _ (hput _ _ ((State.moved_takeWay hway).trans (State.moved_ptTouch _ _ _ _)))

end Sys2Proof.Machine
end


section
/-! PROOFS. What follows from a performed write (05 R104, 08 R146, R150, R155), and PERFORM and FORWARDED_ACCESS (08 Table 8.2, 18 R255). -/

namespace Sys2Proof.Machine

open Safety

/-! ## The tag of a line -/

theorem State.tidyLine_inL2 {s : State} {asid line : Nat} {l : L2Line} (hl : s.line? asid line = some l) (hway : l.way.isSome = true) :
    s.tidyLine asid line = s := by
  simp only [State.tidyLine, hl, Option.isNone_eq_false_iff.mpr hway, Bool.false_eq_true, false_and, if_false]

/-- A write gives a line of L2 its tag, and changes nothing else. -/
theorem setTag_spec {s : State} {asid line : Nat} {l : L2Line} (hl : s.line? asid line = some l) (hway : l.way.isSome = true) (tag : Option Nat) :
    (s.setTag asid line tag).line? asid line = some { l with lt := tag } ∧
      (∀ k, k ≠ lkey asid line → (s.setTag asid line tag).lines.find k = s.lines.find k) ∧
      ({ s.setTag asid line tag with lines := s.lines } : State) = s := by
  cases tag with
  | some b =>
    refine ⟨?_, fun k hk => Table.find_put_other _ _ _ _ hk, rfl⟩
    have hput : (s.setTag asid line (some b)).line? asid line = some { (s.line? asid line).getD L2Line.blank with lt := some b } :=
      Table.find_put_self _ _ _
    rw [hput, hl, Option.getD_some]
  | none =>
    have hmod : (s.modLine asid line fun l => { l with lt := none }).line? asid line = some { l with lt := none } :=
      (State.line?_modLine _ _ _ _).trans (congrArg _ hl)
    unfold State.setTag
    dsimp only
    rw [State.tidyLine_inL2 hmod hway]
    exact ⟨hmod, fun k hk => State.lines_modLine_other _ _ hk, rfl⟩

theorem StoredAt.setTag {s t : State} {asid va : Nat} {bs : List Byte} {l : L2Line} (h : StoredAt s t asid va bs l) (tag : Option Nat) :
    StoredAt s (t.setTag asid (lineOf va) tag) asid va bs l := by
  obtain ⟨l', hl', howner, hway, hvalid, hdirty⟩ := h.record
  obtain ⟨htag, hothers, hframe⟩ := setTag_spec hl' hway tag
  have hhome : (t.setTag asid (lineOf va) tag).home = t.home := (congrArg State.home hframe :)
  exact ⟨⟨_, htag, howner, hway, hvalid, hdirty⟩, fun i hi => by rw [hhome]; exact h.bytes i hi,
    fun a ha hout => by rw [hhome]; exact h.around a ha hout, fun x hx => by rw [hhome]; exact h.far x hx,
    fun k hk => (hothers k hk).trans (h.others k hk),
    (congrArg (fun x : State => ({ x with home := s.home, lines := s.lines } : State)) hframe :).trans h.frame⟩

theorem TookIn.setTag {t : State} {asid va : Nat} {bs : List Byte} (h : TookIn t asid va bs) (tag : Option Nat) :
    TookIn (t.setTag asid (lineOf va) tag) asid va bs := by
  obtain ⟨l', hl', hway, hbits⟩ := h.record
  obtain ⟨htag, -, hframe⟩ := setTag_spec hl' hway tag
  have hhome : (t.setTag asid (lineOf va) tag).home = t.home := (congrArg State.home hframe :)
  exact ⟨⟨_, htag, hway, hbits⟩, fun i hi => by rw [hhome]; exact h.bytes i hi⟩

theorem setTag_frame (s : State) (asid line : Nat) (tag : Option Nat) : ({ s.setTag asid line tag with lines := s.lines } : State) = s := by
  cases tag with
  | some b => rfl
  | none =>
    unfold State.setTag State.tidyLine
    dsimp only
    split
    · rfl
    · split <;> rfl

/-! ## What follows from a performed write -/

/-- No acquire is under way. -/
def State.Idle (s : State) : Prop := ∀ x ∈ s.waves, x.2.acquires = []

/-- What follows from a performed write leaves the homes, their records and what is behind translations; blocks keep all but what they have
seen and their outbound queues. -/
structure State.Aftermath (s t : State) : Prop where
  space : s.SameSpace t
  home : t.home = s.home
  lines : t.lines = s.lines
  blocks : ∀ b, ∃ sn oq, t.block? b = (s.block? b).map fun x => { x with seen := sn, oq := oq }
  idle : s.Idle → t.Idle

theorem block_map_self (x : Option Block) : ∃ sn oq, x = x.map fun y => { y with seen := sn, oq := oq } := by
  cases x with
  | none => exact ⟨[], [], rfl⟩
  | some y => exact ⟨y.seen, y.oq, rfl⟩

theorem State.Aftermath.trans {s t u : State} (h : s.Aftermath t) (k : t.Aftermath u) : s.Aftermath u where
  space := h.space.trans k.space
  home := k.home.trans h.home
  lines := k.lines.trans h.lines
  blocks b := by
    obtain ⟨sn, oq, ht⟩ := h.blocks b
    obtain ⟨sn', oq', hu⟩ := k.blocks b
    exact ⟨sn', oq', by rw [hu, ht, Option.map_map]; rfl⟩
  idle hs := k.idle (h.idle hs)

/-- Stamps, sums, messages, L1 and the waves' records change. -/
theorem State.Aftermath.of_frame {s t : State}
    (h : ({ t with waves := s.waves, invals := s.invals, stamps := s.stamps, sums := s.sums, cores := s.cores } : State) = s)
    (hidle : s.Idle → t.Idle) : s.Aftermath t where
  space := .of_parts (congrArg State.parts h :) (congrArg State.space h :)
  home := (congrArg State.home h :)
  lines := (congrArg State.lines h :)
  blocks b := by
    rw [show t.block? b = s.block? b from (congrArg (State.block? · b) h :)]
    exact block_map_self _
  idle := hidle

theorem State.Idle.map {s t : State} {f : Wave → Wave} (h : s.Idle) (hf : ∀ w, (f w).acquires = w.acquires)
    (ht : t.waves = s.waves.map fun e => (e.1, f e.2)) : t.Idle := fun x hx => by
  rw [ht] at hx
  obtain ⟨e, he, rfl⟩ := List.mem_map.mp hx
  exact (hf e.2).trans (h e he)

theorem State.aftermath_sendInvals (s : State) (asid line q : Nat) (waves : List Nat) : s.Aftermath (s.sendInvals asid line q waves) := by
  unfold State.sendInvals
  split
  · exact .of_frame rfl id
  · exact .of_frame rfl id

theorem State.aftermath_stampBytes (s : State) (asid va q n : Nat) : s.Aftermath (s.stampBytes asid va q n) := by
  induction n generalizing s va with
  | zero => exact .of_frame rfl id
  | succ n ih =>
    refine State.Aftermath.trans ?_ (ih _ _)
    exact .of_frame rfl id

theorem State.aftermath_fire (s : State) (asid va n : Nat) : s.Aftermath (s.fire asid va n) :=
  .of_frame rfl fun h => h.map (f := fun w => { w with mons := w.mons.map fun m =>
    if m.2.st = .armed ∧ m.2.asid = asid ∧ va / 64 ≤ m.2.line ∧ m.2.line ≤ (va + n - 1) / 64 then (m.1, { m.2 with st := .fired }) else m })
    (fun _ => rfl) rfl

theorem State.aftermath_wroteHome (s : State) (asid va n q : Nat) (waves : List Nat) : s.Aftermath (s.wroteHome asid va n q waves) :=
  (((s.aftermath_sendInvals _ _ _ _).trans (State.aftermath_stampBytes _ _ _ _ _)).trans (State.aftermath_fire _ _ _ _)).trans
    (.of_frame rfl id)

theorem State.markDirty_frame (s : State) (asid va : Nat) : ({ s.markDirty asid va with parts := s.parts } : State) = s := by
  unfold State.markDirty
  split
  · split <;> rfl
  · rfl

theorem State.aftermath_markDirty (s : State) (asid va : Nat) : s.Aftermath (s.markDirty asid va) where
  space := s.sameSpace_markDirty asid va
  home := (congrArg State.home (s.markDirty_frame asid va) :)
  lines := (congrArg State.lines (s.markDirty_frame asid va) :)
  blocks b := by
    rw [show (s.markDirty asid va).block? b = s.block? b from (congrArg (State.block? · b) (s.markDirty_frame asid va) :)]
    exact block_map_self _
  idle h := (congrArg State.Idle (s.markDirty_frame asid va) :).mpr h

theorem State.aftermath_modBlock (s : State) (b : Nat) (f : Block → Block) (hf : ∀ x, ∃ sn oq, f x = { x with seen := sn, oq := oq }) :
    s.Aftermath (s.modBlock b f) where
  space := .of_parts rfl rfl
  home := rfl
  lines := rfl
  blocks k := by
    by_cases hk : k = b
    · subst hk
      rw [State.block?_modBlock_self]
      cases s.block? k with
      | none => exact ⟨[], [], rfl⟩
      | some x =>
        obtain ⟨sn, oq, hx⟩ := hf x
        exact ⟨sn, oq, congrArg some hx⟩
    · rw [State.block?_modBlock_other _ _ hk]
      exact block_map_self _
  idle := id

theorem State.aftermath_sawAt (s : State) (b asid va q n : Nat) : s.Aftermath (s.sawAt b asid va q n) := by
  induction n generalizing s va with
  | zero => exact .of_frame rfl id
  | succ n ih =>
    refine State.Aftermath.trans ?_ (ih _ _)
    exact s.aftermath_modBlock b _ fun x => ⟨_, x.oq, rfl⟩

theorem State.aftermath_performed (s : State) (q p asid va n : Nat) : s.Aftermath (s.performed q p asid va n) :=
  .of_frame rfl fun h x hx => by
    obtain ⟨e, he, rfl⟩ := List.mem_map.mp hx
    exact h e he

theorem State.aftermath_stampL1 (s : State) (b core asid va n q : Nat) : s.Aftermath (s.stampL1 b core asid va n q) := .of_frame rfl id

/-- The state before a performed store leaves its queue. -/
def State.storeNoted (s : State) (b core asid : Nat) (e : WEntry) (q : Nat) : State :=
  let s1 := s.performed e.seq q asid e.addr e.width
  (if e.read = true then s1.sawAt b asid e.addr (s.stampOf asid e.addr) e.width else s1).stampL1 b core asid e.addr e.width q

theorem afterPerform_store {s : State} {b core asid : Nat} {e : WEntry} {bs : List Byte} (he : e.payload = .store bs) (q : Nat) :
    s.afterPerform b core asid e q =
      (s.storeNoted b core asid e q).modBlock b fun x => { x with oq := x.oq.filter fun y => y.seq != e.seq } := by
  simp only [State.afterPerform, State.storeNoted, he, Bool.or_false]

theorem State.aftermath_storeNoted (s : State) (b core asid : Nat) (e : WEntry) (q : Nat) : s.Aftermath (s.storeNoted b core asid e q) := by
  have hperf := s.aftermath_performed e.seq q asid e.addr e.width
  unfold State.storeNoted
  dsimp only
  refine State.Aftermath.trans ?_ (State.aftermath_stampL1 _ _ _ _ _ _ _)
  split
  · exact hperf.trans (State.aftermath_sawAt _ _ _ _ _ _)
  · exact hperf

theorem State.endHandle_lines (s : State) (h : Option HRef) (tag : Nat) (st : HState) : (s.endHandle h tag st).lines = s.lines := by
  cases h <;> rfl

/-- The end of releases with no acquire under way leaves the home lines. -/
theorem settleReleases_idle {s : State} (h : s.Idle) : s.settleReleases.lines = s.lines := by
  have hdrop : s.dropReleases.Idle := fun x hx => by
    obtain ⟨e, he, rfl⟩ := List.mem_map.mp hx
    exact h e he
  have hnone : (s.dropReleases.waves.filter fun e => !e.2.acquires.isEmpty) = [] := by
    rw [List.filter_eq_nil_iff]
    exact fun x hx => by simp [hdrop x hx]
  have hend (u : State) (gone : Nat → Bool) : (u.endWaits gone).lines = u.lines := by
    have hfold (fs : List QFenceRec) (u : State) : (fs.foldl (fun s f => s.endHandle f.href f.tag .done) u).lines = u.lines := by
      induction fs generalizing u with
      | nil => rfl
      | cons f fs ih =>
        exact (ih _).trans (State.endHandle_lines _ _ _ _)
    exact hfold _ _
  unfold State.settleReleases
  rw [hend, hnone]
  rfl

/-! ## Bytes at their homes after a store -/

/-- What is behind a translation, unless a kick page there is busy. -/
def State.behind (s : State) (asid a : Nat) : Option Byte :=
  (s.trans asid a).bind fun r => if r.tgt = 1 ∧ s.kickBusy (r.pa + a % 65536) then none else some (s.physByte r.tgt r.peer (r.pa + a % 65536))

theorem State.SameSpace.behind {s t : State} (h : s.SameSpace t) (asid a : Nat) : t.behind asid a = s.behind asid a := by
  simp only [State.behind, h.trans?, h.kickBusy, h.physByte]

/-- A byte at its home, where a stash window owns its line. -/
theorem homeByte_owned {s : State} {asid a b i k o : Nat} (h : s.ownerOf asid (lineOf a) = some (b, i, k, o)) :
    (s.homeByte asid a).map (·.1) = (s.block? b).map fun x => x.scratch.get (o + a % 256) := by
  simp only [State.homeByte, h]
  rw [Option.map_map]
  rfl

/-- A byte at its home in L2 or behind it. -/
theorem homeByte_unowned {s : State} {asid a : Nat} (h : s.ownerOf asid (lineOf a) = none) : (s.homeByte asid a).map (·.1) =
    if ((s.line? asid (lineOf a)).any fun l => l.valid.getLsbD (sectorIn a)) = true then some (s.home.get (gkey asid a)) else s.behind asid a := by
  simp only [State.homeByte, h, State.behind]
  split
  · rfl
  · rw [Option.map_bind]
    refine congrArg (Option.bind _) (funext fun r => ?_)
    dsimp only [Function.comp]
    split <;> rfl

/-- Blocks differ in what they have seen, in their outbound queues and in their reservations at most. -/
def State.SameStash (s t : State) : Prop := ∀ b, ∃ sn oq rv, t.block? b = (s.block? b).map fun x => { x with seen := sn, oq := oq, resv := rv }

theorem State.SameStash.ownerOf {s t : State} (h : s.SameStash t) {asid line : Nat}
    (ho : (t.line? asid line).bind (·.owner) = (s.line? asid line).bind (·.owner)) : t.ownerOf asid line = s.ownerOf asid line := by
  unfold State.ownerOf
  rw [ho]
  cases (s.line? asid line).bind (·.owner) with
  | none => rfl
  | some e =>
    obtain ⟨sn, oq, rv, hb⟩ := h e.1
    have hw : (t.block? e.1).bind (·.window? e.2) = (s.block? e.1).bind (·.window? e.2) := by
      rw [hb, Option.bind_map]
      rfl
    dsimp only
    rw [hw]

section
variable {s t : State} (hs : s.SameSpace t) (hb : s.SameStash t) {asid a : Nat}
include hs hb

/-- A byte of a line whose record and home are as they were. -/
theorem homeByte_same (hl : t.line? asid (lineOf a) = s.line? asid (lineOf a)) (hh : t.home.get (gkey asid a) = s.home.get (gkey asid a)) :
    (t.homeByte asid a).map (·.1) = (s.homeByte asid a).map (·.1) := by
  have ho : t.ownerOf asid (lineOf a) = s.ownerOf asid (lineOf a) := hb.ownerOf (by rw [hl])
  cases hown : s.ownerOf asid (lineOf a) with
  | none => rw [homeByte_unowned hown, homeByte_unowned (ho.trans hown), hl, hh, hs.behind]
  | some e =>
    obtain ⟨sn, oq, rv, hx⟩ := hb e.1
    rw [homeByte_owned hown, homeByte_owned (ho.trans hown), hx, Option.map_map]
    rfl

/-- A byte of a line that a store has met elsewhere: its sector is valid as before, or holds what is behind the translation. -/
theorem homeByte_beside {l l' : L2Line} {m : Bool} {r : Right} (hl : s.line? asid (lineOf a) = some l) (hl' : t.line? asid (lineOf a) = some l')
    (hown : s.ownerOf asid (lineOf a) = none) (ho : l'.owner = l.owner)
    (hv : l'.valid.getLsbD (sectorIn a) = (l.valid.getLsbD (sectorIn a) || m)) (hr : s.trans asid a = some r) (ht : r.tgt = 0)
    (hpa : l.pa = r.linePa (lineOf a)) (hh : t.home.get (gkey asid a) =
      if (m && !(l.valid.getLsbD (sectorIn a))) = true then s.ptByte (l.pa + a % 256) else s.home.get (gkey asid a)) :
    (t.homeByte asid a).map (·.1) = (s.homeByte asid a).map (·.1) := by
  have hown' : t.ownerOf asid (lineOf a) = none := (hb.ownerOf (by rw [hl, hl', Option.bind_some, Option.bind_some, ho])).trans hown
  have hbehind : s.behind asid a = some (s.ptByte (l.pa + a % 256)) := by
    have haddr : r.pa + a % 65536 = l.pa + a % 256 := by
      rw [hpa, Right.linePa]
      unfold lineOf
      omega
    simp only [State.behind, hr, Option.bind_some, ht, Nat.zero_ne_one, false_and, if_false, State.physByte, if_true, haddr]
  rw [homeByte_unowned hown, homeByte_unowned hown', hl, hl', Option.any_some, Option.any_some, hv, hh, hs.behind, hbehind]
  cases l.valid.getLsbD (sectorIn a) <;> cases m <;> simp

end

/-- A byte that a store has written, where no stash window owns its line. -/
theorem homeByte_stored {t : State} {asid va i : Nat} {bs : List Byte} {l : L2Line} (hfit : va % 256 + bs.length ≤ 256) (hi : i < bs.length)
    (hl : t.line? asid (lineOf va) = some l) (hv : ∀ j, (sectorMask va bs.length).getLsbD j = true → l.valid.getLsbD j = true)
    (hh : t.home.get (gkey asid (va + i)) = nth bs i 0) (hown : t.ownerOf asid (lineOf va) = none) :
    (t.homeByte asid (va + i)).map (·.1) = bs[i]? := by
  obtain ⟨hline, hbit⟩ := store_byte hfit hi
  rw [homeByte_unowned (hline ▸ hown), hline, hl, Option.any_some, if_pos (hv _ hbit), hh]
  simp [nth, hi]

end Sys2Proof.Machine
end


section
/-! PROOFS. PERFORM and FORWARDED_ACCESS (08 Table 8.2, 18 R255), and the events of the homes together. -/

namespace Sys2Proof.Machine

open Safety

/-! ## PERFORM -/

theorem viaPort_home {s : State} {asid va : Nat} {r : Right} (hr : s.trans asid va = some r) (ht : r.tgt = 0) : s.viaPort asid va = none := by
  unfold State.viaPort
  split
  · rfl
  · simp [hr, ht]

section
variable {s : State} {b line n : Nat} {bk : Block} {e : WEntry} {es : List WEntry} (hb : s.block? b = some bk) (hd : s.due bk line n = e :: es)
  (hv : s.viaPort (s.asidOf bk.part) e.addr = none)
include hb hd hv

theorem exec_perform {t : State} (ht : s.performAll b bk.core (s.asidOf bk.part) (e :: es) = some t) :
    exec (.perform b line n) s = .next t.settleReleases := by
  simp only [exec, execPerform, hb, hd, hv, Option.isSome_none, Bool.false_eq_true, if_false, ht, Option.map_some, Option.getD_some]

theorem exec_perform_sum {xs : List (WEntry × AtomicReq)} (hx : sumOf (e :: es) = some xs) {t : State}
    (ht : s.stamp.2.performSum b bk.core (s.asidOf bk.part) s.seq xs = some t) : exec (.perform b line n) s = .next t.settleReleases := by
  refine exec_perform hb hd hv ?_
  simp only [State.performAll, hx]
  exact ht

end

section
variable {s : State} {b line n : Nat} {bk : Block} {e : WEntry} (hb : s.block? b = some bk) (hd : s.due bk line n = [e])
  (hv : s.viaPort (s.asidOf bk.part) e.addr = none)
include hb hd hv

theorem exec_perform_one (hs : sumOf [e] = none) {t : State}
    (ht : s.stamp.2.performEntry b bk.core (s.asidOf bk.part) s.seq e = some t) : exec (.perform b line n) s = .next t.settleReleases := by
  refine exec_perform hb hd hv ?_
  simp only [State.performAll, hs, List.foldl_cons, List.foldl_nil, Option.bind_some]
  exact ht

theorem exec_perform_store {bs : List Byte} (hp : e.payload = .store bs) {t : State}
    (ht : s.stamp.2.writeHome (s.asidOf bk.part) e.addr bs s.seq e.seq [e.wave] (if e.tag = true then some b else none) e.cpol = some t) :
    exec (.perform b line n) s = .next (t.afterPerform b bk.core (s.asidOf bk.part) e s.seq).settleReleases := by
  refine exec_perform_one hb hd hv (by simp only [sumOf, List.foldr_cons, List.foldr_nil, hp]) ?_
  simp only [State.performEntry, hp, ht, Option.map_some]

theorem exec_perform_atomic {a : AtomicReq} {old : Nat} (hp : e.payload = .atomic a) (hs : sumOf [e] = none) {t : State}
    (ht : s.stamp.2.performAtomic b (s.asidOf bk.part) e a s.seq = some (old, t)) : exec (.perform b line n) s =
      .next (((t.afterPerform b bk.core (s.asidOf bk.part) e s.seq).atomicReturn e.wave a old).settleReleases) := by
  refine exec_perform_one hb hd hv hs ?_
  simp only [State.performEntry, hp, ht, Option.map_some]

end

/-! ## A store performed at its home -/

/-- The home once a block's store is in it. -/
def State.storedHome (s : State) (p : Nat) (r : Right) (asid b : Nat) (e : WEntry) (bs : List Byte) : State :=
  (s.stamp.2.storeLine p r asid e.addr bs [e.wave] e.cpol).setTag asid (lineOf e.addr) (if e.tag = true then some b else none)

/-- What follows, up to the releases that it completes: the order of the writes, what is noted, and the entry's place in the queue. -/
def State.storeFollowed (u : State) (asid b core : Nat) (e : WEntry) (n q : Nat) : State :=
  ((((u.wroteHome asid e.addr n q [e.wave]).markDirty asid e.addr).storeNoted b core asid e q).modBlock b fun x =>
    { x with oq := x.oq.filter fun y => y.seq != e.seq })

theorem aftermath_storeFollowed (u : State) (asid b core : Nat) (e : WEntry) (n q : Nat) : u.Aftermath (u.storeFollowed asid b core e n q) :=
  (((u.aftermath_wroteHome _ _ _ _ _).trans (State.aftermath_markDirty _ _ _)).trans (State.aftermath_storeNoted _ _ _ _ _ _)).trans
    (State.aftermath_modBlock _ _ _ fun x => ⟨x.seen, _, rfl⟩)

section
variable {s : State} {p b : Nat} {r : Right} {asid : Nat} {e : WEntry} {bs : List Byte} (hp : s.partOfAsid asid = some p)
  (hr : s.trans asid e.addr = some r) (ht : r.tgt = 0) (hshadow : s.shadowDue asid (lineOf e.addr) = none)
  (hown : s.ownerOf asid (lineOf e.addr) = none) (hne : bs ≠ [])
include hp hr ht hshadow hown hne

theorem writeHome_store : s.stamp.2.writeHome asid e.addr bs s.seq e.seq [e.wave] (if e.tag = true then some b else none) e.cpol =
    some (((s.storedHome p r asid b e bs).wroteHome asid e.addr bs.length s.seq [e.wave]).markDirty asid e.addr) := by
  have hspace : s.SameSpace s.stamp.2 := .of_parts rfl rfl
  have hp' := (hspace.asids asid).trans hp
  have hr' := (hspace.trans? asid e.addr).trans hr
  have hshadow' := (hspace.shadowDue asid (lineOf e.addr)).trans hshadow
  have hown' : s.stamp.2.ownerOf asid (lineOf e.addr) = none := hown
  have hempty : bs.isEmpty = false := by simpa using hne
  simp only [State.writeHome, State.lineRoom, hown', Option.bind_some, State.homeWrite, hempty, Bool.false_eq_true, if_false, hshadow',
    Option.isSome_none, hp', hr', ht, if_true]
  rfl

end

section
variable (s : State) (p : Nat) (r : Right) (asid b core : Nat) (e : WEntry) (bs : List Byte)

/-- The state after PERFORM of a store. -/
def State.storePerformed : State := ((s.storedHome p r asid b e bs).storeFollowed asid b core e bs.length s.seq).settleReleases

theorem storedHome_frame : ({ s.storedHome p r asid b e bs with parts := s.parts, seq := s.seq } : State).sansMemory = s.sansMemory := by
  have htag := setTag_frame (s.stamp.2.storeLine p r asid e.addr bs [e.wave] e.cpol) asid (lineOf e.addr) (if e.tag = true then some b else none)
  have hstore := storeLine_frame s.stamp.2 p r asid e.addr bs [e.wave] e.cpol
  have hstore' : ({ s.stamp.2.storeLine p r asid e.addr bs [e.wave] e.cpol with parts := s.parts, seq := s.seq } : State).sansMemory =
      s.sansMemory := (congrArg (fun x : State => ({ x with seq := s.seq } : State)) hstore :)
  exact (congrArg (fun x : State => ({ x with parts := s.parts, seq := s.seq } : State).sansMemory) htag :).trans hstore'

/-- PERFORM of a store leaves the host, the peers and the ports. -/
theorem storePerformed_ports : (s.storePerformed p r asid b core e bs).host = s.host ∧ (s.storePerformed p r asid b core e bs).peers = s.peers ∧
    (s.storePerformed p r asid b core e bs).portWrites = s.portWrites := by
  have hframe := storedHome_frame s p r asid b e bs
  have hafter := (aftermath_storeFollowed (s.storedHome p r asid b e bs) asid b core e bs.length s.seq).space.space
  obtain ⟨-, -, hhost, hpeers, -, -, hports⟩ := (State.settles_settleReleases
    ((s.storedHome p r asid b e bs).storeFollowed asid b core e bs.length s.seq)).sameMemory
  exact ⟨hhost.trans ((congrArg State.host hafter :).trans (congrArg State.host hframe :)),
    hpeers.trans ((congrArg State.peers hafter :).trans (congrArg State.peers hframe :)),
    hports.trans ((congrArg State.portWrites hafter :).trans (congrArg State.portWrites hframe :))⟩

/-- The entry has left its block's queue. -/
theorem storePerformed_queue {bk : Block} (hb : s.block? b = some bk) : ∃ bk', (s.storePerformed p r asid b core e bs).block? b = some bk' ∧
    ∀ x ∈ bk'.oq, x.seq ≠ e.seq := by
  have hb' : (s.storedHome p r asid b e bs).block? b = some bk := (congrArg (State.block? · b) (storedHome_frame s p r asid b e bs) :).trans hb
  have hnoted := (((s.storedHome p r asid b e bs).aftermath_wroteHome asid e.addr bs.length s.seq [e.wave]).trans
    (State.aftermath_markDirty _ asid e.addr)).trans (State.aftermath_storeNoted _ b core asid e s.seq)
  obtain ⟨sn, oq, hx⟩ := hnoted.blocks b
  have hleft := (State.block?_modBlock_self (State.storeNoted (((s.storedHome p r asid b e bs).wroteHome asid e.addr bs.length s.seq
    [e.wave]).markDirty asid e.addr) b core asid e s.seq) b fun x => { x with oq := x.oq.filter fun y => y.seq != e.seq }).trans
      (congrArg _ (hx.trans (congrArg _ hb')))
  obtain ⟨rv, hrv⟩ := (State.settles_settleReleases ((s.storedHome p r asid b e bs).storeFollowed asid b core e bs.length s.seq)).blocks b
  refine ⟨_, hrv.trans (congrArg _ hleft), fun x hx => ?_⟩
  simpa using (List.mem_filter.mp hx).2

/-- What PERFORM of a store leaves of translations and of blocks, where the line was in L2. -/
theorem storePerformed_space {l : L2Line} (h : StoredAt s.stamp.2 (s.storedHome p r asid b e bs) asid e.addr bs l) :
    s.SameSpace (s.storePerformed p r asid b core e bs) ∧ s.SameStash (s.storePerformed p r asid b core e bs) := by
  have hafter := aftermath_storeFollowed (s.storedHome p r asid b e bs) asid b core e bs.length s.seq
  have hsettles := State.settles_settleReleases ((s.storedHome p r asid b e bs).storeFollowed asid b core e bs.length s.seq)
  have hstored : s.SameSpace (s.storedHome p r asid b e bs) :=
    .of_parts (congrArg State.parts h.frame :) (congrArg State.space h.frame :)
  refine ⟨(hstored.trans hafter.space).trans (.of_parts (congrArg State.parts hsettles.rest :)
    (congrArg State.space hsettles.rest :)), fun k => ?_⟩
  have hk : (s.storedHome p r asid b e bs).block? k = s.block? k := (congrArg (State.block? · k) h.frame :)
  obtain ⟨sn, oq, hx⟩ := hafter.blocks k
  obtain ⟨rv, hrv⟩ := hsettles.blocks k
  exact ⟨sn, oq, rv, by rw [State.storePerformed, hrv, hx, hk, Option.map_map]; rfl⟩

theorem storePerformed_home : (s.storePerformed p r asid b core e bs).home = (s.storedHome p r asid b e bs).home := by
  have hafter := aftermath_storeFollowed (s.storedHome p r asid b e bs) asid b core e bs.length s.seq
  obtain ⟨-, -, -, -, hhome, -, -⟩ := (State.settles_settleReleases
    ((s.storedHome p r asid b e bs).storeFollowed asid b core e bs.length s.seq)).sameMemory
  exact hhome.trans hafter.home

/-- The bytes that a store has left in L2 are those at their home. -/
theorem storePerformed_bytes (hfit : e.addr % 256 + bs.length ≤ 256) (h : TookIn (s.storedHome p r asid b e bs) asid e.addr bs)
    (hown : (s.storePerformed p r asid b core e bs).ownerOf asid (lineOf e.addr) = none) {i : Nat} (hi : i < bs.length) :
    ((s.storePerformed p r asid b core e bs).homeByte asid (e.addr + i)).map (·.1) = bs[i]? := by
  obtain ⟨l, hl, -, hbits⟩ := h.record
  have hafter := aftermath_storeFollowed (s.storedHome p r asid b e bs) asid b core e bs.length s.seq
  have hl' : ((s.storedHome p r asid b e bs).storeFollowed asid b core e bs.length s.seq).lines.find (lkey asid (lineOf e.addr)) = some l := by
    rw [hafter.lines]
    exact hl
  obtain ⟨cs, v, hv, hvalid⟩ := (State.settles_settleReleases
    ((s.storedHome p r asid b e bs).storeFollowed asid b core e bs.length s.seq)).lines _ l hl'
  refine homeByte_stored hfit hi hv (fun j hj => ?_) (by rw [storePerformed_home]; exact h.bytes i hi) hown
  obtain ⟨hval, hdirty⟩ := hbits j hj
  rcases hvalid with rfl | rfl
  · exact hval
  · simp [hval, hdirty]

end

section
variable {s : State} {p : Nat} {r : Right} {asid b core : Nat} {e : WEntry} {bs : List Byte} {l : L2Line}
  (h : StoredAt s.stamp.2 (s.storedHome p r asid b e bs) asid e.addr bs l)
include h

/-- A store that hits L2 leaves the physical tiers and the homes of other lines. -/
theorem storePerformed_hit : (s.storePerformed p r asid b core e bs).pt = s.pt ∧ (s.storePerformed p r asid b core e bs).sram = s.sram ∧
    ∀ a, (a < gkey asid (lineOf e.addr * 256) ∨ gkey asid (lineOf e.addr * 256) + 256 ≤ a) →
      (s.storePerformed p r asid b core e bs).home.get a = s.home.get a := by
  obtain ⟨hspace, -⟩ := storePerformed_space s p r asid b core e bs h
  exact ⟨(congrArg State.pt hspace.space :), (congrArg State.sram hspace.space :), fun a ha => by rw [storePerformed_home]; exact h.far a ha⟩

/-- With no acquire under way the home lines are as the store has left them. -/
theorem storePerformed_lines (hidle : s.Idle) : (s.storePerformed p r asid b core e bs).lines = (s.storedHome p r asid b e bs).lines := by
  have hafter := aftermath_storeFollowed (s.storedHome p r asid b e bs) asid b core e bs.length s.seq
  have hstored : (s.storedHome p r asid b e bs).Idle := (congrArg State.Idle h.frame :).mpr hidle
  exact (settleReleases_idle (hafter.idle hstored)).trans hafter.lines

/-- Every byte beside a store that hits L2 is at its home what it was (06 R117). -/
theorem storePerformed_beside (hl : s.line? asid (lineOf e.addr) = some l) (hidle : s.Idle) (hr : s.trans asid e.addr = some r) (ht : r.tgt = 0)
    (hown : s.ownerOf asid (lineOf e.addr) = none) (hpa : l.pa = r.linePa (lineOf e.addr)) {a : Nat} (ha : a < e.addr ∨ e.addr + bs.length ≤ a) :
    ((s.storePerformed p r asid b core e bs).homeByte asid a).map (·.1) = (s.homeByte asid a).map (·.1) := by
  obtain ⟨hspace, hstash⟩ := storePerformed_space s p r asid b core e bs h
  have hlines := storePerformed_lines (core := core) h hidle
  have hhome := storePerformed_home s p r asid b core e bs
  by_cases hline : lineOf a = lineOf e.addr
  · obtain ⟨l', hl', howner, -, hvalid, -⟩ := h.record
    have hgranule : a / 65536 = e.addr / 65536 := by
      unfold lineOf at hline
      omega
    refine homeByte_beside hspace hstash (l := l) (l' := l') (r := r) (m := (sectorMask e.addr bs.length).getLsbD (sectorIn a)) (hline ▸ hl)
      ((congrArg (Table.find · _) hlines).trans (hline ▸ hl')) (hline ▸ hown) howner (hvalid _ (sectorIn_lt a))
      ((s.trans_granule asid hgranule).trans hr) ht (hline ▸ hpa) ?_
    rw [hhome, h.around a hline ha]
    rfl
  · refine homeByte_same hspace hstash ((congrArg (Table.find · _) hlines).trans (h.others _ ?_)) ?_
    · unfold lkey
      omega
    · rw [hhome, h.far]
      · rfl
      · unfold gkey lineOf at *
        omega

end

/-! ## FORWARDED_ACCESS -/

theorem viaPort_iff {s : State} {asid va : Nat} {r : Right} (h : s.viaPort asid va = some r) :
    s.ownerOf asid (lineOf va) = none ∧ s.trans asid va = some r ∧ r.tgt ≠ 0 := by
  unfold State.viaPort at h
  split at h
  · cases h
  · next hown =>
    obtain ⟨htrans, htgt⟩ := Option.filter_eq_some_iff.mp h
    exact ⟨by simpa using hown, htrans, by simpa using htgt⟩

/-- The write that joins a port. -/
def State.portWriteOf (s : State) (asid : Nat) (e : WEntry) (r : Right) (bs : List Byte) : PortWrite :=
  { seq := s.seq, waves := [e.wave], born := e.seq, asid := asid, va := e.addr, tgt := r.tgt, peer := r.peer, addr := r.pa + e.addr % 65536
    bytes := bs }

/-- The state with the write in its port, the access counted and the line's tag as the write says. -/
def State.sentOut (s : State) (b asid : Nat) (e : WEntry) (r : Right) (bs : List Byte) : State :=
  ((s.countAccess asid e.addr).stamp.2.sendPort r asid e.addr bs s.seq e.seq [e.wave]).setTag asid (lineOf e.addr)
    (if e.tag = true then some b else none)

/-- What follows in the queue and in what the block has seen. -/
def State.leftForPort (u : State) (b core asid : Nat) (e : WEntry) (n q tgt : Nat) : State :=
  (((u.forwarded e.seq q tgt).sawAt b asid e.addr q (if e.read = true then n else 0)).stampL1 b core asid e.addr n q).modBlock b fun x =>
    { x with oq := x.oq.filter fun y => y.seq != e.seq }

theorem aftermath_leftForPort (u : State) (b core asid : Nat) (e : WEntry) (n q tgt : Nat) :
    u.Aftermath (u.leftForPort b core asid e n q tgt) := by
  have hrel : u.Aftermath (u.forwarded e.seq q tgt) := .of_frame rfl fun h x hx => by
    obtain ⟨y, hy, rfl⟩ := List.mem_map.mp hx
    exact h y hy
  exact ((hrel.trans (State.aftermath_sawAt _ _ _ _ _ _)).trans (State.aftermath_stampL1 _ _ _ _ _ _ _)).trans
    (State.aftermath_modBlock _ _ _ fun x => ⟨x.seen, _, rfl⟩)

theorem sentOut_frame (s : State) (b asid : Nat) (e : WEntry) (r : Right) (bs : List Byte) :
    (s.sentOut b asid e r bs).portWrites = s.portWrites ++ [s.portWriteOf asid e r bs] ∧ (s.sentOut b asid e r bs).home = s.home ∧
      (s.sentOut b asid e r bs).host = s.host ∧ (s.sentOut b asid e r bs).peers = s.peers := by
  have h := setTag_frame ((s.countAccess asid e.addr).stamp.2.sendPort r asid e.addr bs s.seq e.seq [e.wave]) asid (lineOf e.addr)
    (if e.tag = true then some b else none)
  exact ⟨(congrArg State.portWrites h :), (congrArg State.home h :), (congrArg State.host h :), (congrArg State.peers h :)⟩

section
variable {s : State} {b line n p : Nat} {bk : Block} {e : WEntry} {r : Right} {bs : List Byte} (hb : s.block? b = some bk)
  (hd : s.due bk line 1 = [e]) (hp : s.partOfAsid (s.asidOf bk.part) = some p) (hv : s.viaPort (s.asidOf bk.part) e.addr = some r)
  (hbs : e.payload = .store bs) (hne : bs ≠ []) (hhalf : s.halfWay r.tgt (r.pa + e.addr % 65536) bs.length = false)
include hp hv hne hhalf

/-- A store to memory behind a port joins the port. -/
theorem homeWrite_port : (s.countAccess (s.asidOf bk.part) e.addr).stamp.2.homeWrite (s.asidOf bk.part) e.addr bs s.seq e.seq [e.wave]
    (if e.tag = true then some b else none) e.cpol = some (s.sentOut b (s.asidOf bk.part) e r bs) := by
  obtain ⟨hown, htrans, htgt⟩ := viaPort_iff hv
  have hspace : s.SameSpace (s.countAccess (s.asidOf bk.part) e.addr).stamp.2 := .of_parts rfl rfl
  have hp' := (hspace.asids (s.asidOf bk.part)).trans hp
  have hr' := (hspace.trans? (s.asidOf bk.part) e.addr).trans htrans
  have hshadow' := (hspace.shadowDue (s.asidOf bk.part) (lineOf e.addr)).trans (shadowDue_elsewhere hp htrans htgt)
  have hown' : (s.countAccess (s.asidOf bk.part) e.addr).stamp.2.ownerOf (s.asidOf bk.part) (lineOf e.addr) = none := hown
  have hhalf' : (s.countAccess (s.asidOf bk.part) e.addr).stamp.2.halfWay r.tgt (r.pa + e.addr % 65536) bs.length = false := hhalf
  have hempty : bs.isEmpty = false := by simpa using hne
  simp only [State.homeWrite, hempty, Bool.false_eq_true, if_false, hshadow', Option.isSome_none, hown', hp', hr', htgt, hhalf']
  rfl

include hb hd hbs

theorem exec_forwardedAccess : exec (.forwardedAccess b line n) s =
    .next ((s.sentOut b (s.asidOf bk.part) e r bs).leftForPort b bk.core (s.asidOf bk.part) e bs.length s.seq r.tgt).settleReleases := by
  have hwrite := homeWrite_port (b := b) hp hv hne hhalf
  have hserve : s.serveEntries b bk.core (s.asidOf bk.part) [e] =
      some ((s.sentOut b (s.asidOf bk.part) e r bs).leftForPort b bk.core (s.asidOf bk.part) e bs.length s.seq r.tgt) := by
    simp only [State.serveEntries, List.head?_cons, Option.bind_some, hv, List.foldl_cons, List.foldl_nil, State.forwardEntry, hbs]
    exact congrArg (Option.map _) hwrite
  simp only [exec, execForwardedAccess, hb, hd, hv, Option.isNone_some, Bool.false_eq_true, if_false, hserve, Option.map_some, Option.getD_some]

end

/-! ## What each event comes to -/

/-- PERFORM of a store at its home: its bytes stand through what follows from it (`State.Aftermath`) and the releases that it completes
(`State.Settles`). -/
theorem exec_perform_home {s : State} {b line n p : Nat} {bk : Block} {e : WEntry} {r : Right} {bs : List Byte} (hb : s.block? b = some bk)
    (hd : s.due bk line n = [e]) (hp : s.partOfAsid (s.asidOf bk.part) = some p) (hr : s.trans (s.asidOf bk.part) e.addr = some r)
    (ht : r.tgt = 0) (hbs : e.payload = .store bs) (hne : bs ≠ []) (hshadow : s.shadowDue (s.asidOf bk.part) (lineOf e.addr) = none)
    (hown : s.ownerOf (s.asidOf bk.part) (lineOf e.addr) = none) :
    exec (.perform b line n) s = .next (s.storePerformed p r (s.asidOf bk.part) b bk.core e bs) := by
  have hwrite := writeHome_store (b := b) hp hr ht hshadow hown hne
  rw [exec_perform_store hb hd (viaPort_home hr ht) hbs hwrite, afterPerform_store hbs]
  rfl

/-- A store that L2 takes in has its bytes at its home. -/
theorem storePerformed_taken {s : State} {p b core asid : Nat} {r : Right} {e : WEntry} {bs : List Byte} (hok : MemoryOk s = true)
    (hfit : e.addr % 256 + bs.length ≤ 256) (hplace : s.inL2 asid (lineOf e.addr) = true ∨
      (l2Prio e.cpol r.attr ≠ none ∧ s.setPinned (s.keySlice (lkey asid (lineOf e.addr))) (lkey asid (lineOf e.addr)) = false))
    (hown : (s.storePerformed p r asid b core e bs).ownerOf asid (lineOf e.addr) = none) {i : Nat} (hi : i < bs.length) :
    ((s.storePerformed p r asid b core e bs).homeByte asid (e.addr + i)).map (·.1) = bs[i]? := by
  have hwf : s.home.wf = true := by
    simp only [MemoryOk, Bool.and_eq_true] at hok
    tauto
  have htook := tookIn_storeLine (s := s.stamp.2) (p := p) (r := r) [e.wave] e.cpol hwf hfit hplace
  exact storePerformed_bytes s p r asid b core e bs hfit (htook.setTag _) hown hi

/-- A store to a line that L2 holds leaves that line with its bytes and nothing else changed. -/
theorem storedAt_storedHome {s : State} {p b asid : Nat} {r : Right} {e : WEntry} {bs : List Byte} {l : L2Line} (hok : MemoryOk s = true)
    (hfit : e.addr % 256 + bs.length ≤ 256) (hl : s.line? asid (lineOf e.addr) = some l) (hway : l.way.isSome = true) :
    StoredAt s.stamp.2 (s.storedHome p r asid b e bs) asid e.addr bs l := by
  have hwf : s.home.wf = true := by
    simp only [MemoryOk, Bool.and_eq_true] at hok
    tauto
  exact (storedAt_hit (s := s.stamp.2) (p := p) (r := r) hfit [e.wave] e.cpol hl hway hwf).setTag _

theorem forwardedAccess_spec {s : State} {b line n p : Nat} {bk : Block} {e : WEntry} {r : Right} {bs : List Byte} (hb : s.block? b = some bk)
    (hd : s.due bk line 1 = [e]) (hp : s.partOfAsid (s.asidOf bk.part) = some p) (hv : s.viaPort (s.asidOf bk.part) e.addr = some r)
    (hbs : e.payload = .store bs) (hne : bs ≠ []) (hhalf : s.halfWay r.tgt (r.pa + e.addr % 65536) bs.length = false) :
    ∃ t, exec (.forwardedAccess b line n) s = .next t ∧ t.portWrites = s.portWrites ++ [s.portWriteOf (s.asidOf bk.part) e r bs] ∧
      t.home = s.home ∧ t.host = s.host ∧ t.peers = s.peers := by
  have hafter := aftermath_leftForPort (s.sentOut b (s.asidOf bk.part) e r bs) b bk.core (s.asidOf bk.part) e bs.length s.seq r.tgt
  obtain ⟨-, -, hhost, hpeers, hhome, -, hports⟩ := (State.settles_settleReleases
    ((s.sentOut b (s.asidOf bk.part) e r bs).leftForPort b bk.core (s.asidOf bk.part) e bs.length s.seq r.tgt)).sameMemory
  obtain ⟨hsent, hhome', hhost', hpeers'⟩ := sentOut_frame s b (s.asidOf bk.part) e r bs
  exact ⟨_, exec_forwardedAccess hb hd hp hv hbs hne hhalf, hports.trans ((congrArg State.portWrites hafter.space.space :).trans hsent),
    hhome.trans (hafter.home.trans hhome'), hhost.trans ((congrArg State.host hafter.space.space :).trans hhost'),
    hpeers.trans ((congrArg State.peers hafter.space.space :).trans hpeers')⟩

theorem port_system_spec {s : State} {x : PortWrite} (hx : s.oldestAt .system = some x) (hbar : s.barAt x.addr = none) :
    ∃ t, exec (.port .system) s = .next t ∧ t.portWrites = s.portWrites.erase x ∧ t.pt = s.pt ∧ t.sram = s.sram ∧ t.home = s.home ∧
      t.host = s.host.write x.addr x.bytes ∧ t.peers = s.peers := by
  have htgt : x.tgt = 1 := by simpa using List.find?_some hx
  have hdel := deliver_host (s := { s with portWrites := s.portWrites.erase x }) htgt hbar
  obtain ⟨hpt, hsram, hhost, hpeers, hhome, -, hports⟩ := State.sameMemory_leftPort _ x
  refine ⟨_, exec_port hx, ?_⟩
  rw [hdel]
  exact ⟨hports, hpt, hsram, hhome, hhost, hpeers⟩

theorem port_fabric_spec {s : State} {x : PortWrite} (hx : s.oldestAt .fabric = some x) :
    ∃ t, exec (.port .fabric) s = .next t ∧ t.portWrites = s.portWrites.erase x ∧ t.pt = s.pt ∧ t.sram = s.sram ∧ t.home = s.home ∧
      t.peers = s.peers.write (peerKey x.peer x.addr) x.bytes ∧ t.host = s.host := by
  have htgt : x.tgt = 2 := by
    have hfound := List.find?_some hx
    simp only [Bool.and_eq_true, beq_iff_eq] at hfound
    exact hfound.1
  have hdel := deliver_peer (s := { s with portWrites := s.portWrites.erase x }) htgt
  obtain ⟨hpt, hsram, hhost, hpeers, hhome, -, hports⟩ := State.sameMemory_leftPort _ x
  refine ⟨_, exec_port hx, ?_⟩
  rw [hdel]
  exact ⟨hports, hpt, hsram, hhome, hpeers, hhost⟩

/-- A write that reaches a kick page rings the doorbell there. -/
theorem port_doorbell_spec {s : State} {x : PortWrite} {p q : Nat} (hx : s.oldestAt .system = some x) (hbar : s.barAt x.addr = some (p, 8 * q))
    (hq : q < 64) (hlen : x.bytes.length = 8) :
    ∃ t, exec (.doorbell p q (BitVec.ofNat 64 (leValue x.bytes))) { s with portWrites := s.portWrites.erase x } = .next t ∧
      exec (.port .system) s = .next ((t.fire x.asid x.va 8).leftPort x) := by
  obtain ⟨t, ht⟩ := execDoorbell_next p q (BitVec.ofNat 64 (leValue x.bytes)) { s with portWrites := s.portWrites.erase x }
  have htgt : x.tgt = 1 := by simpa using List.find?_some hx
  have hbar' : ({ s with portWrites := s.portWrites.erase x } : State).barAt x.addr = some (p, 8 * q) := hbar
  have hdeliver : ({ s with portWrites := s.portWrites.erase x } : State).deliver x = t.fire x.asid x.va 8 := by
    simp only [State.deliver, htgt, if_true, hbar', kickWrite_doorbell hq hlen ht, hlen]
  exact ⟨t, ht, hdeliver ▸ exec_port hx⟩

theorem fillL1_spec {s : State} {b line : Nat} {bk : Block} {r : Right} {xs : List (Byte × Nat)} (hb : s.block? b = some bk)
    (he : ∃ e, (s.part bk.part).shareIn bk.core = some e ∧ e.l1w ≠ 0) (ha : s.access bk.core (s.asidOf bk.part) (line * 64) .read = .granted r)
    (hr : r.attr = 0) (hx : s.fillBytes bk (s.asidOf bk.part) line = some xs) :
    ∃ t, exec (.fillL1 b line) s = .next t ∧ SameMemory s t ∧
      ∃ l ∈ (t.core bk.core).l1, l.block = b ∧ l.asid = s.asidOf bk.part ∧ l.line = line ∧ l.bytes = xs := by
  obtain ⟨e, he, hw⟩ := he
  refine ⟨_, exec_fillL1 (State.fillL1_granted hb he hw ha hr hx), State.sameMemory_l1Room _ _ _ _ _ _,
    { block := b, asid := s.asidOf bk.part, line := line, bytes := xs }, ?_, rfl, rfl, rfl, rfl⟩
  rw [State.modCore, State.core_setCore_self]
  exact List.mem_append_right _ (List.mem_singleton.mpr rfl)

theorem evict_l1_spec (s : State) (c p asid line : Nat) :
    ∃ t, exec (.evict (.l1 c p asid line)) s = .next t ∧ SameMemory s t ∧ ∀ l ∈ (t.core c).l1, l ∈ (s.core c).l1 ∧
      ¬(l.asid = asid ∧ l.line = line ∧ ((s.block? l.block).any fun b => b.part == p) = true) := by
  refine ⟨_, rfl, ⟨rfl, rfl, rfl, rfl, rfl, rfl, rfl⟩, fun l hl => ?_⟩
  obtain ⟨hmem, hkeep⟩ := State.mem_l1_filter hl
  refine ⟨hmem, fun ⟨h1, h2, h3⟩ => ?_⟩
  simp only [h1, h2, h3, beq_self_eq_true, Bool.and_self, Bool.not_true] at hkeep
  cases hkeep

theorem evict_copy_spec (s : State) (sec asid line : Nat) :
    ∃ t, exec (.evict (.copy sec asid line)) s = .next t ∧ SameMemory s t ∧
      ∀ x ∈ t.copies, x ∈ s.copies ∧ ¬(x.sec = sec ∧ x.asid = asid ∧ x.line = line) := by
  refine ⟨_, rfl, s.sameMemory_dropCopy sec _, fun x hx => ?_⟩
  rw [State.dropCopy_copies] at hx
  obtain ⟨hmem, hkeep⟩ := List.mem_filter.mp hx
  refine ⟨hmem, fun ⟨h1, h2, h3⟩ => ?_⟩
  simp only [h1, h2, h3, beq_self_eq_true, Bool.and_self, Bool.not_true] at hkeep
  cases hkeep

/-- The victim of a set is gone from L2: what is left of its record is neither valid nor dirty. -/
theorem evict_home_spec {s : State} {asid line : Nat} (hvic : s.isVictim (lkey asid line) = true) :
    ∃ t, exec (.evict (.home asid line)) s = .next t ∧
      ∀ l', t.line? asid line = some l' → l'.valid = 0 ∧ l'.dirty = 0 ∧ l'.way = none := by
  refine ⟨(s.evictHome asid line).settleReleases, by simp only [exec, execEvict, hvic, if_true], fun l' hl' => ?_⟩
  obtain ⟨l0, cs, v, hl0, rfl, hv⟩ := (State.settles_settleReleases _).line? hl'
  obtain ⟨hvalid, hdirty, hway⟩ := State.line?_evictHome hl0
  refine ⟨?_, hdirty, hway⟩
  rcases hv with rfl | rfl <;> simp [hvalid]

theorem evict_sram_spec {s : State} {line : Nat} {l : SramLine} (hl : s.sram.find line = some l) (hlen : l.bytes.length = 256)
    (hwf : s.pt.wf = true) :
    ∃ t, exec (.evict (.sram line)) s = .next t ∧ t.sram = s.sram.drop line ∧ t.home = s.home ∧ t.host = s.host ∧ t.peers = s.peers ∧
      ∀ a, a / 256 = line → t.pt.get a = if l.dirty.getLsbD (a / 64 % 4) = true then nth l.bytes (a % 256) 0 else s.pt.get a := by
  refine ⟨_, exec_evict_sram hl, rfl, rfl, rfl, rfl, fun a ha => ?_⟩
  have hmem : a / 64 % 4 ∈ ([0, 1, 2, 3].filter fun k => l.dirty.getLsbD k) ↔ l.dirty.getLsbD (a / 64 % 4) = true := by
    have hlt : a / 64 % 4 < 4 := Nat.mod_lt _ (by decide)
    rw [List.mem_filter, and_iff_right]
    simp only [List.mem_cons, List.not_mem_nil, or_false]
    omega
  refine (get_sectorsOut hlen ha _ (fun k hk => ?_) hwf).trans (if_congr hmem rfl rfl)
  have hk' := List.mem_of_mem_filter hk
  simp only [List.mem_cons, List.not_mem_nil, or_false] at hk'
  omega

/-- The oldest message of a sector is consumed. -/
theorem consume_oldest_spec {s : State} {sec : Nat} {m : Inval} (hm : s.invals.find? (fun m => m.sec == sec) = some m) :
    ∃ t, exec (.consume sec) s = .next t ∧ SameMemory s t ∧ (∀ i ∈ t.invals, i ∈ s.invals.erase m) ∧
      ∀ x ∈ t.copies, x ∈ s.copies ∧ ¬(x.sec = sec ∧ x.asid = m.asid ∧ x.line = m.line) := by
  have hsec : m.sec = sec := by simpa using List.find?_some hm
  have hsettles := State.settles_settleReleases ((s.consumeWhere fun x => x == m).tidyLine m.asid m.line)
  obtain ⟨hinvals, hcopies⟩ := consume_spec (List.mem_of_find?_eq_some hm) hsettles
  rw [hsec] at hcopies
  exact ⟨_, by simp only [exec, execConsume, hm], sameMemory_trans (sameMemory_trans (State.sameMemory_consumeWhere s _)
    (State.sameMemory_tidyLine _ _ _)) hsettles.sameMemory, hinvals, hcopies⟩

theorem writeBack_home_spec {s : State} {asid line k : Nat} {l : L2Line} (hl : s.line? asid line = some l) (hk : k < 4)
    (hd : l.dirty.getLsbD k = true) (hp : l.pinned = false ∨ ∃ e ∈ s.waves, ∃ r ∈ e.2.releases, (lkey asid line, k) ∈ r.l2) :
    ∃ t, exec (.writeBack (.home asid line k)) s = .next t ∧
      t.pt = (s.ptWrite (l.pa + 64 * k) (s.home.read (gkey asid (line * 256 + 64 * k)) 64)).pt ∧
      t.sram = (s.ptWrite (l.pa + 64 * k) (s.home.read (gkey asid (line * 256 + 64 * k)) 64)).sram ∧
      t.host = s.host ∧ t.peers = s.peers ∧ t.home = s.home ∧ ∀ l', t.line? asid line = some l' → l'.dirty.getLsbD k = false := by
  have hsettles := State.settles_settleReleases (s.sectorDone asid line k)
  obtain ⟨hpt, hsram, hhost, hpeers, hhome, -, -⟩ := sameMemory_trans (State.sectorDone_memory hl hd) hsettles.sameMemory
  refine ⟨_, exec_writeBack_home hl hk hd hp, hpt, hsram, hhost.trans (State.ptWrite_host _ _ _),
    hpeers.trans (State.ptWrite_peers _ _ _), hhome.trans (State.ptWrite_home _ _ _), fun l' hl' => ?_⟩
  obtain ⟨l0, cs, v, hl0, rfl, -⟩ := hsettles.line? hl'
  have hline : (s.sectorBack asid line k).line? asid line = some l0 := hl0
  rw [State.sectorBack_eq hl hd, State.line?_modLine] at hline
  obtain ⟨l1, -, rfl⟩ := Option.map_eq_some_iff.mp hline
  exact clean_bit _ hk

end Sys2Proof.Machine

namespace Sys2Proof

open Machine Safety

/-- Settles O54: a store's bytes at its home stand through what follows from it (`State.Aftermath`) and the releases that it completes
(`State.Settles`); the other events move one line, copy, message or write. -/
theorem homeEvents : Obligations.HomeEvents := by
  unfold Obligations.HomeEvents
  dsimp only
  refine ⟨fun s b line n p bk e r hb hd hp hr ht => ⟨fun bs hbs hne hfit hshadow hown hok => ?store,
      fun bs s1 hbs hw hv => exec_perform_store hb hd hv hbs hw,
      fun a old s1 hpay hsum hperf => exec_perform_atomic hb hd (viaPort_home hr ht) hpay hsum hperf⟩,
    fun s s1 b line n bk e es xs hb hd hv hx hs => exec_perform_sum hb hd hv hx hs,
    fun s b line n p bk e r bs hb hd hp hv hbs hne hhalf => ?forwarded,
    fun s x port hx hbar => ?port, fun s x p q hx hbar hq hlen => port_doorbell_spec hx hbar hq hlen,
    fun s b line bk r xs hb he ha hr hx => fillL1_spec hb he ha hr hx,
    fun s s1 sec asid line p prio sl way r xs hp hr hsec hout hprio htgt hsl hpin hx hway => ?fillCopy,
    fun s c p sec asid line bundle => ⟨evict_l1_spec s c p asid line, evict_copy_spec s sec asid line, evict_home_spec, fun hvic => ?notVictim,
      fun l => evict_sram_spec, s.dropBundle c (ckey asid (bundle * 32)), rfl, ⟨rfl, rfl, rfl, rfl, rfl, rfl, rfl⟩, s.dropBundle_spec c _⟩,
    fun s sec m => consume_oldest_spec, fun s asid line k l => writeBack_home_spec,
    fun s s1 b i k j bk hb hp hs => exec_writeBack_stash hb hp hs⟩
  case store =>
    obtain ⟨hhost, hpeers, hports⟩ := storePerformed_ports s p r (s.asidOf bk.part) b bk.core e bs
    refine ⟨_, exec_perform_home hb hd hp hr ht hbs hne hshadow hown, hhost, hpeers, hports,
      fun hplace hown' i hi => storePerformed_taken hok hfit hplace hown' hi, fun hin => ?_, storePerformed_queue s p r _ b bk.core e bs hb⟩
    obtain ⟨l, hl, hway⟩ := State.inL2_iff.mp hin
    have hstored := storedAt_storedHome (p := p) (b := b) (r := r) hok hfit hl hway
    obtain ⟨hpt, hsram, hfar⟩ := storePerformed_hit (core := bk.core) hstored
    refine ⟨hpt, hsram, hfar, fun hidle hpa a ha => storePerformed_beside hstored hl hidle hr ht hown ?_ ha⟩
    rw [hl] at hpa
    exact Option.some.inj hpa
  case forwarded =>
    obtain ⟨t, he, hports, hmem⟩ := forwardedAccess_spec (n := n) hb hd hp hv hbs hne hhalf
    exact ⟨t, _, he, hports, rfl, rfl, rfl, rfl, rfl, hmem⟩
  case port =>
    cases port with
    | system => exact port_system_spec hx (hbar rfl)
    | fabric => exact port_fabric_spec hx
  case fillCopy =>
    have he := (exec_fillCopy hp hr hsec hout hprio).trans (congrArg Host.Outcome.next (makeCopy_made hr htgt hsl hpin hx hway))
    refine ⟨_, he, State.sameMemory_countCopy _ sec asid line r.tgt, State.countCopy_copies _ sec asid line r.tgt, fun ⟨v, hv, hfree⟩ => ?_,
      fun ht => ?_⟩
    · have hs1 := State.freeWay_free hv hfree hway
      refine sameMemory_trans (t := s1) ?_ (State.sameMemory_countCopy _ sec asid line r.tgt)
      rw [hs1]
      exact s.sameMemory_dropCopy sec (lkey asid line)
    · rw [ht]
      exact State.countCopy_counts _ sec asid line
  case notVictim => simp only [exec, execEvict, hvic, Bool.false_eq_true, if_false]

end Sys2Proof
end

section
/-! PROOFS. Integer results (11 R167): what wrapping and clamping an exact result leaves, read back as an integer of the type. -/

namespace Sys2Proof.Machine

/-- Every element has a bit. -/
theorem elemWidth_pos (ty : Nat) : 0 < elemWidth ty := by
  unfold elemWidth
  split <;> decide

/-- The pattern of an integer, as an integer. -/
theorem wrap_cast (w : Nat) (n : Int) : (wrap w n : Int) = n % (2 ^ w : Nat) :=
  Int.toNat_of_nonneg (Int.emod_nonneg _ (by positivity))

theorem wrap_lt (w : Nat) (n : Int) : wrap w n < 2 ^ w := by
  have h := Int.emod_lt_of_pos n (b := ((2 ^ w : Nat) : Int)) (by positivity)
  have := wrap_cast w n
  omega

/-- The pattern of an integer that its type holds stands for that integer. -/
theorem intVal_wrap {signed : Bool} {w : Nat} {n : Int} (hw : 0 < w) (hlo : intMin signed w ≤ n) (hhi : n ≤ intMax signed w) :
    intVal signed w (wrap w n) = n := by
  have hmod : wrap w n % 2 ^ w = wrap w n := Nat.mod_eq_of_lt (wrap_lt w n)
  have hcast := wrap_cast w n
  cases signed with
  | false =>
    simp only [intVal, intMin, intMax, Bool.false_eq_true, if_false, hmod] at *
    rw [hcast, Int.emod_eq_of_lt hlo (by omega)]
  | true =>
    have hhalf : 2 ^ w = 2 * 2 ^ (w - 1) := (mul_pow_sub_one hw.ne' 2).symm
    simp only [intVal, toSigned, intMin, intMax, if_true, hmod] at *
    rcases lt_or_ge n 0 with hn | hn
    · rw [← Int.add_emod_right, Int.emod_eq_of_lt (by omega) (by omega)] at hcast
      rw [if_pos (by omega)]
      omega
    · rw [Int.emod_eq_of_lt hn (by omega)] at hcast
      rw [if_neg (by omega), hcast]

theorem intMin_le_clamp (signed : Bool) (w : Nat) (n : Int) : intMin signed w ≤ clamp signed w n := le_max_left _ _

theorem clamp_le_intMax (signed : Bool) (w : Nat) (n : Int) : clamp signed w n ≤ intMax signed w := by
  have : intMin signed w ≤ intMax signed w := by
    cases signed
    · have := Nat.one_le_two_pow (n := w)
      simp only [intMin, intMax, Bool.false_eq_true, if_false]
      omega
    · have := Nat.one_le_two_pow (n := w - 1)
      simp only [intMin, intMax, if_true]
      omega
  exact max_le this (min_le_left _ _)

/-- A saturated result stands for the exact result, clamped once. -/
theorem intVal_saturated {signed : Bool} {w : Nat} (hw : 0 < w) (n : Int) :
    intVal signed w (intResult true signed w n) = max (intMin signed w) (min (intMax signed w) n) :=
  intVal_wrap hw (intMin_le_clamp signed w n) (clamp_le_intMax signed w n)

/-- The high half of a number above the low half is the number modulo both. -/
theorem wrap_halves (w : Nat) (n : Int) : (wrap w (n / (2 ^ w : Nat)) : Int) * (2 ^ w : Nat) + wrap w n = n % (2 ^ (2 * w) : Nat) := by
  rw [wrap_cast, wrap_cast, two_mul, pow_add, Nat.cast_mul, Int.emod_def, Int.emod_def, Int.emod_def,
    Int.ediv_ediv_of_nonneg (Int.natCast_nonneg _)]
  ring

end Sys2Proof.Machine

namespace Sys2Proof

open Machine

/-- Settles O16: an integer result is the exact one, wrapped or clamped (`intResult`). -/
theorem integerResults : Obligations.IntegerResults := by
  unfold Obligations.IntegerResults
  intro ty rnd x y z hty
  have hw := elemWidth_pos ty
  simp only [addElem, subElem, mulElem, madElem, absElem, negElem, dotLane, mulhiElem, hty, Bool.false_eq_true, if_false, true_and, and_true,
    intVal_saturated hw, intVal_saturated (show 0 < 32 by decide)]
  exact ⟨rfl, rfl, rfl, rfl, ⟨rfl, rfl⟩, rfl, fun _ => wrap_halves _ _⟩

end Sys2Proof
end

section
/-! PROOFS. Float elements (11 R163, Table 11.2): the number that a magnitude code stands for, and what taking an element apart finds. -/

namespace Sys2Proof.Machine

open Safety

/-! ## Magnitude codes -/

/-- The significand of a magnitude code. -/
def Fmt.sig (f : Fmt) (c : Nat) : Nat := if c / 2 ^ f.mbits = 0 then c % 2 ^ f.mbits else 2 ^ f.mbits + c % 2 ^ f.mbits

/-- The exponent of the last place of a magnitude code. -/
def Fmt.quant (f : Fmt) (c : Nat) : Int :=
  if c / 2 ^ f.mbits = 0 then f.emin - f.mbits else ((c / 2 ^ f.mbits : Nat) : Int) - f.bias - f.mbits

/-- The number that a magnitude code stands for, were there no bound on exponents. -/
def Fmt.codeVal (f : Fmt) (c : Nat) : ℚ := f.sig c * 2 ^ f.quant c

theorem Fmt.sig_lt (f : Fmt) (c : Nat) : f.sig c < 2 ^ (f.mbits + 1) := by
  have := Nat.mod_lt c (Nat.two_pow_pos f.mbits)
  unfold Fmt.sig
  rw [pow_succ]
  split <;> omega

theorem Fmt.emin_le_quant (f : Fmt) (c : Nat) : f.emin - f.mbits ≤ f.quant c := by
  unfold Fmt.quant Fmt.emin
  generalize c / 2 ^ f.mbits = a
  split <;> omega

/-- A code's own parts, from its exponent field and its mantissa. -/
theorem Fmt.codeVal_mk (f : Fmt) {a b : Nat} (hb : b < 2 ^ f.mbits) :
    f.codeVal (a * 2 ^ f.mbits + b) =
      if a = 0 then (b : ℚ) * 2 ^ (f.emin - f.mbits) else (2 ^ f.mbits + b : ℚ) * 2 ^ ((a : Int) - f.bias - f.mbits) := by
  have hdiv : (a * 2 ^ f.mbits + b) / 2 ^ f.mbits = a := by
    rw [add_comm, Nat.add_mul_div_right _ _ (Nat.two_pow_pos _), Nat.div_eq_of_lt hb, zero_add]
  have hmod : (a * 2 ^ f.mbits + b) % 2 ^ f.mbits = b := by
    rw [add_comm, Nat.add_mul_mod_self_right, Nat.mod_eq_of_lt hb]
  simp only [Fmt.codeVal, Fmt.sig, Fmt.quant, hdiv, hmod]
  split <;> push_cast <;> rfl

/-- The next code stands for the next number: they differ by the last place. -/
theorem Fmt.codeVal_succ (f : Fmt) (c : Nat) : f.codeVal (c + 1) = f.codeVal c + 2 ^ f.quant c := by
  have hb := Nat.mod_lt c (Nat.two_pow_pos f.mbits)
  have hc : c = c / 2 ^ f.mbits * 2 ^ f.mbits + c % 2 ^ f.mbits := by rw [mul_comm]; exact (Nat.div_add_mod c _).symm
  have hq : f.quant c = if c / 2 ^ f.mbits = 0 then f.emin - f.mbits else ((c / 2 ^ f.mbits : Nat) : Int) - f.bias - f.mbits := rfl
  generalize c / 2 ^ f.mbits = a at hc hq
  generalize c % 2 ^ f.mbits = b at hc hb
  rw [hq]
  subst hc
  rw [f.codeVal_mk hb]
  rcases Nat.lt_or_ge (b + 1) (2 ^ f.mbits) with hlt | hge
  · rw [add_assoc, f.codeVal_mk hlt]
    split <;> push_cast <;> ring
  · have hb' : b + 1 = 2 ^ f.mbits := by omega
    have hb'' : (b : ℚ) = 2 ^ f.mbits - 1 := by rw [eq_sub_iff_add_eq]; exact_mod_cast hb'
    have hs : a * 2 ^ f.mbits + b + 1 = (a + 1) * 2 ^ f.mbits + 0 := by rw [add_assoc, hb']; ring
    rw [hs, f.codeVal_mk (Nat.two_pow_pos _), if_neg (Nat.succ_ne_zero a), hb'']
    split
    · next h => subst h; simp only [Fmt.emin]; push_cast; ring_nf
    · rw [show ((a + 1 : Nat) : Int) - f.bias - f.mbits = (a : Int) - f.bias - f.mbits + 1 by push_cast; ring,
        zpow_add_one₀ two_ne_zero]
      push_cast
      ring

theorem Fmt.codeVal_strictMono (f : Fmt) : StrictMono f.codeVal :=
  strictMono_nat_of_lt_succ fun c => by
    rw [f.codeVal_succ]
    exact lt_add_of_pos_right _ (by positivity)

@[simp] theorem Fmt.codeVal_zero (f : Fmt) : f.codeVal 0 = 0 := by simp [Fmt.codeVal, Fmt.sig]

theorem Fmt.codeVal_nonneg (f : Fmt) (c : Nat) : 0 ≤ f.codeVal c := by unfold Fmt.codeVal; positivity

theorem Fmt.codeVal_pos (f : Fmt) {c : Nat} (h : c ≠ 0) : 0 < f.codeVal c := by
  rw [← f.codeVal_zero]
  exact f.codeVal_strictMono (Nat.pos_of_ne_zero h)

/-- Putting a significand and an exponent together gives a code that stands for their number. -/
theorem codeVal_codeOf (f : Fmt) {r : Nat} {q : Int} (hr : r ≤ 2 ^ (f.mbits + 1)) (hq : f.emin - f.mbits ≤ q)
    (h : 2 ^ f.mbits ≤ r ∨ q = f.emin - f.mbits) : f.codeVal (codeOf f r q) = r * 2 ^ q := by
  have normal {r' : Nat} {q' : Int} (h1 : 2 ^ f.mbits ≤ r') (h2 : r' < 2 * 2 ^ f.mbits) (hq' : f.emin - f.mbits ≤ q') :
      f.codeVal ((q' + f.mbits + f.bias).toNat * 2 ^ f.mbits + (r' - 2 ^ f.mbits)) = r' * 2 ^ q' := by
    have ha : ((q' + f.mbits + f.bias).toNat : Int) = q' + f.mbits + f.bias := Int.toNat_of_nonneg (by unfold Fmt.emin at hq'; omega)
    rw [f.codeVal_mk (by omega), if_neg (by unfold Fmt.emin at hq'; omega), ha, Nat.cast_sub h1]
    push_cast
    ring_nf
  have hp := Nat.two_pow_pos f.mbits
  unfold codeOf
  rw [pow_succ] at *
  by_cases htop : r = 2 ^ f.mbits * 2
  · subst htop
    simp only [if_true, Nat.mul_div_cancel _ two_pos, lt_irrefl, if_false]
    rw [normal le_rfl (by omega) (by omega), zpow_add_one₀ two_ne_zero]
    push_cast
    ring
  · simp only [htop, if_false]
    split
    · next hlt =>
      have := f.codeVal_mk (a := 0) hlt
      rw [zero_mul, zero_add, if_pos rfl] at this
      rw [this, h.resolve_left (by omega)]
    · exact normal (by omega) (by omega) hq

/-! ## Elements -/

theorem Fmt.signBit_pos (f : Fmt) : 0 < f.signBit := Nat.two_pow_pos _

theorem expF_eq (f : Fmt) (x : Nat) : expF f x = x % f.signBit / 2 ^ f.mbits := by
  rw [expF, Fmt.signBit, add_comm, pow_add, Nat.mod_mul_right_div_self]

theorem manF_eq (f : Fmt) (x : Nat) : manF f x = x % f.signBit % 2 ^ f.mbits := by
  rw [manF, Fmt.signBit, add_comm, pow_add, Nat.mod_mul_right_mod]

/-- A number's bits below twice the sign bit: the magnitude and the sign. -/
theorem mod_two_signBit (f : Fmt) (x : Nat) : x % (2 * f.signBit) = x % f.signBit + f.signBit * (if negF f x then 1 else 0) := by
  rw [mul_comm, Nat.mod_mul]
  congr 2
  unfold negF
  rcases Nat.mod_two_eq_zero_or_one (x / f.signBit) with h | h <;> simp [h]

/-- The sign of a Boolean. -/
def sgn (neg : Bool) : ℚ := if neg then -1 else 1

@[simp] theorem sgn_false : sgn false = 1 := rfl
@[simp] theorem sgn_true : sgn true = -1 := rfl

theorem realF_eq (f : Fmt) (x : Nat) : realF f x = sgn (negF f x) * f.codeVal (x % f.signBit) := by
  simp only [realF, sgn, Fmt.codeVal, Fmt.sig, Fmt.quant, expF_eq, manF_eq, Fmt.emin]
  split_ifs <;> push_cast <;> rfl

/-- A magnitude is all ones when its exponent field and its mantissa are. -/
theorem mag_all_ones (f : Fmt) (x : Nat) :
    x % f.signBit = f.signBit - 1 ↔ expF f x = 2 ^ f.ebits - 1 ∧ manF f x = 2 ^ f.mbits - 1 := by
  have hs : f.signBit = 2 ^ f.mbits * 2 ^ f.ebits := by rw [Fmt.signBit, add_comm, pow_add]
  have h1 := Nat.two_pow_pos f.mbits
  have h2 := Nat.two_pow_pos f.ebits
  have h3 := Nat.div_add_mod (x % f.signBit) (2 ^ f.mbits)
  have h4 : 2 ^ f.mbits * (2 ^ f.ebits - 1) = f.signBit - 2 ^ f.mbits := by rw [Nat.mul_sub, mul_one, hs]
  rw [← expF_eq, ← manF_eq] at h3
  have h5 : expF f x < 2 ^ f.ebits := Nat.mod_lt _ h2
  have h6 : manF f x < 2 ^ f.mbits := Nat.mod_lt _ h1
  have h7 : 2 ^ f.mbits ≤ f.signBit := by rw [hs]; exact Nat.le_mul_of_pos_right _ h2
  constructor
  · intro h
    have h8 : ¬ expF f x < 2 ^ f.ebits - 1 := fun hlt => by
      have := Nat.mul_le_mul_left (2 ^ f.mbits) (show expF f x + 1 ≤ 2 ^ f.ebits - 1 by omega)
      rw [Nat.mul_add, mul_one] at this
      omega
    have h9 : expF f x = 2 ^ f.ebits - 1 := by omega
    rw [h9] at h3
    exact ⟨h9, by omega⟩
  · rintro ⟨h8, h9⟩
    rw [h8] at h3
    omega

/-- What an element is, taken apart. -/
theorem unpack_eq (f : Fmt) (x : Nat) : unpack f x =
    if nanF f x then .nan (snanF f x) else if infF f x then .inf (negF f x)
    else .fin (negF f x) (f.sig (x % f.signBit)) (f.quant (x % f.signBit)) := by
  have hmag : x % (2 * f.signBit) % f.signBit = x % f.signBit := Nat.mod_mul_left_mod x 2 f.signBit
  have hneg : decide (f.signBit ≤ x % (2 * f.signBit)) = negF f x := by
    have := Nat.mod_lt x f.signBit_pos
    rw [mod_two_signBit]
    cases negF f x
    · simpa using this
    · simp
  have hfin : (if expF f x = 0 then FVal.fin (negF f x) (manF f x) (f.emin - f.mbits)
      else .fin (negF f x) (2 ^ f.mbits + manF f x) ((expF f x : Int) - f.bias - f.mbits)) =
      .fin (negF f x) (if expF f x = 0 then manF f x else 2 ^ f.mbits + manF f x)
        (if expF f x = 0 then f.emin - f.mbits else (expF f x : Int) - f.bias - f.mbits) := by split <;> rfl
  simp only [unpack, hmag, hneg, ← expF_eq, ← manF_eq, nanF, infF, snanF, Fmt.sig, Fmt.quant, mag_all_ones, hfin]
  cases f.special with
  | ieee =>
    by_cases he : expF f x = 2 ^ f.ebits - 1
    · by_cases hm : manF f x = 0 <;> simp [he, hm]
    · simp [he]
  | f8a =>
    by_cases h : expF f x = 2 ^ f.ebits - 1 ∧ manF f x = 2 ^ f.mbits - 1
    · simp [h.1, h.2]
    · have h' : (expF f x == 2 ^ f.ebits - 1 && manF f x == 2 ^ f.mbits - 1) = false := by simpa using h
      simp [h, h']
  | none => simp

theorem unpack_of_nan {f : Fmt} {x : Nat} (h : nanF f x = true) : unpack f x = .nan (snanF f x) := by
  rw [unpack_eq, if_pos h]

theorem unpack_of_inf {f : Fmt} {x : Nat} (hn : nanF f x = false) (h : infF f x = true) : unpack f x = .inf (negF f x) := by
  rw [unpack_eq, if_neg (by simp [hn]), if_pos h]

theorem unpack_of_fin {f : Fmt} {x : Nat} (h : finF f x) :
    unpack f x = .fin (negF f x) (f.sig (x % f.signBit)) (f.quant (x % f.signBit)) := by
  rw [unpack_eq, if_neg (by simp [h.1]), if_neg (by simp [h.2])]

/-- An infinity is no NaN. -/
theorem nanF_of_infF {f : Fmt} {x : Nat} (h : infF f x = true) : nanF f x = false := by
  unfold infF at h
  unfold nanF
  simp only [Bool.and_eq_true, beq_iff_eq] at h
  obtain ⟨⟨hs, -⟩, hm⟩ := h
  simp [hs, hm]

/-! ## Codes with a sign -/

theorem Fmt.signed_mod {f : Fmt} {c : Nat} (neg : Bool) (h : c < f.signBit) : f.signed neg c % f.signBit = c := by
  cases neg <;> simp [Fmt.signed, Nat.mod_eq_of_lt h]

theorem negF_signed {f : Fmt} {c : Nat} (neg : Bool) (h : c < f.signBit) : negF f (f.signed neg c) = neg := by
  cases neg <;> simp [negF, Fmt.signed, Nat.div_eq_of_lt h, Nat.add_div_left _ f.signBit_pos]

theorem Fmt.signed_lt {f : Fmt} {c : Nat} (neg : Bool) (h : c < f.signBit) : f.signed neg c < 2 * f.signBit := by
  cases neg <;> simp [Fmt.signed] <;> omega

theorem realF_signed {f : Fmt} {c : Nat} (neg : Bool) (h : c < f.signBit) : realF f (f.signed neg c) = sgn neg * f.codeVal c := by
  rw [realF_eq, Fmt.signed_mod neg h, negF_signed neg h]

/-- The finite elements are those whose magnitude code is at most the largest finite one. -/
theorem finF_iff {f : Fmt} (hE : 0 < f.ebits) (x : Nat) : finF f x ↔ x % f.signBit ≤ f.maxCode := by
  have hlt := Nat.mod_lt x f.signBit_pos
  have hE2 := Nat.one_lt_two_pow hE.ne'
  have hs : f.signBit = 2 ^ f.ebits * 2 ^ f.mbits := by rw [Fmt.signBit, pow_add]
  unfold finF nanF infF Fmt.maxCode
  cases f.special with
  | ieee =>
    have hexp : expF f x = 2 ^ f.ebits - 1 ↔ (2 ^ f.ebits - 1) * 2 ^ f.mbits ≤ x % f.signBit := by
      have h5 : expF f x < 2 ^ f.ebits := Nat.mod_lt _ (Nat.two_pow_pos _)
      rw [← Nat.le_div_iff_mul_le (Nat.two_pow_pos _), ← expF_eq]
      omega
    have h1 : 0 < (2 ^ f.ebits - 1) * 2 ^ f.mbits := Nat.mul_pos (by omega) (Nat.two_pow_pos _)
    rw [Nat.le_sub_one_iff_lt h1, ← not_le, ← hexp]
    by_cases he : expF f x = 2 ^ f.ebits - 1
    · by_cases hm : manF f x = 0 <;> simp [he, hm]
    · simp [he]
  | f8a =>
    have hall := mag_all_ones f x
    have : x % f.signBit ≤ f.signBit - 2 ↔ ¬ x % f.signBit = f.signBit - 1 := by
      have := Nat.mul_le_mul hE2 (Nat.one_le_two_pow (n := f.mbits))
      omega
    rw [← Fmt.signBit, this, hall]
    simp
  | none =>
    rw [← Fmt.signBit]
    simp
    omega

theorem Fmt.maxCode_lt {f : Fmt} (hE : 0 < f.ebits) : f.maxCode < f.signBit := by
  have hE2 := Nat.one_lt_two_pow hE.ne'
  have hM := Nat.one_le_two_pow (n := f.mbits)
  have hs : f.signBit = 2 ^ f.ebits * 2 ^ f.mbits := by rw [Fmt.signBit, pow_add]
  have h1 : (2 ^ f.ebits - 1) * 2 ^ f.mbits ≤ f.signBit := by rw [hs]; exact Nat.mul_le_mul_right _ (Nat.sub_le _ _)
  have := f.signBit_pos
  unfold Fmt.maxCode
  rw [← Fmt.signBit]
  cases f.special <;> simp only <;> omega

theorem realF_maxCode {f : Fmt} (hE : 0 < f.ebits) : realF f f.maxCode = f.codeVal f.maxCode := by
  simpa [Fmt.signed] using realF_signed false (Fmt.maxCode_lt hE)

/-- A code with a sign, at most the largest finite one, is a finite element. -/
theorem finF_signed {f : Fmt} (hE : 0 < f.ebits) {c : Nat} (neg : Bool) (h : c ≤ f.maxCode) : finF f (f.signed neg c) := by
  rw [finF_iff hE, Fmt.signed_mod neg (h.trans_lt (Fmt.maxCode_lt hE))]
  exact h

end Sys2Proof.Machine
end

section
/-! PROOFS. One rounding (11 R164, R165): the gap of a format's numbers in which an exact result lies, the end of it that RND selects, and
the flags. -/

namespace Sys2Proof.Machine

open Safety

/-! ## The modes -/

/-- RND is one of the four directed modes, or to nearest even. -/
theorem rnd_cases (rnd : Nat) : rnd = 1 ∨ rnd = 2 ∨ rnd = 3 ∨ rnd = 4 ∨ (rnd ≠ 1 ∧ rnd ≠ 2 ∧ rnd ≠ 3 ∧ rnd ≠ 4) := by omega

section
variable {rnd : Nat} (h : rnd ≠ 1 ∧ rnd ≠ 2 ∧ rnd ≠ 3 ∧ rnd ≠ 4)
include h

theorem nearest_even {S : ℚ → Prop} {q : ℝ} {u : ℚ} : Nearest rnd S q u ↔ S u ∧ ∀ g : ℚ, S g →
    |(u : ℝ) - q| ≤ |(g : ℝ) - q| ∧ (|(u : ℝ) - q| = |(g : ℝ) - q| → g ≠ u → ∃ n : ℤ, u = 2 * n * (u - g)) := by
  obtain ⟨h1, h2, h3, h4⟩ := h
  unfold Nearest
  split
  · exact absurd rfl h1
  · exact absurd rfl h2
  · exact absurd rfl h3
  · exact absurd rfl h4
  · rfl

theorem roundsUp_even {neg : Bool} {N r den : Nat} :
    roundsUp rnd neg N r den = true ↔ r ≠ 0 ∧ (den < r ∨ (r = den ∧ N % 2 = 1)) := by
  obtain ⟨h1, h2, h3, h4⟩ := h
  unfold roundsUp
  by_cases hr : r = 0
  · simp [hr]
  · rw [if_neg hr]
    split
    · exact absurd rfl h1
    · exact absurd rfl h2
    · exact absurd rfl h3
    · exact absurd rfl h4
    · simp [hr]

end

/-- RND for the opposite sign. -/
def flipRnd (rnd : Nat) : Nat := if rnd = 2 then 3 else if rnd = 3 then 2 else rnd

theorem flipRnd_even {rnd : Nat} (h : rnd ≠ 1 ∧ rnd ≠ 2 ∧ rnd ≠ 3 ∧ rnd ≠ 4) : flipRnd rnd = rnd := by
  simp [flipRnd, h.2.1, h.2.2.1]

theorem roundsUp_neg (rnd N r den : Nat) : roundsUp rnd true N r den = roundsUp (flipRnd rnd) false N r den := by
  rcases rnd_cases rnd with rfl | rfl | rfl | rfl | h
  · rfl
  · rfl
  · rfl
  · rfl
  · rw [flipRnd_even h, Bool.eq_iff_iff, roundsUp_even h, roundsUp_even h]

/-- Rounding of the opposite number, where a set holds the opposite of each of its numbers. -/
theorem nearest_neg {rnd : Nat} {S : ℚ → Prop} {y : ℝ} {u : ℚ} (hS : ∀ g, S g → S (-g)) (h : Nearest (flipRnd rnd) S y u) :
    Nearest rnd S (-y) (-u) := by
  have hu : |((-u : ℚ) : ℝ) - -y| = |(u : ℝ) - y| := by rw [← abs_neg]; push_cast; ring_nf
  have hdist (g : ℚ) : |(g : ℝ) - -y| = |((-g : ℚ) : ℝ) - y| := by rw [← abs_neg]; push_cast; ring_nf
  rcases rnd_cases rnd with rfl | rfl | rfl | rfl | hr
  · obtain ⟨hu, h1, h2, h3⟩ := h
    refine ⟨hS u hu, by push_cast; linarith, by push_cast; simpa using h2, fun g hg hpos hle => ?_⟩
    simpa using h3 (-g) (hS g hg) (by push_cast; linarith) (by push_cast; simpa using hle)
  · obtain ⟨hu, h1, h2⟩ := h
    refine ⟨hS u hu, by push_cast; linarith, fun g hg hle => ?_⟩
    linarith [h2 (-g) (hS g hg) (by push_cast; linarith)]
  · obtain ⟨hu, h1, h2⟩ := h
    refine ⟨hS u hu, by push_cast; linarith, fun g hg hle => ?_⟩
    linarith [h2 (-g) (hS g hg) (by push_cast; linarith)]
  · obtain ⟨hSu, h1⟩ := h
    refine ⟨hS u hSu, fun g hg => ?_⟩
    rw [hu, hdist, abs_neg]
    simpa using h1 (-g) (hS g hg)
  · rw [flipRnd_even hr, nearest_even hr] at h
    obtain ⟨hSu, h1⟩ := h
    rw [nearest_even hr]
    refine ⟨hS u hSu, fun g hg => ?_⟩
    rw [hu, hdist]
    obtain ⟨h4, h5⟩ := h1 (-g) (hS g hg)
    refine ⟨h4, fun he hne => ?_⟩
    obtain ⟨n, hn⟩ := h5 he fun hc => hne (by rw [← hc, neg_neg])
    exact ⟨n, by linarith⟩

/-! ## A gap and its ends -/

section
variable {S : ℚ → Prop} {a b : ℚ} {y : ℝ} (hgap : ∀ g, S g → g ≤ a ∨ b ≤ g) (ha : S a) (hb : S b) (hlo : a ≤ y) (hhi : y < b)
include hgap

/-- The lower end of the gap is nearest to what is not beyond the middle. -/
theorem nearest_lower (hlo : a ≤ y) (hm : y ≤ (a + b) / 2) (g : ℚ) (hg : S g) :
    |(a : ℝ) - y| ≤ |(g : ℝ) - y| ∧ (|(a : ℝ) - y| = |(g : ℝ) - y| → g = a ∨ (g = b ∧ y = (a + b) / 2)) := by
  rw [abs_of_nonpos (by linarith)]
  rcases hgap g hg with h | h
  · have h' : (g : ℝ) ≤ a := by exact_mod_cast h
    rw [abs_of_nonpos (by linarith)]
    refine ⟨by linarith, fun he => .inl ?_⟩
    have : (g : ℝ) = a := by linarith
    exact_mod_cast this
  · have h' : (b : ℝ) ≤ g := by exact_mod_cast h
    rw [abs_of_nonneg (by linarith)]
    refine ⟨by linarith, fun he => .inr ⟨?_, by linarith⟩⟩
    have : (g : ℝ) = b := by linarith
    exact_mod_cast this

/-- The upper end of the gap is nearest to what is not before the middle. -/
theorem nearest_upper (hhi : y < b) (hm : (a + b) / 2 ≤ y) (g : ℚ) (hg : S g) :
    |(b : ℝ) - y| ≤ |(g : ℝ) - y| ∧ (|(b : ℝ) - y| = |(g : ℝ) - y| → g = b ∨ (g = a ∧ y = (a + b) / 2)) := by
  rw [abs_of_nonneg (by linarith)]
  rcases hgap g hg with h | h
  · have h' : (g : ℝ) ≤ a := by exact_mod_cast h
    rw [abs_of_nonpos (by linarith)]
    refine ⟨by linarith, fun he => .inr ⟨?_, by linarith⟩⟩
    have : (g : ℝ) = a := by linarith
    exact_mod_cast this
  · have h' : (b : ℝ) ≤ g := by exact_mod_cast h
    rw [abs_of_nonneg (by linarith)]
    refine ⟨by linarith, fun he => .inl ?_⟩
    have : (g : ℝ) = b := by linarith
    exact_mod_cast this

include ha hlo

theorem nearest_down (hhi : y < b) : Nearest 3 S y a :=
  ⟨ha, hlo, fun g hg hy => (hgap g hg).resolve_right fun hb => by
    have : (b : ℝ) ≤ g := by exact_mod_cast hb
    linarith⟩

theorem nearest_zero (hhi : y < b) (ha0 : 0 ≤ a) : Nearest 1 S y a := by
  have ha0R : (0 : ℝ) ≤ a := by exact_mod_cast ha0
  have hy : 0 ≤ y := ha0R.trans hlo
  refine ⟨ha, mul_nonneg ha0R hy, by rwa [abs_of_nonneg ha0R, abs_of_nonneg hy], fun g hg hpos hle => ?_⟩
  rw [abs_of_nonneg ha0]
  rw [abs_of_nonneg hy] at hle
  rcases hy.eq_or_lt with h | h
  · have : |g| ≤ 0 := by exact_mod_cast h ▸ hle
    exact this.trans ha0
  · have hg0 : (0 : ℝ) ≤ g := nonneg_of_mul_nonneg_left hpos h
    rw [abs_of_nonneg (by exact_mod_cast hg0)]
    exact (nearest_down hgap ha hlo hhi).2.2 g hg (by rwa [abs_of_nonneg hg0] at hle)

theorem nearest_away_lower (hm : y < (a + b) / 2) : Nearest 4 S y a := by
  refine ⟨ha, fun g hg => ?_⟩
  obtain ⟨h1, h2⟩ := nearest_lower hgap hlo hm.le g hg
  refine ⟨h1, fun he => ?_⟩
  rcases h2 he with rfl | ⟨-, hm'⟩
  · exact le_rfl
  · exact absurd hm' hm.ne

theorem nearest_even_lower {rnd : Nat} (hr : rnd ≠ 1 ∧ rnd ≠ 2 ∧ rnd ≠ 3 ∧ rnd ≠ 4) (hm : y ≤ (a + b) / 2)
    (he : y = (a + b) / 2 → ∃ n : ℤ, a = 2 * n * (a - b)) : Nearest rnd S y a := by
  rw [nearest_even hr]
  refine ⟨ha, fun g hg => ?_⟩
  obtain ⟨h1, h2⟩ := nearest_lower hgap hlo hm g hg
  refine ⟨h1, fun heq hne => ?_⟩
  obtain ⟨rfl, hm'⟩ := (h2 heq).resolve_left hne
  exact he hm'

omit ha hlo
include hb hhi

theorem nearest_up (hlo : a ≤ y) (hne : y ≠ a) : Nearest 2 S y b :=
  ⟨hb, hhi.le, fun g hg hy => (hgap g hg).resolve_left fun ha => hne <| by
    have : (g : ℝ) ≤ a := by exact_mod_cast ha
    linarith⟩

theorem nearest_away_upper (ha0 : 0 ≤ a) (hm : (a + b) / 2 ≤ y) : Nearest 4 S y b := by
  refine ⟨hb, fun g hg => ?_⟩
  obtain ⟨h1, h2⟩ := nearest_upper hgap hhi hm g hg
  refine ⟨h1, fun he => ?_⟩
  rcases h2 he with rfl | ⟨rfl, -⟩
  · exact le_rfl
  · have hgb : (g : ℝ) ≤ b := by linarith
    have hgb' : g ≤ b := by exact_mod_cast hgb
    rwa [abs_of_nonneg ha0, abs_of_nonneg (ha0.trans hgb')]

theorem nearest_even_upper {rnd : Nat} (hr : rnd ≠ 1 ∧ rnd ≠ 2 ∧ rnd ≠ 3 ∧ rnd ≠ 4) (hm : (a + b) / 2 ≤ y)
    (he : y = (a + b) / 2 → ∃ n : ℤ, b = 2 * n * (b - a)) : Nearest rnd S y b := by
  rw [nearest_even hr]
  refine ⟨hb, fun g hg => ?_⟩
  obtain ⟨h1, h2⟩ := nearest_upper hgap hhi hm g hg
  refine ⟨h1, fun heq hne => ?_⟩
  obtain ⟨rfl, hm'⟩ := (h2 heq).resolve_left hne
  exact he hm'

end

/-- A member of a set is what it is rounded to. -/
theorem nearest_self {S : ℚ → Prop} {u : ℚ} (hu : S u) (rnd : Nat) : Nearest rnd S u u := by
  rcases rnd_cases rnd with rfl | rfl | rfl | rfl | hr
  · exact ⟨hu, mul_self_nonneg _, le_rfl, fun g _ _ h => by exact_mod_cast h⟩
  · exact ⟨hu, le_rfl, fun g _ h => by exact_mod_cast h⟩
  · exact ⟨hu, le_rfl, fun g _ h => by exact_mod_cast h⟩
  · refine ⟨hu, fun g _ => ⟨by simp, fun h => ?_⟩⟩
    rw [sub_self, abs_zero, eq_comm, abs_eq_zero, sub_eq_zero] at h
    exact (congrArg abs (Rat.cast_injective h)).le
  · rw [nearest_even hr]
    refine ⟨hu, fun g _ => ⟨by simp, fun h hne => absurd ?_ hne⟩⟩
    rw [sub_self, abs_zero, eq_comm, abs_eq_zero, sub_eq_zero] at h
    exact Rat.cast_injective h

/-- y lies in gap N of the multiples of w, not at its upper end; r / den is twice its distance from the lower end, in units of w, as far as
comparing it with 0 and 1 goes. -/
structure InGap (N r den : Nat) (w : ℚ) (y : ℝ) : Prop where
  lower : ((N * w : ℚ) : ℝ) ≤ y
  upper : y < (((N + 1) * w : ℚ) : ℝ)
  exact : r = 0 ↔ y = ((N * w : ℚ) : ℝ)
  beyond : den < r ↔ (((N + 1 / 2) * w : ℚ) : ℝ) < y
  tie : r = den ↔ y = (((N + 1 / 2) * w : ℚ) : ℝ)

/-- The end of its gap that a number is rounded to. -/
def roundedEnd (rnd : Nat) (neg : Bool) (N r den : Nat) : Nat := if roundsUp rnd neg N r den then N + 1 else N

section
variable {S : ℚ → Prop} {N r den : Nat} {w : ℚ} {y : ℝ} (hw : 0 < w) (h : InGap N r den w y) (hN : S (N * w)) (hN1 : S ((N + 1) * w))
  (hgap : ∀ g, S g → g ≤ N * w ∨ (N + 1) * w ≤ g)
include hw h hN hN1 hgap

/-- A number that is not negative is rounded to the end of its gap that RND selects. -/
theorem nearest_nonneg (rnd : Nat) : Nearest rnd S y (roundedEnd rnd false N r den * w) := by
  obtain ⟨hlo, hhi, hex, hlt, htie⟩ := h
  have hmid : (((N + 1 / 2) * w : ℚ) : ℝ) = (((N * w : ℚ) : ℝ) + ((N + 1) * w : ℚ)) / 2 := by push_cast; ring
  have hup : ((N + 1 : Nat) * w : ℚ) = (N + 1) * w := by push_cast; rfl
  have ha0 : 0 ≤ N * w := by positivity
  have heven (hk : Even N) : ∃ n : ℤ, N * w = 2 * n * (N * w - (N + 1) * w) := by
    obtain ⟨k, rfl⟩ := hk
    exact ⟨-k, by push_cast; ring⟩
  have hodd (hk : Even (N + 1)) : ∃ n : ℤ, (N + 1) * w = 2 * n * ((N + 1) * w - N * w) := by
    obtain ⟨k, hk⟩ := hk
    have : (N : ℚ) + 1 = k + k := by exact_mod_cast hk
    exact ⟨k, by push_cast; linear_combination w * this⟩
  have hwR : ((N * w : ℚ) : ℝ) < ((N + 1) * w : ℚ) := by exact_mod_cast (by linarith : N * w < (N + 1) * w)
  rw [hmid] at hlt htie
  unfold roundedEnd
  rw [apply_ite Nat.cast, ite_mul, hup]
  generalize (N * w : ℚ) = a at *
  generalize ((N + 1) * w : ℚ) = b at *
  have hle : den ≤ r ↔ ((a : ℝ) + b) / 2 ≤ y := by rw [le_iff_lt_or_eq, le_iff_lt_or_eq, hlt, eq_comm, htie, eq_comm (a := y)]
  rcases rnd_cases rnd with rfl | rfl | rfl | rfl | hr
  · rw [if_neg (by simp [roundsUp])]
    exact nearest_zero hgap hN hlo hhi ha0
  · by_cases hr : r = 0
    · rw [if_neg (by simp [roundsUp, hr]), hex.mp hr]
      exact nearest_self hN 2
    · rw [if_pos (by simp [roundsUp, hr])]
      exact nearest_up hgap hN1 hhi hlo fun hy => hr (hex.mpr hy)
  · rw [if_neg (by simp [roundsUp])]
    exact nearest_down hgap hN hlo hhi
  · by_cases hd : den ≤ r
    · have hr0 : r ≠ 0 := fun h => by linarith [hex.mp h, hle.mp hd]
      rw [if_pos (by simp [roundsUp, hr0, hd])]
      exact nearest_away_upper hgap hN1 hhi ha0 (hle.mp hd)
    · rw [if_neg (by simp [roundsUp, hd])]
      exact nearest_away_lower hgap hN hlo (lt_of_not_ge fun hge => hd (hle.mpr hge))
  · by_cases hd : den < r ∨ (r = den ∧ N % 2 = 1)
    · have hm : ((a : ℝ) + b) / 2 ≤ y := hle.mp (by omega)
      rw [if_pos ((roundsUp_even hr).mpr ⟨fun h => by linarith [hex.mp h], hd⟩)]
      refine nearest_even_upper hgap hN1 hhi hr hm fun he => hodd (Nat.even_iff.mpr ?_)
      have := htie.mpr he
      omega
    · have hm : y ≤ ((a : ℝ) + b) / 2 := le_of_not_gt fun hgt => hd (.inl (hlt.mpr hgt))
      rw [if_neg fun h => hd ((roundsUp_even hr).mp h).2]
      refine nearest_even_lower hgap hN hlo hr hm fun he => heven (Nat.even_iff.mpr ?_)
      have := htie.mpr he
      omega

end

/-- The same of a number of either sign, in a set that holds the opposite of each of its numbers. -/
theorem nearest_signed {S : ℚ → Prop} (hS : ∀ g, S g → S (-g)) {N r den : Nat} {w : ℚ} {y : ℝ} (hw : 0 < w) (h : InGap N r den w y)
    (hN : S (N * w)) (hN1 : S ((N + 1) * w)) (hgap : ∀ g, S g → g ≤ N * w ∨ (N + 1) * w ≤ g) (rnd : Nat) (neg : Bool) :
    Nearest rnd S (sgn neg * y) (sgn neg * (roundedEnd rnd neg N r den * w)) := by
  cases neg with
  | false => simpa using nearest_nonneg hw h hN hN1 hgap rnd
  | true =>
    have := nearest_neg hS (nearest_nonneg hw h hN hN1 hgap (flipRnd rnd))
    rwa [show roundedEnd rnd true N r den = roundedEnd (flipRnd rnd) false N r den by rw [roundedEnd, roundedEnd, roundsUp_neg],
      sgn_true, Rat.cast_neg, Rat.cast_one, neg_one_mul, neg_one_mul]

/-- The end that a number is rounded to differs from it when it is not the lower one. -/
theorem InGap.inexact {N r den : Nat} {w : ℚ} {y : ℝ} (h : InGap N r den w y) (rnd : Nat) (neg : Bool) :
    (r != 0) = true ↔ ((roundedEnd rnd neg N r den * w : ℚ) : ℝ) ≠ y := by
  rw [bne_iff_ne, ne_eq, h.exact]
  unfold roundedEnd
  split
  · next hu =>
    have hr : r ≠ 0 := fun h0 => by simp [roundsUp, h0] at hu
    rw [← h.exact]
    refine iff_of_true hr ?_
    push_cast
    exact_mod_cast h.upper.ne'
  · rw [eq_comm]

/-- Where a rational number lies, by a division with rest. -/
theorem inGap_of_ratio {N rest D : Nat} {w y : ℚ} (hw : 0 < w) (hrest : rest < D) (hy : y = (N + rest / D) * w) :
    InGap N (2 * rest) D w y := by
  have hD : (0 : ℚ) < D := by exact_mod_cast hrest.pos
  have hlt : (rest : ℚ) / D < 1 := (div_lt_one hD).mpr (by exact_mod_cast hrest)
  have h0 : (0 : ℚ) ≤ rest / D := by positivity
  have hhalf : (1 / 2 : ℚ) < rest / D ↔ D < 2 * rest := by
    rw [lt_div_iff₀ hD, ← Nat.cast_lt (α := ℚ)]
    push_cast
    constructor <;> intro h <;> linarith
  have hhalf' : (rest / D : ℚ) = 1 / 2 ↔ 2 * rest = D := by
    rw [div_eq_iff hD.ne', ← Nat.cast_inj (R := ℚ)]
    push_cast
    constructor <;> intro h <;> linarith
  subst hy
  constructor
  · exact_mod_cast mul_le_mul_of_nonneg_right (by linarith) hw.le
  · rw [Rat.cast_lt]
    exact mul_lt_mul_of_pos_right (by linarith) hw
  · rw [Rat.cast_inj, mul_left_inj' hw.ne', add_eq_left, div_eq_zero_iff, or_iff_left hD.ne']
    norm_cast
    omega
  · rw [Rat.cast_lt, mul_lt_mul_iff_left₀ hw, add_lt_add_iff_left, hhalf]
  · rw [Rat.cast_inj, mul_left_inj' hw.ne', add_right_inj, hhalf']

/-- What rounding to a multiple of a power of two does: it finds the gap in which the number lies, and takes an end of it. -/
theorem roundAt_spec {n d : Nat} (hd : 0 < d) (e q : Int) : ∃ N r den : Nat, InGap N r den (2 ^ q) (n / d * 2 ^ e : ℝ) ∧
    ∀ rnd neg, roundAt rnd neg n d e q = (roundedEnd rnd neg N r den, r != 0) := by
  have key {num den : Nat} (hden : 0 < den) (hv : (n / d * 2 ^ e : ℚ) = num / den * 2 ^ q) :
      InGap (num / den) (2 * (num % den)) den (2 ^ q) (n / d * 2 ^ e : ℝ) := by
    have hcast : (n / d * 2 ^ e : ℝ) = ((n / d * 2 ^ e : ℚ) : ℝ) := by push_cast; rfl
    rw [hcast]
    refine inGap_of_ratio (by positivity) (Nat.mod_lt _ hden) (hv.trans ?_)
    congr 1
    have hden' : (den : ℚ) ≠ 0 := by exact_mod_cast hden.ne'
    rw [div_eq_iff hden', add_mul, div_mul_cancel₀ _ hden']
    exact_mod_cast (by rw [mul_comm]; exact (Nat.div_add_mod num den).symm : num = num / den * den + num % den)
  have hd' : (d : ℚ) ≠ 0 := by exact_mod_cast hd.ne'
  have he : (2 : ℚ) ^ e = 2 ^ (e - q) * 2 ^ q := by rw [← zpow_add₀ two_ne_zero, sub_add_cancel]
  by_cases hk : 0 ≤ e - q
  · refine ⟨_, _, _, key (num := n * 2 ^ (e - q).toNat) hd ?_, fun rnd neg => ?_⟩
    · have : (2 : ℚ) ^ (e - q).toNat = 2 ^ (e - q) := by rw [← zpow_natCast, Int.toNat_of_nonneg hk]
      push_cast
      rw [this, he]
      ring
    · simp only [roundAt, hk, if_true, roundedEnd]
  · refine ⟨_, _, _, key (num := n) (den := d * 2 ^ (-(e - q)).toNat) (by positivity) ?_, fun rnd neg => ?_⟩
    · have : (2 : ℚ) ^ (-(e - q)).toNat = (2 ^ (e - q))⁻¹ := by rw [← zpow_natCast, Int.toNat_of_nonneg (by omega), zpow_neg]
      push_cast
      rw [this, he]
      field_simp
    · simp only [roundAt, hk, if_false, roundedEnd]

/-! ## The grid of a format -/

theorem onGrid_neg {f : Fmt} {lowest : Option ℤ} {u : ℚ} (h : OnGrid f lowest u) : OnGrid f lowest (-u) := by
  obtain ⟨k, t, hk, hl, rfl⟩ := h
  exact ⟨-k, t, by rwa [abs_neg], hl, by push_cast; ring⟩

theorem onGrid_sgn {f : Fmt} {lowest : Option ℤ} (neg : Bool) {u : ℚ} (h : OnGrid f lowest u) : OnGrid f lowest (sgn neg * u) := by
  cases neg with
  | false => simpa using h
  | true => simpa using onGrid_neg h

/-- A multiple with the format's precision, or one more, is on the grid. -/
theorem onGrid_multiple {f : Fmt} {lowest : Option ℤ} {N : Nat} {q : ℤ} (hN : N ≤ 2 ^ (f.mbits + 1)) (hl : ∀ l, lowest = some l → l ≤ q) :
    OnGrid f lowest (N * 2 ^ q) := by
  rcases hN.lt_or_eq with hlt | rfl
  · exact ⟨N, q, by rw [Nat.abs_cast]; exact_mod_cast hlt, hl, by norm_cast⟩
  · refine ⟨1, q + (f.mbits + 1 : Nat), by simpa using one_lt_pow₀ (one_lt_two (α := ℤ)) (Nat.succ_ne_zero _), fun l h => ?_, ?_⟩
    · have := hl l h
      omega
    · rw [zpow_add₀ two_ne_zero, zpow_natCast]
      push_cast
      ring

/-- Between two neighbouring multiples of the last place that a number of the format can have there, the grid has no number. -/
theorem onGrid_gap {f : Fmt} {lowest : Option ℤ} {N : Nat} {q : ℤ} (hq : 2 ^ f.mbits ≤ N ∨ lowest = some q) {g : ℚ}
    (hg : OnGrid f lowest g) : g ≤ N * 2 ^ q ∨ (N + 1) * 2 ^ q ≤ g := by
  obtain ⟨k, t, hk, hl, rfl⟩ := hg
  have hq0 : (0 : ℚ) < 2 ^ q := by positivity
  rcases le_or_gt q t with ht | ht
  · obtain ⟨j, rfl⟩ := Int.le.dest ht
    have hkt : (k : ℚ) * 2 ^ (q + j : ℤ) = ((k * 2 ^ j : ℤ) : ℚ) * 2 ^ q := by
      rw [zpow_add₀ two_ne_zero, zpow_natCast]
      push_cast
      ring
    rw [hkt, mul_le_mul_iff_left₀ hq0, mul_le_mul_iff_left₀ hq0]
    rcases le_or_gt (k * 2 ^ j) (N : ℤ) with h | h
    · exact .inl (by exact_mod_cast h)
    · exact .inr (by exact_mod_cast h)
  · have hN : 2 ^ f.mbits ≤ N := hq.resolve_right fun h => absurd (hl q h) (by omega)
    left
    calc (k : ℚ) * 2 ^ t ≤ 2 ^ (f.mbits + 1) * 2 ^ t := by
          refine mul_le_mul_of_nonneg_right ?_ (by positivity)
          exact_mod_cast (le_abs_self k).trans hk.le
      _ ≤ 2 ^ (f.mbits + 1) * 2 ^ (q - 1) := by
          refine mul_le_mul_of_nonneg_left (zpow_le_zpow_right₀ one_le_two (by omega)) (by positivity)
      _ = 2 ^ f.mbits * 2 ^ q := by rw [zpow_sub_one₀ two_ne_zero]; ring
      _ ≤ N * 2 ^ q := mul_le_mul_of_nonneg_right (by exact_mod_cast hN) hq0.le

/-! ## Results that no multiple of a small power of two tells apart -/

/-- No multiple of 2^P lies between y and v, at either end included. -/
def SameCell (P : ℤ) (y v : ℝ) : Prop := ∀ j : Nat, ((j * 2 ^ P : ℝ) ≤ y ↔ (j * 2 ^ P : ℝ) ≤ v) ∧ (y ≤ j * 2 ^ P ↔ v ≤ j * 2 ^ P)

theorem SameCell.refl (P : ℤ) (y : ℝ) : SameCell P y y := fun _ => ⟨Iff.rfl, Iff.rfl⟩

/-- Nor does a multiple of a larger power. -/
theorem SameCell.mono {P Q : ℤ} {y v : ℝ} (h : SameCell P y v) (hPQ : P ≤ Q) : SameCell Q y v := by
  obtain ⟨i, rfl⟩ := Int.le.dest hPQ
  intro j
  have : (j * 2 ^ (P + i : ℤ) : ℝ) = ((j * 2 ^ i : Nat) : ℝ) * 2 ^ P := by
    rw [zpow_add₀ two_ne_zero, zpow_natCast]
    push_cast
    ring
  rw [this]
  exact h _

/-- The two lie in the same gap, at the same place. -/
theorem SameCell.inGap {P q : ℤ} {y v : ℝ} {N r den : Nat} (h : SameCell P y v) (hq : P < q) (hv : InGap N r den (2 ^ q) v) :
    InGap N r den (2 ^ q) y := by
  have hN := h.mono hq.le N
  have hN1 := h.mono hq.le (N + 1)
  have hmid := h.mono (show P ≤ q - 1 by omega) (2 * N + 1)
  have em : (((2 * N + 1 : Nat) : ℝ) * 2 ^ (q - 1)) = (((N + 1 / 2) * 2 ^ q : ℚ) : ℝ) := by
    rw [zpow_sub_one₀ two_ne_zero]
    push_cast
    ring
  have eN : ((N : ℝ) * 2 ^ q) = ((N * 2 ^ q : ℚ) : ℝ) := by push_cast; rfl
  have eN1 : (((N + 1 : Nat) : ℝ) * 2 ^ q) = (((N + 1) * 2 ^ q : ℚ) : ℝ) := by push_cast; rfl
  rw [em] at hmid
  rw [eN] at hN
  rw [eN1] at hN1
  obtain ⟨hlo, hhi, hex, hlt, htie⟩ := hv
  refine ⟨hN.1.mpr hlo, ?_, ?_, ?_, ?_⟩
  · rwa [← not_le, hN1.1, not_le]
  · rw [hex, le_antisymm_iff, le_antisymm_iff, hN.1, hN.2]
  · rw [hlt, ← not_le, ← not_le, hmid.2]
  · rw [htie, le_antisymm_iff, le_antisymm_iff, hmid.1, hmid.2]

/-! ## Rounding to a format -/

theorem log2Ratio_spec {n d : Nat} (hn : 0 < n) (hd : 0 < d) :
    (2 : ℝ) ^ log2Ratio n d ≤ n / d ∧ (n / d : ℝ) < 2 ^ (log2Ratio n d + 1) := by
  have hd' : (0 : ℝ) < d := by exact_mod_cast hd
  have hn1 : ((2 : ℝ) ^ (Nat.log2 n : ℤ)) ≤ n := by
    rw [zpow_natCast]; exact_mod_cast Nat.log2_self_le hn.ne'
  have hn2 : (n : ℝ) < 2 ^ ((Nat.log2 n : ℤ) + 1) := by exact_mod_cast Nat.lt_log2_self (n := n)
  have hd1 : ((2 : ℝ) ^ (Nat.log2 d : ℤ)) ≤ d := by
    rw [zpow_natCast]; exact_mod_cast Nat.log2_self_le hd.ne'
  have hd2 : (d : ℝ) < 2 ^ ((Nat.log2 d : ℤ) + 1) := by exact_mod_cast Nat.lt_log2_self (n := d)
  have hge (k : ℤ) : (if 0 ≤ k then decide (d * 2 ^ k.toNat ≤ n) else decide (d ≤ n * 2 ^ (-k).toNat)) = decide ((2 : ℝ) ^ k ≤ n / d) := by
    split
    · next hk =>
      have : (2 : ℝ) ^ k = (2 ^ k.toNat : Nat) := by rw [Nat.cast_pow, Nat.cast_two, ← zpow_natCast, Int.toNat_of_nonneg hk]
      rw [decide_eq_decide, this, le_div_iff₀ hd', mul_comm]
      norm_cast
    · next hk =>
      have : (2 : ℝ) ^ k = ((2 ^ (-k).toNat : Nat) : ℝ)⁻¹ := by
        rw [Nat.cast_pow, Nat.cast_two, ← zpow_natCast, Int.toNat_of_nonneg (by omega), zpow_neg, inv_inv]
      rw [decide_eq_decide, this, le_div_iff₀ hd', inv_mul_le_iff₀ (by positivity), mul_comm]
      norm_cast
  simp only [log2Ratio, hge]
  generalize (Nat.log2 n : ℤ) = a at *
  generalize (Nat.log2 d : ℤ) = b at *
  by_cases h : (2 : ℝ) ^ (a - b) ≤ n / d
  · simp only [h, decide_true, if_true, true_and]
    rw [div_lt_iff₀ hd']
    refine hn2.trans_le ?_
    calc (2 : ℝ) ^ (a + 1) = 2 ^ (a - b + 1) * 2 ^ b := by rw [← zpow_add₀ two_ne_zero]; congr 1; ring
      _ ≤ _ := mul_le_mul_of_nonneg_left hd1 (by positivity)
  · simp only [h, decide_false, Bool.false_eq_true, if_false, sub_add_cancel]
    refine ⟨?_, not_le.mp h⟩
    rw [le_div_iff₀ hd']
    refine le_trans ?_ hn1
    calc (2 : ℝ) ^ (a - b - 1) * d ≤ 2 ^ (a - b - 1) * 2 ^ (b + 1) := mul_le_mul_of_nonneg_left hd2.le (by positivity)
      _ = 2 ^ a := by rw [← zpow_add₀ two_ne_zero]; congr 1; ring

/-- The powers of two about n / d · 2^e. -/
theorem ratio_bounds {n d : Nat} (hn : 0 < n) (hd : 0 < d) (e : ℤ) :
    (2 : ℝ) ^ (log2Ratio n d + e) ≤ n / d * 2 ^ e ∧ (n / d * 2 ^ e : ℝ) < 2 ^ (log2Ratio n d + e + 1) := by
  obtain ⟨h1, h2⟩ := log2Ratio_spec hn hd
  have he : (0 : ℝ) < 2 ^ e := by positivity
  constructor
  · rw [zpow_add₀ two_ne_zero]
    exact mul_le_mul_of_nonneg_right h1 he.le
  · rw [add_right_comm, zpow_add₀ two_ne_zero]
    exact mul_lt_mul_of_pos_right h2 he

/-- A number rounded to multiples of the last place that a number of the format can have there: the multiple, on the grid, and whether it is
inexact. -/
theorem roundAt_nearest {f : Fmt} {lowest : Option ℤ} {n d : Nat} {e q P : ℤ} {y : ℝ} (hd : 0 < d)
    (hy : SameCell P y (n / d * 2 ^ e)) (hP : P < q) (hl : ∀ l, lowest = some l → l ≤ q)
    (hlo : (2 ^ (q + f.mbits) : ℝ) ≤ y ∨ lowest = some q) (hhi : y < (2 ^ (q + f.mbits + 1) : ℝ)) (rnd : Nat) (neg : Bool) :
    Nearest rnd (OnGrid f lowest) (sgn neg * y) (sgn neg * ((roundAt rnd neg n d e q).1 * 2 ^ q)) ∧
      ((roundAt rnd neg n d e q).2 = true ↔ ((roundAt rnd neg n d e q).1 * 2 ^ q : ℝ) ≠ y) ∧
      (roundAt rnd neg n d e q).1 ≤ 2 ^ (f.mbits + 1) ∧ (2 ^ f.mbits ≤ (roundAt rnd neg n d e q).1 ∨ lowest = some q) := by
  obtain ⟨N, r, den, hv, hr⟩ := roundAt_spec (n := n) hd e q
  have hg := hy.inGap hP hv
  have hq0 : (0 : ℚ) < 2 ^ q := by positivity
  have hq0R : (0 : ℝ) < 2 ^ q := by positivity
  have hNhi : N < 2 ^ (f.mbits + 1) := by
    have h1 := hg.lower.trans_lt hhi
    rw [add_assoc, zpow_add₀ two_ne_zero, mul_comm ((2 : ℝ) ^ q)] at h1
    push_cast at h1
    rw [mul_lt_mul_iff_left₀ hq0R] at h1
    exact_mod_cast h1
  have hNlo : 2 ^ f.mbits ≤ N ∨ lowest = some q := hlo.imp_left fun h => by
    have h1 := h.trans_lt hg.upper
    rw [zpow_add₀ two_ne_zero, mul_comm] at h1
    push_cast at h1
    rw [mul_lt_mul_iff_left₀ hq0R] at h1
    have : 2 ^ f.mbits < N + 1 := by exact_mod_cast h1
    omega
  rw [hr]
  refine ⟨nearest_signed (fun _ h => onGrid_neg h) hq0 hg (onGrid_multiple hNhi.le hl) ?_ (fun g => onGrid_gap hNlo) rnd neg, ?_, ?_, ?_⟩
  · exact_mod_cast onGrid_multiple (N := N + 1) hNhi hl
  · have := hg.inexact rnd neg
    push_cast at this
    exact this
  · dsimp only [roundedEnd]
    split <;> omega
  · refine hNlo.imp_left fun h => ?_
    dsimp only [roundedEnd]
    split <;> omega

/-- An exact result at or above 2^top and below the next power is tiny when its rounding with the exponent unbounded is below the smallest
normal number (11 R164). -/
theorem tiny_iff {f : Fmt} {top : ℤ} {ru : Nat} (hlo : 2 ^ f.mbits ≤ ru) (hhi : ru ≤ 2 ^ (f.mbits + 1)) :
    (decide (top < f.emin) && !(decide (top = f.emin - 1) && ru == 2 ^ (f.mbits + 1))) = true ↔
      (ru * 2 ^ (top - f.mbits) : ℚ) < 2 ^ f.emin := by
  have hp : (0 : ℚ) < 2 ^ (top - f.mbits) := by positivity
  have hM (k : ℤ) : (2 : ℚ) ^ k = 2 ^ (k - (top - f.mbits)) * 2 ^ (top - f.mbits) := by rw [← zpow_add₀ two_ne_zero, sub_add_cancel]
  rcases lt_trichotomy top (f.emin - 1) with h | h | h
  · have htiny : (decide (top < f.emin) && !(decide (top = f.emin - 1) && ru == 2 ^ (f.mbits + 1))) = true := by
      simp only [Bool.and_eq_true, Bool.not_eq_true', Bool.and_eq_false_iff, decide_eq_true_eq, decide_eq_false_iff_not]
      omega
    refine iff_of_true htiny ?_
    calc (ru * 2 ^ (top - f.mbits) : ℚ) ≤ 2 ^ (f.mbits + 1) * 2 ^ (top - f.mbits) :=
          mul_le_mul_of_nonneg_right (by exact_mod_cast hhi) hp.le
      _ = 2 ^ (top + 1) := by rw [hM (top + 1)]; congr 1; rw [← zpow_natCast]; congr 1; push_cast; ring
      _ < 2 ^ f.emin := zpow_lt_zpow_right₀ one_lt_two (by omega)
  · subst h
    have : f.emin - (f.emin - 1 - f.mbits) = ((f.mbits + 1 : Nat) : ℤ) := by push_cast; ring
    rw [hM f.emin, mul_lt_mul_iff_left₀ hp, this, zpow_natCast]
    have hcast : (ru : ℚ) < 2 ^ (f.mbits + 1) ↔ ru < 2 ^ (f.mbits + 1) := by exact_mod_cast Iff.rfl
    rw [hcast]
    simp only [sub_one_lt, decide_true, Bool.true_and, Bool.not_eq_true', beq_eq_false_iff_ne]
    omega
  · refine iff_of_false (by simp only [Bool.and_eq_true, decide_eq_true_eq]; omega) (not_lt.mpr ?_)
    calc (2 : ℚ) ^ f.emin ≤ 2 ^ top := zpow_le_zpow_right₀ one_le_two (by omega)
      _ = 2 ^ f.mbits * 2 ^ (top - f.mbits) := by rw [hM top]; congr 1; rw [← zpow_natCast]; congr 1; ring
      _ ≤ ru * 2 ^ (top - f.mbits) := mul_le_mul_of_nonneg_right (by exact_mod_cast hlo) hp.le

theorem sgn_ne_zero (neg : Bool) : sgn neg ≠ 0 := by cases neg <;> simp

theorem abs_sgn_mul (neg : Bool) {x : ℚ} (hx : 0 ≤ x) : |sgn neg * x| = x := by
  cases neg <;> simp [abs_of_nonneg hx]

/-- A nonzero result of the sign neg, known to lie where n / d · 2^e lies, is rounded once, with its flags (11 R164, R165). -/
theorem roundRat_roundedTo {f : Fmt} (hE : 0 < f.ebits) {n d : Nat} {e P : ℤ} {y : ℝ} (hn : 0 < n) (hd : 0 < d)
    (hy : SameCell P y (n / d * 2 ^ e)) (hP : P < log2Ratio n d + e - f.mbits) (rnd : Nat) (sat zneg neg : Bool) :
    RoundedTo f rnd sat zneg (sgn neg * y) (roundRat f rnd sat neg n d e) := by
  obtain ⟨hv1, hv2⟩ := ratio_bounds hn hd e
  generalize htop : log2Ratio n d + e = top at hP hv1 hv2
  have hy1 : (2 : ℝ) ^ top ≤ y := by
    have := (hy.mono (show P ≤ top by omega) 1).1
    rw [Nat.cast_one, one_mul] at this
    exact this.mpr hv1
  have hy2 : y < (2 : ℝ) ^ (top + 1) := by
    have := (hy.mono (show P ≤ top + 1 by omega) 1).1
    rw [Nat.cast_one, one_mul] at this
    rw [← not_le, this, not_le]
    exact hv2
  have hy0 : 0 < y := lt_of_lt_of_le (by positivity) hy1
  have hq0 : (sgn neg * y : ℝ) ≠ 0 := mul_ne_zero (by exact_mod_cast sgn_ne_zero neg) hy0.ne'
  have hpow {a b : ℤ} (h : a ≤ b) : (2 : ℝ) ^ a ≤ 2 ^ b := zpow_le_zpow_right₀ one_le_two h
  obtain ⟨hu, hix, hr, hrM⟩ := roundAt_nearest (f := f) (lowest := some (f.emin - f.mbits)) (q := max top f.emin - f.mbits) hd hy
    (by omega) (fun l hl => by cases hl; omega)
    (by rcases le_total f.emin top with h | h
        · exact .inl (by rwa [max_eq_left h, sub_add_cancel])
        · exact .inr (by rw [max_eq_right h]))
    (hy2.trans_le (hpow (by omega))) rnd neg
  obtain ⟨ht, -, hru, hruM⟩ := roundAt_nearest (f := f) (lowest := none) (q := top - f.mbits) hd hy hP (fun l hl => by cases hl)
    (.inl (by rwa [sub_add_cancel])) (by rwa [sub_add_cancel]) rnd neg
  have hcode := codeVal_codeOf f hr (q := max top f.emin - f.mbits) (by omega) (hrM.imp_right fun h => (Option.some.inj h).symm)
  have htiny := tiny_iff (top := top) (hruM.resolve_right (by simp)) hru
  simp only [roundRat, htop]
  generalize (roundAt rnd neg n d e (top - f.mbits)).1 = ru at *
  generalize (decide (top < f.emin) && !(decide (top = f.emin - 1) && ru == 2 ^ (f.mbits + 1))) = tiny at *
  generalize roundAt rnd neg n d e (max top f.emin - f.mbits) = r at *
  obtain ⟨r, ix⟩ := r
  generalize max top f.emin - f.mbits = q at *
  dsimp only at *
  have hle : (r * 2 ^ q : ℚ) ≤ realF f f.maxCode ↔ codeOf f r q ≤ f.maxCode := by
    rw [realF_maxCode hE, ← hcode, f.codeVal_strictMono.le_iff_le]
  have hu0 : (0 : ℚ) ≤ r * 2 ^ q := by positivity
  have hixq : ix = true ↔ ((sgn neg * (r * 2 ^ q) : ℚ) : ℝ) ≠ sgn neg * y := by
    rw [hix]
    push_cast
    rw [ne_eq, ne_eq, mul_right_inj' (by exact_mod_cast sgn_ne_zero neg)]
  refine ⟨fun h => absurd h hq0, fun _ => ⟨sgn neg * (r * 2 ^ q), sgn neg * (ru * 2 ^ (top - f.mbits)), neg, ix, tiny && ix,
    hu, ht, ?_, hixq, ?_, fun hover => ?_, fun hwithin => ?_⟩⟩
  · cases neg <;> simp [hy0, hy0.le]
  · rw [Bool.and_eq_true, htiny, hixq, abs_sgn_mul neg (by positivity)]
    rfl
  · rw [abs_sgn_mul neg hu0, ← not_le, hle] at hover
    rw [if_pos (not_le.mp hover)]
  · rw [abs_sgn_mul neg hu0, hle] at hwithin
    have hlt := hwithin.trans_lt (Fmt.maxCode_lt hE)
    rw [if_neg (not_lt.mpr hwithin)]
    exact ⟨Fmt.signed_lt neg hlt, finF_signed hE neg hwithin, negF_signed neg hlt, by rw [realF_signed neg hlt, hcode], rfl⟩

end Sys2Proof.Machine
end

section
/-! PROOFS. What follows from one rounding (11 R164): dyadic results, results that the format holds, and results far beyond or far below
it. -/

namespace Sys2Proof.Machine

open Safety

/-! ## The formats -/

/-- The float formats of 11 Table 11.2. -/
def formats : List Fmt := [fmtF32, fmtF16, fmtBf16, fmtF8A, fmtF8B, fmtF4]

section
variable {f : Fmt} (h : f ∈ formats)
include h

theorem ebits_pos : 0 < f.ebits := (by decide : ∀ f ∈ formats, 0 < f.ebits) f h
theorem mbits_le : f.mbits ≤ 23 := (by decide : ∀ f ∈ formats, f.mbits ≤ 23) f h
theorem neg_150_lt_lowest : -150 < f.emin - f.mbits := (by decide : ∀ f ∈ formats, -150 < f.emin - f.mbits) f h
theorem emin_le_one : f.emin ≤ 1 := (by decide : ∀ f ∈ formats, f.emin ≤ 1) f h
theorem quant_maxCode_lt : f.quant f.maxCode < 128 - f.mbits := (by decide : ∀ f ∈ formats, f.quant f.maxCode < 128 - f.mbits) f h

/-- Every finite magnitude is below 2^128. -/
theorem codeVal_maxCode_lt : f.codeVal f.maxCode < 2 ^ 128 := by
  have hs : (f.sig f.maxCode : ℚ) < 2 ^ (f.mbits + 1) := by exact_mod_cast f.sig_lt _
  have hq := quant_maxCode_lt h
  calc f.codeVal f.maxCode < 2 ^ (f.mbits + 1) * 2 ^ f.quant f.maxCode := mul_lt_mul_of_pos_right hs (by positivity)
    _ = 2 ^ ((f.mbits : ℤ) + 1 + f.quant f.maxCode) := by rw [zpow_add₀ two_ne_zero]; norm_cast
    _ ≤ 2 ^ (128 : ℤ) := zpow_le_zpow_right₀ one_le_two (by omega)

end

/-! ## Dyadic numbers -/

/-- The number m · 2^e. -/
def Dy.val (x : Dy) : ℚ := x.m * 2 ^ x.e

@[simp] theorem Dy.val_zero : Dy.zero.val = 0 := by simp [Dy.val, Dy.zero]

theorem Dy.val_eq_zero {x : Dy} : x.val = 0 ↔ x.m = 0 := by
  rw [Dy.val, mul_eq_zero, or_iff_left (by positivity), Int.cast_eq_zero]

theorem Dy.val_lt_zero {x : Dy} : x.val < 0 ↔ x.m < 0 := by
  have : (0 : ℚ) < 2 ^ x.e := by positivity
  rw [Dy.val, ← Int.cast_lt_zero (R := ℚ), ← not_le, ← not_le, mul_nonneg_iff_of_pos_right this]

@[simp] theorem Dy.val_add (x y : Dy) : (x.add y).val = x.val + y.val := by
  have h {m : ℤ} {e e' : ℤ} (h : e' ≤ e) : (m * 2 ^ (e - e').toNat : ℚ) * 2 ^ e' = m * 2 ^ e := by
    rw [← zpow_natCast, Int.toNat_of_nonneg (by omega), mul_assoc, ← zpow_add₀ two_ne_zero, sub_add_cancel]
  simp only [Dy.val, Dy.add]
  push_cast
  rw [add_mul, h (min_le_left _ _), h (min_le_right _ _)]

@[simp] theorem Dy.val_mul (x y : Dy) : (x.mul y).val = x.val * y.val := by
  simp only [Dy.val, Dy.mul]
  push_cast
  rw [zpow_add₀ two_ne_zero]
  ring

theorem finDy_val (neg : Bool) (m : Nat) (e : ℤ) : (finDy neg m e).val = sgn neg * (m * 2 ^ e) := by
  cases neg <;> simp [finDy, Dy.val]

/-- An exact zero's sign is all that `zneg` says. -/
theorem roundedTo_of_zero {f : Fmt} {rnd : Nat} {sat z z' : Bool} {q : ℝ} {r : Nat × Flags} (h : RoundedTo f rnd sat z q r)
    (hz : q = 0 → z = z') : RoundedTo f rnd sat z' q r :=
  ⟨fun hq => hz hq ▸ h.1 hq, h.2⟩

/-- An exact dyadic result is rounded once. -/
theorem roundDy_roundedTo {f : Fmt} (hE : 0 < f.ebits) (rnd : Nat) (sat zneg : Bool) (x : Dy) :
    RoundedTo f rnd sat zneg x.val (roundDy f rnd sat zneg x) := by
  unfold roundDy
  split
  · next h =>
    have h0 := Dy.val_eq_zero.mpr h
    exact ⟨fun _ => rfl, fun hne => absurd (by rw [h0, Rat.cast_zero]) hne⟩
  · next h =>
    have hm : (x.m : ℝ) = sgn (decide (x.m < 0)) * x.m.natAbs := by
      rw [Nat.cast_natAbs]
      rcases lt_or_gt_of_ne h with h | h
      · simp [h, abs_of_neg h]
      · simp [h.not_gt, abs_of_pos h]
    have hval : (x.val : ℝ) = sgn (decide (x.m < 0)) * (x.m.natAbs / (1 : Nat) * 2 ^ x.e) := by
      rw [Dy.val, Nat.cast_one, div_one, ← mul_assoc, ← hm]
      push_cast
      rfl
    rw [hval]
    exact roundRat_roundedTo hE (Int.natAbs_pos.mpr h) one_pos (SameCell.refl _ _) (sub_one_lt _) rnd sat zneg _

/-! ## Results that the format holds -/

/-- A member of a set is rounded to itself only. -/
theorem nearest_eq_of_mem {rnd : Nat} {S : ℚ → Prop} {q u : ℚ} (h : Nearest rnd S q u) (hq : S q) : u = q := by
  have hnear (h : |(u : ℝ) - q| ≤ |(q : ℝ) - q|) : u = q := by
    rw [sub_self, abs_zero, abs_nonpos_iff, sub_eq_zero] at h
    exact_mod_cast h
  rcases rnd_cases rnd with rfl | rfl | rfl | rfl | hr
  · obtain ⟨-, h1, h2, h3⟩ := h
    have h4 := h3 q hq (mul_self_nonneg _) le_rfl
    have h5 : |u| ≤ |q| := by exact_mod_cast h2
    have h6 : 0 ≤ u * q := by exact_mod_cast h1
    rcases abs_eq_abs.mp (le_antisymm h5 h4) with h | h
    · exact h
    · rw [h] at h6
      have : q = 0 := by nlinarith [mul_self_nonneg q]
      rw [h, this, neg_zero]
  · obtain ⟨-, h1, h2⟩ := h
    exact le_antisymm (h2 q hq le_rfl) (by exact_mod_cast h1)
  · obtain ⟨-, h1, h2⟩ := h
    exact le_antisymm (by exact_mod_cast h1) (h2 q hq le_rfl)
  · exact hnear (h.2 q hq).1
  · exact hnear (((nearest_even hr).mp h).2 q hq).1

/-- An exact result that the format holds is the result, without a flag. -/
theorem roundedTo_exact {f : Fmt} (hE : 0 < f.ebits) {rnd : Nat} {sat z : Bool} {q : ℚ} {r : Nat × Flags} (h : RoundedTo f rnd sat z q r)
    (hq : OnGrid f (some (f.emin - f.mbits)) q) (hmax : |q| ≤ f.codeVal f.maxCode) :
    finF f r.1 ∧ realF f r.1 = q ∧ r.2 = 0 ∧ negF f r.1 = if q = 0 then z else decide (q < 0) := by
  by_cases h0 : q = 0
  · subst h0
    rw [h.1 Rat.cast_zero, if_pos rfl]
    exact ⟨finF_signed hE z (Nat.zero_le _), by simp [realF_signed z f.signBit_pos], rfl, negF_signed z f.signBit_pos⟩
  · obtain ⟨u, t, neg, ix, uf, hu, -, hneg, hix, huf, -, hin⟩ := h.2 (by exact_mod_cast h0)
    have huq := nearest_eq_of_mem hu hq
    subst huq
    obtain ⟨-, hfin, hsign, hreal, hfl⟩ := hin (by rwa [realF_maxCode hE])
    have hix' : ix = false := by simpa using hix
    have huf' : uf = false := by simpa using huf
    have hneg' : neg = decide (u < 0) := by rw [Bool.eq_iff_iff, hneg, decide_eq_true_eq, Rat.cast_lt_zero]
    exact ⟨hfin, hreal, by rw [hfl, hix', huf']; rfl, by rw [hsign, if_neg h0, hneg']⟩

theorem infCode_lt {f : Fmt} (hf : f ∈ formats) : f.infCode < f.signBit := (by decide : ∀ f ∈ formats, f.infCode < f.signBit) f hf
theorem nan_lt {f : Fmt} (hf : f ∈ formats) : f.nan < f.signBit := (by decide : ∀ f ∈ formats, f.nan < f.signBit) f hf

theorem overflowed_lt {f : Fmt} (hf : f ∈ formats) (rnd : Nat) (sat neg : Bool) : overflowed f rnd sat neg < 2 * f.signBit := by
  have hs (n : Bool) {c : Nat} (hc : c = f.maxCode ∨ c = f.infCode) : f.signed n c < 2 * f.signBit :=
    Fmt.signed_lt n (by rcases hc with rfl | rfl
                        · exact Fmt.maxCode_lt (ebits_pos hf)
                        · exact infCode_lt hf)
  have hn := nan_lt hf
  unfold overflowed
  split
  · exact hs _ (.inl rfl)
  · split
    · exact hs _ (.inl rfl)
    · omega
  · split
    · exact hs _ (.inl rfl)
    · split
      · exact hs _ (.inl rfl)
      · exact hs _ (by split <;> simp)
      · exact hs _ (by split <;> simp)
      · exact hs _ (.inr rfl)

/-- A rounded result has the format's width. -/
theorem roundedTo_lt {f : Fmt} (hf : f ∈ formats) {rnd : Nat} {sat z : Bool} {q : ℝ} {r : Nat × Flags} (h : RoundedTo f rnd sat z q r) :
    r.1 < 2 * f.signBit := by
  by_cases h0 : q = 0
  · rw [h.1 h0]
    exact Fmt.signed_lt z f.signBit_pos
  · obtain ⟨u, t, neg, ix, uf, -, -, -, -, -, hover, hin⟩ := h.2 h0
    rcases lt_or_ge (realF f f.maxCode) |u| with hu | hu
    · rw [hover hu]
      exact overflowed_lt hf rnd sat neg
    · exact (hin hu).1

/-! ## Results far beyond and far below the format -/

theorem log2Ratio_one {n : Nat} (hn : 0 < n) : log2Ratio n 1 = Nat.log2 n := by
  have h := Nat.log2_self_le hn.ne'
  have h1 : Nat.log2 1 = 0 := by decide
  simp [log2Ratio, h1, h]

/-- A number of 2^128 or more overflows every format (11 R164). -/
theorem roundRat_beyond {f : Fmt} (hf : f ∈ formats) {n d : Nat} {e : ℤ} (hn : 0 < n) (hd : 0 < d) (h : 128 ≤ log2Ratio n d + e)
    (rnd : Nat) (sat neg : Bool) : roundRat f rnd sat neg n d e = (overflowed f rnd sat neg, Flag.of ||| Flag.ix) := by
  obtain ⟨hv1, hv2⟩ := ratio_bounds hn hd e
  generalize htop : log2Ratio n d + e = top at h hv1 hv2
  have hmax : max top f.emin = top := max_eq_left (by have := emin_le_one hf; omega)
  obtain ⟨-, -, hr, hrM⟩ := roundAt_nearest (f := f) (lowest := none) (q := top - f.mbits) hd (SameCell.refl (top - f.mbits - 1) _)
    (by omega) (fun l hl => by cases hl) (.inl (by rwa [sub_add_cancel])) (by rwa [sub_add_cancel]) rnd neg
  have hrM := hrM.resolve_right (by simp)
  have hcode := codeVal_codeOf f hr (q := top - f.mbits) (by have := emin_le_one hf; omega) (.inl hrM)
  have hbig : f.maxCode < codeOf f (roundAt rnd neg n d e (top - f.mbits)).1 (top - f.mbits) := by
    rw [← f.codeVal_strictMono.lt_iff_lt, hcode]
    calc f.codeVal f.maxCode < 2 ^ (128 : ℤ) := codeVal_maxCode_lt hf
      _ ≤ 2 ^ top := zpow_le_zpow_right₀ one_le_two h
      _ = 2 ^ f.mbits * 2 ^ (top - f.mbits) := by rw [← zpow_natCast, ← zpow_add₀ two_ne_zero]; congr 1; ring
      _ ≤ _ := mul_le_mul_of_nonneg_right (by exact_mod_cast hrM) (by positivity)
  simp only [roundRat, htop, hmax]
  rw [if_pos hbig]

/-- A number far below the lowest place is rounded to nothing or to that place, whatever it is. -/
theorem roundAt_below {n d : Nat} {e q : ℤ} (hn : 0 < n) (hd : 0 < d) (h : log2Ratio n d + e + 1 < q) (rnd : Nat) (neg : Bool) :
    roundAt rnd neg n d e q = (roundedEnd rnd neg 0 1 2, true) := by
  obtain ⟨N, r, den, hv, hr⟩ := roundAt_spec (n := n) hd e q
  obtain ⟨hv1, hv2⟩ := ratio_bounds hn hd e
  have hv0 : (0 : ℝ) < n / d * 2 ^ e := lt_of_lt_of_le (by positivity) hv1
  have hhalf : (n / d * 2 ^ e : ℝ) < ((0 : Nat) + 1 / 2) * 2 ^ q := by
    calc (n / d * 2 ^ e : ℝ) < 2 ^ (log2Ratio n d + e + 1) := hv2
      _ ≤ 2 ^ (q - 1) := zpow_le_zpow_right₀ one_le_two (by omega)
      _ = _ := by rw [zpow_sub_one₀ two_ne_zero]; push_cast; ring
  have hN : N = 0 := by
    have hlo := hv.lower
    push_cast at hlo hhalf
    have hq : (0 : ℝ) < 2 ^ q := by positivity
    have : (N : ℝ) < 1 := lt_of_mul_lt_mul_right (a := (2 : ℝ) ^ q) (by linarith) hq.le
    have : N < 1 := by exact_mod_cast this
    omega
  subst hN
  have hr0 : r ≠ 0 := fun h => by
    have := hv.exact.mp h
    push_cast at this
    linarith
  have hrd : r < den := by
    have h1 := hv.beyond
    have h2 := hv.tie
    push_cast at h1 h2 hhalf
    have h3 : ¬ den < r := fun h => by linarith [h1.mp h]
    have h4 : r ≠ den := fun h => by linarith [h2.mp h]
    omega
  have hup : roundsUp rnd neg 0 r den = roundsUp rnd neg 0 1 2 := by
    rcases rnd_cases rnd with rfl | rfl | rfl | rfl | h
    · simp [roundsUp]
    · simp [roundsUp, hr0]
    · simp [roundsUp, hr0]
    · simp [roundsUp, hrd]
    · rw [Bool.eq_iff_iff, roundsUp_even h, roundsUp_even h]
      omega
  rw [hr, roundedEnd, hup, roundedEnd, bne_iff_ne.mpr hr0]

/-- Two numbers far below the format's lowest place are rounded alike. -/
theorem roundRat_below {f : Fmt} {n d n' d' : Nat} {e e' : ℤ} (hn : 0 < n) (hd : 0 < d) (hn' : 0 < n') (hd' : 0 < d')
    (h : log2Ratio n d + e + 1 < f.emin - f.mbits) (h' : log2Ratio n' d' + e' + 1 < f.emin - f.mbits) (rnd : Nat) (sat neg : Bool) :
    roundRat f rnd sat neg n d e = roundRat f rnd sat neg n' d' e' := by
  simp only [roundRat, max_eq_right (show log2Ratio n d + e ≤ f.emin by omega), max_eq_right (show log2Ratio n' d' + e' ≤ f.emin by omega),
    roundAt_below hn hd h, roundAt_below hn' hd' h', decide_eq_true (show log2Ratio n d + e < f.emin by omega),
    decide_eq_true (show log2Ratio n' d' + e' < f.emin by omega), decide_eq_false (show ¬ log2Ratio n d + e = f.emin - 1 by omega),
    decide_eq_false (show ¬ log2Ratio n' d' + e' = f.emin - 1 by omega), Bool.false_and]

/-- Clamping the exponent of a significand far beyond the formats' range does not show. -/
theorem roundRat_clamped {f : Fmt} (hf : f ∈ formats) {m : Nat} (hm : 0 < m) (hm24 : m < 2 ^ 24) (e : ℤ) (rnd : Nat) (sat neg : Bool) :
    roundRat f rnd sat neg m 1 (max (-4000) (min 4000 e)) = roundRat f rnd sat neg m 1 e := by
  have hlog := (Nat.log2_lt hm.ne').mpr hm24
  have hlow := neg_150_lt_lowest hf
  have hone := log2Ratio_one hm
  rcases lt_or_ge e (-4000) with h | h
  · exact roundRat_below hm one_pos hm one_pos (by omega) (by omega) rnd sat neg
  · rcases le_or_gt e 4000 with h' | h'
    · rw [min_eq_right h', max_eq_right h]
    · rw [roundRat_beyond hf hm one_pos (by omega), roundRat_beyond hf hm one_pos (by omega)]

/-! ## Whole parts -/

/-- The whole part of a dyadic number. -/
def Dy.floor (x : Dy) : ℤ := if 0 ≤ x.e then x.m * 2 ^ x.e.toNat else x.m / (2 ^ (-x.e).toNat : Nat)

theorem Dy.floor_eq (x : Dy) : x.floor = ⌊x.val⌋ := by
  unfold Dy.floor Dy.val
  split
  · next h =>
    have : (x.m * 2 ^ x.e : ℚ) = ((x.m * 2 ^ x.e.toNat : ℤ) : ℚ) := by
      push_cast
      rw [← zpow_natCast, Int.toNat_of_nonneg h]
    rw [this, Int.floor_intCast]
  · next h =>
    have : (x.m * 2 ^ x.e : ℚ) = (x.m : ℚ) / ((2 ^ (-x.e).toNat : Nat) : ℚ) := by
      push_cast
      rw [← zpow_natCast, Int.toNat_of_nonneg (by omega), zpow_neg, div_inv_eq_mul]
    rw [this, Rat.floor_intCast_div_natCast]

end Sys2Proof.Machine
end

section
/-! PROOFS. The float operations on values taken apart (11 R164 to R166): NaN, infinities, zeros, and the exact results. -/

namespace Sys2Proof.Machine

open Safety

/-! ## Elements taken apart -/

/-- A finite element is its sign, significand and exponent. -/
theorem exists_fin {f : Fmt} {x : Nat} (h : finF f x) : ∃ m e, unpack f x = .fin (negF f x) m e ∧
    realF f x = sgn (negF f x) * (m * 2 ^ e) ∧ m < 2 ^ (f.mbits + 1) ∧ f.emin - f.mbits ≤ e :=
  ⟨_, _, unpack_of_fin h, realF_eq f x, f.sig_lt _, f.emin_le_quant _⟩

theorem snanF_of_not_nan {f : Fmt} {x : Nat} (h : nanF f x = false) : snanF f x = false := by simp [snanF, h]

/-- An element is a NaN, an infinity or finite. -/
theorem element_cases (f : Fmt) (x : Nat) : nanF f x = true ∨ (nanF f x = false ∧ infF f x = true) ∨ finF f x := by
  cases hn : nanF f x
  · cases hi : infF f x
    · exact .inr (.inr ⟨hn, hi⟩)
    · exact .inr (.inl ⟨rfl, rfl⟩)
  · exact .inl rfl

@[simp] theorem unpack_isNan (f : Fmt) (x : Nat) : (unpack f x).isNan = nanF f x := by
  rcases element_cases f x with h | ⟨h, hi⟩ | h
  · rw [unpack_of_nan h, h]; rfl
  · rw [unpack_of_inf h hi, h]; rfl
  · rw [unpack_of_fin h, h.1]; rfl

@[simp] theorem unpack_isSnan (f : Fmt) (x : Nat) : (unpack f x).isSnan = snanF f x := by
  rcases element_cases f x with h | ⟨h, hi⟩ | h
  · rw [unpack_of_nan h]; rfl
  · rw [unpack_of_inf h hi, snanF_of_not_nan h]; rfl
  · rw [unpack_of_fin h, snanF_of_not_nan h.1]; rfl

@[simp] theorem unpack_isInf (f : Fmt) (x : Nat) : (unpack f x).isInf = infF f x := by
  rcases element_cases f x with h | ⟨h, hi⟩ | h
  · have hi : infF f x = false := by
      cases hi : infF f x
      · rfl
      · rw [nanF_of_infF hi] at h; cases h
    rw [unpack_of_nan h, hi]; rfl
  · rw [unpack_of_inf h hi, hi]; rfl
  · rw [unpack_of_fin h, h.2]; rfl

theorem unpack_neg {f : Fmt} {x : Nat} (h : nanF f x = false) : (unpack f x).neg = negF f x := by
  rcases element_cases f x with h' | ⟨-, hi⟩ | hf
  · rw [h] at h'; cases h'
  · rw [unpack_of_inf h hi]; rfl
  · rw [unpack_of_fin hf]; rfl

@[simp] theorem isNan_nan (s : Bool) : (FVal.nan s).isNan = true := rfl
@[simp] theorem isNan_inf (n : Bool) : (FVal.inf n).isNan = false := rfl
@[simp] theorem isNan_fin (n : Bool) (m : Nat) (e : ℤ) : (FVal.fin n m e).isNan = false := rfl
@[simp] theorem isSnan_nan (s : Bool) : (FVal.nan s).isSnan = s := rfl
@[simp] theorem isSnan_inf (n : Bool) : (FVal.inf n).isSnan = false := rfl
@[simp] theorem isSnan_fin (n : Bool) (m : Nat) (e : ℤ) : (FVal.fin n m e).isSnan = false := rfl
@[simp] theorem isInf_nan (s : Bool) : (FVal.nan s).isInf = false := rfl
@[simp] theorem isInf_inf (n : Bool) : (FVal.inf n).isInf = true := rfl
@[simp] theorem isInf_fin (n : Bool) (m : Nat) (e : ℤ) : (FVal.fin n m e).isInf = false := rfl
@[simp] theorem neg_inf (n : Bool) : (FVal.inf n).neg = n := rfl
@[simp] theorem neg_fin (n : Bool) (m : Nat) (e : ℤ) : (FVal.fin n m e).neg = n := rfl
@[simp] theorem isZero_nan (s : Bool) : (FVal.nan s).isZero = false := rfl
@[simp] theorem isZero_inf (n : Bool) : (FVal.inf n).isZero = false := rfl

theorem isZero_fin (n : Bool) (m : Nat) (e : ℤ) : (FVal.fin n m e).isZero = (m == 0) := by cases m <;> rfl

theorem mul_zpow_eq_zero (m : Nat) (e : ℤ) : (m * 2 ^ e : ℚ) = 0 ↔ m = 0 := by
  rw [mul_eq_zero, or_iff_left (by positivity), Nat.cast_eq_zero]

theorem realF_eq_zero {f : Fmt} {x : Nat} : realF f x = 0 ↔ x % f.signBit = 0 := by
  rw [realF_eq, mul_eq_zero, or_iff_right (sgn_ne_zero _)]
  exact ⟨fun h => by_contra fun hc => (f.codeVal_pos hc).ne' h, fun h => by rw [h, f.codeVal_zero]⟩

theorem unpack_isZero {f : Fmt} (hE : 0 < f.ebits) (x : Nat) : (unpack f x).isZero = decide (realF f x = 0) := by
  have hfin (h0 : realF f x = 0) : finF f x := by
    rw [finF_iff hE, realF_eq_zero.mp h0]
    exact Nat.zero_le _
  by_cases hf : finF f x
  · obtain ⟨m, e, hu, hr, -⟩ := exists_fin hf
    rw [hu, isZero_fin, hr, Bool.eq_iff_iff, beq_iff_eq, decide_eq_true_eq, mul_eq_zero, or_iff_right (sgn_ne_zero _), mul_zpow_eq_zero]
  · rw [decide_eq_false fun h => hf (hfin h)]
    rcases element_cases f x with h | ⟨h, hi⟩ | h
    · rw [unpack_of_nan h]; rfl
    · rw [unpack_of_inf h hi]; rfl
    · exact absurd h hf

/-! ## Sums -/

theorem faddV_nan {f : Fmt} {rnd : Nat} {x y : FVal} (h : (x.isNan || y.isNan) = true) :
    faddV f rnd x y = (f.nan, ivIf (x.isSnan || y.isSnan)) := by
  cases x <;> cases y <;> simp at h <;> simp [faddV]

/-- The sign of an exact zero sum (11 R164). -/
theorem zeroSumSign_eq {nx ny : Bool} {a b : ℚ} {zx zy : Bool} (ha : 0 ≤ a) (hb : 0 ≤ b) (hzx : zx = true ↔ a = 0)
    (hzy : zy = true ↔ b = 0) (h : sgn nx * a + sgn ny * b = 0) (rnd : Nat) :
    zeroSumSign rnd nx zx ny zy = if nx = ny then nx else decide (rnd = 3) := by
  unfold zeroSumSign
  by_cases hn : nx = ny
  · subst hn
    rw [← mul_add, mul_eq_zero, or_iff_right (sgn_ne_zero _)] at h
    simp [hzx.mpr (by linarith), hzy.mpr (by linarith)]
  · simp [hn, beq_eq_decide]

theorem faddV_fin {f : Fmt} (hE : 0 < f.ebits) (rnd : Nat) (nx ny : Bool) (mx my : Nat) (ex ey : ℤ) :
    RoundedTo f rnd false (if nx = ny then nx else decide (rnd = 3)) ((sgn nx * (mx * 2 ^ ex) + sgn ny * (my * 2 ^ ey) : ℚ) : ℝ)
      (faddV f rnd (.fin nx mx ex) (.fin ny my ey)) := by
  have h := roundDy_roundedTo hE rnd false (zeroSumSign rnd nx (mx == 0) ny (my == 0)) ((finDy nx mx ex).add (finDy ny my ey))
  rw [Dy.val_add, finDy_val, finDy_val] at h
  refine roundedTo_of_zero h fun h0 =>
    zeroSumSign_eq (a := mx * 2 ^ ex) (b := my * 2 ^ ey) (by positivity) (by positivity) ?_ ?_ (by exact_mod_cast h0) rnd
  · rw [beq_iff_eq, mul_zpow_eq_zero]
  · rw [beq_iff_eq, mul_zpow_eq_zero]

/-! ## Products -/

theorem sgn_mul (a b : Bool) : sgn a * sgn b = sgn (a != b) := by cases a <;> cases b <;> simp

theorem fmulV_fin {f : Fmt} (hE : 0 < f.ebits) (rnd : Nat) (nx ny : Bool) (mx my : Nat) (ex ey : ℤ) :
    RoundedTo f rnd false (nx != ny) ((sgn nx * (mx * 2 ^ ex) * (sgn ny * (my * 2 ^ ey)) : ℚ) : ℝ)
      (fmulV f rnd (.fin nx mx ex) (.fin ny my ey)) := by
  have h := roundDy_roundedTo hE rnd false (nx != ny) ((finDy nx mx ex).mul (finDy ny my ey))
  rwa [Dy.val_mul, finDy_val, finDy_val] at h

/-- The operands of an infinite product, neither being NaN. -/
theorem infinite_product_cases {x y : FVal} (hn : (x.isNan || y.isNan) = false) (hi : (x.isInf || y.isInf) = true) :
    (∃ nx ny, x = .inf nx ∧ y = .inf ny) ∨ (∃ nx ny m e, x = .inf nx ∧ y = .fin ny m e) ∨ ∃ nx ny m e, x = .fin nx m e ∧ y = .inf ny := by
  cases x with
  | nan s => simp at hn
  | inf nx =>
    cases y with
    | nan s => simp at hn
    | inf ny => exact .inl ⟨_, _, rfl, rfl⟩
    | fin ny m e => exact .inr (.inl ⟨_, _, _, _, rfl, rfl⟩)
  | fin nx m e =>
    cases y with
    | nan s => simp at hn
    | inf ny => exact .inr (.inr ⟨_, _, _, _, rfl, rfl⟩)
    | fin ny m' e' => simp at hi

theorem fmulV_inf {f : Fmt} {rnd : Nat} {x y : FVal} (hn : (x.isNan || y.isNan) = false) (hi : (x.isInf || y.isInf) = true) :
    fmulV f rnd x y = if ((x.isInf && y.isZero) || (x.isZero && y.isInf)) = true then (f.nan, Flag.iv)
      else (f.signed (x.neg != y.neg) f.infCode, 0) := by
  rw [fmulV, if_neg (by simp [hn])]
  rcases infinite_product_cases hn hi with ⟨nx, ny, rfl, rfl⟩ | ⟨nx, ny, m, e, rfl, rfl⟩ | ⟨nx, ny, m, e, rfl, rfl⟩ <;> simp

theorem fmadV_fin {f : Fmt} (hE : 0 < f.ebits) (rnd : Nat) (nx ny nz : Bool) (mx my mz : Nat) (ex ey ez : ℤ) :
    RoundedTo f rnd false (if (nx != ny) = nz then nx != ny else decide (rnd = 3))
      ((sgn nx * (mx * 2 ^ ex) * (sgn ny * (my * 2 ^ ey)) + sgn nz * (mz * 2 ^ ez) : ℚ) : ℝ)
      (fmadV f rnd (.fin nx mx ex) (.fin ny my ey) (.fin nz mz ez)) := by
  have h := roundDy_roundedTo hE rnd false (zeroSumSign rnd (nx != ny) (mx == 0 || my == 0) nz (mz == 0))
    (((finDy nx mx ex).mul (finDy ny my ey)).add (finDy nz mz ez))
  rw [Dy.val_add, Dy.val_mul, finDy_val, finDy_val, finDy_val] at h
  refine roundedTo_of_zero h fun h0 =>
    zeroSumSign_eq (a := mx * 2 ^ ex * (my * 2 ^ ey)) (b := mz * 2 ^ ez) (by positivity) (by positivity) ?_ ?_ ?_ rnd
  · rw [Bool.or_eq_true, beq_iff_eq, beq_iff_eq, mul_eq_zero, mul_zpow_eq_zero, mul_zpow_eq_zero]
  · rw [beq_iff_eq, mul_zpow_eq_zero]
  · rw [← sgn_mul, mul_mul_mul_comm]
    exact_mod_cast h0

theorem fmadV_nan {f : Fmt} {rnd : Nat} {x y z : FVal} (h : (x.isNan || y.isNan || z.isNan) = true) :
    fmadV f rnd x y z =
      (f.nan, ivIf (x.isSnan || y.isSnan || z.isSnan || (x.isInf && y.isZero) || (x.isZero && y.isInf))) := by
  rw [fmadV, if_pos h]

/-- An infinite product: infinity times zero is invalid, and so is the opposite infinity as addend (23 R349). -/
theorem fmadV_product_inf {f : Fmt} {rnd : Nat} {x y z : FVal} (hn : (x.isNan || y.isNan || z.isNan) = false)
    (hi : (x.isInf || y.isInf) = true) :
    fmadV f rnd x y z = if ((x.isInf && y.isZero) || (x.isZero && y.isInf) || (z.isInf && z.neg != (x.neg != y.neg))) = true
      then (f.nan, Flag.iv) else (f.signed (x.neg != y.neg) f.infCode, 0) := by
  rw [fmadV, if_neg (by simp [hn])]
  obtain ⟨hxy, hz⟩ := Bool.or_eq_false_iff.mp hn
  rcases infinite_product_cases hxy hi with ⟨nx, ny, rfl, rfl⟩ | ⟨nx, ny, m, e, rfl, rfl⟩ | ⟨nx, ny, m, e, rfl, rfl⟩
  all_goals
    cases z with
    | nan s => simp at hz
    | inf nz => by_cases h : nz = (nx != ny) <;> simp [h]
    | fin nz mz ez => simp

theorem fmadV_addend_inf {f : Fmt} {rnd : Nat} {nx ny nz : Bool} {mx my : Nat} {ex ey : ℤ} :
    fmadV f rnd (.fin nx mx ex) (.fin ny my ey) (.inf nz) = (f.signed nz f.infCode, 0) := rfl

/-! ## Comparisons (23 R352) -/

theorem fltV_fin (nx ny : Bool) (mx my : Nat) (ex ey : ℤ) :
    fltV (.fin nx mx ex) (.fin ny my ey) = decide (sgn nx * (mx * 2 ^ ex : ℚ) < sgn ny * (my * 2 ^ ey)) := by
  have hs : sgn (!ny) = -sgn ny := by cases ny <;> simp
  rw [fltV, decide_eq_decide, ← Dy.val_lt_zero, Dy.val_add, finDy_val, finDy_val, hs]
  constructor <;> intro h <;> linarith

/-- An infinity stands beyond every finite number of its format. -/
theorem realF_of_inf {f : Fmt} {x : Nat} (h : infF f x = true) : realF f x = sgn (negF f x) * f.codeVal f.infCode := by
  simp only [infF, Bool.and_eq_true, beq_iff_eq] at h
  obtain ⟨⟨-, he⟩, hm⟩ := h
  have h3 := Nat.div_add_mod (x % f.signBit) (2 ^ f.mbits)
  rw [← expF_eq, ← manF_eq, he, hm, add_zero, mul_comm] at h3
  rw [realF_eq, ← h3, Fmt.infCode]

theorem maxCode_lt_infCode {f : Fmt} (hE : 0 < f.ebits) (hs : f.special = .ieee) : f.maxCode < f.infCode := by
  have hE2 := Nat.one_lt_two_pow hE.ne'
  have : 0 < f.infCode := Nat.mul_pos (by omega) (Nat.two_pow_pos _)
  have : f.maxCode = f.infCode - 1 := by rw [Fmt.maxCode, hs, Fmt.infCode]
  omega

theorem abs_realF (f : Fmt) (x : Nat) : |realF f x| = f.codeVal (x % f.signBit) := by
  rw [realF_eq, abs_sgn_mul _ (f.codeVal_nonneg _)]

theorem abs_realF_le {f : Fmt} (hE : 0 < f.ebits) {x : Nat} (h : finF f x) : |realF f x| ≤ f.codeVal f.maxCode := by
  rw [abs_realF, f.codeVal_strictMono.le_iff_le, ← finF_iff hE]
  exact h

section
variable {f : Fmt} (hE : 0 < f.ebits) (hs : f.special = .ieee) {x y : Nat} (hx : nanF f x = false) (hy : nanF f y = false)
include hE hs hx hy

theorem fltV_unpack : fltV (unpack f x) (unpack f y) = decide (realF f x < realF f y) := by
  have hV : 0 < f.codeVal f.infCode := (f.codeVal_nonneg _).trans_lt (f.codeVal_strictMono (maxCode_lt_infCode hE hs))
  have hfin {z : Nat} (h : finF f z) : -f.codeVal f.infCode < realF f z ∧ realF f z < f.codeVal f.infCode :=
    abs_lt.mp ((abs_realF_le hE h).trans_lt (f.codeVal_strictMono (maxCode_lt_infCode hE hs)))
  rcases element_cases f x with h | ⟨-, hxi⟩ | hxf
  · rw [hx] at h; cases h
  · rw [unpack_of_inf hx hxi, realF_of_inf hxi]
    rcases element_cases f y with h | ⟨-, hyi⟩ | hyf
    · rw [hy] at h; cases h
    · rw [unpack_of_inf hy hyi, realF_of_inf hyi]
      have hVV : -f.codeVal f.infCode < f.codeVal f.infCode := by linarith
      cases negF f x <;> cases negF f y <;> simp [fltV, hVV, hV.le]
    · obtain ⟨h1, h2⟩ := hfin hyf
      rw [unpack_of_fin hyf]
      cases negF f x
      · simpa [fltV] using h2.le
      · simpa [fltV] using h1
  · rcases element_cases f y with h | ⟨-, hyi⟩ | hyf
    · rw [hy] at h; cases h
    · obtain ⟨h1, h2⟩ := hfin hxf
      rw [unpack_of_inf hy hyi, realF_of_inf hyi, unpack_of_fin hxf]
      cases negF f y
      · simpa [fltV] using h2
      · simpa [fltV] using h1.le
    · obtain ⟨m, e, hu, hr, -⟩ := exists_fin hxf
      obtain ⟨m', e', hu', hr', -⟩ := exists_fin hyf
      rw [hu, hu', hr, hr', fltV_fin]

end

theorem feqV_unpack {f : Fmt} (hE : 0 < f.ebits) (hs : f.special = .ieee) {x y : Nat} (hx : nanF f x = false) (hy : nanF f y = false) :
    feqV (unpack f x) (unpack f y) = decide (realF f x = realF f y) := by
  rw [feqV, unpack_isNan, unpack_isNan, hx, hy, fltV_unpack hE hs hx hy, fltV_unpack hE hs hy hx, Bool.not_false, Bool.true_and,
    Bool.true_and, ← decide_not, ← decide_not, ← Bool.decide_and, decide_eq_decide, not_lt, not_lt]
  exact ⟨fun h => le_antisymm h.2 h.1, fun h => ⟨h.ge, h.le⟩⟩

/-! ## Integers near a number -/

theorem sgn_cast (n : Bool) : ((if n then -1 else 1 : ℤ) : ℚ) = sgn n := by cases n <;> simp

/-- The opposite of an integer is one. -/
theorem integer_neg (g : ℚ) (h : ∃ n : ℤ, g = n) : ∃ n : ℤ, -g = n := by
  obtain ⟨n, rfl⟩ := h
  exact ⟨-n, by push_cast; rfl⟩

/-- A dyadic number rounded to an integer (11 R170, 24 R391). -/
theorem roundAt_integer (rnd : Nat) (neg : Bool) (m : Nat) (e : ℤ) :
    Nearest rnd (fun u => ∃ n : ℤ, u = n) ((sgn neg * (m * 2 ^ e) : ℚ) : ℝ) (sgn neg * (roundAt rnd neg m 1 e 0).1) ∧
      ((roundAt rnd neg m 1 e 0).2 = true ↔ ((roundAt rnd neg m 1 e 0).1 : ℚ) ≠ m * 2 ^ e) := by
  obtain ⟨N, r, den, hg, hr⟩ := roundAt_spec (n := m) one_pos e 0
  have hix := hg.inexact rnd neg
  rw [hr]
  rw [zpow_zero] at hg hix
  have hgap (g : ℚ) (h : ∃ n : ℤ, g = n) : g ≤ N * 1 ∨ (N + 1) * 1 ≤ g := by
    obtain ⟨n, rfl⟩ := h
    rw [mul_one, mul_one]
    rcases le_or_gt n N with h | h
    · exact .inl (by exact_mod_cast h)
    · exact .inr (by exact_mod_cast h)
  have h := nearest_signed integer_neg one_pos hg ⟨N, by simp⟩ ⟨N + 1, by simp⟩ hgap rnd neg
  rw [Nat.cast_one, div_one] at h hix
  rw [mul_one] at h hix
  refine ⟨by push_cast; exact h, hix.trans ?_⟩
  rw [ne_eq, ne_eq, not_iff_not]
  have hcast : (m * 2 ^ e : ℝ) = ((m * 2 ^ e : ℚ) : ℝ) := by push_cast; rfl
  rw [hcast, Rat.cast_inj]

end Sys2Proof.Machine
end

section
/-! PROOFS. What the arithmetic words answer for an element of f32, f16x2 or bf16x2 (11 R164 to R166, 22 R295, R297, R326, 23 R346, R349, R352,
24 R391). -/

namespace Sys2Proof.Machine

open Safety

/-! ## The types of float arithmetic -/

section
variable {ty : Nat} (hty : ty = 2 ∨ ty = 3 ∨ ty = 4)
include hty

theorem arith_isFloat : isFloat ty = true := by rcases hty with rfl | rfl | rfl <;> rfl
theorem arith_formats : fmtOf ty ∈ formats := by rcases hty with rfl | rfl | rfl <;> decide
theorem arith_special : (fmtOf ty).special = .ieee := by rcases hty with rfl | rfl | rfl <;> rfl
theorem arith_lowest : (fmtOf ty).emin - (fmtOf ty).mbits ≤ 0 := by rcases hty with rfl | rfl | rfl <;> decide
theorem arith_integers : (2 : ℚ) ^ ((fmtOf ty).mbits + 1) ≤ (fmtOf ty).codeVal (fmtOf ty).maxCode := by
  have h := codeVal_codeOf (fmtOf ty) le_rfl (arith_lowest hty) (.inl (Nat.pow_le_pow_right two_pos (Nat.le_succ _)))
  rw [zpow_zero, mul_one, Nat.cast_pow, Nat.cast_two] at h
  rw [← h, (fmtOf ty).codeVal_strictMono.le_iff_le]
  rcases hty with rfl | rfl | rfl <;> decide

end

section
variable {ty : Nat} (hty : ty = 2 ∨ ty = 3 ∨ ty = 4) (rnd : Nat) (sat : Bool) {x y z : Nat}

/-! ## One operand -/

include hty in
theorem absElem_nan (h : nanF (fmtOf ty) x = true) : absElem ty rnd sat x = ((fmtOf ty).nan, ivIf (snanF (fmtOf ty) x)) := by
  rw [absElem, if_pos (arith_isFloat hty)]
  simp [h]

include hty in
theorem negElem_nan (h : nanF (fmtOf ty) x = true) : negElem ty rnd sat x = ((fmtOf ty).nan, ivIf (snanF (fmtOf ty) x)) := by
  rw [negElem, if_pos (arith_isFloat hty)]
  simp [h]

theorem roundiElem_nan (h : nanF (fmtOf ty) x = true) : roundiElem ty rnd sat x = ((fmtOf ty).nan, ivIf (snanF (fmtOf ty) x)) := by
  rw [roundiElem, unpack_of_nan h]

theorem fractElem_nan (h : nanF (fmtOf ty) x = true) : fractElem ty rnd sat x = ((fmtOf ty).nan, ivIf (snanF (fmtOf ty) x)) := by
  rw [fractElem, unpack_of_nan h]

theorem ldexpElem_nan (n : ℤ) (h : nanF (fmtOf ty) x = true) :
    ldexpElem ty rnd n x = ((fmtOf ty).nan, ivIf (snanF (fmtOf ty) x)) := by
  rw [ldexpElem, unpack_of_nan h]

include hty in
theorem absElem_magnitude (h : nanF (fmtOf ty) x = false) : absElem ty rnd sat x = (x % (fmtOf ty).signBit, 0) := by
  rw [absElem, if_pos (arith_isFloat hty)]
  simp [h]

include hty in
theorem negElem_flipped (h : nanF (fmtOf ty) x = false) :
    negElem ty rnd sat x = ((x + (fmtOf ty).signBit) % (2 * (fmtOf ty).signBit), 0) := by
  rw [negElem, if_pos (arith_isFloat hty)]
  simp [h]

theorem roundiElem_inf (h : infF (fmtOf ty) x = true) :
    roundiElem ty rnd sat x = ((fmtOf ty).signed (negF (fmtOf ty) x) (fmtOf ty).infCode, 0) := by
  rw [roundiElem, unpack_of_inf (nanF_of_infF h) h]

theorem fractElem_inf (h : infF (fmtOf ty) x = true) : fractElem ty rnd sat x = ((fmtOf ty).nan, Flag.iv) := by
  rw [fractElem, unpack_of_inf (nanF_of_infF h) h]

theorem ldexpElem_inf (n : ℤ) (h : infF (fmtOf ty) x = true) :
    ldexpElem ty rnd n x = ((fmtOf ty).signed (negF (fmtOf ty) x) (fmtOf ty).infCode, 0) := by
  rw [ldexpElem, unpack_of_inf (nanF_of_infF h) h]

/-- The sign of a signed magnitude. -/
theorem sgn_mul_neg {n : Bool} {a : ℚ} (ha : 0 ≤ a) : (if sgn n * a = 0 then n else decide (sgn n * a < 0)) = n := by
  rcases ha.eq_or_lt with rfl | h
  · simp
  · cases n <;> simp [h, h.ne', h.le]

include hty in
/-- ROUNDI takes the integer that RND selects and keeps the sign (24 R391). -/
theorem roundiElem_fin (h : finF (fmtOf ty) x) :
    (roundiElem ty rnd sat x).2 = 0 ∧ finF (fmtOf ty) (roundiElem ty rnd sat x).1 ∧
      negF (fmtOf ty) (roundiElem ty rnd sat x).1 = negF (fmtOf ty) x ∧
      Nearest rnd (fun u => ∃ n : ℤ, u = n) (realF (fmtOf ty) x) (realF (fmtOf ty) (roundiElem ty rnd sat x).1) := by
  have hE := ebits_pos (arith_formats hty)
  obtain ⟨m, e, hu, hr, hm, -⟩ := exists_fin h
  rw [roundiElem, hu]
  dsimp only
  split
  · next he =>
    refine ⟨rfl, h, rfl, nearest_self ⟨(if negF (fmtOf ty) x then -1 else 1) * (m * 2 ^ e.toNat), ?_⟩ rnd⟩
    rw [hr]
    push_cast
    rw [← sgn_cast, ← zpow_natCast, Int.toNat_of_nonneg he]
    push_cast
    rfl
  · next he =>
    obtain ⟨hnear, -⟩ := roundAt_integer rnd (negF (fmtOf ty) x) m e
    have hsmall : (m / (1 : Nat) * 2 ^ e : ℝ) < 2 ^ ((0 : ℤ) + (fmtOf ty).mbits + 1) := by
      rw [Nat.cast_one, div_one, zero_add]
      calc (m * 2 ^ e : ℝ) ≤ m * 1 :=
            mul_le_mul_of_nonneg_left (zpow_le_one_of_nonpos₀ one_le_two (by omega)) (Nat.cast_nonneg m)
        _ < _ := by rw [mul_one]; exact_mod_cast hm
    obtain ⟨-, -, hle, -⟩ := roundAt_nearest (lowest := some 0) one_pos (SameCell.refl (-1) _) (by decide) (fun l hl => by cases hl; rfl)
      (.inr rfl) hsmall rnd (negF (fmtOf ty) x)
    generalize (roundAt rnd (negF (fmtOf ty) x) m 1 e 0).1 = r at *
    have hd := roundDy_roundedTo hE 0 false (negF (fmtOf ty) x) (finDy (negF (fmtOf ty) x) r 0)
    rw [finDy_val, zpow_zero, mul_one] at hd
    obtain ⟨h1, h2, -, h4⟩ := roundedTo_exact hE hd
      (onGrid_sgn _ (by simpa using onGrid_multiple (q := 0) hle fun l hl => by cases hl; exact arith_lowest hty))
      (by rw [abs_sgn_mul _ (Nat.cast_nonneg r)]; exact le_trans (by exact_mod_cast hle) (arith_integers hty))
    rw [← hr] at hnear
    rw [h2, h4]
    exact ⟨rfl, h1, sgn_mul_neg (Nat.cast_nonneg r), hnear⟩

include hty in
/-- FRACT rounds x − ⌊x⌋ once (22 R326). -/
theorem fractElem_fin (h : finF (fmtOf ty) x) : RoundedTo (fmtOf ty) rnd false (decide (rnd = 3))
    ((realF (fmtOf ty) x - ⌊realF (fmtOf ty) x⌋ : ℚ) : ℝ) (fractElem ty rnd sat x) := by
  have hE := ebits_pos (arith_formats hty)
  obtain ⟨m, e, hu, hr, -, -⟩ := exists_fin h
  have hv : realF (fmtOf ty) x = (finDy (negF (fmtOf ty) x) m e).val := by rw [hr, finDy_val]
  have hd := roundDy_roundedTo hE rnd false (rnd == 3)
    ((finDy (negF (fmtOf ty) x) m e).add { m := -(finDy (negF (fmtOf ty) x) m e).floor, e := 0 })
  have hval : (Dy.mk (-(finDy (negF (fmtOf ty) x) m e).floor) 0).val = -(⌊realF (fmtOf ty) x⌋ : ℚ) := by
    rw [Dy.floor_eq, hv, Dy.val, zpow_zero, mul_one, Int.cast_neg]
  rw [Dy.val_add, hval, ← hv, ← sub_eq_add_neg] at hd
  rw [fractElem, hu]
  exact hd

include hty in
/-- LDEXP rounds x · 2^n once (23 R346). -/
theorem ldexpElem_fin (n : ℤ) (h : finF (fmtOf ty) x) : RoundedTo (fmtOf ty) rnd false (negF (fmtOf ty) x)
    ((realF (fmtOf ty) x * 2 ^ n : ℚ) : ℝ) (ldexpElem ty rnd n x) := by
  have hE := ebits_pos (arith_formats hty)
  obtain ⟨m, e, hu, hr, hm, -⟩ := exists_fin h
  rw [ldexpElem, hu, hr]
  dsimp only
  split
  · next h0 => subst h0; exact ⟨fun _ => rfl, fun hne => absurd (by simp) hne⟩
  · next h0 =>
    have hm0 := Nat.pos_of_ne_zero h0
    have hm' : m < 2 ^ 24 := hm.trans_le (Nat.pow_le_pow_right two_pos (by have := mbits_le (arith_formats hty); omega))
    have hq : ((sgn (negF (fmtOf ty) x) * (m * 2 ^ e) * 2 ^ n : ℚ) : ℝ) = sgn (negF (fmtOf ty) x) * (m / (1 : Nat) * 2 ^ (e + n)) := by
      push_cast
      rw [zpow_add₀ two_ne_zero]
      ring
    rw [roundRat_clamped (arith_formats hty) hm0 hm', hq]
    exact roundRat_roundedTo hE hm0 one_pos (SameCell.refl _ _) (sub_one_lt _) rnd false _ _

/-! ## Sums -/

/-- Flipping the sign bit of an element negates its value. -/
theorem unpack_flipped (f : Fmt) (x : Nat) : unpack f ((x + f.signBit) % (2 * f.signBit)) = (unpack f x).negate := by
  have hmod : unpack f ((x + f.signBit) % (2 * f.signBit)) = unpack f (x + f.signBit) := by simp only [unpack, Nat.mod_mod]
  have hmag : (x + f.signBit) % f.signBit = x % f.signBit := Nat.add_mod_right _ _
  have hneg : negF f (x + f.signBit) = !(negF f x) := by
    rw [negF, negF, Nat.add_div_right _ f.signBit_pos, ← decide_not, decide_eq_decide]
    omega
  have hexp : expF f (x + f.signBit) = expF f x := by rw [expF_eq, expF_eq, hmag]
  have hman : manF f (x + f.signBit) = manF f x := by rw [manF_eq, manF_eq, hmag]
  have hnan : nanF f (x + f.signBit) = nanF f x := by simp only [nanF, hexp, hman]
  have hsnan : snanF f (x + f.signBit) = snanF f x := by simp only [snanF, hnan, hman]
  have hinf : infF f (x + f.signBit) = infF f x := by simp only [infF, hexp, hman]
  rw [hmod, unpack_eq, unpack_eq f x, hnan, hsnan, hinf, hneg, hmag]
  split
  · rfl
  · split <;> rfl

include hty

theorem addElem_eq : addElem ty rnd sat x y = faddV (fmtOf ty) rnd (unpack (fmtOf ty) x) (unpack (fmtOf ty) y) := by
  rw [addElem, if_pos (arith_isFloat hty)]

theorem subElem_flipped :
    subElem ty rnd sat x y = addElem ty rnd sat x ((y + (fmtOf ty).signBit) % (2 * (fmtOf ty).signBit)) := by
  rw [subElem, if_pos (arith_isFloat hty), addElem_eq hty, unpack_flipped]

theorem addElem_nan (h : (nanF (fmtOf ty) x || nanF (fmtOf ty) y) = true) :
    addElem ty rnd sat x y = ((fmtOf ty).nan, ivIf (snanF (fmtOf ty) x || snanF (fmtOf ty) y)) := by
  rw [addElem_eq hty, faddV_nan (by simpa using h), unpack_isSnan, unpack_isSnan]

/-- An infinite operand of a sum is the sum, unless the other is the opposite infinity. -/
theorem addElem_inf (hx : nanF (fmtOf ty) x = false) (hy : nanF (fmtOf ty) y = false) :
    (infF (fmtOf ty) x = true → infF (fmtOf ty) y = true → negF (fmtOf ty) x ≠ negF (fmtOf ty) y →
      addElem ty rnd sat x y = ((fmtOf ty).nan, Flag.iv)) ∧
    (infF (fmtOf ty) x = true → (infF (fmtOf ty) y = true → negF (fmtOf ty) x = negF (fmtOf ty) y) →
      addElem ty rnd sat x y = ((fmtOf ty).signed (negF (fmtOf ty) x) (fmtOf ty).infCode, 0)) ∧
    (infF (fmtOf ty) x = false → infF (fmtOf ty) y = true →
      addElem ty rnd sat x y = ((fmtOf ty).signed (negF (fmtOf ty) y) (fmtOf ty).infCode, 0)) := by
  rw [addElem_eq hty]
  refine ⟨fun hxi hyi hne => ?_, fun hxi himp => ?_, fun hxi hyi => ?_⟩
  · rw [unpack_of_inf hx hxi, unpack_of_inf hy hyi, faddV, if_neg hne]
  · rw [unpack_of_inf hx hxi]
    cases hyi : infF (fmtOf ty) y with
    | false => rw [unpack_of_fin ⟨hy, hyi⟩]; rfl
    | true => rw [unpack_of_inf hy hyi, faddV, if_pos (himp hyi)]
  · rw [unpack_of_fin ⟨hx, hxi⟩, unpack_of_inf hy hyi]
    rfl

theorem addElem_fin (hx : finF (fmtOf ty) x) (hy : finF (fmtOf ty) y) : RoundedTo (fmtOf ty) rnd false
    (if negF (fmtOf ty) x = negF (fmtOf ty) y then negF (fmtOf ty) x else decide (rnd = 3))
    ((realF (fmtOf ty) x + realF (fmtOf ty) y : ℚ) : ℝ) (addElem ty rnd sat x y) := by
  obtain ⟨m, e, hu, hr, -⟩ := exists_fin hx
  obtain ⟨m', e', hu', hr', -⟩ := exists_fin hy
  rw [addElem_eq hty, hu, hu', hr, hr']
  exact faddV_fin (ebits_pos (arith_formats hty)) rnd _ _ m m' e e'

/-! ## Products -/

theorem mulElem_eq : mulElem ty rnd sat x y = fmulV (fmtOf ty) rnd (unpack (fmtOf ty) x) (unpack (fmtOf ty) y) := by
  rw [mulElem, if_pos (arith_isFloat hty)]

theorem madElem_eq : madElem ty rnd sat x y z =
    fmadV (fmtOf ty) rnd (unpack (fmtOf ty) x) (unpack (fmtOf ty) y) (unpack (fmtOf ty) z) := by
  rw [madElem, if_pos (arith_isFloat hty)]

theorem mulElem_nan (h : (nanF (fmtOf ty) x || nanF (fmtOf ty) y) = true) :
    mulElem ty rnd sat x y = ((fmtOf ty).nan, ivIf (snanF (fmtOf ty) x || snanF (fmtOf ty) y)) := by
  rw [mulElem_eq hty, fmulV, if_pos (by simpa using h), unpack_isSnan, unpack_isSnan]

theorem mulElem_fin (hx : finF (fmtOf ty) x) (hy : finF (fmtOf ty) y) : RoundedTo (fmtOf ty) rnd false
    (negF (fmtOf ty) x != negF (fmtOf ty) y) ((realF (fmtOf ty) x * realF (fmtOf ty) y : ℚ) : ℝ) (mulElem ty rnd sat x y) := by
  obtain ⟨m, e, hu, hr, -⟩ := exists_fin hx
  obtain ⟨m', e', hu', hr', -⟩ := exists_fin hy
  rw [mulElem_eq hty, hu, hu', hr, hr']
  exact fmulV_fin (ebits_pos (arith_formats hty)) rnd _ _ m m' e e'

theorem madElem_fin (hx : finF (fmtOf ty) x) (hy : finF (fmtOf ty) y) (hz : finF (fmtOf ty) z) : RoundedTo (fmtOf ty) rnd false
    (if (negF (fmtOf ty) x != negF (fmtOf ty) y) = negF (fmtOf ty) z then negF (fmtOf ty) x != negF (fmtOf ty) y else decide (rnd = 3))
    ((realF (fmtOf ty) x * realF (fmtOf ty) y + realF (fmtOf ty) z : ℚ) : ℝ) (madElem ty rnd sat x y z) := by
  obtain ⟨m, e, hu, hr, -⟩ := exists_fin hx
  obtain ⟨m', e', hu', hr', -⟩ := exists_fin hy
  obtain ⟨m'', e'', hu'', hr'', -⟩ := exists_fin hz
  rw [madElem_eq hty, hu, hu', hu'', hr, hr', hr'']
  exact fmadV_fin (ebits_pos (arith_formats hty)) rnd _ _ _ m m' m'' e e' e''

/-- The operands of an invalid product: infinity and zero. -/
def invalidProduct (f : Fmt) (x y : Nat) : Bool := (infF f x && decide (realF f y = 0)) || (decide (realF f x = 0) && infF f y)

theorem mulElem_inf (hx : nanF (fmtOf ty) x = false) (hy : nanF (fmtOf ty) y = false)
    (hi : (infF (fmtOf ty) x || infF (fmtOf ty) y) = true) : mulElem ty rnd sat x y = if invalidProduct (fmtOf ty) x y then
      ((fmtOf ty).nan, Flag.iv) else ((fmtOf ty).signed (negF (fmtOf ty) x != negF (fmtOf ty) y) (fmtOf ty).infCode, 0) := by
  have hE := ebits_pos (arith_formats hty)
  rw [mulElem_eq hty, fmulV_inf (by simp [hx, hy]) (by simpa using hi), unpack_isInf, unpack_isInf, unpack_isZero hE, unpack_isZero hE,
    unpack_neg hx, unpack_neg hy]
  rfl

theorem madElem_nan (h : (nanF (fmtOf ty) x || nanF (fmtOf ty) y || nanF (fmtOf ty) z) = true) : madElem ty rnd sat x y z =
    ((fmtOf ty).nan, ivIf (snanF (fmtOf ty) x || snanF (fmtOf ty) y || snanF (fmtOf ty) z || invalidProduct (fmtOf ty) x y)) := by
  have hE := ebits_pos (arith_formats hty)
  rw [madElem_eq hty, fmadV_nan (by simpa using h), unpack_isInf, unpack_isInf, unpack_isZero hE, unpack_isZero hE, unpack_isSnan,
    unpack_isSnan, unpack_isSnan, Bool.or_assoc _ (infF (fmtOf ty) x && _)]
  rfl

theorem madElem_inf (hx : nanF (fmtOf ty) x = false) (hy : nanF (fmtOf ty) y = false) (hz : nanF (fmtOf ty) z = false)
    (hi : (infF (fmtOf ty) x || infF (fmtOf ty) y || infF (fmtOf ty) z) = true) :
    madElem ty rnd sat x y z = if (invalidProduct (fmtOf ty) x y || ((infF (fmtOf ty) x || infF (fmtOf ty) y) && infF (fmtOf ty) z &&
        negF (fmtOf ty) z != (negF (fmtOf ty) x != negF (fmtOf ty) y))) then ((fmtOf ty).nan, Flag.iv)
      else ((fmtOf ty).signed (if infF (fmtOf ty) z then negF (fmtOf ty) z else negF (fmtOf ty) x != negF (fmtOf ty) y)
        (fmtOf ty).infCode, 0) := by
  have hE := ebits_pos (arith_formats hty)
  rw [madElem_eq hty]
  cases hxy : infF (fmtOf ty) x || infF (fmtOf ty) y with
  | true =>
    rw [fmadV_product_inf (by simp [hx, hy, hz]) (by simpa using hxy), unpack_isInf, unpack_isInf, unpack_isInf, unpack_isZero hE,
      unpack_isZero hE, unpack_neg hx, unpack_neg hy, unpack_neg hz]
    cases hzi : infF (fmtOf ty) z with
    | true =>
      by_cases h : negF (fmtOf ty) z = (negF (fmtOf ty) x != negF (fmtOf ty) y)
      · simp [invalidProduct, h]
      · simp [invalidProduct, h]
    | false => simp [invalidProduct]
  | false =>
    obtain ⟨hxi, hyi⟩ := Bool.or_eq_false_iff.mp hxy
    have hzi : infF (fmtOf ty) z = true := by simpa [hxi, hyi] using hi
    rw [unpack_of_fin ⟨hx, hxi⟩, unpack_of_fin ⟨hy, hyi⟩, unpack_of_inf hz hzi, fmadV_addend_inf]
    simp [invalidProduct, hxi, hyi, hzi]

/-! ## MIN and MAX -/

theorem minmaxElem_eq (isMax : Bool) : minmaxElem isMax ty x y = fminmax (fmtOf ty) isMax x y := by
  rw [minmaxElem, if_pos (arith_isFloat hty)]

/-- MIN and MAX of NaNs (11 R166). -/
theorem minmaxElem_nan (isMax : Bool) :
    (nanF (fmtOf ty) x = true → nanF (fmtOf ty) y = true →
      minmaxElem isMax ty x y = ((fmtOf ty).nan, ivIf (snanF (fmtOf ty) x || snanF (fmtOf ty) y))) ∧
    (nanF (fmtOf ty) x = true → nanF (fmtOf ty) y = false → minmaxElem isMax ty x y = (y, ivIf (snanF (fmtOf ty) x))) ∧
    (nanF (fmtOf ty) x = false → nanF (fmtOf ty) y = true → minmaxElem isMax ty x y = (x, ivIf (snanF (fmtOf ty) y))) := by
  simp only [minmaxElem_eq hty, fminmax, unpack_isNan, unpack_isSnan]
  refine ⟨fun hx hy => ?_, fun hx hy => ?_, fun hx hy => ?_⟩
  · simp [hx, hy]
  · simp [hx, hy, snanF_of_not_nan hy]
  · simp [hx, hy, snanF_of_not_nan hx]

/-- The lesser of two numbers, −0 below +0 (23 R352). -/
theorem minmaxElem_number (isMax : Bool) (hx : nanF (fmtOf ty) x = false) (hy : nanF (fmtOf ty) y = false) :
    minmaxElem isMax ty x y = (if (decide (realF (fmtOf ty) x < realF (fmtOf ty) y) || (decide (realF (fmtOf ty) x = realF (fmtOf ty) y) &&
      negF (fmtOf ty) x && !(negF (fmtOf ty) y))) != isMax then x else y, 0) := by
  have hE := ebits_pos (arith_formats hty)
  have hs := arith_special hty
  simp only [minmaxElem_eq hty, fminmax, unpack_isNan, hx, hy, Bool.false_eq_true, if_false, Bool.and_self, fltV_unpack hE hs hx hy,
    feqV_unpack hE hs hx hy, unpack_neg hx, unpack_neg hy]

end

end Sys2Proof.Machine
end

section
/-! PROOFS. Conversions (11 R169, R170, Table 11.6). -/

namespace Sys2Proof.Machine

open Safety

/-! ## Types and formats -/

theorem fmtOf_mem (ty : Nat) : fmtOf ty ∈ formats := by
  unfold fmtOf
  split <;> decide

theorem float_cases {ty : Nat} (h : isFloat ty = true) : ty = 2 ∨ ty = 3 ∨ ty = 4 ∨ ty = 9 ∨ ty = 10 ∨ ty = 13 := by
  simpa [isFloat, or_assoc] using h

theorem special_f8a {ty : Nat} (h : isFloat ty = true) : (fmtOf ty).special = .f8a ↔ ty = 9 := by
  rcases float_cases h with rfl | rfl | rfl | rfl | rfl | rfl <;> decide

theorem special_none {ty : Nat} (h : isFloat ty = true) : (fmtOf ty).special = .none ↔ ty = 13 := by
  rcases float_cases h with rfl | rfl | rfl | rfl | rfl | rfl <;> decide

theorem two_signBit {ty : Nat} (h : isFloat ty = true) : 2 * (fmtOf ty).signBit = 2 ^ elemWidth ty := by
  rcases float_cases h with rfl | rfl | rfl | rfl | rfl | rfl <;> rfl

/-! ## To a float format -/

theorem overflowed_f8a {f : Fmt} (hs : f.special = .f8a) (rnd : Nat) (sat neg : Bool) :
    overflowed f rnd sat neg = if sat then f.signed neg f.maxCode else f.nan := by
  simp only [overflowed, hs]

/-- Where F8A has no infinity, an overflow is its only NaN. -/
theorem nan_of_roundedTo {f : Fmt} (hE : 0 < f.ebits) (hs : f.special = .f8a) {rnd : Nat} {sat z : Bool} {q : ℝ} {r : Nat × Flags}
    (h : RoundedTo f rnd sat z q r) (hn : nanF f r.1 = true) : r.1 = f.nan := by
  have hno (hf : finF f r.1) : r.1 = f.nan := by rw [hf.1] at hn; cases hn
  by_cases h0 : q = 0
  · refine hno ?_
    rw [h.1 h0]
    exact finF_signed hE z (Nat.zero_le _)
  · obtain ⟨u, t, neg, ix, uf, -, -, -, -, -, hover, hin⟩ := h.2 h0
    rcases lt_or_ge (realF f f.maxCode) |u| with hu | hu
    · have hr : r.1 = if sat then f.signed neg f.maxCode else f.nan := by rw [hover hu, overflowed_f8a hs]
      cases sat with
      | false => exact hr
      | true => exact hno (hr ▸ finF_signed hE neg le_rfl)
    · exact hno (hin hu).2.1

theorem nanF_nan_f8a : nanF fmtF8A fmtF8A.nan = true := by decide

/-- A finite value converted to a float format is rounded once; an F8A NaN that comes of it sets IV as well (11 Table 11.6). -/
theorem cvtToFloat_fin {ty : Nat} (hd : isFloat ty = true) (rnd : Nat) (sat n : Bool) (m : Nat) (e : ℤ) :
    ∃ r, RoundedTo (fmtOf ty) rnd sat n ((sgn n * (m * 2 ^ e) : ℚ) : ℝ) r ∧ cvtToFloat (fmtOf ty) rnd sat (.fin n m e) =
      (r.1, r.2 ||| if ty = 9 ∧ nanF (fmtOf ty) r.1 = true then Flag.iv else 0) := by
  have hr := roundDy_roundedTo (ebits_pos (fmtOf_mem ty)) rnd sat n (finDy n m e)
  rw [finDy_val] at hr
  refine ⟨_, hr, ?_⟩
  have hiff : ((fmtOf ty).special = .f8a ∧ (roundDy (fmtOf ty) rnd sat n (finDy n m e)).1 = (fmtOf ty).nan) ↔
      ty = 9 ∧ nanF (fmtOf ty) (roundDy (fmtOf ty) rnd sat n (finDy n m e)).1 = true := by
    rw [special_f8a hd]
    refine and_congr_right fun h9 => ⟨fun h => ?_, nan_of_roundedTo (ebits_pos (fmtOf_mem ty)) ((special_f8a hd).mpr h9) hr⟩
    rw [h, h9]
    exact nanF_nan_f8a
  simp only [cvtToFloat, hiff]
  split <;> simp

section
variable {src dst : Nat} (rnd : Nat) (sat : Bool) (x : Nat)

theorem cvtElem_float_nan (hs : isFloat src = true) (hd : isFloat dst = true) (h : nanF (fmtOf src) x = true) :
    cvtElem src dst rnd sat x =
      if dst = 13 then (0, Flag.iv) else ((fmtOf dst).nan, ivIf (snanF (fmtOf src) x)) := by
  simp only [cvtElem, hs, hd, if_true, unpack_of_nan h, cvtToFloat, special_none hd]

theorem cvtElem_float_inf (hs : isFloat src = true) (hd : isFloat dst = true) (h : infF (fmtOf src) x = true) :
    cvtElem src dst rnd sat x =
      if dst = 13 then ((fmtOf dst).signed (negF (fmtOf src) x) 7, Flag.iv)
      else if dst = 9 then (if sat then ((fmtOf dst).signed (negF (fmtOf src) x) 0x7E, 0) else (0x7F, Flag.iv))
      else ((fmtOf dst).signed (negF (fmtOf src) x) (fmtOf dst).infCode, 0) := by
  simp only [cvtElem, hs, hd, if_true, unpack_of_inf (nanF_of_infF h) h]
  rcases float_cases hd with rfl | rfl | rfl | rfl | rfl | rfl <;> rfl

theorem cvtElem_float_fin (hs : isFloat src = true) (hd : isFloat dst = true) (h : finF (fmtOf src) x) :
    ∃ r, RoundedTo (fmtOf dst) rnd sat (negF (fmtOf src) x) (realF (fmtOf src) x) r ∧
      cvtElem src dst rnd sat x = (r.1, r.2 ||| if dst = 9 ∧ nanF (fmtOf dst) r.1 = true then Flag.iv else 0) := by
  obtain ⟨m, e, hu, hr, -⟩ := exists_fin h
  rw [hr]
  simp only [cvtElem, hs, hd, if_true, hu]
  exact cvtToFloat_fin hd rnd sat _ m e

theorem sgn_natAbs (i : ℤ) : sgn (decide (i < 0)) * (i.natAbs * 2 ^ (0 : ℤ)) = i := by
  rw [zpow_zero, mul_one, Nat.cast_natAbs]
  rcases lt_or_ge i 0 with h | h
  · simp [h, abs_of_neg h]
  · simp [h.not_gt, abs_of_nonneg h]

theorem cvtElem_integer_float (hs : isFloat src = false) (hd : isFloat dst = true) :
    ∃ r, RoundedTo (fmtOf dst) rnd sat false ((intVal (isSigned src) (elemWidth src) x : ℚ) : ℝ) r ∧
      cvtElem src dst rnd sat x = (r.1, r.2 ||| if dst = 9 ∧ nanF (fmtOf dst) r.1 = true then Flag.iv else 0) := by
  simp only [cvtElem, hs, hd, Bool.false_eq_true, if_false, if_true]
  generalize intVal (isSigned src) (elemWidth src) x = i
  obtain ⟨r, hr, he⟩ := cvtToFloat_fin hd rnd sat (decide (i < 0)) i.natAbs 0
  rw [sgn_natAbs] at hr
  refine ⟨r, roundedTo_of_zero hr fun h0 => ?_, he⟩
  have : i = 0 := by exact_mod_cast h0
  simp [this]

/-! ## To an integer type -/

theorem cvtElem_integer_nan (hs : isFloat src = true) (hd : isFloat dst = false) (h : nanF (fmtOf src) x = true) :
    cvtElem src dst rnd sat x = (0, Flag.iv) := by
  simp only [cvtElem, hs, hd, Bool.false_eq_true, if_false, if_true, unpack_of_nan h, cvtToInt]

theorem cvtElem_integer_inf (hs : isFloat src = true) (hd : isFloat dst = false) (h : infF (fmtOf src) x = true) :
    cvtElem src dst rnd sat x = (wrap (elemWidth dst)
      (if negF (fmtOf src) x then intMin (isSigned dst) (elemWidth dst) else intMax (isSigned dst) (elemWidth dst)), Flag.iv) := by
  simp only [cvtElem, hs, hd, Bool.false_eq_true, if_false, if_true, unpack_of_inf (nanF_of_infF h) h, cvtToInt]

/-- A finite value rounds to an integer under RND; out of range it gives the nearest bound (11 Table 11.6). -/
theorem cvtElem_integer_fin (hs : isFloat src = true) (hd : isFloat dst = false) (h : finF (fmtOf src) x) :
    ∃ n : ℤ, Nearest rnd (fun u => ∃ n : ℤ, u = n) (realF (fmtOf src) x) n ∧ cvtElem src dst rnd sat x =
      if n < intMin (isSigned dst) (elemWidth dst) then (wrap (elemWidth dst) (intMin (isSigned dst) (elemWidth dst)), Flag.iv)
      else if intMax (isSigned dst) (elemWidth dst) < n then (wrap (elemWidth dst) (intMax (isSigned dst) (elemWidth dst)), Flag.iv)
      else (wrap (elemWidth dst) n, if realF (fmtOf src) x = n then 0 else Flag.ix) := by
  obtain ⟨m, e, hu, hr, -⟩ := exists_fin h
  obtain ⟨hnear, hix⟩ := roundAt_integer rnd (negF (fmtOf src) x) m e
  have hn : sgn (negF (fmtOf src) x) * (roundAt rnd (negF (fmtOf src) x) m 1 e 0).1 = ((roundInt rnd (negF (fmtOf src) x) m e).1 : ℚ) := by
    rw [roundInt]
    cases negF (fmtOf src) x <;> simp
  refine ⟨(roundInt rnd (negF (fmtOf src) x) m e).1, by rw [hr, ← hn]; exact hnear, ?_⟩
  have hexact : realF (fmtOf src) x = (roundInt rnd (negF (fmtOf src) x) m e).1 ↔ (roundInt rnd (negF (fmtOf src) x) m e).2 = false := by
    have h2 : (roundInt rnd (negF (fmtOf src) x) m e).2 = (roundAt rnd (negF (fmtOf src) x) m 1 e 0).2 := rfl
    rw [hr, ← hn, mul_right_inj' (sgn_ne_zero _), h2, ← Bool.not_eq_true, hix, not_not, eq_comm]
  have hlohi := (intMin_le_clamp (isSigned dst) (elemWidth dst) 0).trans (clamp_le_intMax (isSigned dst) (elemWidth dst) 0)
  simp only [cvtElem, hs, hd, Bool.false_eq_true, if_false, if_true, hu, cvtToInt, hexact]
  generalize roundInt rnd (negF (fmtOf src) x) m e = r
  rcases lt_or_ge r.1 (intMin (isSigned dst) (elemWidth dst)) with hlo | hlo
  · rw [if_pos (.inl hlo), if_pos hlo, clamp, min_eq_right (by omega), max_eq_left hlo.le]
  · rw [if_neg hlo.not_gt]
    rcases lt_or_ge (intMax (isSigned dst) (elemWidth dst)) r.1 with hhi | hhi
    · rw [if_pos (.inr hhi), if_pos hhi, clamp, min_eq_left hhi.le, max_eq_right hlohi]
    · rw [if_neg (by omega), if_neg hhi.not_gt]
      cases r.2 <;> rfl

theorem cvtElem_integers (hs : isFloat src = false) (hd : isFloat dst = false) : cvtElem src dst rnd sat x =
    (wrap (elemWidth dst) (if sat then max (intMin (isSigned dst) (elemWidth dst)) (min (intMax (isSigned dst) (elemWidth dst))
      (intVal (isSigned src) (elemWidth src) x)) else intVal (isSigned src) (elemWidth src) x), 0) := by
  simp only [cvtElem, hs, hd, Bool.false_eq_true, if_false, intResult, clamp]

/-! ## Elements of a register group -/

theorem elem_packElems (w : Nat) : ∀ (xs : List Nat) (j : Nat) (hj : j < xs.length), elem w j (packElems w xs) = xs[j] % 2 ^ w
  | x :: xs, 0, _ => by simp [elem, packElems, Nat.add_mul_mod_self_left]
  | x :: xs, j + 1, hj => by
    have ih := elem_packElems w xs j (by simpa using hj)
    rw [elem] at ih
    rw [elem, packElems, mul_add, mul_one, add_comm (w * j), pow_add, ← Nat.div_div_eq_div_mul, Nat.add_mul_div_left _ _ (Nat.two_pow_pos w),
      Nat.div_eq_of_lt (Nat.mod_lt _ (Nat.two_pow_pos w)), zero_add, ih, List.getElem_cons_succ]

theorem cvtElem_float_lt (hd : isFloat dst = true) : (cvtElem src dst rnd sat x).1 < 2 ^ elemWidth dst := by
  rw [← two_signBit hd]
  by_cases hs : isFloat src = true
  · rcases element_cases (fmtOf src) x with h | ⟨-, h⟩ | h
    · rw [cvtElem_float_nan rnd sat x hs hd h]
      have := nan_lt (fmtOf_mem dst)
      split <;> simp <;> omega
    · have hlt (n : Bool) {c : Nat} (hc : c < (fmtOf dst).signBit) : (fmtOf dst).signed n c < 2 * (fmtOf dst).signBit := Fmt.signed_lt n hc
      rw [cvtElem_float_inf rnd sat x hs hd h]
      split
      · next h13 => subst h13; exact hlt _ (by decide)
      · split
        · next h9 =>
          subst h9
          split
          · exact hlt _ (by decide)
          · exact hlt false (by decide)
        · exact hlt _ (infCode_lt (fmtOf_mem dst))
    · obtain ⟨r, hr, he⟩ := cvtElem_float_fin rnd sat x hs hd h
      have := roundedTo_lt (fmtOf_mem dst) hr
      rwa [he]
  · obtain ⟨r, hr, he⟩ := cvtElem_integer_float rnd sat x (Bool.eq_false_of_not_eq_true hs) hd
    have := roundedTo_lt (fmtOf_mem dst) hr
    rwa [he]

theorem cvtElem_integer_lt (hd : isFloat dst = false) : (cvtElem src dst rnd sat x).1 < 2 ^ elemWidth dst := by
  by_cases hs : isFloat src = true
  · rcases element_cases (fmtOf src) x with h | ⟨-, h⟩ | h
    · rw [cvtElem_integer_nan rnd sat x hs hd h]
      exact Nat.two_pow_pos _
    · rw [cvtElem_integer_inf rnd sat x hs hd h]
      exact wrap_lt _ _
    · obtain ⟨n, -, he⟩ := cvtElem_integer_fin rnd sat x hs hd h
      rw [he]
      split
      · exact wrap_lt _ _
      · split
        · exact wrap_lt _ _
        · exact wrap_lt _ _
  · rw [cvtElem_integers rnd sat x (Bool.eq_false_of_not_eq_true hs) hd]
    exact wrap_lt _ _

/-- A converted element fits its place. -/
theorem cvtElem_lt : (cvtElem src dst rnd sat x).1 < 2 ^ elemWidth dst := by
  cases hd : isFloat dst with
  | true => exact cvtElem_float_lt rnd sat x hd
  | false => exact cvtElem_integer_lt rnd sat x hd

end

/-- CVT converts each element, and gathers their flags (11 R169). -/
theorem cvtLane_elements (src dst rnd : Nat) (sat : Bool) (reg : Nat → Nat) :
    (∀ j, j < max (elemCount src) (elemCount dst) → elem (elemWidth dst) j (cvtLane src dst rnd sat reg).1 =
      (cvtElem src dst rnd sat (elem (elemWidth src) (j % elemCount src) (reg (j / elemCount src)))).1) ∧
    (cvtLane src dst rnd sat reg).2 = orFlags ((upTo (max (elemCount src) (elemCount dst))).map fun j =>
      (cvtElem src dst rnd sat (elem (elemWidth src) (j % elemCount src) (reg (j / elemCount src)))).2) := by
  constructor
  · intro j hj
    simp only [cvtLane]
    rw [elem_packElems _ _ _ (by simpa [upTo] using hj)]
    simp only [upTo, List.map_map, List.getElem_map, List.getElem_range, Function.comp_apply]
    exact Nat.mod_eq_of_lt (cvtElem_lt rnd sat _)
  · simp only [cvtLane, List.map_map]
    rfl

end Sys2Proof.Machine
end

section
/-! PROOFS. DOT under the float types (11 R173): what a sum of terms gathers, and its one rounding. -/

namespace Sys2Proof.Machine

open Safety

/-! ## Sums of terms -/

/-- The number that a term adds to an exact sum; NaN and infinities add none. -/
def FVal.num : FVal → ℚ
  | .fin n m e => sgn n * (m * 2 ^ e)
  | _ => 0

@[simp] theorem num_fin (n : Bool) (m : Nat) (e : ℤ) : (FVal.fin n m e).num = sgn n * (m * 2 ^ e) := rfl

/-- What a sum has gathered from its terms. -/
structure Gathered (a : Acc) (ts : List FVal) : Prop where
  nan : a.nan = ts.any FVal.isNan
  iv : a.iv = ts.any FVal.isSnan
  pinf : a.pinf = ts.any fun t => t.isInf && !(t.neg)
  ninf : a.ninf = ts.any fun t => t.isInf && t.neg
  sum : a.sum.val = (ts.map FVal.num).sum

theorem gathered_zero : Gathered Acc.zero [] := ⟨rfl, rfl, rfl, rfl, by simp [Acc.zero]⟩

/-- One more term. -/
theorem Gathered.addV {a : Acc} {ts : List FVal} (h : Gathered a ts) (t : FVal) : Gathered (a.addV t) (ts ++ [t]) := by
  obtain ⟨h1, h2, h3, h4, h5⟩ := h
  cases t with
  | nan s => constructor <;> simp [Acc.addV, FVal.num, h2, h3, h4, h5]
  | inf n => cases n <;> constructor <;> simp [Acc.addV, FVal.num, h1, h2, h3, h4, h5]
  | fin n m e => constructor <;> simp [Acc.addV, finDy_val, h1, h2, h3, h4, h5]

theorem Gathered.foldl {a : Acc} {ts : List FVal} (h : Gathered a ts) : ∀ us : List FVal, Gathered (us.foldl Acc.addV a) (ts ++ us)
  | [] => by simpa using h
  | u :: us => by simpa using Gathered.foldl (h.addV u) us

/-! ## Products -/

/-- A product is a NaN when an operand is, or when it is infinity times zero. -/
def FVal.invalid (x y : FVal) : Bool := (x.isInf && y.isZero) || (x.isZero && y.isInf)

/-- Two operands: one is a NaN, one is infinite and none a NaN, or both are finite. -/
theorem operands_cases (x y : FVal) : (x.isNan || y.isNan) = true ∨
    ((x.isNan || y.isNan) = false ∧ (x.isInf || y.isInf) = true) ∨ ∃ nx mx ex ny my ey, x = .fin nx mx ex ∧ y = .fin ny my ey := by
  cases x with
  | nan s => exact .inl rfl
  | inf n => cases y <;> simp
  | fin n m e => cases y <;> simp

theorem mulV_nan {x y : FVal} (h : (x.isNan || y.isNan) = true) : mulV x y = .nan (x.isSnan || y.isSnan) := by
  cases x <;> cases y <;> simp at h <;> simp [mulV]

theorem mulV_inf {x y : FVal} (hn : (x.isNan || y.isNan) = false) (hi : (x.isInf || y.isInf) = true) :
    mulV x y = if x.invalid y then .nan true else .inf (x.neg != y.neg) := by
  rcases infinite_product_cases hn hi with ⟨nx, ny, rfl, rfl⟩ | ⟨nx, ny, m, e, rfl, rfl⟩ | ⟨nx, ny, m, e, rfl, rfl⟩ <;>
    simp [mulV, FVal.invalid]

/-- An invalid product has no NaN among its operands. -/
theorem not_nan_of_invalid {x y : FVal} (h : x.invalid y = true) : (x.isNan || y.isNan) = false := by
  cases x <;> cases y <;> simp [FVal.invalid] at h <;> rfl

theorem mulV_isNan (x y : FVal) : (mulV x y).isNan = (x.isNan || y.isNan || x.invalid y) := by
  rcases operands_cases x y with h | ⟨hn, hi⟩ | ⟨nx, mx, ex, ny, my, ey, rfl, rfl⟩
  · rw [mulV_nan h, h]; rfl
  · rw [mulV_inf hn hi, hn]
    cases x.invalid y <;> rfl
  · simp [mulV, FVal.invalid]

theorem mulV_isSnan (x y : FVal) :
    (mulV x y).isSnan = ((x.invalid y && !(x.isNan) && !(y.isNan)) || x.isSnan || y.isSnan) := by
  rcases operands_cases x y with h | ⟨hn, hi⟩ | ⟨nx, mx, ex, ny, my, ey, rfl, rfl⟩
  · have hv : x.invalid y = false := by
      cases hv : x.invalid y
      · rfl
      · rw [not_nan_of_invalid hv] at h; cases h
    rw [mulV_nan h, hv]; rfl
  · have hs : x.isSnan = false ∧ y.isSnan = false := by cases x <;> cases y <;> simp at hn <;> simp
    obtain ⟨h1, h2⟩ := Bool.or_eq_false_iff.mp hn
    rw [mulV_inf hn hi, h1, h2, hs.1, hs.2]
    cases x.invalid y <;> rfl
  · simp [mulV, FVal.invalid]

/-- A product that is no NaN has the product of the signs, and is infinite when an operand is. -/
theorem mulV_isInf {x y : FVal} (hn : (x.isNan || y.isNan) = false) (hv : x.invalid y = false) :
    (mulV x y).isInf = (x.isInf || y.isInf) ∧ (mulV x y).neg = (x.neg != y.neg) := by
  rcases operands_cases x y with h | ⟨hn, hi⟩ | ⟨nx, mx, ex, ny, my, ey, rfl, rfl⟩
  · rw [h] at hn; cases hn
  · rw [mulV_inf hn hi, hv, hi]
    exact ⟨rfl, rfl⟩
  · exact ⟨rfl, rfl⟩

theorem mulV_num {x y : FVal} (hx : x.isNan = false ∧ x.isInf = false) (hy : y.isNan = false ∧ y.isInf = false) :
    (mulV x y).num = x.num * y.num ∧ (mulV x y).isZero = decide (x.num * y.num = 0) := by
  rcases operands_cases x y with h | ⟨-, hi⟩ | ⟨nx, mx, ex, ny, my, ey, rfl, rfl⟩
  · rw [hx.1, hy.1] at h; cases h
  · rw [hx.2, hy.2] at hi; cases hi
  · have hm : mulV (.fin nx mx ex) (.fin ny my ey) = .fin (nx != ny) (mx * my) (ex + ey) := rfl
    have hnum : sgn (nx != ny) * (((mx * my : Nat) : ℚ) * 2 ^ (ex + ey)) = sgn nx * (mx * 2 ^ ex) * (sgn ny * (my * 2 ^ ey)) := by
      rw [← sgn_mul, zpow_add₀ two_ne_zero]
      push_cast
      ring
    rw [hm, num_fin, num_fin, num_fin, isZero_fin, ← hnum]
    refine ⟨rfl, ?_⟩
    rw [beq_eq_decide, decide_eq_decide, mul_eq_zero (a := sgn _), or_iff_right (sgn_ne_zero _), mul_zpow_eq_zero]

theorem num_unpack {f : Fmt} {x : Nat} (h : finF f x) : (unpack f x).num = realF f x := by
  obtain ⟨m, e, hu, hr, -⟩ := exists_fin h
  rw [hu, hr, num_fin]

theorem unpack_invalid {f : Fmt} (hE : 0 < f.ebits) (x y : Nat) : (unpack f x).invalid (unpack f y) = invalidProduct f x y := by
  rw [FVal.invalid, unpack_isInf, unpack_isInf, unpack_isZero hE, unpack_isZero hE, invalidProduct]

/-! ## The result of a sum of terms -/

theorem special_finite {a : Acc} {ts : List FVal} (h : Gathered a ts) (hfin : ∀ t ∈ ts, t.isNan = false ∧ t.isInf = false) (f : Fmt) :
    a.special f = none := by
  have hn : a.nan = false := by rw [h.nan, List.any_eq_false]; exact fun t ht => by simp [(hfin t ht).1]
  have hp : a.pinf = false := by rw [h.pinf, List.any_eq_false]; exact fun t ht => by simp [(hfin t ht).2]
  have hm : a.ninf = false := by rw [h.ninf, List.any_eq_false]; exact fun t ht => by simp [(hfin t ht).2]
  simp [Acc.special, hn, hp, hm]

/-- The sign that DOT gives a zero sum of terms. -/
def zeroSign (rnd : Nat) (ts : List FVal) : Bool :=
  if ts.all (fun t => t.isZero && t.neg) then true else if ts.all (fun t => t.isZero && !(t.neg)) then false else rnd == 3

theorem isZero_of_num {t : FVal} (h : t.isNan = false ∧ t.isInf = false) (h0 : t.num = 0) : t.isZero = true := by
  cases t with
  | nan s => simp at h
  | inf n => simp at h
  | fin n m e =>
    rw [num_fin, mul_eq_zero, or_iff_right (sgn_ne_zero _), mul_zpow_eq_zero] at h0
    rw [isZero_fin, h0]
    rfl

/-- Terms of one sign whose sum is zero are zeros. -/
theorem zeros_of_same_sign {ts : List FVal} {s : Bool} (hfin : ∀ t ∈ ts, t.isNan = false ∧ t.isInf = false)
    (hsign : ∀ t ∈ ts, t.neg = s) (hsum : (ts.map FVal.num).sum = 0) : ∀ t ∈ ts, t.isZero = true := by
  have hpos (t : FVal) (ht : t ∈ ts) : 0 ≤ sgn s * t.num := by
    rw [← hsign t ht]
    cases t with
    | nan s => simp [FVal.num]
    | inf n => simp [FVal.num]
    | fin n m e =>
      rw [neg_fin, num_fin, ← mul_assoc, sgn_mul]
      simp only [bne_self_eq_false, sgn_false, one_mul]
      positivity
  intro t ht
  have := List.all_zero_of_le_zero_le_of_sum_eq_zero (l := ts.map fun t => sgn s * t.num) (by simpa using hpos)
    (by rw [List.sum_map_mul_left, hsum, mul_zero]) (List.mem_map_of_mem ht)
  rw [mul_eq_zero, or_iff_right (sgn_ne_zero _)] at this
  exact isZero_of_num (hfin t ht) this

/-- A sum of zeros takes their sign when they share it (11 R173). -/
theorem zeroSign_eq {ts : List FVal} (hfin : ∀ t ∈ ts, t.isNan = false ∧ t.isInf = false) (hsum : (ts.map FVal.num).sum = 0) (rnd : Nat) :
    zeroSign rnd ts =
      if ts.all (fun t => t.neg == true) then true else if ts.all (fun t => t.neg == false) then false else decide (rnd = 3) := by
  have key (s : Bool) : ts.all (fun t => t.isZero && t.neg == s) = ts.all (fun t => t.neg == s) := by
    rw [Bool.eq_iff_iff, List.all_eq_true, List.all_eq_true]
    constructor
    · exact fun h t ht => (Bool.and_eq_true_iff.mp (h t ht)).2
    · exact fun h t ht => Bool.and_eq_true_iff.mpr ⟨zeros_of_same_sign hfin (fun t ht => beq_iff_eq.mp (h t ht)) hsum t ht, h t ht⟩
  have h1 := key true
  have h2 := key false
  simp only [beq_true, beq_false] at h1 h2 ⊢
  rw [zeroSign, h1, h2, beq_eq_decide]

/-! ## DOT -/

/-- The product of two elements of DOT. -/
def dotTerm (ty x y k : Nat) : FVal :=
  mulV (unpack (fmtOf ty) (elem (elemWidth ty) k x)) (unpack (fmtOf ty) (elem (elemWidth ty) k y))

/-- The terms of DOT: the products, then D. -/
def dotTerms (ty x y z : Nat) : List FVal := (upTo (elemCount ty)).map (dotTerm ty x y) ++ [unpack fmtF32 z]

theorem zeroSign_append (rnd : Nat) (ps : List FVal) (z : FVal) : zeroSign rnd (ps ++ [z]) =
    if z.isZero && z.neg && ps.all (fun p => p.isZero && p.neg) then true
    else if z.isZero && !(z.neg) && ps.all (fun p => p.isZero && !(p.neg)) then false else rnd == 3 := by
  simp only [zeroSign, List.all_append, List.all_cons, List.all_nil, Bool.and_true, Bool.and_comm (ps.all _)]

theorem dotLane_float {ty : Nat} (hty : isFloat ty = true) (rnd : Nat) (sat : Bool) (x y z : Nat) : ∃ a, Gathered a (dotTerms ty x y z) ∧
    dotLane ty rnd sat x y z = (a.special fmtF32).getD (roundDy fmtF32 rnd false (zeroSign rnd (dotTerms ty x y z)) a.sum) := by
  refine ⟨_, (gathered_zero.foldl ((upTo (elemCount ty)).map (dotTerm ty x y))).addV (unpack fmtF32 z), ?_⟩
  rw [dotTerms, zeroSign_append]
  simp only [dotLane, hty, if_true]
  split
  · next h => exact (congrArg (Option.getD · _) h).symm
  · next h => exact (congrArg (Option.getD · _) h).symm

section
variable {ty : Nat} (hty : isFloat ty = true) (rnd : Nat) (sat : Bool) (x y z : Nat)
include hty

theorem dotLane_nan (h : (dotTerms ty x y z).any FVal.isNan = true) :
    dotLane ty rnd sat x y z = (fmtF32.nan, ivIf ((dotTerms ty x y z).any FVal.isSnan)) := by
  obtain ⟨a, hg, he⟩ := dotLane_float hty rnd sat x y z
  have hn := hg.nan.trans h
  rw [he, ← hg.iv]
  simp [Acc.special, hn]

section
variable (hn : (dotTerms ty x y z).any FVal.isNan = false)
include hn

theorem dotLane_inf_both (hp : ((dotTerms ty x y z).any fun t => t.isInf && !(t.neg)) = true)
    (hm : ((dotTerms ty x y z).any fun t => t.isInf && t.neg) = true) : dotLane ty rnd sat x y z = (fmtF32.nan, Flag.iv) := by
  obtain ⟨a, hg, he⟩ := dotLane_float hty rnd sat x y z
  rw [he]
  simp [Acc.special, hg.nan.trans hn, hg.pinf.trans hp, hg.ninf.trans hm]

theorem dotLane_inf_one {s : Bool} (hs : ((dotTerms ty x y z).any fun t => t.isInf && t.neg == s) = true)
    (ho : ((dotTerms ty x y z).any fun t => t.isInf && t.neg == !s) = false) :
    dotLane ty rnd sat x y z = (fmtF32.signed s fmtF32.infCode, 0) := by
  obtain ⟨a, hg, he⟩ := dotLane_float hty rnd sat x y z
  rw [he]
  cases s with
  | false =>
    simp only [beq_false, Bool.not_false, beq_true] at hs ho
    simp [Acc.special, hg.nan.trans hn, hg.pinf.trans hs, hg.ninf.trans ho, Fmt.signed]
  | true =>
    simp only [beq_false, Bool.not_true, beq_true] at hs ho
    simp [Acc.special, hg.nan.trans hn, hg.pinf.trans ho, hg.ninf.trans hs]

end

theorem dotLane_finite (hfin : ∀ t ∈ dotTerms ty x y z, t.isNan = false ∧ t.isInf = false) :
    RoundedTo fmtF32 rnd false (if (dotTerms ty x y z).all (fun t => t.neg == true) then true
      else if (dotTerms ty x y z).all (fun t => t.neg == false) then false else decide (rnd = 3))
      ((((dotTerms ty x y z).map FVal.num).sum : ℚ) : ℝ) (dotLane ty rnd sat x y z) := by
  obtain ⟨a, hg, he⟩ := dotLane_float hty rnd sat x y z
  rw [he, special_finite hg hfin, Option.getD_none, ← hg.sum]
  refine roundedTo_of_zero (roundDy_roundedTo (by decide) rnd false _ a.sum) fun h0 => zeroSign_eq hfin ?_ rnd
  rw [← hg.sum]
  exact_mod_cast h0

end

/-! ## DOT's terms by its operands' elements -/

theorem any_or {α : Type} (p q : α → Bool) : ∀ xs : List α, (xs.any fun x => p x || q x) = (xs.any p || xs.any q)
  | [] => rfl
  | x :: xs => by simp [any_or p q xs, Bool.or_assoc, Bool.or_left_comm]

theorem dotTerms_any (ty x y z : Nat) (p : FVal → Bool) :
    (dotTerms ty x y z).any p = (p (unpack fmtF32 z) || (upTo (elemCount ty)).any fun k => p (dotTerm ty x y k)) := by
  simp [dotTerms, List.any_map, Function.comp_def, Bool.or_comm]

theorem dotTerms_all (ty x y z : Nat) (p : FVal → Bool) :
    (dotTerms ty x y z).all p = (p (unpack fmtF32 z) && (upTo (elemCount ty)).all fun k => p (dotTerm ty x y k)) := by
  simp [dotTerms, List.all_map, Function.comp_def, Bool.and_comm]

section
variable (ty x y k : Nat)

theorem dotTerm_isNan : (dotTerm ty x y k).isNan =
    (nanF (fmtOf ty) (elem (elemWidth ty) k x) || nanF (fmtOf ty) (elem (elemWidth ty) k y) ||
      invalidProduct (fmtOf ty) (elem (elemWidth ty) k x) (elem (elemWidth ty) k y)) := by
  rw [dotTerm, mulV_isNan, unpack_isNan, unpack_isNan, unpack_invalid (ebits_pos (fmtOf_mem ty))]

theorem dotTerm_isSnan : (dotTerm ty x y k).isSnan =
    ((invalidProduct (fmtOf ty) (elem (elemWidth ty) k x) (elem (elemWidth ty) k y) && !(nanF (fmtOf ty) (elem (elemWidth ty) k x)) &&
      !(nanF (fmtOf ty) (elem (elemWidth ty) k y))) || snanF (fmtOf ty) (elem (elemWidth ty) k x) ||
      snanF (fmtOf ty) (elem (elemWidth ty) k y)) := by
  rw [dotTerm, mulV_isSnan, unpack_isNan, unpack_isNan, unpack_isSnan, unpack_isSnan, unpack_invalid (ebits_pos (fmtOf_mem ty))]

variable {ty x y k} (hn : (dotTerm ty x y k).isNan = false)
include hn

/-- A product that is no NaN is infinite when one of its factors is, and has the product of their signs. -/
theorem dotTerm_isInf : (dotTerm ty x y k).isInf =
      (infF (fmtOf ty) (elem (elemWidth ty) k x) || infF (fmtOf ty) (elem (elemWidth ty) k y)) ∧
    (dotTerm ty x y k).neg = (negF (fmtOf ty) (elem (elemWidth ty) k x) != negF (fmtOf ty) (elem (elemWidth ty) k y)) := by
  rw [dotTerm_isNan, Bool.or_eq_false_iff, Bool.or_eq_false_iff] at hn
  obtain ⟨⟨hx, hy⟩, hv⟩ := hn
  have h := mulV_isInf (x := unpack (fmtOf ty) (elem (elemWidth ty) k x)) (y := unpack (fmtOf ty) (elem (elemWidth ty) k y))
    (by simp [hx, hy]) (by rw [unpack_invalid (ebits_pos (fmtOf_mem ty)), hv])
  rwa [unpack_isInf, unpack_isInf, unpack_neg hx, unpack_neg hy] at h

theorem dotTerm_num (hi : (dotTerm ty x y k).isInf = false) :
    (dotTerm ty x y k).num = realF (fmtOf ty) (elem (elemWidth ty) k x) * realF (fmtOf ty) (elem (elemWidth ty) k y) := by
  rw [(dotTerm_isInf hn).1, Bool.or_eq_false_iff] at hi
  rw [dotTerm_isNan, Bool.or_eq_false_iff, Bool.or_eq_false_iff] at hn
  obtain ⟨⟨hx, hy⟩, -⟩ := hn
  obtain ⟨hxi, hyi⟩ := hi
  rw [dotTerm, (mulV_num (by simp [hx, hxi]) (by simp [hy, hyi])).1, num_unpack ⟨hx, hxi⟩, num_unpack ⟨hy, hyi⟩]

end

/-- A term of DOT is a NaN when D or an operand is, or when a product is invalid. -/
theorem dotTerms_isNan (ty x y z : Nat) : (dotTerms ty x y z).any FVal.isNan =
    ((nanF fmtF32 z || (upTo (elemCount ty)).any fun k =>
      nanF (fmtOf ty) (elem (elemWidth ty) k x) || nanF (fmtOf ty) (elem (elemWidth ty) k y)) ||
      (upTo (elemCount ty)).any fun k => invalidProduct (fmtOf ty) (elem (elemWidth ty) k x) (elem (elemWidth ty) k y)) := by
  rw [dotTerms_any, unpack_isNan, Bool.or_assoc, ← any_or]
  simp only [dotTerm_isNan]

theorem dotTerms_isSnan (ty x y z : Nat) : (dotTerms ty x y z).any FVal.isSnan =
    (snanF fmtF32 z || (upTo (elemCount ty)).any fun k =>
      (invalidProduct (fmtOf ty) (elem (elemWidth ty) k x) (elem (elemWidth ty) k y) && !(nanF (fmtOf ty) (elem (elemWidth ty) k x)) &&
        !(nanF (fmtOf ty) (elem (elemWidth ty) k y))) || snanF (fmtOf ty) (elem (elemWidth ty) k x) ||
        snanF (fmtOf ty) (elem (elemWidth ty) k y)) := by
  simp only [dotTerms_any, unpack_isSnan, dotTerm_isSnan]

section
variable {ty x y z : Nat} (hn : (dotTerms ty x y z).any FVal.isNan = false)
include hn

theorem dotTerms_not_nan : nanF fmtF32 z = false ∧ ∀ k ∈ upTo (elemCount ty), (dotTerm ty x y k).isNan = false := by
  rw [dotTerms_any, Bool.or_eq_false_iff, unpack_isNan, List.any_eq_false] at hn
  exact ⟨hn.1, fun k hk => Bool.eq_false_of_not_eq_true (hn.2 k hk)⟩

/-- Whether an infinity of a sign is among DOT's products and D. -/
theorem dotTerms_inf (s : Bool) : ((dotTerms ty x y z).any fun t => t.isInf && t.neg == s) =
    ((infF fmtF32 z && negF fmtF32 z == s) || (upTo (elemCount ty)).any fun k =>
      (infF (fmtOf ty) (elem (elemWidth ty) k x) || infF (fmtOf ty) (elem (elemWidth ty) k y)) &&
        (negF (fmtOf ty) (elem (elemWidth ty) k x) != negF (fmtOf ty) (elem (elemWidth ty) k y)) == s) := by
  obtain ⟨hz, hk⟩ := dotTerms_not_nan hn
  rw [dotTerms_any, unpack_isInf, unpack_neg hz]
  congr 1
  rw [Bool.eq_iff_iff, List.any_eq_true, List.any_eq_true]
  refine exists_congr fun k => and_congr_right fun hmem => ?_
  rw [(dotTerm_isInf (hk k hmem)).1, (dotTerm_isInf (hk k hmem)).2]

theorem dotTerms_neg (s : Bool) : ((dotTerms ty x y z).all fun t => t.neg == s) =
    (negF fmtF32 z == s && (upTo (elemCount ty)).all fun k =>
      (negF (fmtOf ty) (elem (elemWidth ty) k x) != negF (fmtOf ty) (elem (elemWidth ty) k y)) == s) := by
  obtain ⟨hz, hk⟩ := dotTerms_not_nan hn
  rw [dotTerms_all, unpack_neg hz]
  congr 1
  rw [Bool.eq_iff_iff, List.all_eq_true, List.all_eq_true]
  refine forall_congr' fun k => forall_congr' fun hmem => ?_
  rw [(dotTerm_isInf (hk k hmem)).2]

variable (hi : ∀ s, ((dotTerms ty x y z).any fun t => t.isInf && t.neg == s) = false)
include hi

theorem dotTerms_finite : ∀ t ∈ dotTerms ty x y z, t.isNan = false ∧ t.isInf = false := by
  intro t ht
  have h1 := Bool.eq_false_of_not_eq_true (List.any_eq_false.mp hn t ht)
  have h2 := Bool.eq_false_of_not_eq_true (List.any_eq_false.mp (hi t.neg) t ht)
  exact ⟨h1, by simpa using h2⟩

theorem dotTerms_sum : ((dotTerms ty x y z).map FVal.num).sum = ((upTo (elemCount ty)).map fun k =>
    realF (fmtOf ty) (elem (elemWidth ty) k x) * realF (fmtOf ty) (elem (elemWidth ty) k y)).sum + realF fmtF32 z := by
  have hfin := dotTerms_finite hn hi
  have hz := hfin (unpack fmtF32 z) (by simp [dotTerms])
  rw [unpack_isNan, unpack_isInf] at hz
  rw [dotTerms, List.map_append, List.sum_append, List.map_map, List.map_singleton, List.sum_singleton, num_unpack hz]
  congr 2
  refine List.map_congr_left fun k hk => ?_
  have ht := hfin (dotTerm ty x y k) (by simpa [dotTerms] using .inl ⟨k, hk, rfl⟩)
  exact dotTerm_num ht.1 ht.2

end

end Sys2Proof.Machine
end

section
/-! PROOFS. The words of mixed arithmetic and the float results (11 R163 to R173, 22 R298, R317, R326, 23 R346, 24 R391). -/

namespace Sys2Proof.Machine

open Safety

/-! ## Words of the ALU mould -/

/-- A destination of the ALU mould (22 R290). -/
theorem isDst_cases {d : Operand} (h : isDst d = true) : isV d = true ∨ isS d = true ∨ isDiscard d = true := by
  simpa [isDst, or_assoc] using h

/-- A word of the ALU mould computes its lane function into D. -/
theorem computes_aluWord {i : Instr} {d : Operand} {srcs : List Operand} {ty : Nat → Bool} {n : Nat → Nat} {f : Ctx → Nat → Nat × Flags}
    (he : ∀ s, exec i s = aluWord i d srcs ty n f s) (hw : i.wellFormed = true → isDst d = true) :
    Computes i { typeOk := ty, illegal := fun _ => vectorToScalar d srcs } d srcs n f := by
  intro s c h
  obtain ⟨-, hdec, -⟩ := id h
  rw [decodesFor, Bool.and_eq_true] at hdec
  rw [he]
  exact aluWord_computes i d srcs ty n f s c h (isDst_cases (hw hdec.1))

theorem isDst_of_isG2 {d : Operand} (h : isG2 d = true) : isDst d = true := by
  cases d <;> simp [isG2, isV2, isS2] at h <;> rfl

/-- CSEL writes B in the lanes of ACT whose bit of A is set (22 R317). -/
theorem csel_wrote {d a b : Operand} {s : State} {c : Ctx} (h : Ready (.csel d a b) {} s c) : ∃ t, exec (.csel d a b) s = .next t ∧
    Wrote c s t d (c.act &&& rawU c a) (spanLen (mType c.sp.mode) .val) (fun j l => groupWord (val c b l) j) 0 := by
  simp only [exec, execCsel]
  rw [runWord_ready h]
  exact ⟨_, rfl, wrote_group s c d _ _ _⟩

/-! ## Overflow (11 Table 11.3) -/

theorem overflowed_ieee {f : Fmt} (hs : f.special = .ieee) {rnd : Nat} (hr : rnd < 5) (sat neg : Bool) : overflowed f rnd sat neg =
    f.signed neg (if sat || rnd == 1 || (rnd == 2 && neg) || (rnd == 3 && !neg) then f.maxCode else f.infCode) := by
  simp only [overflowed, hs]
  cases sat with
  | true => rfl
  | false =>
    interval_cases rnd
    · rfl
    · rfl
    · cases neg <;> rfl
    · cases neg <;> rfl
    · rfl

end Sys2Proof.Machine

namespace Sys2Proof

open Machine Safety

/-- Settles O18, clause by clause: the words by `computes_aluWord`, each element's result by the lemma of its operation and the class of its
operands, and every exact result by `roundRat_roundedTo`. -/
theorem mixedArithmeticWords : Obligations.MixedArithmeticWords := by
  unfold Obligations.MixedArithmeticWords
  refine ⟨fun d a b => ?words, fun rnd sat neg hr => ?overflow, fun ty rnd sat x y z hty hr => ?arith,
    fun src dst rnd sat x hs hd hr => ?convert, fun ty rnd sat x y z hty h2 hr => ?dot⟩
  case words =>
    dsimp only
    have hdst {p q : Bool} (h : (p && q) = true) : p = true := (Bool.and_eq_true_iff.mp h).1
    refine ⟨computes_aluWord (fun s => rfl) fun h => isDst_of_isG2 (hdst (hdst h)),
      computes_aluWord (fun s => rfl) fun h => hdst (hdst (hdst h)), computes_aluWord (fun s => rfl) fun h => hdst (hdst (hdst h)), computes_aluWord (fun s => rfl) hdst,
      computes_aluWord (fun s => rfl) hdst, computes_aluWord (fun s => rfl) fun h => hdst (hdst (hdst h)),
      computes_aluWord (fun s => rfl) fun h => hdst (hdst h), fun s c h => csel_wrote h⟩
  case overflow =>
    refine ⟨fun f hf => overflowed_ieee ?_ hr sat neg, ?_, ?_⟩
    · exact (by decide : ∀ f ∈ [fmtF32, fmtF16, fmtBf16, fmtF8B], f.special = .ieee) f hf
    · exact overflowed_f8a rfl rnd sat neg
    · rfl
  case arith =>
    dsimp only
    refine ⟨fun r hr hx => ?_, fun hx => ⟨absElem_magnitude hty rnd sat hx, negElem_flipped hty rnd sat hx⟩,
      fun hx => ⟨roundiElem_inf rnd sat hx, fractElem_inf rnd sat hx, fun n => ldexpElem_inf rnd n hx⟩,
      fun hx => ⟨roundiElem_fin hty rnd sat hx, fractElem_fin hty rnd sat hx, fun n => ldexpElem_fin hty rnd n hx⟩,
      subElem_flipped hty rnd sat, addElem_nan hty rnd sat, fun hn => ?_, addElem_fin hty rnd sat,
      ⟨mulElem_nan hty rnd sat, fun hn hi => ?_, mulElem_fin hty rnd sat, madElem_nan hty rnd sat, fun hn hi => ?_,
        madElem_fin hty rnd sat⟩,
      fun isMax => ?_⟩
    · simp only [List.mem_cons, List.not_mem_nil, or_false] at hr
      rcases hr with rfl | rfl | rfl | rfl | rfl
      · exact absElem_nan hty rnd sat hx
      · exact negElem_nan hty rnd sat hx
      · exact roundiElem_nan rnd sat hx
      · exact fractElem_nan rnd sat hx
      · exact ldexpElem_nan rnd 1 hx
    · obtain ⟨hx, hy⟩ := Bool.or_eq_false_iff.mp hn
      exact addElem_inf hty rnd sat hx hy
    · obtain ⟨hx, hy⟩ := Bool.or_eq_false_iff.mp hn
      exact mulElem_inf hty rnd sat hx hy hi
    · obtain ⟨hxy, hz⟩ := Bool.or_eq_false_iff.mp hn
      obtain ⟨hx, hy⟩ := Bool.or_eq_false_iff.mp hxy
      exact madElem_inf hty rnd sat hx hy hz hi
    · obtain ⟨h1, h2, h3⟩ := minmaxElem_nan hty (x := x) (y := y) isMax
      exact ⟨h1, h2, h3, minmaxElem_number hty isMax⟩
  case convert =>
    dsimp only
    exact ⟨fun hs hd => ⟨cvtElem_float_nan rnd sat x hs hd, cvtElem_float_inf rnd sat x hs hd, cvtElem_float_fin rnd sat x hs hd⟩,
      fun hs hd => ⟨cvtElem_integer_nan rnd sat x hs hd, cvtElem_integer_inf rnd sat x hs hd, cvtElem_integer_fin rnd sat x hs hd⟩,
      cvtElem_integer_float rnd sat x, cvtElem_integers rnd sat x, cvtLane_elements src dst rnd sat⟩
  case dot =>
    dsimp only
    have hnan := dotTerms_isNan ty x y z
    refine ⟨fun h => ?nan, fun h1 h2 => ?number⟩
    case nan =>
      have hb := dotLane_nan hty rnd sat x y z (hnan.trans (Bool.or_eq_true_iff.mpr h))
      rw [dotTerms_isSnan] at hb
      exact hb
    case number =>
      have hn := hnan.trans (Bool.or_eq_false_iff.mpr ⟨h1, h2⟩)
      have hinf := dotTerms_inf hn
      refine ⟨fun hm hp => ?_, fun s hs ho => dotLane_inf_one hty rnd sat x y z hn ((hinf s).trans hs) ((hinf (!s)).trans ho),
        fun hm hp => ?_⟩
      · refine dotLane_inf_both hty rnd sat x y z hn ?_ ?_
        · simpa only [beq_false] using (hinf false).trans hp
        · simpa only [beq_true] using (hinf true).trans hm
      · have hi : ∀ s, ((dotTerms ty x y z).any fun t => t.isInf && t.neg == s) = false
          | true => (hinf true).trans hm
          | false => (hinf false).trans hp
        have h := dotLane_finite hty rnd sat x y z (dotTerms_finite hn hi)
        rwa [dotTerms_neg hn, dotTerms_neg hn, dotTerms_sum hn hi] at h

end Sys2Proof
end

section
/-! PROOFS. The special-function words and the special values of their functions (11 R174, Table 11.8, 22 R314). -/

namespace Sys2Proof.Machine

open Safety

/-! ## The words -/

/-- Results on their way, free values drawn, and the split gone on: what `Sent` says of it. -/
theorem sent_drawn {s : State} {c : Ctx} (h : s.ctx? = some c) (fl : Flags) (ps : List Pend) :
    Sent c s ((s.stamp.2.drawn.setWave c.wi { c.w.addFlags fl with pend := c.w.pend ++ ps }).goOn c c.next false) ps fl := by
  refine ⟨rfl, fun v hv => ?_, _, goOn_setWave s.stamp.2.drawn c _ c.next false, rfl, rfl, rfl, _,
    Wave.split?_modSplit (State.ctx?_split h) fun _ => rfl, rfl, rfl, rfl, rfl⟩
  rw [State.goOn, State.wave?_modWave_other _ _ _ _ hv, State.wave?_setWave_other _ _ _ _ hv]
  rfl

/-- A destination of one register has its write, a discarded one none. -/
theorem groupWrites_isEmpty {d : Operand} (h : isDst d = true) (mask : Word) (f : Nat → Nat → Word) :
    (groupWrites d mask 1 f).isEmpty = isDiscard d := by
  rcases isDst_cases h with hd | hd | hd
  · cases d <;> simp [isV] at hd
    rfl
  · cases d <;> simp [isS] at hd
    rfl
  · rw [isDiscard_eq hd]
    rfl

/-- A special-function word sends its results on their way, or nothing where ACT is empty. -/
theorem sfuWord_sent {i : Instr} {op : SfuOp} {d a : Operand} {s : State} {c : Ctx}
    (h : Ready i { typeOk := tyF, illegal := fun _ => vectorToScalar d [a] } s c) (hd : isDst d = true) :
    let ty := mType c.sp.mode
    let f (l : Nat) : Nat × Flags := perElem ty fun k =>
      sfuElem op (fmtOf ty) (mRnd c.sp.mode) (elem (elemWidth ty) k (val c a l)) (Config.sfuResult (s.free * 64 + l * 2 + k))
    (c.act ≠ 0 → ∃ t, sfuWord i op d a s = .next t ∧
      Sent c s t (if isDiscard d then [] else [Pend.mk s.seq c.sp.num (codesOf ty (d, .one))
          (.ready (groupWrites d c.act 1 fun _ l => word (f (if isVecSrc a then l else 0)).1))])
        (orFlags ((actLanes (!(isVecSrc a)) c.act).map fun l => (f l).2))) ∧
    (c.act = 0 → ∃ t, sfuWord i op d a s = .next t ∧ Wrote c s t (.int 0) 0 0 (fun _ _ => 0) 0) := by
  dsimp only
  rw [sfuWord, runWord_ready h]
  refine ⟨fun ha => ⟨_, rfl, ?_⟩, fun ha => ⟨_, rfl, ?_⟩⟩
  · simp only [if_neg ha, Effect.finish, groupWrites_isEmpty hd]
    cases isDiscard d with
    | true =>
      have h (fl : Flags) := sent_drawn h.1 fl []
      rw [List.append_nil] at h
      exact h _
    | false => exact sent_drawn h.1 _ _
  · simp only [if_pos ha, Effect.finish]
    exact wrote_goOn_same h.1

/-! ## One element -/

/-- The float formats of the special functions (11 Table 11.5). -/
def sfuFormats : List Fmt := [fmtF32, fmtF16, fmtBf16]

section
variable {f : Fmt} (h : f ∈ sfuFormats)
include h

theorem sfuFormats_formats : f ∈ formats := (by decide : ∀ f ∈ sfuFormats, f ∈ formats) f h
theorem sfuFormats_bias : 0 < f.bias := (by decide : ∀ f ∈ sfuFormats, 0 < f.bias) f h

end

section
variable {f : Fmt} {x : Nat} (op : SfuOp) (rnd free : Nat)

theorem sfuElem_nan (h : nanF f x = true) : sfuElem op f rnd x free = (f.nan, if snanF f x then Flag.iv else 0) := by
  rw [sfuElem, unpack_of_nan h]
  rfl

theorem sfuElem_inf (h : infF f x = true) : sfuElem op f rnd x free = match op with
    | .rcp => (f.signed (negF f x) 0, 0)
    | .rsq => if negF f x then (f.nan, Flag.iv) else (0, 0)
    | .sqrt | .log2 => if negF f x then (f.nan, Flag.iv) else (f.infCode, 0)
    | .exp2 => (if negF f x then 0 else f.infCode, 0)
    | .sin | .cos => (f.nan, Flag.iv) := by
  rw [sfuElem, unpack_of_inf (nanF_of_infF h) h]
  cases op
  case exp2 => exact (apply_ite (·, 0) _ _ _).symm
  all_goals rfl

theorem sfuElem_zero (h : finF f x) (h0 : realF f x = 0) : sfuElem op f rnd x free = match op with
    | .rcp | .rsq => (f.signed (negF f x) f.infCode, Flag.dz)
    | .sqrt | .sin => (f.signed (negF f x) 0, 0)
    | .exp2 | .cos => (f.bias * 2 ^ f.mbits, 0)
    | .log2 => (f.signed true f.infCode, Flag.dz) := by
  obtain ⟨m, e, hu, hr, -⟩ := exists_fin h
  have hm : m = 0 := by rwa [hr, mul_eq_zero, or_iff_right (sgn_ne_zero _), mul_zpow_eq_zero] at h0
  rw [sfuElem, hu]
  simp only [hm, if_true]
  cases op <;> rfl

end

/-- The parts of a finite number that is not zero. -/
theorem exists_fin_ne_zero {f : Fmt} {x : Nat} (h : finF f x) (h0 : realF f x ≠ 0) : ∃ m e, 0 < m ∧ unpack f x = .fin (negF f x) m e ∧
    realF f x = sgn (negF f x) * (m * 2 ^ e) ∧ m < 2 ^ (f.mbits + 1) ∧ f.emin - f.mbits ≤ e := by
  obtain ⟨m, e, hu, hr, hm, he⟩ := exists_fin h
  refine ⟨m, e, Nat.pos_of_ne_zero fun h => h0 ?_, hu, hr, hm, he⟩
  rw [hr, h, Nat.cast_zero, zero_mul, mul_zero]

/-- The sign of a number by its parts. -/
theorem sgn_mul_neg_iff {n : Bool} {m : Nat} {e : ℤ} (hm : 0 < m) : sgn n * (m * 2 ^ e) < 0 ↔ n = true := by
  have : (0 : ℚ) < m * 2 ^ e := by positivity
  cases n
  · simpa using this.le
  · simpa using this

section
variable {f : Fmt} {x : Nat} {n : Bool} {m : Nat} {e : ℤ} (hu : unpack f x = .fin n m e) (hm : 0 < m) (rnd free : Nat)
include hu hm

theorem sfuElem_rcp : sfuElem .rcp f rnd x free = roundRat f rnd false n 1 m (-e) := by
  simp only [sfuElem, hu, hm.ne', if_false]

theorem sfuElem_sqrt : sfuElem .sqrt f rnd x free =
    if n then (f.nan, Flag.iv) else roundRat f rnd false false (sqrtParts 60 m 1 e).1 1 (sqrtParts 60 m 1 e).2 := by
  simp only [sfuElem, hu, hm.ne', if_false]

theorem sfuElem_rsq : sfuElem .rsq f rnd x free = if n then (f.nan, Flag.iv)
    else if m = 2 ^ Nat.log2 m ∧ (sqrtParts 60 1 m (-e)).1 % 2 = 0 ∧ (sqrtParts 60 1 m (-e)).1 = 2 ^ Nat.log2 (sqrtParts 60 1 m (-e)).1 then
      roundRat f rnd false false (sqrtParts 60 1 m (-e)).1 1 (sqrtParts 60 1 m (-e)).2
    else boundedResult .rsq f rnd false m e free := by
  simp only [sfuElem, hu, hm.ne', if_false]

theorem sfuElem_log2 : sfuElem .log2 f rnd x free = if n then (f.nan, Flag.iv)
    else if m = 2 ^ Nat.log2 m then roundDy f rnd false false { m := Nat.log2 m + e, e := 0 }
    else boundedResult .log2 f rnd n m e free := by
  simp only [sfuElem, hu, hm.ne', if_false]

/-- The functions of a positive number answer NaN for a negative one (11 Table 11.8). -/
theorem sfuElem_negative {op : SfuOp} (hop : op = .rsq ∨ op = .sqrt ∨ op = .log2) (hn : n = true) :
    sfuElem op f rnd x free = (f.nan, Flag.iv) := by
  rcases hop with rfl | rfl | rfl
  · rw [sfuElem_rsq hu hm, if_pos hn]
  · rw [sfuElem_sqrt hu hm, if_pos hn]
  · rw [sfuElem_log2 hu hm, if_pos hn]

end

end Sys2Proof.Machine
end

section
/-! PROOFS. Square roots and reciprocals (11 R174): what `sqrtParts` finds, the rounding of RCP and SQRT, and the exact results of RSQ. -/

namespace Sys2Proof.Machine

open Safety

/-! ## Whole square roots -/

theorem isqrtFrom_spec (n : Nat) : ∀ k r : Nat, r * r ≤ n → n < (r + 2 ^ k) * (r + 2 ^ k) →
    isqrtFrom k n r * isqrtFrom k n r ≤ n ∧ n < (isqrtFrom k n r + 1) * (isqrtFrom k n r + 1)
  | 0, r, h1, h2 => ⟨h1, by simpa [isqrtFrom] using h2⟩
  | k + 1, r, h1, h2 => by
    rw [isqrtFrom]
    split
    · next h => exact isqrtFrom_spec n k _ h (by rwa [add_assoc, ← two_mul, ← pow_succ'])
    · next h => exact isqrtFrom_spec n k r h1 (not_le.mp h)

theorem isqrt_eq (n : Nat) : isqrt n = Nat.sqrt n := by
  have hn : n < 2 ^ (Nat.log2 n / 2 + 1) * 2 ^ (Nat.log2 n / 2 + 1) := by
    rw [← pow_add]
    exact Nat.lt_log2_self.trans_le (Nat.pow_le_pow_right two_pos (by omega))
  obtain ⟨h1, h2⟩ := isqrtFrom_spec n (Nat.log2 n / 2 + 1) 0 (by simp) (by simpa using hn)
  exact Nat.eq_sqrt.mpr ⟨h1, h2⟩

/-- The whole root of a quotient, taken of its whole part: the root lies in the gap above it, at its lower end when the square is exact. -/
theorem sqrt_div_spec (a : Nat) {d : Nat} (hd : 0 < d) :
    (Nat.sqrt (a / d) : ℝ) ≤ Real.sqrt (a / d) ∧ Real.sqrt (a / d) < Nat.sqrt (a / d) + 1 ∧
      (Nat.sqrt (a / d) * Nat.sqrt (a / d) * d = a ↔ Real.sqrt (a / d) = Nat.sqrt (a / d)) := by
  have hd0 : (0 : ℝ) < d := by exact_mod_cast hd
  have hle (j : Nat) : (j : ℝ) ≤ Real.sqrt (a / d) ↔ j ≤ Nat.sqrt (a / d) := by
    rw [Real.le_sqrt (by positivity) (by positivity), Nat.le_sqrt', Nat.le_div_iff_mul_le hd, le_div_iff₀ hd0]
    exact_mod_cast Iff.rfl
  refine ⟨(hle _).mpr le_rfl, lt_of_not_ge fun h => ?_, ?_⟩
  · have := (hle (Nat.sqrt (a / d) + 1)).mp (by exact_mod_cast h)
    omega
  · rw [Real.sqrt_eq_iff_mul_self_eq (by positivity) (by positivity), div_eq_iff hd0.ne', eq_comm]
    exact_mod_cast Iff.rfl

/-! ## Square roots of rational numbers -/

/-- `sqrtParts` takes the exponent to be even. -/
theorem sqrtParts_even {n : Nat} (hn : 0 < n) (d : Nat) (e : ℤ) : ∃ (e2 : ℤ) (n2 : Nat),
    (if e % 2 = 0 then e else e - 1) = 2 * e2 ∧ 0 < n2 ∧
    (if e % 2 = 0 then n else 2 * n) = n2 ∧ (n / d * 2 ^ e : ℝ) = n2 / d * (2 ^ e2) ^ 2 := by
  have hsq : ((2 : ℝ) ^ (e / 2)) ^ 2 = 2 ^ (2 * (e / 2)) := by
    rw [mul_comm, zpow_mul]
    rfl
  by_cases h : e % 2 = 0
  · refine ⟨e / 2, n, by rw [if_pos h]; omega, hn, if_pos h, ?_⟩
    rw [hsq, show 2 * (e / 2) = e by omega]
  · refine ⟨e / 2, 2 * n, by rw [if_neg h]; omega, by omega, if_neg h, ?_⟩
    have : (2 : ℝ) ^ e = 2 ^ (2 * (e / 2)) * 2 := by rw [← zpow_add_one₀ two_ne_zero]; congr 1; omega
    rw [hsq, this]
    push_cast
    ring

/-- What `sqrtParts` finds: the gap in which the root lies, in units of a last place, and whether it is that gap's lower end. -/
theorem sqrtParts_spec {bits n d : Nat} (hb : 0 < bits) (hn : 0 < n) (hd : 0 < d) (e : ℤ) : ∃ (r : Nat) (k : ℤ),
    sqrtParts bits n d e = (2 * r + (if Real.sqrt (n / d * 2 ^ e) = r * 2 ^ k then 0 else 1), k - 1) ∧ 2 ^ (bits - 1) ≤ r ∧
      r * 2 ^ k ≤ Real.sqrt (n / d * 2 ^ e) ∧ Real.sqrt (n / d * 2 ^ e) < (r + 1) * 2 ^ k := by
  obtain ⟨e2, n2, he2, hn2, hp, hv⟩ := sqrtParts_even hn d e
  generalize hb' : bits + Nat.log2 d = b
  obtain ⟨hr, hr1, hexact⟩ := sqrt_div_spec (n2 * 2 ^ (2 * b)) hd
  have hpos : (0 : ℝ) < 2 ^ (e2 - b) := by positivity
  have hroot : Real.sqrt (n / d * 2 ^ e) = Real.sqrt ((n2 * 2 ^ (2 * b) : Nat) / d) * 2 ^ (e2 - b) := by
    rw [hv, ← Real.sqrt_sq hpos.le, ← Real.sqrt_mul (by positivity)]
    congr 1
    rw [zpow_sub₀ two_ne_zero, zpow_natCast, div_pow, ← pow_mul, mul_comm b 2]
    push_cast
    field_simp
  have hsize : 2 ^ (bits - 1) ≤ Nat.sqrt (n2 * 2 ^ (2 * b) / d) := by
    rw [Nat.le_sqrt', Nat.le_div_iff_mul_le hd, ← pow_mul]
    calc 2 ^ ((bits - 1) * 2) * d ≤ 2 ^ ((bits - 1) * 2) * 2 ^ (Nat.log2 d + 1) := Nat.mul_le_mul_left _ Nat.lt_log2_self.le
      _ = 2 ^ ((bits - 1) * 2 + (Nat.log2 d + 1)) := (pow_add _ _ _).symm
      _ ≤ 2 ^ (2 * b) := Nat.pow_le_pow_right two_pos (by omega)
      _ ≤ n2 * 2 ^ (2 * b) := Nat.le_mul_of_pos_left _ hn2
  have hk : (2 * e2 - (2 * b : Nat)) / 2 = e2 - b := by omega
  refine ⟨Nat.sqrt (n2 * 2 ^ (2 * b) / d), e2 - b, ?_, hsize, ?_, ?_⟩
  · simp only [sqrtParts, isqrt_eq, hp, he2, hb', hexact, hroot, mul_left_inj' hpos.ne', decide_eq_true_eq, hk]
  · rw [hroot]
    exact mul_le_mul_of_nonneg_right hr hpos.le
  · rw [hroot]
    exact mul_lt_mul_of_pos_right hr1 hpos

/-- The root lies where its parts say, as far as multiples of twice their last place tell; they have at least the bits asked for, and are
even only where the root is exact. -/
theorem sqrtParts_cell {bits n d : Nat} (hb : 0 < bits) (hn : 0 < n) (hd : 0 < d) (e : ℤ) :
    SameCell ((sqrtParts bits n d e).2 + 1) (Real.sqrt (n / d * 2 ^ e)) ((sqrtParts bits n d e).1 * 2 ^ (sqrtParts bits n d e).2) ∧
      2 ^ bits ≤ (sqrtParts bits n d e).1 ∧
      ((sqrtParts bits n d e).1 % 2 = 0 → Real.sqrt (n / d * 2 ^ e) = (sqrtParts bits n d e).1 * 2 ^ (sqrtParts bits n d e).2) := by
  obtain ⟨r, k, hp, hr, hlo, hhi⟩ := sqrtParts_spec hb hn hd e
  have hsize : 2 ^ bits ≤ 2 * r := by
    calc 2 ^ bits = 2 * 2 ^ (bits - 1) := by rw [← pow_succ', Nat.sub_add_cancel hb]
      _ ≤ 2 * r := Nat.mul_le_mul_left _ hr
  have hdouble (j : ℝ) : 2 * j * 2 ^ (k - 1) = j * 2 ^ k := by
    rw [zpow_sub_one₀ two_ne_zero]
    ring
  have hk : (0 : ℝ) < 2 ^ k := by positivity
  rw [hp]
  by_cases hx : Real.sqrt (n / d * 2 ^ e) = r * 2 ^ k
  · have hval : ((2 * r + 0 : Nat) : ℝ) * 2 ^ (k - 1) = r * 2 ^ k := by push_cast; rw [add_zero, hdouble]
    simp only [if_pos hx, sub_add_cancel, hval]
    exact ⟨by rw [hx]; exact SameCell.refl _ _, by omega, fun _ => hx⟩
  · have hval : ((2 * r + 1 : Nat) : ℝ) * 2 ^ (k - 1) = (r + 1 / 2) * 2 ^ k := by rw [← hdouble]; push_cast; ring
    have hlt := lt_of_le_of_ne hlo (Ne.symm hx)
    simp only [if_neg hx, sub_add_cancel, hval]
    refine ⟨fun j => ?_, by omega, fun h => by omega⟩
    rcases Nat.lt_or_ge r j with h | h
    · have hj : (r + 1 : ℝ) * 2 ^ k ≤ j * 2 ^ k := mul_le_mul_of_nonneg_right (by exact_mod_cast h) hk.le
      exact ⟨iff_of_false (by linarith) (by linarith), iff_of_true (by linarith) (by linarith)⟩
    · have hj : (j : ℝ) * 2 ^ k ≤ r * 2 ^ k := mul_le_mul_of_nonneg_right (by exact_mod_cast h) hk.le
      exact ⟨iff_of_true (by linarith) (by linarith), iff_of_false (by linarith) (by linarith)⟩

/-- The rounded parts are the root, rounded once. -/
theorem roundRat_sqrtParts {f : Fmt} (hf : f ∈ formats) {bits n d : Nat} (hb : 26 ≤ bits) (hn : 0 < n) (hd : 0 < d) (e : ℤ) (rnd : Nat) :
    RoundedTo f rnd false false (Real.sqrt (n / d * 2 ^ e))
      (roundRat f rnd false false (sqrtParts bits n d e).1 1 (sqrtParts bits n d e).2) := by
  obtain ⟨hcell, hsize, -⟩ := sqrtParts_cell (bits := bits) (by omega) hn hd e
  generalize sqrtParts bits n d e = p at *
  have hpos : 0 < p.1 := (Nat.two_pow_pos bits).trans_le hsize
  have hlog : bits ≤ Nat.log2 p.1 := (Nat.le_log2 hpos.ne').mpr hsize
  have hm := mbits_le hf
  have h := roundRat_roundedTo (ebits_pos hf) hpos one_pos (y := Real.sqrt (n / d * 2 ^ e)) (P := p.2 + 1) (e := p.2)
    (by rwa [Nat.cast_one, div_one]) (by rw [log2Ratio_one hpos]; omega) rnd false false false
  rwa [sgn_false, Rat.cast_one, one_mul] at h

/-! ## Powers of two -/

/-- A significand whose number is a power of two is one. -/
theorem eq_two_pow {m : Nat} {e n : ℤ} (hm : 0 < m) (h : (m * 2 ^ e : ℚ) = 2 ^ n) : ∃ a : Nat, m = 2 ^ a ∧ n = a + e := by
  have hm' : (m : ℚ) = 2 ^ (n - e) := by rw [zpow_sub₀ two_ne_zero, ← h, mul_div_cancel_right₀ _ (by positivity)]
  have h0 : 0 ≤ n - e := by
    by_contra hlt
    have h1 : (2 : ℚ) ^ (n - e) < 1 := zpow_lt_one_of_neg₀ one_lt_two (by omega)
    rw [← hm'] at h1
    have : m < 1 := by exact_mod_cast h1
    omega
  obtain ⟨a, ha⟩ := Int.eq_ofNat_of_zero_le h0
  refine ⟨a, ?_, by omega⟩
  rw [ha, zpow_natCast] at hm'
  exact_mod_cast hm'

/-- A power of two at or above the cells' width is told apart from every other number. -/
theorem SameCell.eq_two_zpow {P t : ℤ} {v : ℝ} (h : SameCell P (2 ^ t) v) (hv : 2 ^ P ≤ v) : v = 2 ^ t := by
  have h1 := (h 1).1.mpr (by simpa using hv)
  rw [Nat.cast_one, one_mul, zpow_le_zpow_iff_right₀ one_lt_two] at h1
  obtain ⟨a, rfl⟩ := Int.le.dest h1
  obtain ⟨hlo, hhi⟩ := h (2 ^ a)
  have hj : ((2 ^ a : Nat) * 2 ^ P : ℝ) = 2 ^ (P + a) := by rw [zpow_add₀ two_ne_zero, zpow_natCast, mul_comm]; push_cast; rfl
  rw [hj] at hlo hhi
  exact le_antisymm (hhi.mp le_rfl) (hlo.mp le_rfl)

/-- The parts of a root that is a power of two are a power of two, and even. -/
theorem sqrtParts_two_zpow {bits n d : Nat} (hb : 0 < bits) (hn : 0 < n) (hd : 0 < d) {e t : ℤ} (h : Real.sqrt (n / d * 2 ^ e) = 2 ^ t) :
    ∃ a : Nat, 0 < a ∧ (sqrtParts bits n d e).1 = 2 ^ a ∧ a + (sqrtParts bits n d e).2 = t := by
  obtain ⟨hcell, hsize, -⟩ := sqrtParts_cell hb hn hd e
  generalize sqrtParts bits n d e = p at *
  have h2 : 2 ≤ p.1 := (Nat.le_self_pow hb.ne' 2).trans hsize
  rw [h] at hcell
  have hv := hcell.eq_two_zpow (by
    rw [zpow_add_one₀ two_ne_zero, mul_comm]
    exact mul_le_mul_of_nonneg_right (by exact_mod_cast h2) (by positivity))
  obtain ⟨a, ha, hn⟩ := eq_two_pow (m := p.1) (e := p.2) (n := t) (by omega) (Rat.cast_injective (α := ℝ) (by push_cast; exact hv))
  refine ⟨a, Nat.pos_of_ne_zero fun h0 => ?_, ha, hn.symm⟩
  rw [h0] at ha
  omega

/-! ## The range of the formats -/

section
variable {f : Fmt} (h : f ∈ sfuFormats)
include h

theorem sfuFormats_mbits : 0 < f.mbits ∧ f.mbits ≤ f.bias := (by decide : ∀ f ∈ sfuFormats, 0 < f.mbits ∧ f.mbits ≤ f.bias) f h

theorem maxCode_parts : 2 ^ f.mbits ≤ f.sig f.maxCode ∧ f.quant f.maxCode = f.bias - f.mbits :=
  (by decide : ∀ f ∈ sfuFormats, 2 ^ f.mbits ≤ f.sig f.maxCode ∧ f.quant f.maxCode = f.bias - f.mbits) f h

theorem two_pow_bias_le : 2 ^ (f.bias : ℤ) ≤ f.codeVal f.maxCode := by
  obtain ⟨hs, hq⟩ := maxCode_parts h
  have hs' : (2 ^ f.mbits : ℚ) ≤ f.sig f.maxCode := by exact_mod_cast hs
  calc (2 : ℚ) ^ (f.bias : ℤ) = 2 ^ f.mbits * 2 ^ f.quant f.maxCode := by
        rw [hq, ← zpow_natCast, ← zpow_add₀ two_ne_zero]; congr 1; ring
    _ ≤ _ := mul_le_mul_of_nonneg_right hs' (by positivity)

theorem codeVal_maxCode_lt_two_pow : f.codeVal f.maxCode < 2 ^ (f.bias + 1 : ℤ) := by
  obtain ⟨-, hq⟩ := maxCode_parts h
  have hs : (f.sig f.maxCode : ℚ) < 2 ^ (f.mbits + 1) := by exact_mod_cast f.sig_lt _
  calc f.codeVal f.maxCode < 2 ^ (f.mbits + 1) * 2 ^ f.quant f.maxCode := mul_lt_mul_of_pos_right hs (by positivity)
    _ = 2 ^ (f.bias + 1 : ℤ) := by
        rw [hq, ← zpow_natCast, ← zpow_add₀ two_ne_zero]; congr 1; push_cast; ring

/-- The format holds the powers of two in its range. -/
theorem roundedTo_two_zpow {rnd : Nat} {sat z : Bool} {t : ℤ} {r : Nat × Flags} (hr : RoundedTo f rnd sat z ((2 ^ t : ℚ) : ℝ) r)
    (hlo : f.emin - f.mbits ≤ t) (hhi : t ≤ f.bias) : finF f r.1 ∧ realF f r.1 = 2 ^ t ∧ r.2 = 0 := by
  have hg : OnGrid f (some (f.emin - f.mbits)) (2 ^ t) := by
    have := onGrid_multiple (f := f) (lowest := some (f.emin - f.mbits)) (N := 1) (q := t) Nat.one_le_two_pow
      (fun l h => by cases h; exact hlo)
    rwa [Nat.cast_one, one_mul] at this
  obtain ⟨h1, h2, h3, -⟩ := roundedTo_exact (ebits_pos (sfuFormats_formats h)) hr hg (by
    rw [abs_of_pos (by positivity)]
    exact (zpow_le_zpow_right₀ one_le_two hhi).trans (two_pow_bias_le h))
  exact ⟨h1, h2, h3⟩

end

/-! ## RCP, SQRT and RSQ -/

section
variable {f : Fmt} {x : Nat} (rnd free : Nat) (hx : finF f x)
include hx

theorem rcp_roundedTo (hf : f ∈ formats) (h0 : realF f x ≠ 0) :
    RoundedTo f rnd false false ((1 / realF f x : ℚ) : ℝ) (sfuElem .rcp f rnd x free) := by
  obtain ⟨m, e, hm, hu, hr, -⟩ := exists_fin_ne_zero hx h0
  rw [sfuElem_rcp hu hm, hr]
  have h := roundRat_roundedTo (ebits_pos hf) one_pos hm (SameCell.refl _ _) (sub_one_lt _) rnd false false (negF f x) (e := -e)
  have hs : (sgn (negF f x))⁻¹ = sgn (negF f x) := by cases negF f x <;> norm_num
  have hv : (1 / (sgn (negF f x) * (m * 2 ^ e)) : ℚ) = sgn (negF f x) * ((1 : Nat) / m * 2 ^ (-e)) := by
    rw [one_div, mul_inv, hs, mul_inv, zpow_neg, Nat.cast_one, one_div]
  rw [hv]
  push_cast at h ⊢
  exact h

variable (hpos : 0 < realF f x)
include hpos

/-- The parts of a positive number. -/
theorem exists_fin_pos : ∃ m e, 0 < m ∧ unpack f x = .fin false m e ∧ realF f x = m * 2 ^ e ∧ m < 2 ^ (f.mbits + 1) ∧
    f.emin - f.mbits ≤ e := by
  obtain ⟨m, e, hm, hu, hr, hlt, he⟩ := exists_fin_ne_zero hx hpos.ne'
  have hn : negF f x = false := by
    cases h : negF f x
    · rfl
    · rw [hr] at hpos
      exact absurd ((sgn_mul_neg_iff hm).mpr h) hpos.not_gt
  rw [hn] at hu hr
  exact ⟨m, e, hm, hu, by simpa using hr, hlt, he⟩

theorem sqrt_roundedTo (hf : f ∈ formats) : RoundedTo f rnd false false (Real.sqrt (realF f x)) (sfuElem .sqrt f rnd x free) := by
  obtain ⟨m, e, hm, hu, hr, -⟩ := exists_fin_pos hx hpos
  have h := roundRat_sqrtParts hf (bits := 60) (by omega) hm one_pos e rnd
  rw [sfuElem_sqrt hu hm, if_neg Bool.false_ne_true, hr]
  rw [Nat.cast_one, div_one] at h
  push_cast
  exact h

end

/-- The root of the reciprocal of a power of four. -/
theorem sqrt_reciprocal {m : Nat} {e n : ℤ} (h : (m * 2 ^ e : ℚ) = 4 ^ n) : Real.sqrt ((1 : Nat) / m * 2 ^ (-e)) = 2 ^ (-n) := by
  have h4 : (m * 2 ^ e : ℝ) = 4 ^ n := by
    have := congrArg (Rat.cast : ℚ → ℝ) h
    push_cast at this
    exact this
  rw [Real.sqrt_eq_iff_mul_self_eq (by positivity) (by positivity), zpow_neg, zpow_neg, ← mul_inv, ← mul_zpow, Nat.cast_one, one_div,
    ← mul_inv, h4]
  norm_num

/-- RSQ of a power of four is exact (11 Table 11.8). -/
theorem rsq_power_of_four {f : Fmt} (hf : f ∈ sfuFormats) {x : Nat} (hx : finF f x) {n : ℤ} (hq : realF f x = 4 ^ n) (rnd free : Nat) :
    finF f (sfuElem .rsq f rnd x free).1 ∧ realF f (sfuElem .rsq f rnd x free).1 = 2 ^ (-n) ∧ (sfuElem .rsq f rnd x free).2 = 0 := by
  obtain ⟨m, e, hm, hu, hr, hlt, he⟩ := exists_fin_pos hx (by rw [hq]; positivity)
  have hme : (m * 2 ^ e : ℚ) = 4 ^ n := hr.symm.trans hq
  have h4 : (4 : ℚ) ^ n = 2 ^ (2 * n) := by rw [zpow_mul]; norm_num
  have hroot := sqrt_reciprocal hme
  obtain ⟨a, rfl, ha⟩ := eq_two_pow hm (hme.trans h4)
  obtain ⟨b, hb, hp, -⟩ := sqrtParts_two_zpow (bits := 60) (by omega) one_pos hm hroot
  have hround := roundRat_sqrtParts (sfuFormats_formats hf) (bits := 60) (by omega) one_pos hm (-e) rnd
  rw [sfuElem_rsq hu hm, if_neg Bool.false_ne_true, if_pos]
  · rw [hroot] at hround
    obtain ⟨hm0, hmb⟩ := sfuFormats_mbits hf
    have htop : 2 * n < f.bias + 1 := by
      have h := (abs_realF_le (ebits_pos (sfuFormats_formats hf)) hx).trans_lt (codeVal_maxCode_lt_two_pow hf)
      rw [hq, h4, abs_of_pos (by positivity)] at h
      exact (zpow_lt_zpow_iff_right₀ one_lt_two).mp h
    have hemin : f.emin = 1 - f.bias := rfl
    exact roundedTo_two_zpow hf (t := -n) (by push_cast; exact hround) (by omega) (by omega)
  · rw [hp, Nat.log2_two_pow, Nat.log2_two_pow]
    exact ⟨rfl, by rw [← Nat.sub_add_cancel hb, pow_succ, Nat.mul_mod_left], rfl⟩

end Sys2Proof.Machine
end

section
/-! PROOFS. RSQ of f32 is faithful (11 R174): the delivered value that the unit's test lets through, and the one that stands in for
others. -/

namespace Sys2Proof.Machine

open Safety

/-! ## The numbers of f32 -/

/-- A code of f32 without a sign is its magnitude code. -/
theorem realF_code {b : Nat} (hb : b ≤ fmtF32.maxCode) : finF fmtF32 b ∧ realF fmtF32 b = fmtF32.codeVal b := by
  have hE : 0 < fmtF32.ebits := by decide
  exact ⟨by simpa [Fmt.signed] using finF_signed hE false hb,
    by simpa [Fmt.signed] using realF_signed false (hb.trans_lt (Fmt.maxCode_lt hE))⟩

/-- A number of f32 that is not negative has the value of a magnitude code. -/
theorem realF_nonneg_code {x : Nat} (hx : finF fmtF32 x) (h : 0 ≤ realF fmtF32 x) :
    ∃ c, c ≤ fmtF32.maxCode ∧ realF fmtF32 x = fmtF32.codeVal c :=
  ⟨_, (finF_iff (by decide) x).mp hx, by rw [← abs_of_nonneg h, abs_realF]⟩

/-- Every number of a grid is a multiple of its lowest place. -/
theorem onGrid_multiple_lowest {f : Fmt} {l : ℤ} {u : ℚ} (h : OnGrid f (some l) u) : ∃ k : ℤ, u = k * 2 ^ l := by
  obtain ⟨k, t, -, hl, rfl⟩ := h
  obtain ⟨a, rfl⟩ := Int.le.dest (hl l rfl)
  refine ⟨k * 2 ^ a, ?_⟩
  rw [zpow_add₀ two_ne_zero, zpow_natCast]
  push_cast
  ring

/-- A magnitude code's number is on the grid. -/
theorem onGrid_codeVal (f : Fmt) (c : Nat) : OnGrid f (some (f.emin - f.mbits)) (f.codeVal c) :=
  onGrid_multiple (f.sig_lt c).le fun l h => by cases h; exact f.emin_le_quant c

/-! ## The unit's test -/

/-- y is one of the two numbers of f32 next to 1 / √q, or it. -/
def FaithfulRoot (q y : ℚ) : Prop :=
  0 < y ∧ ((y ^ 2 * q ≤ 1 ∧ ∀ z, finF fmtF32 z → y < realF fmtF32 z → 1 < realF fmtF32 z ^ 2 * q) ∨
    (1 ≤ y ^ 2 * q ∧ ∀ z, finF fmtF32 z → 0 ≤ realF fmtF32 z → realF fmtF32 z < y → realF fmtF32 z ^ 2 * q < 1))

theorem rsqExcess_sign (m : Nat) (e : ℤ) {b : Nat} (hb : b ≤ fmtF32.maxCode) :
    (rsqExcess m e b ≤ 0 ↔ fmtF32.codeVal b ^ 2 * (m * 2 ^ e) ≤ 1) ∧ (0 ≤ rsqExcess m e b ↔ 1 ≤ fmtF32.codeVal b ^ 2 * (m * 2 ^ e)) := by
  have hmod : b % fmtF32.signBit = b := Nat.mod_eq_of_lt (hb.trans_lt (by decide))
  have hval : (((({ m := fmtF32.sig b, e := fmtF32.quant b } : Dy).mul { m := fmtF32.sig b, e := fmtF32.quant b }).mul
      { m := m, e := e }).add { m := -1, e := 0 }).val = fmtF32.codeVal b ^ 2 * (m * 2 ^ e) - 1 := by
    rw [Dy.val_add, Dy.val_mul, Dy.val_mul, Fmt.codeVal]
    simp only [Dy.val]
    push_cast
    ring
  have hexcess : rsqExcess m e b = (((({ m := fmtF32.sig b, e := fmtF32.quant b } : Dy).mul { m := fmtF32.sig b, e := fmtF32.quant b }).mul
      { m := m, e := e }).add { m := -1, e := 0 }).m := by
    rw [rsqExcess, unpack_of_fin (realF_code hb).1, hmod]
  rw [hexcess]
  constructor
  · rw [le_iff_lt_or_eq, ← Dy.val_lt_zero, ← Dy.val_eq_zero, ← le_iff_lt_or_eq, hval, sub_nonpos]
  · rw [← not_lt, ← Dy.val_lt_zero, hval, not_lt, sub_nonneg]

theorem faithfulRoot_of_test {m : Nat} {e : ℤ} (hm : 0 < m) {b : Nat} (h : faithfulRsq m e b = true) :
    finF fmtF32 b ∧ FaithfulRoot (m * 2 ^ e) (realF fmtF32 b) := by
  simp only [faithfulRsq, Bool.and_eq_true, Bool.or_eq_true, decide_eq_true_eq, Bool.not_eq_true', decide_eq_false_iff_not] at h
  obtain ⟨⟨hb0, hb⟩, h⟩ := h
  obtain ⟨hfin, hreal⟩ := realF_code hb
  have hq : (0 : ℚ) < m * 2 ^ e := by positivity
  have hsq {a c : Nat} (h : a ≤ c) : fmtF32.codeVal a ^ 2 * (m * 2 ^ e) ≤ fmtF32.codeVal c ^ 2 * (m * 2 ^ e) :=
    mul_le_mul_of_nonneg_right (pow_le_pow_left₀ (fmtF32.codeVal_nonneg a) (fmtF32.codeVal_strictMono.monotone h) 2) hq.le
  obtain ⟨hle, hge⟩ := rsqExcess_sign m e hb
  rw [FaithfulRoot, hreal]
  refine ⟨hfin, fmtF32.codeVal_pos (by omega), h.imp (fun ⟨h1, h2⟩ => ⟨hle.mp h1, fun z hz hlt => ?_⟩)
    fun ⟨h1, h2⟩ => ⟨hge.mp h1, fun z hz h0 hlt => ?_⟩⟩
  · obtain ⟨c, hc, hzc⟩ := realF_nonneg_code hz ((fmtF32.codeVal_nonneg b).trans hlt.le)
    rw [hzc, fmtF32.codeVal_strictMono.lt_iff_lt] at hlt
    rw [hzc]
    rw [(rsqExcess_sign m e (Nat.le_trans hlt hc)).1, not_le] at h2
    exact h2.trans_le (hsq hlt)
  · obtain ⟨c, hc, hzc⟩ := realF_nonneg_code hz h0
    rw [hzc, fmtF32.codeVal_strictMono.lt_iff_lt] at hlt
    rw [hzc]
    rw [(rsqExcess_sign m e ((Nat.sub_le b 1).trans hb)).2, not_le] at h2
    exact (hsq (show c ≤ b - 1 by omega)).trans_lt h2

/-! ## The value that stands in -/

/-- The whole part of m · 2^e. -/
theorem wholePart_eq (m : Nat) (e : ℤ) : (if 0 ≤ e then (m : ℤ) * 2 ^ e.toNat else (m : ℤ) / 2 ^ (-e).toNat) = ⌊(m * 2 ^ e : ℚ)⌋ := by
  have h := Dy.floor_eq { m := m, e := e }
  rw [Dy.floor, Dy.val] at h
  push_cast at h
  exact h

theorem scaled_eq_floor (m : Nat) (k : ℤ) :
    ((if 0 ≤ k then m * 2 ^ k.toNat else m / 2 ^ (-k).toNat : Nat) : ℤ) = ⌊(m * 2 ^ k : ℚ)⌋ := by
  rw [← wholePart_eq]
  push_cast
  rfl

/-- The approximation of a root: the whole part of what `sqrtParts` finds, in units of 2^−256. -/
theorem approxOf_rsq (neg : Bool) (m : Nat) (e : ℤ) : (approxOf .rsq neg m e).exp = 0 ∧ (approxOf .rsq neg m e).num =
    ⌊((sqrtParts fxBits 1 m (-e)).1 * 2 ^ ((sqrtParts fxBits 1 m (-e)).2 + fxBits) : ℚ)⌋ :=
  ⟨rfl, scaled_eq_floor _ _⟩

theorem boundedResult_rsq (rnd : Nat) (neg : Bool) (m : Nat) (e : ℤ) (free : Nat) :
    (boundedResult .rsq fmtF32 rnd neg m e free).1 = if faithfulRsq m e (free % 2 ^ 32) then free % 2 ^ 32
      else (roundUnits fmtF32 1 (approxOf .rsq neg m e).num (approxOf .rsq neg m e).exp).1 := by
  simp [boundedResult]

section
variable {m : Nat} {e : ℤ} (hm : 0 < m) (hlo : 2 ^ (-149 : ℤ) ≤ (m * 2 ^ e : ℚ)) (hhi : (m * 2 ^ e : ℚ) < 2 ^ (128 : ℤ))
include hm hlo

/-- The last place of the root's approximation lies below that of f32. -/
theorem sqrtParts_place : (sqrtParts fxBits 1 m (-e)).2 + 1 ≤ -149 := by
  obtain ⟨hcell, hsize, -⟩ := sqrtParts_cell (bits := fxBits) (by decide) one_pos hm (-e)
  generalize sqrtParts fxBits 1 m (-e) = p at *
  have hlo' : ((2 ^ (-149 : ℤ) : ℚ) : ℝ) ≤ ((m * 2 ^ e : ℚ) : ℝ) := Rat.cast_le.mpr hlo
  push_cast at hlo'
  have h1 : ((2 ^ 255 : Nat) * 2 ^ (p.2 + 1) : ℝ) ≤ Real.sqrt ((1 : Nat) / m * 2 ^ (-e)) := by
    refine (hcell _).1.mpr ?_
    calc ((2 ^ 255 : Nat) * 2 ^ (p.2 + 1) : ℝ) = (2 ^ fxBits : Nat) * 2 ^ p.2 := by
          rw [zpow_add_one₀ two_ne_zero, fxBits]; push_cast; ring
      _ ≤ p.1 * 2 ^ p.2 := mul_le_mul_of_nonneg_right (by exact_mod_cast hsize) (by positivity)
  have h2 : Real.sqrt ((1 : Nat) / m * 2 ^ (-e)) < 2 ^ (75 : ℤ) := by
    rw [Real.sqrt_lt' (by positivity), zpow_neg, Nat.cast_one, one_div, ← mul_inv]
    calc ((m * 2 ^ e : ℝ))⁻¹ ≤ (2 ^ (-149 : ℤ))⁻¹ := inv_anti₀ (by positivity) hlo'
      _ < (2 ^ (75 : ℤ)) ^ 2 := by norm_num
  have h3 : ((2 ^ 255 : Nat) * 2 ^ (p.2 + 1) : ℝ) = 2 ^ (255 + (p.2 + 1)) := by
    rw [zpow_add₀ two_ne_zero 255]
    norm_cast
  rw [h3] at h1
  have := (zpow_lt_zpow_iff_right₀ one_lt_two).mp (h1.trans_lt h2)
  omega

/-- A number of f32 is at most the approximation just where it is at most the root. -/
theorem codeVal_le_approx_iff (neg : Bool) (c : Nat) : fmtF32.codeVal c ≤ (approxOf .rsq neg m e).num * 2 ^ (-256 : ℤ) ↔
    fmtF32.codeVal c ^ 2 * (m * 2 ^ e) ≤ 1 := by
  obtain ⟨k, hk⟩ := onGrid_multiple_lowest (onGrid_codeVal fmtF32 c)
  obtain ⟨j, rfl⟩ := Int.eq_ofNat_of_zero_le (show 0 ≤ k from by
    have h := fmtF32.codeVal_nonneg c
    rw [hk, mul_nonneg_iff_of_pos_right (by positivity)] at h
    exact_mod_cast h)
  have hplace := sqrtParts_place hm hlo
  obtain ⟨hcell, -, -⟩ := sqrtParts_cell (bits := fxBits) (by decide) one_pos hm (-e)
  have hcell := (hcell.mono hplace j).1
  have hq : (0 : ℚ) < m * 2 ^ e := by positivity
  rw [(approxOf_rsq neg m e).2]
  generalize sqrtParts fxBits 1 m (-e) = p at *
  have hl : fmtF32.emin - fmtF32.mbits = -149 := rfl
  rw [hl] at hk
  have hfloor : fmtF32.codeVal c ≤ ⌊(p.1 * 2 ^ (p.2 + fxBits) : ℚ)⌋ * 2 ^ (-256 : ℤ) ↔ fmtF32.codeVal c ≤ p.1 * 2 ^ p.2 := by
    have h256 : fmtF32.codeVal c = ((j * 2 ^ 107 : ℤ) : ℚ) * 2 ^ (-256 : ℤ) := by
      rw [hk, show (-149 : ℤ) = (107 : Nat) + -256 by norm_num, zpow_add₀ two_ne_zero, zpow_natCast]
      push_cast
      ring
    have hp : (p.1 * 2 ^ p.2 : ℚ) = p.1 * 2 ^ (p.2 + fxBits) * 2 ^ (-256 : ℤ) := by
      rw [mul_assoc, ← zpow_add₀ two_ne_zero, fxBits]
      congr 2
      omega
    have h0 : (0 : ℚ) < 2 ^ (-256 : ℤ) := by positivity
    rw [h256, hp, mul_le_mul_iff_left₀ h0, mul_le_mul_iff_left₀ h0, Int.cast_le, Int.le_floor]
  have hcast : (fmtF32.codeVal c : ℝ) = j * 2 ^ (-149 : ℤ) := by rw [hk]; push_cast; rfl
  have hsq : (fmtF32.codeVal c : ℝ) ≤ Real.sqrt ((1 : Nat) / m * 2 ^ (-e)) ↔ fmtF32.codeVal c ^ 2 * (m * 2 ^ e) ≤ 1 := by
    have h0 : (0 : ℝ) ≤ fmtF32.codeVal c := by exact_mod_cast fmtF32.codeVal_nonneg c
    rw [Real.le_sqrt h0 (by positivity), ← le_div_iff₀ hq, zpow_neg, Nat.cast_one, one_div, ← mul_inv, one_div, ← Rat.cast_le (K := ℝ)]
    push_cast
    rfl
  rw [hfloor, ← hsq, hcast, hcell, ← Rat.cast_le (K := ℝ), hcast]
  push_cast
  rfl

end

/-- The value that stands in, the approximation rounded towards zero, is faithful. -/
theorem faithfulRoot_of_approx {m : Nat} {e : ℤ} (hm : 0 < m) (hlo : 2 ^ (-149 : ℤ) ≤ (m * 2 ^ e : ℚ))
    (hhi : (m * 2 ^ e : ℚ) < 2 ^ (128 : ℤ)) (neg : Bool) :
    let r := (roundUnits fmtF32 1 (approxOf .rsq neg m e).num (approxOf .rsq neg m e).exp).1
    finF fmtF32 r ∧ FaithfulRoot (m * 2 ^ e) (realF fmtF32 r) := by
  have hE : 0 < fmtF32.ebits := by decide
  have hle := codeVal_le_approx_iff hm hlo neg
  have hr := roundDy_roundedTo hE 1 false false { m := (approxOf .rsq neg m e).num, e := -256 }
  have hround : roundUnits fmtF32 1 (approxOf .rsq neg m e).num (approxOf .rsq neg m e).exp =
    roundDy fmtF32 1 false false { m := (approxOf .rsq neg m e).num, e := -256 } := rfl
  rw [hround]
  generalize roundDy fmtF32 1 false false { m := (approxOf .rsq neg m e).num, e := -256 } = r at *
  rw [Dy.val] at hr
  dsimp only at hr ⊢
  generalize ((approxOf .rsq neg m e).num * 2 ^ (-256 : ℤ) : ℚ) = v at *
  have hq : (0 : ℚ) < m * 2 ^ e := by positivity
  -- the approximation lies within the numbers of f32
  have hone : fmtF32.codeVal 1 = 2 ^ (-149 : ℤ) := by norm_num [Fmt.codeVal, Fmt.sig, Fmt.quant, Fmt.emin, fmtF32]
  have hmin : fmtF32.codeVal 1 ≤ v := by
    rw [hle]
    calc fmtF32.codeVal 1 ^ 2 * (m * 2 ^ e) ≤ fmtF32.codeVal 1 ^ 2 * 2 ^ (128 : ℤ) := mul_le_mul_of_nonneg_left hhi.le (by positivity)
      _ ≤ 1 := by
        rw [hone]
        norm_num
  have hmax : v < fmtF32.codeVal fmtF32.maxCode := by
    rw [← not_le, hle, not_le]
    calc (1 : ℚ) < (2 ^ (127 : ℤ)) ^ 2 * 2 ^ (-149 : ℤ) := by norm_num
      _ ≤ fmtF32.codeVal fmtF32.maxCode ^ 2 * (m * 2 ^ e) :=
        mul_le_mul (pow_le_pow_left₀ (by positivity) (two_pow_bias_le (by decide)) 2) hlo (by positivity) (by positivity)
  have hv : 0 < v := (fmtF32.codeVal_pos one_ne_zero).trans_le hmin
  obtain ⟨u, _, _, _, _, hu, -, -, -, -, -, hin⟩ := hr.2 (by exact_mod_cast hv.ne')
  obtain ⟨hgrid, hsame, habs, hlargest⟩ := hu
  have hu0 : 0 ≤ u := nonneg_of_mul_nonneg_left (by exact_mod_cast hsame) hv
  have huv : u ≤ v := by
    rw [abs_of_nonneg (by exact_mod_cast hu0), abs_of_pos (by exact_mod_cast hv)] at habs
    exact_mod_cast habs
  have hbest (c : Nat) (hc : fmtF32.codeVal c ≤ v) : fmtF32.codeVal c ≤ u := by
    have h0 := fmtF32.codeVal_nonneg c
    have h := hlargest _ (onGrid_codeVal fmtF32 c) (mul_nonneg (by exact_mod_cast h0) (by exact_mod_cast hv.le))
      (by rw [abs_of_nonneg (by exact_mod_cast h0), abs_of_pos (by exact_mod_cast hv)]; exact_mod_cast hc)
    rwa [abs_of_nonneg h0, abs_of_nonneg hu0] at h
  obtain ⟨-, hfin, -, hreal, -⟩ := hin (by rw [realF_maxCode hE, abs_of_nonneg hu0]; exact huv.trans hmax.le)
  refine ⟨hfin, ?_⟩
  rw [FaithfulRoot, hreal]
  refine ⟨(fmtF32.codeVal_pos one_ne_zero).trans_le (hbest 1 hmin), .inl ⟨?_, fun z hz hlt => ?_⟩⟩
  · obtain ⟨c, -, hc⟩ := realF_nonneg_code hfin (by rw [hreal]; exact hu0)
    rw [hreal] at hc
    rw [hc, ← hle, ← hc]
    exact huv
  · obtain ⟨c, -, hc⟩ := realF_nonneg_code hz (hu0.trans hlt.le)
    rw [hc] at hlt ⊢
    rw [← not_le, ← hle]
    exact fun h => absurd (hbest c h) hlt.not_ge

theorem four_zpow (n : ℤ) : (4 : ℚ) ^ n = (2 ^ n) ^ 2 := by
  rw [← zpow_natCast, zpow_comm]
  norm_num

/-- A number the root of whose reciprocal is a power of two is a power of four. -/
theorem eq_four_zpow_of_root {m : Nat} {e t : ℤ} (h : Real.sqrt ((1 : Nat) / m * 2 ^ (-e)) = 2 ^ t) : (m * 2 ^ e : ℚ) = 4 ^ (-t) := by
  rw [Real.sqrt_eq_iff_mul_self_eq (by positivity) (by positivity), zpow_neg, Nat.cast_one, one_div, ← mul_inv, ← sq] at h
  have h : ((((m * 2 ^ e : ℚ))⁻¹ : ℚ) : ℝ) = ((2 ^ t) ^ 2 : ℚ) := by push_cast; exact h
  rw [four_zpow, zpow_neg, inv_pow, ← Rat.cast_injective h, inv_inv]

/-- RSQ of f32 is faithful, whatever value is delivered (11 R174). -/
theorem rsq_faithful {x : Nat} (hx : finF fmtF32 x) (hpos : 0 < realF fmtF32 x) (rnd free : Nat) :
    finF fmtF32 (sfuElem .rsq fmtF32 rnd x free).1 ∧ FaithfulRoot (realF fmtF32 x) (realF fmtF32 (sfuElem .rsq fmtF32 rnd x free).1) := by
  obtain ⟨m, e, hm, hu, hr, -, he⟩ := exists_fin_pos hx hpos
  have hlo : (2 ^ (-149 : ℤ) : ℚ) ≤ m * 2 ^ e := by
    calc (2 ^ (-149 : ℤ) : ℚ) ≤ 1 * 2 ^ e := by rw [one_mul]; exact zpow_le_zpow_right₀ one_le_two he
      _ ≤ m * 2 ^ e := mul_le_mul_of_nonneg_right (by exact_mod_cast hm) (by positivity)
  have hhi : (m * 2 ^ e : ℚ) < 2 ^ (128 : ℤ) := by
    rw [← hr, ← abs_of_pos hpos]
    exact (abs_realF_le (by decide) hx).trans_lt (codeVal_maxCode_lt_two_pow (by decide))
  by_cases h4 : ∃ n : ℤ, realF fmtF32 x = 4 ^ n
  · obtain ⟨n, hn⟩ := h4
    obtain ⟨hfin, hreal, -⟩ := rsq_power_of_four (by decide) hx hn rnd free
    have hone : ((2 : ℚ) ^ (-n)) ^ 2 * 4 ^ n = 1 := by
      rw [zpow_neg, inv_pow, four_zpow, inv_mul_cancel₀ (by positivity)]
    refine ⟨hfin, ?_⟩
    rw [FaithfulRoot, hreal, hn]
    refine ⟨by positivity, .inl ⟨hone.le, fun z hz hlt => ?_⟩⟩
    rw [← hone]
    exact mul_lt_mul_of_pos_right (pow_lt_pow_left₀ hlt (by positivity) two_ne_zero) (by positivity)
  · rw [sfuElem_rsq hu hm, if_neg Bool.false_ne_true, if_neg, boundedResult_rsq, hr]
    · split
      · next h => exact faithfulRoot_of_test hm h
      · exact faithfulRoot_of_approx hm hlo hhi false
    · rintro ⟨-, heven, hp⟩
      have hroot := (sqrtParts_cell (bits := 60) (by omega) one_pos hm (-e)).2.2 heven
      rw [hp, Nat.cast_pow, ← zpow_natCast, Nat.cast_two, ← zpow_add₀ two_ne_zero] at hroot
      exact h4 ⟨_, hr.trans (eq_four_zpow_of_root hroot)⟩

end Sys2Proof.Machine
end

section
/-! PROOFS. The exact cases of EXP2, LOG2, SIN and COS (11 Table 11.8). -/

namespace Sys2Proof.Machine

open Safety

/-! ## Whole parts -/

/-- Whether m · 2^e is whole. -/
theorem whole_iff (m : Nat) (e : ℤ) :
    (if 0 ≤ e then true else decide (m % 2 ^ (-e).toNat = 0)) = true ↔ (⌊(m * 2 ^ e : ℚ)⌋ : ℚ) = m * 2 ^ e := by
  split
  · next h =>
    refine iff_of_true rfl ?_
    rw [← Int.toNat_of_nonneg h, zpow_natCast]
    exact_mod_cast congrArg (Int.cast : ℤ → ℚ) (Int.floor_natCast (R := ℚ) (m * 2 ^ e.toNat))
  · next h =>
    obtain ⟨d, rfl⟩ : ∃ d : Nat, e = -d := ⟨(-e).toNat, by omega⟩
    have hv : (m * 2 ^ (-d : ℤ) : ℚ) = (m : ℚ) / (2 ^ d : Nat) := by rw [zpow_neg, zpow_natCast, div_eq_mul_inv]; push_cast; rfl
    rw [neg_neg, Int.toNat_natCast, decide_eq_true_eq, hv, Rat.floor_natCast_div_natCast, eq_div_iff (by positivity)]
    have h := Nat.div_add_mod' m (2 ^ d)
    exact ⟨fun h0 => by exact_mod_cast (by omega : m / 2 ^ d * 2 ^ d = m), fun h0 => by
      have : m / 2 ^ d * 2 ^ d = m := by exact_mod_cast h0
      omega⟩

/-- A significand's leading bit bounds its number. -/
theorem two_zpow_top_le {m : Nat} (hm : 0 < m) (e : ℤ) : (2 ^ (Nat.log2 m + e : ℤ) : ℚ) ≤ m * 2 ^ e := by
  have h : (2 ^ Nat.log2 m : ℚ) ≤ m := by exact_mod_cast Nat.log2_self_le hm.ne'
  rw [zpow_add₀ two_ne_zero, zpow_natCast]
  exact mul_le_mul_of_nonneg_right h (by positivity)

theorem lt_two_zpow_top (m : Nat) (e : ℤ) : (m * 2 ^ e : ℚ) < 2 ^ (Nat.log2 m + e + 1 : ℤ) := by
  have h : (m : ℚ) < 2 ^ (Nat.log2 m + 1) := by exact_mod_cast Nat.lt_log2_self
  rw [add_right_comm, zpow_add₀ two_ne_zero]
  exact mul_lt_mul_of_pos_right (by exact_mod_cast h) (by positivity)

/-! ## EXP2 -/

/-- The rounding of EXP2's exact results. -/
def exp2Rnd (f : Fmt) (rnd : Nat) : Nat := if f = fmtF32 then 0 else rnd

section
variable {f : Fmt} {x : Nat} {n : Bool} {m : Nat} {e : ℤ} (hu : unpack f x = .fin n m e) (hm : 0 < m) (rnd free : Nat)
include hu hm

theorem sfuElem_exp2_big (h : 12 ≤ (Nat.log2 m + e : ℤ)) :
    sfuElem .exp2 f rnd x free = roundRat f (exp2Rnd f rnd) false false 1 1 (if n then -2000 else 2000) := by
  simp only [sfuElem, hu, hm.ne', h, if_false, if_true, exp2Rnd]
  cases n <;> rfl

variable (h : ¬ 12 ≤ (Nat.log2 m + e : ℤ))
include h

theorem sfuElem_exp2_whole (hw : (⌊(m * 2 ^ e : ℚ)⌋ : ℚ) = m * 2 ^ e) : sfuElem .exp2 f rnd x free =
    roundRat f (exp2Rnd f rnd) false false 1 1 (if n then -⌊(m * 2 ^ e : ℚ)⌋ else ⌊(m * 2 ^ e : ℚ)⌋) := by
  have hw := (whole_iff m e).mpr hw
  have hi := wholePart_eq m e
  simp only [sfuElem, hu, hm.ne', h, if_false, hw, if_true, exp2Rnd, hi]

theorem sfuElem_exp2_part (hw : (⌊(m * 2 ^ e : ℚ)⌋ : ℚ) ≠ m * 2 ^ e)
    (hr : ¬ (if n then -⌊(m * 2 ^ e : ℚ)⌋ - 1 else ⌊(m * 2 ^ e : ℚ)⌋) < -151 ∧
      ¬ 128 ≤ (if n then -⌊(m * 2 ^ e : ℚ)⌋ - 1 else ⌊(m * 2 ^ e : ℚ)⌋)) :
    sfuElem .exp2 f rnd x free = boundedResult .exp2 f rnd n m e free := by
  have hw := (not_congr (whole_iff m e)).mpr hw
  have hi := wholePart_eq m e
  simp only [sfuElem, hu, hm.ne', h, if_false, hw, hi, hr, and_false, Bool.false_eq_true]

end

/-- EXP2 of a whole number is that power of two, rounded once (11 Table 11.8). -/
theorem exp2_whole {f : Fmt} (hf : f ∈ formats) {x : Nat} (hx : finF f x) (h0 : realF f x ≠ 0) {k : ℤ} (hq : realF f x = k)
    (rnd free : Nat) : RoundedTo f (exp2Rnd f rnd) false false ((2 ^ k : ℚ) : ℝ) (sfuElem .exp2 f rnd x free) := by
  obtain ⟨m, e, hm, hu, hr, -⟩ := exists_fin_ne_zero hx h0
  have hlog : log2Ratio 1 1 = 0 := by decide
  have hround := roundRat_roundedTo (ebits_pos hf) one_pos one_pos (SameCell.refl _ _) (sub_one_lt _) (exp2Rnd f rnd) false false false
    (e := k)
  have hv : (sgn false * ((1 : Nat) / (1 : Nat) * 2 ^ k) : ℝ) = (2 ^ k : ℚ) := by simp
  rw [hv] at hround
  have hk : (k : ℚ) = sgn (negF f x) * (m * 2 ^ e) := hq.symm.trans hr
  by_cases htop : 12 ≤ (Nat.log2 m + e : ℤ)
  · have hbig : (4096 : ℚ) ≤ m * 2 ^ e := by
      calc (4096 : ℚ) = 2 ^ (12 : ℤ) := by norm_num
        _ ≤ 2 ^ (Nat.log2 m + e : ℤ) := zpow_le_zpow_right₀ one_le_two htop
        _ ≤ _ := two_zpow_top_le hm e
    have hlow := neg_150_lt_lowest hf
    rw [sfuElem_exp2_big hu hm rnd free htop]
    generalize negF f x = n at *
    cases n with
    | false =>
      have hk : 4096 ≤ k := by rw [sgn_false, one_mul] at hk; exact_mod_cast hk ▸ hbig
      rw [roundRat_beyond hf one_pos one_pos (by omega)] at hround
      rwa [if_neg Bool.false_ne_true, roundRat_beyond hf one_pos one_pos (by omega)]
    | true =>
      have hk : k ≤ -4096 := by
        have : (k : ℚ) ≤ -4096 := by rw [hk, sgn_true]; linarith
        exact_mod_cast this
      rwa [if_pos rfl, roundRat_below one_pos one_pos one_pos one_pos (by omega) (show log2Ratio 1 1 + k + 1 < _ by omega)]
  · have hwhole : (m * 2 ^ e : ℚ) = ((if negF f x then -k else k : ℤ) : ℚ) := by
      cases hn : negF f x
      · rw [if_neg Bool.false_ne_true, hk, hn, sgn_false, one_mul]
      · rw [if_pos rfl, Int.cast_neg, hk, hn, sgn_true]
        ring
    have hfloor : ⌊(m * 2 ^ e : ℚ)⌋ = if negF f x then -k else k := by rw [hwhole, Int.floor_intCast]
    rw [sfuElem_exp2_whole hu hm rnd free htop (by rw [hfloor, hwhole]), hfloor]
    cases hn : negF f x
    · simpa using hround
    · simpa using hround

/-! ## LOG2 -/

/-- LOG2 of a power of two is its exponent, rounded once. -/
theorem log2_two_zpow {f : Fmt} (hf : f ∈ formats) {x : Nat} (hx : finF f x) {k : ℤ} (hq : realF f x = 2 ^ k) (rnd free : Nat) :
    RoundedTo f rnd false false (k : ℝ) (sfuElem .log2 f rnd x free) := by
  obtain ⟨m, e, hm, hu, hr, -⟩ := exists_fin_pos hx (by rw [hq]; positivity)
  obtain ⟨a, rfl, rfl⟩ := eq_two_pow hm (hr.symm.trans hq)
  have h := roundDy_roundedTo (ebits_pos hf) rnd false false { m := a + e, e := 0 }
  rw [sfuElem_log2 hu hm, if_neg Bool.false_ne_true, Nat.log2_two_pow, if_pos rfl]
  rw [Dy.val, zpow_zero, mul_one, Rat.cast_intCast] at h
  exact h

/-! ## SIN and COS -/

/-- The quarter of a turn at which COS reads SIN. -/
def quarterOf (op : SfuOp) : Nat := if op = .cos then 1 else 0

/-- SIN of a number of quarters of a turn. -/
def quarterValue (f : Fmt) (q : Nat) : Nat × Flags :=
  (if q % 4 = 1 then f.bias * 2 ^ f.mbits else if q % 4 = 3 then f.signed true (f.bias * 2 ^ f.mbits) else 0, 0)

theorem quarterValue_sin (f : Fmt) (k : ℤ) : quarterValue f ((k % 4).toNat + quarterOf .sin) =
    (if k % 4 = 1 then f.bias * 2 ^ f.mbits else if k % 4 = 3 then f.signed true (f.bias * 2 ^ f.mbits) else 0, 0) := by
  have h1 : ((k % 4).toNat + 0) % 4 = 1 ↔ k % 4 = 1 := by omega
  have h3 : ((k % 4).toNat + 0) % 4 = 3 ↔ k % 4 = 3 := by omega
  simp only [quarterValue, show quarterOf .sin = 0 from rfl, h1, h3]

theorem quarterValue_cos (f : Fmt) (k : ℤ) : quarterValue f ((k % 4).toNat + quarterOf .cos) =
    (if k % 4 = 0 then f.bias * 2 ^ f.mbits else if k % 4 = 2 then f.signed true (f.bias * 2 ^ f.mbits) else 0, 0) := by
  have h1 : ((k % 4).toNat + 1) % 4 = 1 ↔ k % 4 = 0 := by omega
  have h3 : ((k % 4).toNat + 1) % 4 = 3 ↔ k % 4 = 2 := by omega
  simp only [quarterValue, show quarterOf .cos = 1 from rfl, h1, h3]

/-- What SIN and COS of a large number deliver: the free value where its magnitude is at most 1. -/
def bigTurn (f : Fmt) (free : Nat) : Nat × Flags :=
  let y := if free % (2 * f.signBit) % f.signBit ≤ f.bias * 2 ^ f.mbits then free % (2 * f.signBit) else 0
  (y, deliveredFlags f y)

section
variable {f : Fmt} {x : Nat} {n : Bool} {m : Nat} {e : ℤ} (hu : unpack f x = .fin n m e) (hm : 0 < m) (rnd free : Nat) {op : SfuOp}
  (hop : op = .sin ∨ op = .cos)
include hu hm hop

theorem sfuElem_turn : sfuElem op f rnd x free =
    if turnFraction n m e % 2 ^ (fxBits - 2) = 0 then quarterValue f (turnFraction n m e / 2 ^ (fxBits - 2) + quarterOf op)
    else if 16 ≤ (Nat.log2 m + e : ℤ) then bigTurn f free
    else boundedResult op f rnd n m e free := by
  have hquarter (q : Nat) : (match q % 4 with
      | 1 => (f.bias * 2 ^ f.mbits, (0 : Flags))
      | 3 => (f.signed true (f.bias * 2 ^ f.mbits), 0)
      | _ => (0, 0)) = quarterValue f q := by
    have h4 := Nat.mod_lt q four_pos
    unfold quarterValue
    generalize q % 4 = r at *
    interval_cases r <;> rfl
  rw [sfuElem, hu]
  simp only [hm.ne', if_false, decide_eq_true_eq, ← hquarter]
  rcases hop with rfl | rfl <;> rfl

end

/-- The fraction of a turn, the sign taken in. -/
theorem turnFraction_eq (neg : Bool) (m : Nat) {e : ℤ} (he : 0 ≤ e + 256) :
    (turnFraction neg m e : ℤ) = ((if neg then -1 else 1) * (m * 2 ^ (e + 256).toNat : Nat)) % 2 ^ 256 := by
  have he' : 0 ≤ e + (fxBits : ℤ) := he
  simp only [turnFraction, he', if_true]
  have : (e + (fxBits : ℤ)).toNat = (e + 256).toNat := rfl
  rw [this]
  generalize m * 2 ^ (e + 256).toNat = u
  unfold fxBits
  cases neg
  · simp
  · simp only [if_true]
    omega

/-- A number in units of 2^−256. -/
theorem units_eq (n : Bool) (m : Nat) {e : ℤ} (he : 0 ≤ e + 256) :
    (((if n then -1 else 1) * (m * 2 ^ (e + 256).toNat : Nat) : ℤ) : ℚ) = sgn n * (m * 2 ^ e) * 2 ^ 256 := by
  have hpow : (2 : ℚ) ^ (e + 256).toNat = 2 ^ e * 2 ^ 256 := by
    rw [← zpow_natCast, Int.toNat_of_nonneg he, zpow_add₀ two_ne_zero]
    norm_cast
  rw [Int.cast_mul, sgn_cast, Int.cast_natCast, Nat.cast_mul, Nat.cast_pow, Nat.cast_ofNat, hpow]
  ring

/-- A number of quarters of a turn, in units of 2^−256. -/
theorem quarters_iff (n : Bool) (m : Nat) {e : ℤ} (he : 0 ≤ e + 256) (k : ℤ) :
    4 * (sgn n * (m * 2 ^ e)) = (k : ℚ) ↔ (if n then -1 else 1) * (m * 2 ^ (e + 256).toNat : Nat) = k * 2 ^ 254 := by
  have hscale : sgn n * (m * 2 ^ e) * 2 ^ 256 = 4 * (sgn n * (m * 2 ^ e)) * 2 ^ 254 := by ring
  rw [← Int.cast_inj (α := ℚ), units_eq n m he, hscale, Int.cast_mul, Int.cast_pow, Int.cast_ofNat, mul_left_inj' (by positivity)]

section
variable {f : Fmt} (hf : f ∈ sfuFormats)
include hf

theorem one_le_maxCode : f.bias * 2 ^ f.mbits ≤ f.maxCode := (by decide : ∀ f ∈ sfuFormats, f.bias * 2 ^ f.mbits ≤ f.maxCode) f hf

theorem codeVal_one : f.codeVal (f.bias * 2 ^ f.mbits) = 1 := by
  have h := f.codeVal_mk (a := f.bias) (Nat.two_pow_pos f.mbits)
  rw [add_zero, if_neg (sfuFormats_bias hf).ne'] at h
  rw [h, sub_self, zero_sub, zpow_neg, zpow_natCast, Nat.cast_zero, add_zero, mul_inv_cancel₀ (by positivity)]

/-- A magnitude code at most that of 1 is a number at most 1. -/
theorem finF_of_le_one {y : Nat} (h : y % f.signBit ≤ f.bias * 2 ^ f.mbits) : finF f y ∧ |realF f y| ≤ 1 := by
  refine ⟨(finF_iff (ebits_pos (sfuFormats_formats hf)) y).mpr (h.trans (one_le_maxCode hf)), ?_⟩
  rw [abs_realF, ← codeVal_one hf]
  exact f.codeVal_strictMono.monotone h

theorem bigTurn_le_one (free : Nat) : finF f (bigTurn f free).1 ∧ |realF f (bigTurn f free).1| ≤ 1 := by
  refine finF_of_le_one hf ?_
  unfold bigTurn
  dsimp only
  split
  · assumption
  · rw [Nat.zero_mod]
    exact Nat.zero_le _

theorem quarterValue_le_one (q : Nat) : finF f (quarterValue f q).1 ∧ |realF f (quarterValue f q).1| ≤ 1 := by
  have hlt := (one_le_maxCode hf).trans_lt (Fmt.maxCode_lt (ebits_pos (sfuFormats_formats hf)))
  refine finF_of_le_one hf ?_
  unfold quarterValue
  dsimp only
  split_ifs
  · exact Nat.mod_le _ _
  · rw [Fmt.signed_mod true hlt]
  · exact Nat.zero_le _

variable {x : Nat} (hx : finF f x) {op : SfuOp} (hop : op = .sin ∨ op = .cos) (rnd free : Nat)
include hf hx hop

/-- SIN and COS of a number of quarters of a turn are exact (11 Table 11.8). -/
theorem turn_quarters (h0 : realF f x ≠ 0) {k : ℤ} (hq : 4 * realF f x = k) :
    sfuElem op f rnd x free = quarterValue f ((k % 4).toNat + quarterOf op) := by
  obtain ⟨m, e, hm, hu, hr, -, he⟩ := exists_fin_ne_zero hx h0
  have he0 : 0 ≤ e + 256 := by
    have := (by decide : ∀ f ∈ sfuFormats, -149 ≤ f.emin - f.mbits) f hf
    omega
  have hscaled := (quarters_iff (negF f x) m he0 k).mp (by rw [← hq, hr])
  have hfr : turnFraction (negF f x) m e = (k % 4).toNat * 2 ^ 254 := by
    have h := turnFraction_eq (negF f x) m he0
    rw [hscaled] at h
    omega
  rw [sfuElem_turn hu hm rnd free hop, hfr, fxBits, if_pos (Nat.mul_mod_left _ _), Nat.mul_div_cancel _ (Nat.two_pow_pos _)]

/-- SIN and COS of a large number are finite and at most 1. -/
theorem turn_big (hbig : 65536 ≤ |realF f x|) :
    finF f (sfuElem op f rnd x free).1 ∧ |realF f (sfuElem op f rnd x free).1| ≤ 1 := by
  obtain ⟨m, e, hm, hu, hr, -⟩ := exists_fin_ne_zero hx (by
    intro h
    rw [h] at hbig
    norm_num at hbig)
  have htop : 16 ≤ (Nat.log2 m + e : ℤ) := by
    have h : (2 ^ (16 : ℤ) : ℚ) < 2 ^ (Nat.log2 m + e + 1 : ℤ) := by
      rw [hr, abs_sgn_mul _ (by positivity)] at hbig
      refine lt_of_le_of_lt ?_ (lt_two_zpow_top m e)
      norm_num [hbig]
    have := (zpow_lt_zpow_iff_right₀ one_lt_two).mp h
    omega
  rw [sfuElem_turn hu hm rnd free hop, if_pos htop]
  split
  · exact quarterValue_le_one hf _
  · exact bigTurn_le_one hf _

end

end Sys2Proof.Machine
end

section
/-! PROOFS. The bound of R174 (11): a delivered value of f32 that the unit's test lets through, and the rounded approximation that stands in
for others. -/

namespace Sys2Proof.Machine

open Safety

/-! ## Numbers in units -/

/-- The floor of the opposite of a quotient. -/
theorem floor_neg_div (m : Nat) {d : Nat} (hd : 0 < d) : ⌊-(m / d : ℚ)⌋ = -((m + d - 1) / d : Nat) := by
  have h1 := Nat.div_add_mod (m + d - 1) d
  have h2 := Nat.mod_lt (m + d - 1) hd
  have hd0 : (0 : ℚ) < d := by exact_mod_cast hd
  generalize (m + d - 1) / d = c at *
  have hlo : (m : ℚ) ≤ c * d := by exact_mod_cast (by rw [mul_comm]; omega : m ≤ c * d)
  have hhi : (c * d : ℚ) < m + d := by exact_mod_cast (by rw [mul_comm]; omega : c * d < m + d)
  rw [Int.floor_eq_iff, Int.cast_neg, Int.cast_natCast]
  constructor
  · rw [neg_le_neg_iff, div_le_iff₀ hd0]
    exact hlo
  · rw [neg_lt, neg_add, neg_neg, ← sub_eq_add_neg, sub_lt_iff_lt_add, div_add_one hd0.ne', lt_div_iff₀ hd0]
    exact hhi

/-- A finite number in units is its whole part in them. -/
theorem inUnits_eq_floor {f : Fmt} {x : Nat} (hx : finF f x) (exp : ℤ) :
    inUnits exp (unpack f x) = some ⌊realF f x * 2 ^ ((256 : ℤ) - exp)⌋ := by
  obtain ⟨m, e, hu, hr, -⟩ := exists_fin hx
  have hv : realF f x * 2 ^ ((256 : ℤ) - exp) = sgn (negF f x) * (m * 2 ^ (e - exp + 256)) := by
    rw [hr, mul_assoc, mul_assoc, ← zpow_add₀ two_ne_zero]
    ring_nf
  rw [hu, hv, inUnits, fxBits]
  simp only [Nat.cast_ofNat]
  generalize e - exp + 256 = k
  congr 1
  have hscaled := scaled_eq_floor m k
  cases negF f x with
  | false =>
    rw [sgn_false, one_mul, ← hscaled]
    split <;> rfl
  | true =>
    rw [sgn_true, neg_one_mul]
    split
    · next h =>
      rw [← Int.toNat_of_nonneg h, zpow_natCast]
      exact_mod_cast (Int.floor_intCast (R := ℚ) (-(m * 2 ^ k.toNat : Nat))).symm
    · next h =>
      obtain ⟨d, rfl⟩ : ∃ d : Nat, k = -d := ⟨(-k).toNat, by omega⟩
      have := floor_neg_div m (Nat.two_pow_pos d)
      rw [zpow_neg, zpow_natCast, ← div_eq_mul_inv, neg_neg, Int.toNat_natCast, if_pos rfl, ← this]
      push_cast
      rfl

/-- A number within a whole bound of a whole number has its whole part within it. -/
theorem floor_within {x : ℚ} {num : ℤ} {b : Nat} (h : |x - num| ≤ b) : (⌊x⌋ - num).natAbs ≤ b := by
  obtain ⟨h1, h2⟩ := abs_le.mp h
  have hlo : num - b ≤ ⌊x⌋ := Int.le_floor.mpr (by push_cast; linarith)
  have hhi : (⌊x⌋ : ℚ) ≤ (num + b : ℤ) := by push_cast; linarith [Int.floor_le x]
  have hhi : ⌊x⌋ ≤ num + b := by exact_mod_cast hhi
  omega

/-! ## One rounding is within one last place -/

/-- A number within the format's range is rounded, to nearest, within it. -/
theorem nearest_even_within {f : Fmt} {l : Option ℤ} {v u R : ℚ} (h : Nearest 0 (OnGrid f l) v u) (hR : OnGrid f l R) (hv : |v| ≤ R) :
    |u| ≤ R := by
  obtain ⟨-, hnear⟩ := h
  obtain ⟨hv1, hv2⟩ := abs_le.mp hv
  have hu (g : ℚ) (hg : OnGrid f l g) : |u - v| ≤ |g - v| := by exact_mod_cast (hnear g hg).1
  have h1 := hu R hR
  have h2 := hu (-R) (onGrid_neg hR)
  rw [abs_of_nonneg (sub_nonneg.mpr hv2)] at h1
  rw [abs_of_nonpos (show -R - v ≤ 0 by linarith)] at h2
  rw [abs_le]
  constructor
  · linarith [neg_abs_le (u - v)]
  · linarith [le_abs_self (u - v)]

/-- The grid has a number within a last place of any. -/
theorem onGrid_within {f : Fmt} {v : ℚ} {Q : ℤ} (hQ : f.emin - f.mbits ≤ Q) (hv : |v| < 2 ^ (Q + f.mbits + 1)) :
    ∃ g, OnGrid f (some (f.emin - f.mbits)) g ∧ |g - v| ≤ 2 ^ Q := by
  have hQ0 : (0 : ℚ) < 2 ^ Q := by positivity
  have h1 := Nat.floor_le (show 0 ≤ |v| / 2 ^ Q by positivity)
  have h2 := Nat.lt_floor_add_one (|v| / 2 ^ Q)
  rw [le_div_iff₀ hQ0] at h1
  rw [div_lt_iff₀ hQ0] at h2
  have hN : ⌊|v| / 2 ^ Q⌋₊ ≤ 2 ^ (f.mbits + 1) := by
    refine Nat.floor_le_of_le ?_
    rw [div_le_iff₀ hQ0]
    refine hv.le.trans (le_of_eq ?_)
    rw [add_assoc, zpow_add₀ two_ne_zero, mul_comm]
    norm_cast
  obtain ⟨s, hs⟩ : ∃ s, v = sgn s * |v| := by
    rcases abs_choice v with h | h
    · exact ⟨false, by rw [h, sgn_false, one_mul]⟩
    · exact ⟨true, by rw [h, sgn_true, neg_mul_neg, one_mul]⟩
  generalize |v| = a at *
  subst hs
  refine ⟨sgn s * (⌊a / 2 ^ Q⌋₊ * 2 ^ Q), onGrid_sgn _ (onGrid_multiple hN fun l h => by cases h; exact hQ), ?_⟩
  rw [← mul_sub, abs_mul, show |sgn s| = 1 by cases s <;> simp, one_mul, abs_of_nonpos (by linarith)]
  linarith

/-- A power of two, at least a unit. -/
theorem two_zpow_le_units (q : ℤ) : (2 ^ q : ℚ) ≤ (if 0 ≤ q then 2 ^ q.toNat else 1 : Nat) := by
  split
  · next h =>
    rw [← Int.toNat_of_nonneg h, zpow_natCast, Int.toNat_natCast]
    push_cast
    exact le_rfl
  · next h =>
    rw [Nat.cast_one]
    exact zpow_le_one_of_nonpos₀ one_le_two (by omega)

/-- An f32 ulp in units is at least the last place of f32 there. -/
theorem two_zpow_le_ulpUnits (num : Nat) (exp : ℤ) :
    (2 ^ (max (Nat.log2 num + exp - 256) (-126) - 23 : ℤ) : ℚ) ≤ ulpUnits num exp * 2 ^ (exp - 256) := by
  have h0 : (0 : ℚ) ≤ 2 ^ (exp - 256) := by positivity
  rw [← sub_add_cancel (max (Nat.log2 num + exp - 256 : ℤ) (-126) - 23) (exp - 256), zpow_add₀ two_ne_zero]
  refine mul_le_mul_of_nonneg_right ?_ h0
  exact two_zpow_le_units _

/-- A number in units rounded to f32 is within an ulp. -/
theorem roundUnits_within {num exp : ℤ} (hmax : |(num * 2 ^ (exp - 256) : ℚ)| ≤ fmtF32.codeVal fmtF32.maxCode) :
    finF fmtF32 (roundUnits fmtF32 0 num exp).1 ∧
      |realF fmtF32 (roundUnits fmtF32 0 num exp).1 - num * 2 ^ (exp - 256)| ≤ ulpUnits num.natAbs exp * 2 ^ (exp - 256) := by
  have hE : 0 < fmtF32.ebits := by decide
  have hr := roundDy_roundedTo hE 0 false false { m := num, e := exp - 256 }
  have hround : roundUnits fmtF32 0 num exp = roundDy fmtF32 0 false false { m := num, e := exp - 256 } := rfl
  rw [hround]
  rw [Dy.val] at hr
  generalize roundDy fmtF32 0 false false { m := num, e := exp - 256 } = r at *
  dsimp only at hr
  by_cases h0 : num = 0
  · have hz := hr.1 (by simp [h0])
    rw [hz]
    refine ⟨finF_signed hE false (Nat.zero_le _), ?_⟩
    have : realF fmtF32 (fmtF32.signed false 0) = 0 := by simp [realF_signed false fmtF32.signBit_pos]
    rw [this, h0]
    simp only [Int.cast_zero, zero_mul, sub_zero, abs_zero]
    positivity
  · have hnum : (0 : ℚ) < |(num : ℚ)| := by rwa [abs_pos, Int.cast_ne_zero]
    have hv0 : (num * 2 ^ (exp - 256) : ℚ) ≠ 0 := mul_ne_zero (by exact_mod_cast h0) (by positivity)
    obtain ⟨u, _, _, _, _, hu, -, -, -, -, -, hin⟩ := hr.2 (by exact_mod_cast hv0)
    have hmem := onGrid_codeVal fmtF32 fmtF32.maxCode
    obtain ⟨-, hfin, -, hreal, -⟩ := hin (by rw [realF_maxCode hE]; exact nearest_even_within hu hmem hmax)
    refine ⟨hfin, ?_⟩
    have habs : |(num * 2 ^ (exp - 256) : ℚ)| = num.natAbs * 2 ^ (exp - 256) := by
      rw [abs_mul, abs_of_pos (show (0 : ℚ) < 2 ^ (exp - 256) by positivity), Nat.cast_natAbs, Int.cast_abs]
    have htop := lt_two_zpow_top num.natAbs (exp - 256)
    rw [← habs] at htop
    obtain ⟨g, hg, hgv⟩ := onGrid_within (f := fmtF32) (Q := max (Nat.log2 num.natAbs + exp - 256) (-126) - 23)
      (by have : fmtF32.emin - fmtF32.mbits = -149 := rfl
          omega)
      (htop.trans_le (zpow_le_zpow_right₀ one_le_two (by
        have : (fmtF32.mbits : ℤ) = 23 := rfl
        omega)))
    rw [hreal]
    have hnear : |u - num * 2 ^ (exp - 256)| ≤ |g - num * 2 ^ (exp - 256)| := by exact_mod_cast (hu.2 g hg).1
    exact hnear.trans (hgv.trans (two_zpow_le_ulpUnits _ _))

end Sys2Proof.Machine
end

section
/-! PROOFS. EXP2, LOG2, SIN and COS of f32 lie within the bound of R174 (11). -/

namespace Sys2Proof.Machine

open Safety

/-! ## What the unit delivers -/

/-- The f32 code is finite and within an approximation's bound. -/
def Within (ap : Approx) (b : Nat) : Prop := ∃ u, inUnits ap.exp (unpack fmtF32 b) = some u ∧ (u - ap.num).natAbs ≤ ap.bound

/-- The rounded approximation is within the bound, where that is an ulp or more. -/
theorem within_roundUnits {ap : Approx} (hmax : |(ap.num * 2 ^ (ap.exp - 256) : ℚ)| ≤ fmtF32.codeVal fmtF32.maxCode)
    (hb : ulpUnits ap.num.natAbs ap.exp ≤ ap.bound) : Within ap (roundUnits fmtF32 0 ap.num ap.exp).1 := by
  obtain ⟨hfin, hulp⟩ := roundUnits_within hmax
  refine ⟨_, inUnits_eq_floor hfin ap.exp, floor_within ?_⟩
  have h1 : (0 : ℚ) < 2 ^ (ap.exp - 256) := by positivity
  have h2 : (2 : ℚ) ^ (256 - ap.exp) * 2 ^ (ap.exp - 256) = 1 := by rw [← zpow_add₀ two_ne_zero]; norm_num
  rw [← mul_le_mul_iff_left₀ h1, ← abs_of_pos h1, ← abs_mul, abs_of_pos h1, sub_mul, mul_assoc, h2, mul_one]
  exact hulp.trans (mul_le_mul_of_nonneg_right (by exact_mod_cast hb) h1.le)

/-- The unit's test of a free value. -/
def testWithin (ap : Approx) (b : Nat) : Bool :=
  match inUnits ap.exp (unpack fmtF32 b) with
  | some u => decide ((u - ap.num).natAbs ≤ ap.bound)
  | none => false

theorem within_of_test {ap : Approx} {b : Nat} (h : testWithin ap b = true) : Within ap b := by
  unfold testWithin at h
  split at h
  · next u hu => exact ⟨u, hu, of_decide_eq_true h⟩
  · cases h

/-- What the unit delivers for f32, where no faithful root is asked for: the free value that passes the test, or the rounded
approximation. -/
theorem boundedResult_cases {op : SfuOp} (hop : op ≠ .rsq) (rnd : Nat) (neg : Bool) (m : Nat) (e : ℤ) (free : Nat) :
    (boundedResult op fmtF32 rnd neg m e free).1 = (roundUnits fmtF32 0 (approxOf op neg m e).num (approxOf op neg m e).exp).1 ∨
      ((boundedResult op fmtF32 rnd neg m e free).1 = free % 2 ^ 32 ∧ testWithin (approxOf op neg m e) (free % 2 ^ 32) = true) := by
  have hdeliver : (boundedResult op fmtF32 rnd neg m e free).1 =
      if (decide (op = .exp2) && decide ((roundUnits fmtF32 0 (approxOf op neg m e).num (approxOf op neg m e).exp).1 < 2 ^ 23)) = true then
        (roundUnits fmtF32 0 (approxOf op neg m e).num (approxOf op neg m e).exp).1
      else if testWithin (approxOf op neg m e) (free % 2 ^ 32) = true then free % 2 ^ 32
      else (roundUnits fmtF32 0 (approxOf op neg m e).num (approxOf op neg m e).exp).1 := by
    simp only [boundedResult, if_true, if_neg hop, apply_ite Prod.fst]
    cases op
    case rsq => exact absurd rfl hop
    all_goals rfl
  rw [hdeliver]
  split_ifs with _ h
  · exact .inl rfl
  · exact .inr ⟨rfl, h⟩
  · exact .inl rfl

/-- Whatever the free value, what is delivered is within the bound. -/
theorem within_boundedResult {op : SfuOp} (hop : op ≠ .rsq) (rnd : Nat) (neg : Bool) (m : Nat) (e : ℤ) (free : Nat)
    (hmax : |((approxOf op neg m e).num * 2 ^ ((approxOf op neg m e).exp - 256) : ℚ)| ≤ fmtF32.codeVal fmtF32.maxCode)
    (hb : ulpUnits (approxOf op neg m e).num.natAbs (approxOf op neg m e).exp ≤ (approxOf op neg m e).bound) :
    Within (approxOf op neg m e) (boundedResult op fmtF32 rnd neg m e free).1 := by
  rcases boundedResult_cases hop rnd neg m e free with h | ⟨h, htest⟩
  · rw [h]
    exact within_roundUnits hmax hb
  · rw [h]
    exact within_of_test htest

/-! ## EXP2 -/

/-- The series grows with its operand and its terms. -/
theorem expSeries_mono : ∀ (k n : Nat) {y y' t t' acc acc' : Nat}, y ≤ y' → t ≤ t' → acc ≤ acc' →
    expSeries k n y t acc ≤ expSeries k n y' t' acc'
  | 0, _, _, _, _, _, _, _, _, _, hacc => hacc
  | k + 1, n, _, _, _, _, _, _, hy, ht, hacc => by
    have h := Nat.div_le_div_right (c := n) (Nat.div_le_div_right (c := 2 ^ fxBits) (Nat.mul_le_mul ht hy))
    exact expSeries_mono k (n + 1) hy h (Nat.add_le_add hacc h)

theorem exp2Fixed_mono {i j : Nat} (h : i ≤ j) : exp2Fixed i ≤ exp2Fixed j :=
  expSeries_mono 64 1 (Nat.div_le_div_right (Nat.mul_le_mul_right _ h)) le_rfl le_rfl

theorem exp2Fixed_le {i : Nat} (h : i < 2 ^ 256) : exp2Fixed i ≤ 2 * 2 ^ 256 :=
  (exp2Fixed_mono (Nat.le_sub_one_of_lt h)).trans (by decide)

/-- Next to 2 by an f32 place, the approximation stays clear of it. -/
theorem exp2Fixed_le_top {i : Nat} (h : i ≤ 2 ^ 256 - 2 ^ 239) : exp2Fixed i ≤ 2 * 2 ^ 256 - 2 ^ 233 :=
  (exp2Fixed_mono h).trans (by decide)

/-- The approximation's parts: the operand in units, divided by one. -/
theorem approxOf_exp2 (n : Bool) (m : Nat) {e : ℤ} (he : 0 ≤ e + 256) :
    (approxOf .exp2 n m e).num = exp2Fixed ((if n then -1 else 1) * (m * 2 ^ (e + 256).toNat : Nat) % 2 ^ 256 : ℤ).toNat ∧
      (approxOf .exp2 n m e).exp = (if n then -1 else 1) * (m * 2 ^ (e + 256).toNat : Nat) / 2 ^ 256 := by
  have he' : 0 ≤ e + (fxBits : ℤ) := he
  have hs (u : Nat) : (if n then -(u : ℤ) else u) = (if n then -1 else 1) * u := by cases n <;> simp
  simp only [approxOf, if_pos he', hs]
  exact ⟨rfl, rfl⟩

/-- The operands of f32 from 127 to 128 are multiples of 2^−17. -/
theorem dvd_of_top {n : Bool} {m : Nat} {e : ℤ} (hm : m < 2 ^ 24)
    (h : (if n then -1 else 1) * (m * 2 ^ (e + 256).toNat : Nat) / 2 ^ 256 = (127 : ℤ)) :
    2 ^ 239 ∣ (if n then -1 else 1) * ((m * 2 ^ (e + 256).toNat : Nat) : ℤ) := by
  have hplace : 239 ≤ (e + 256).toNat := by
    by_contra hlt
    have hle : m * 2 ^ (e + 256).toNat ≤ 2 ^ 24 * 2 ^ 238 := Nat.mul_le_mul hm.le (Nat.pow_le_pow_right two_pos (by omega))
    generalize m * 2 ^ (e + 256).toNat = u at *
    cases n <;> simp at h <;> omega
  refine Dvd.dvd.mul_left ?_ _
  exact_mod_cast Dvd.dvd.mul_left (pow_dvd_pow 2 hplace) m

/-- Below 2^128, the approximation is within the range of f32. -/
theorem exp2Fixed_units_le {i : ℤ} (hi : i < 128 * 2 ^ 256) (htop : i / 2 ^ 256 = 127 → 2 ^ 239 ∣ i) :
    |(((exp2Fixed (i % 2 ^ 256).toNat : ℤ) : ℚ) * 2 ^ (i / 2 ^ 256 - 256))| ≤ fmtF32.codeVal fmtF32.maxCode := by
  rw [abs_of_nonneg (by positivity), Int.cast_natCast]
  have hpow (k : ℤ) : (0 : ℚ) ≤ 2 ^ k := by positivity
  by_cases h : i / 2 ^ 256 = 127
  · obtain ⟨j, hj⟩ := htop h
    have hnum := exp2Fixed_le_top (i := (i % 2 ^ 256).toNat) (by omega)
    generalize exp2Fixed (i % 2 ^ 256).toNat = num at *
    calc (num * 2 ^ (i / 2 ^ 256 - 256) : ℚ) ≤ (2 * 2 ^ 256 - 2 ^ 233 : Nat) * 2 ^ (i / 2 ^ 256 - 256) :=
          mul_le_mul_of_nonneg_right (Nat.cast_le.mpr hnum) (hpow _)
      _ = fmtF32.codeVal fmtF32.maxCode := by
        rw [h]
        norm_num [Fmt.codeVal, Fmt.sig, Fmt.quant, Fmt.maxCode, fmtF32]
  · have hnum := exp2Fixed_le (i := (i % 2 ^ 256).toNat) (by omega)
    generalize exp2Fixed (i % 2 ^ 256).toNat = num at *
    calc (num * 2 ^ (i / 2 ^ 256 - 256) : ℚ) ≤ (2 * 2 ^ 256 : Nat) * 2 ^ (i / 2 ^ 256 - 256) :=
          mul_le_mul_of_nonneg_right (Nat.cast_le.mpr hnum) (hpow _)
      _ ≤ (2 * 2 ^ 256 : Nat) * 2 ^ (126 - 256 : ℤ) := mul_le_mul_of_nonneg_left (zpow_le_zpow_right₀ one_le_two (by omega)) (by positivity)
      _ = 2 ^ (127 : ℤ) := by norm_num
      _ ≤ fmtF32.codeVal fmtF32.maxCode := two_pow_bias_le (by decide)

/-! ## LOG2 -/

theorem log2Bits_lt : ∀ k y acc : Nat, log2Bits k y acc < 2 ^ k * (acc + 1)
  | 0, _, acc => by simp [log2Bits]
  | k + 1, y, acc => by
    simp only [log2Bits]
    split
    · refine (log2Bits_lt k _ _).trans_le (le_of_eq ?_)
      ring
    · refine (log2Bits_lt k _ _).trans_le ?_
      rw [pow_succ, mul_assoc]
      exact Nat.mul_le_mul_left _ (by omega)

/-! ## SIN and COS -/

/-- A quotient by two or more is at most about half its dividend. -/
theorem two_mul_abs_ediv_le (x : ℤ) {d : ℤ} (hd : 2 ≤ d) : 2 * |x / d| ≤ |x| + 1 := by
  have h1 := Int.ediv_mul_le x (show d ≠ 0 by omega)
  have h2 := Int.lt_ediv_add_one_mul_self x (show 0 < d by omega)
  generalize x / d = y at *
  rcases le_or_gt 0 y with h | h
  · have h3 := mul_le_mul_of_nonneg_left hd h
    have h4 := le_abs_self x
    rw [abs_of_nonneg h]
    omega
  · have h3 := mul_le_mul_of_nonpos_left hd (show y + 1 ≤ 0 by omega)
    have h4 := neg_abs_le x
    rw [abs_of_neg h]
    omega

theorem abs_scaled_le {t a2 : ℤ} (h0 : 0 ≤ a2) (h1 : a2 ≤ 2 ^ 256) : |t * a2 / (2 ^ fxBits : Nat)| ≤ |t| := by
  have hd : (0 : ℤ) < (2 ^ fxBits : Nat) := by positivity
  have habs : |t * a2| ≤ |t| * (2 ^ fxBits : Nat) := by
    rw [abs_mul, abs_of_nonneg h0]
    exact mul_le_mul_of_nonneg_left h1 (abs_nonneg t)
  obtain ⟨hlo, hhi⟩ := abs_le.mp habs
  exact abs_le.mpr ⟨(Int.le_ediv_iff_mul_le hd).mpr (by rwa [neg_mul]), Int.ediv_le_of_le_mul hd hhi⟩

/-- A term's successor is at most about half of it. -/
theorem taylorTerm_le {t a2 : ℤ} (n : Nat) (h0 : 0 ≤ a2) (h1 : a2 ≤ 2 ^ 256) :
    2 * |-(t * a2 / (2 ^ fxBits : Nat)) / ((n + 1) * (n + 2) : Nat)| ≤ |t| + 1 := by
  have hd : (2 : ℤ) ≤ ((n + 1) * (n + 2) : Nat) := by
    have := Nat.mul_le_mul (show 1 ≤ n + 1 by omega) (show 2 ≤ n + 2 by omega)
    omega
  have h := two_mul_abs_ediv_le (-(t * a2 / (2 ^ fxBits : Nat))) hd
  rw [abs_neg] at h
  exact h.trans (add_le_add_left (abs_scaled_le h0 h1) 1)

theorem taylor_le {a2 : ℤ} (h0 : 0 ≤ a2) (h1 : a2 ≤ 2 ^ 256) : ∀ (k n : Nat) (t acc : ℤ), |taylor k n a2 t acc| ≤ |acc| + |t| + k
  | 0, _, t, acc => by simp [taylor]
  | k + 1, n, t, acc => by
    have hterm := taylorTerm_le (t := t) n h0 h1
    have h := taylor_le h0 h1 k (n + 2) (-(t * a2 / (2 ^ fxBits : Nat)) / ((n + 1) * (n + 2) : Nat))
      (acc + -(t * a2 / (2 ^ fxBits : Nat)) / ((n + 1) * (n + 2) : Nat))
    rw [taylor]
    generalize -(t * a2 / (2 ^ fxBits : Nat)) / ((n + 1) * (n + 2) : Nat) = t' at *
    have habs := abs_add_le acc t'
    push_cast
    omega

theorem eighth_le {r : Nat} (h : r ≤ 2 ^ 253) : r * twoPi / 2 ^ fxBits ≤ 2 ^ 256 := by
  refine Nat.div_le_of_le_mul ?_
  calc r * twoPi ≤ 2 ^ 253 * twoPi := Nat.mul_le_mul_right _ h
    _ ≤ 2 ^ fxBits * 2 ^ 256 := by decide

/-- The Taylor sums stay below 4. -/
theorem abs_eighth_le {r : Nat} (h : r ≤ 2 ^ 253) : |sinEighth r| ≤ 4 * 2 ^ 256 ∧ |cosEighth r| ≤ 4 * 2 ^ 256 := by
  have ha := eighth_le h
  simp only [sinEighth, cosEighth]
  generalize r * twoPi / 2 ^ fxBits = a at *
  have hd : (0 : ℤ) < (2 ^ fxBits : Nat) := by positivity
  have h0 : (0 : ℤ) ≤ (a : ℤ) * a / (2 ^ fxBits : Nat) := by positivity
  have h1 : (a : ℤ) * a / (2 ^ fxBits : Nat) ≤ 2 ^ 256 := by
    refine Int.ediv_le_of_le_mul hd ?_
    exact_mod_cast Nat.mul_le_mul ha ha
  have hs := taylor_le h0 h1 32 1 a a
  have hc := taylor_le h0 h1 32 0 (2 ^ fxBits : Nat) (2 ^ fxBits : Nat)
  rw [Nat.abs_cast] at hs hc
  have hfx : 2 ^ fxBits = 2 ^ 256 := rfl
  constructor
  · omega
  · rw [hfx] at hc ⊢
    omega

/-- The whole turn takes its values from an eighth of it. -/
theorem abs_sinTurn_le (r : Nat) : |sinTurn r| ≤ 4 * 2 ^ 256 := by
  have heighth {f : Nat} (hf : f < 2 ^ 254) :
      |if f ≤ 2 ^ 253 then sinEighth f else cosEighth (2 * 2 ^ 253 - f)| ≤ 4 * 2 ^ 256 ∧
        |if f ≤ 2 ^ 253 then cosEighth f else sinEighth (2 * 2 ^ 253 - f)| ≤ 4 * 2 ^ 256 := by
    by_cases h : f ≤ 2 ^ 253
    · rw [if_pos h, if_pos h]
      exact abs_eighth_le h
    · rw [if_neg h, if_neg h]
      exact (abs_eighth_le (show 2 * 2 ^ 253 - f ≤ 2 ^ 253 by omega)).symm
  have hf : r % (2 * 2 ^ (fxBits - 3)) < 2 ^ 254 := Nat.mod_lt _ (Nat.two_pow_pos 254)
  obtain ⟨hs, hc⟩ := heighth hf
  rw [sinTurn]
  split
  · exact hs
  · exact hc
  · rw [abs_neg]; exact hs
  · rw [abs_neg]; exact hc

/-- Below 8, the bound of SIN and COS is an ulp or more. -/
theorem ulpUnits_le {n : ℤ} (h : |n| ≤ 4 * 2 ^ 256) : ulpUnits n.natAbs 0 ≤ 2 ^ (fxBits - 21) := by
  have hlog : Nat.log2 n.natAbs ≤ 258 := by
    rcases Nat.eq_zero_or_pos n.natAbs with h0 | h0
    · rw [h0]
      decide
    · have hn : n.natAbs < 2 ^ 259 := by
        have := Int.natCast_natAbs n
        omega
      have := (Nat.log2_lt h0.ne').mpr hn
      omega
  have hfx : (fxBits : ℤ) = 256 := rfl
  rw [ulpUnits]
  split
  · refine Nat.pow_le_pow_right two_pos ?_
    rw [hfx]
    omega
  · exact Nat.one_le_two_pow

/-- A number that is not a number of quarters of a turn has a fraction that is none. -/
theorem turnFraction_ne {n : Bool} {m : Nat} {e : ℤ} (he : -149 ≤ e) (h4 : ∀ k : ℤ, 4 * (sgn n * (m * 2 ^ e)) ≠ (k : ℚ)) :
    turnFraction n m e % 2 ^ (fxBits - 2) ≠ 0 := by
  have he0 : 0 ≤ e + 256 := by omega
  have hfx : 2 ^ (fxBits - 2) = 2 ^ 254 := rfl
  have h := turnFraction_eq n m he0
  intro h0
  refine h4 ((if n then -1 else 1) * (m * 2 ^ (e + 256).toNat : Nat) / 2 ^ 254) ((quarters_iff n m he0 _).mpr ?_)
  generalize (if n then -1 else 1 : ℤ) * (m * 2 ^ (e + 256).toNat : Nat) = u at *
  rw [hfx] at h0
  omega

/-- What stays below 2^8 is within the range of f32. -/
theorem abs_units_le {num : ℤ} (h : |num| ≤ 2 ^ 8 * 2 ^ 256) : |(num * 2 ^ ((0 : ℤ) - 256) : ℚ)| ≤ fmtF32.codeVal fmtF32.maxCode := by
  rw [abs_mul, abs_of_pos (show (0 : ℚ) < 2 ^ ((0 : ℤ) - 256) by positivity)]
  calc (|(num : ℚ)| * 2 ^ ((0 : ℤ) - 256)) ≤ 2 ^ 8 * 2 ^ 256 * 2 ^ ((0 : ℤ) - 256) :=
        mul_le_mul_of_nonneg_right (by exact_mod_cast h) (by positivity)
    _ ≤ 2 ^ (127 : ℤ) := by norm_num
    _ ≤ _ := two_pow_bias_le (by decide)

/-! ## The four functions -/

section
variable {x : Nat} (hx : finF fmtF32 x) {n : Bool} {m : Nat} {e : ℤ} (hu : unpack fmtF32 x = .fin n m e) (rnd free : Nat)
include hx hu

/-- The parts that a finite number has been taken apart into. -/
theorem parts_of_unpack : n = negF fmtF32 x ∧ realF fmtF32 x = sgn n * (m * 2 ^ e) ∧ m < 2 ^ 24 ∧ -149 ≤ e ∧
    (m * 2 ^ e : ℚ) < 2 ^ (128 : ℤ) := by
  obtain ⟨m', e', hu', hr, hm, he⟩ := exists_fin hx
  obtain ⟨rfl, rfl, rfl⟩ := FVal.fin.inj (hu.symm.trans hu')
  refine ⟨rfl, hr, hm, he, ?_⟩
  have h := (abs_realF_le (by decide) hx).trans_lt (codeVal_maxCode_lt_two_pow (by decide))
  rwa [hr, abs_sgn_mul _ (by positivity)] at h

theorem turn_within {op : SfuOp} (hop : op = .sin ∨ op = .cos) (hsmall : |realF fmtF32 x| < 65536) (h4 : ∀ k : ℤ, 4 * realF fmtF32 x ≠ k) :
    Within (approxOf op n m e) (sfuElem op fmtF32 rnd x free).1 := by
  obtain ⟨rfl, hr, hm24, he, -⟩ := parts_of_unpack hx hu
  have hm : 0 < m := Nat.pos_of_ne_zero fun h => h4 0 (by rw [hr, h]; simp)
  have htop : ¬ 16 ≤ (Nat.log2 m + e : ℤ) := fun h => by
    rw [hr, abs_sgn_mul _ (by positivity)] at hsmall
    have h1 := (zpow_le_zpow_right₀ one_le_two h).trans (two_zpow_top_le hm e)
    norm_num at h1
    linarith
  have hfr := turnFraction_ne he (by rwa [hr] at h4)
  rw [sfuElem_turn hu hm rnd free hop, if_neg hfr, if_neg htop]
  have hap : (approxOf op (negF fmtF32 x) m e).exp = 0 ∧ (approxOf op (negF fmtF32 x) m e).bound = 2 ^ (fxBits - 21) ∧
      |(approxOf op (negF fmtF32 x) m e).num| ≤ 4 * 2 ^ 256 := by
    rcases hop with rfl | rfl
    · exact ⟨rfl, rfl, abs_sinTurn_le _⟩
    · exact ⟨rfl, rfl, abs_sinTurn_le _⟩
  obtain ⟨hexp, hbound, hnum⟩ := hap
  refine within_boundedResult (by rcases hop with rfl | rfl <;> decide) _ _ _ _ _ ?_ ?_
  · rw [hexp]
    exact abs_units_le (hnum.trans (by norm_num))
  · rw [hexp, hbound]
    exact ulpUnits_le hnum

theorem log2_within (hpos : 0 < realF fmtF32 x) (h2 : ∀ k : ℤ, realF fmtF32 x ≠ 2 ^ k) :
    Within (approxOf .log2 n m e) (sfuElem .log2 fmtF32 rnd x free).1 := by
  obtain ⟨rfl, hr, hm24, he, hmax⟩ := parts_of_unpack hx hu
  have hm : 0 < m := Nat.pos_of_ne_zero fun h => hpos.ne' (by rw [hr, h]; simp)
  have hn : negF fmtF32 x = false := by
    rw [← Bool.not_eq_true, ← sgn_mul_neg_iff hm (e := e), ← hr]
    exact hpos.not_gt
  have hpow : m ≠ 2 ^ Nat.log2 m := fun h => h2 (Nat.log2 m + e) (by
    rw [hr, hn, sgn_false, one_mul, zpow_add₀ two_ne_zero, zpow_natCast]
    conv_lhs => rw [h]
    push_cast
    rfl)
  rw [sfuElem_log2 hu hm, hn, if_neg Bool.false_ne_true, if_neg hpow]
  have hlog := log2Bits_lt fxBits (m * 2 ^ (2 * fxBits) / 2 ^ Nat.log2 m) 0
  have htop : (Nat.log2 m + e : ℤ) < 128 := (zpow_lt_zpow_iff_right₀ one_lt_two).mp ((two_zpow_top_le hm e).trans_lt hmax)
  refine within_boundedResult (by decide) _ _ _ _ _ ?_ ?_
  · refine abs_units_le ?_
    simp only [approxOf, log2Fixed]
    rw [abs_le]
    generalize log2Bits fxBits (m * 2 ^ (2 * fxBits) / 2 ^ Nat.log2 m) 0 = l at *
    have hfx : 2 ^ fxBits = 2 ^ 256 := rfl
    rw [hfx] at hlog ⊢
    omega
  · simp only [approxOf]
    omega

theorem exp2_within (hwhole : ∀ k : ℤ, realF fmtF32 x ≠ k) (hlo : -126 ≤ realF fmtF32 x) (hhi : realF fmtF32 x < 128) :
    Within (approxOf .exp2 n m e) (sfuElem .exp2 fmtF32 rnd x free).1 := by
  obtain ⟨rfl, hr, hm24, he, hmax⟩ := parts_of_unpack hx hu
  have hm : 0 < m := Nat.pos_of_ne_zero fun h => hwhole 0 (by rw [hr, h]; simp)
  have habs : (m * 2 ^ e : ℚ) < 128 := by
    rw [← abs_sgn_mul (negF fmtF32 x) (show (0 : ℚ) ≤ m * 2 ^ e by positivity), ← hr, abs_lt]
    constructor <;> linarith
  have htop : ¬ 12 ≤ (Nat.log2 m + e : ℤ) := fun h => by
    have h1 := (zpow_le_zpow_right₀ one_le_two h).trans (two_zpow_top_le hm e)
    norm_num at h1
    linarith
  have hpart : (⌊(m * 2 ^ e : ℚ)⌋ : ℚ) ≠ m * 2 ^ e := fun h =>
    hwhole ((if negF fmtF32 x then -1 else 1) * ⌊(m * 2 ^ e : ℚ)⌋) (by rw [hr, Int.cast_mul, sgn_cast, h])
  have hfloor : 0 ≤ ⌊(m * 2 ^ e : ℚ)⌋ ∧ ⌊(m * 2 ^ e : ℚ)⌋ < 128 :=
    ⟨Int.floor_nonneg.mpr (by positivity), Int.floor_lt.mpr (by exact_mod_cast habs)⟩
  have he0 : 0 ≤ e + 256 := by omega
  have hap := approxOf_exp2 (negF fmtF32 x) m he0
  rw [sfuElem_exp2_part hu hm rnd free htop hpart (by split <;> omega)]
  refine within_boundedResult (by decide) _ _ _ _ _ ?_ ?_
  · rw [hap.1, hap.2]
    refine exp2Fixed_units_le ?_ fun h => ?_
    · rw [← Int.cast_lt (R := ℚ), units_eq _ m he0, ← hr]
      exact_mod_cast mul_lt_mul_of_pos_right hhi (by positivity : (0 : ℚ) < 2 ^ 256)
    · exact dvd_of_top hm24 h
  · simp only [approxOf]
    rw [Int.natAbs_natCast]
    omega

end

end Sys2Proof.Machine
end

section
/-! PROOFS. RCP, RSQ, SQRT, EXP2, LOG2, SIN and COS (11 R174, Table 11.8, 22 R314, R323, 23 R348, 24 R384). -/

namespace Sys2Proof.Machine

theorem ite_of_eq_ite {α : Type} {p : Prop} [Decidable p] {r a b : α} (h : r = if p then a else b) : if p then r = a else r = b := by
  split at h
  · next hp => rwa [if_pos hp]
  · next hp => rwa [if_neg hp]

end Sys2Proof.Machine

namespace Sys2Proof

open Machine Safety

/-- Settles O19: the words by `sfuWord_sent`; the special values by the operand's class; RCP and SQRT by `roundRat_roundedTo`; RSQ by the
test and by the root's cell (`rsq_faithful`); the bounded functions by the unit's test and by one rounding of the approximation
(`within_boundedResult`). -/
theorem specialFunctionWords : Obligations.SpecialFunctionWords := by
  unfold Obligations.SpecialFunctionWords
  refine ⟨fun d a i op hi s c h => ?words, fun op f rnd x free hf hr => ?element⟩
  case words =>
    have hd {p q : Bool} (h : (p && q) = true) : p = true := (Bool.and_eq_true_iff.mp h).1
    obtain ⟨-, hdec, -⟩ := id h
    have hwf := hd hdec
    simp only [List.mem_cons, List.not_mem_nil, or_false, Prod.mk.injEq] at hi
    rcases hi with ⟨rfl, rfl⟩ | ⟨rfl, rfl⟩ | ⟨rfl, rfl⟩ | ⟨rfl, rfl⟩ | ⟨rfl, rfl⟩ | ⟨rfl, rfl⟩ | ⟨rfl, rfl⟩ <;>
      exact sfuWord_sent h (hd hwf)
  case element =>
    dsimp only
    have hformat := sfuFormats_formats hf
    refine ⟨sfuElem_nan op rnd free, fun h => ?inf, fun h h0 => ?zero, fun h hneg hop => ?negative,
      fun h h0 hop => hop ▸ rcp_roundedTo rnd free h hformat h0, fun h hpos hop => hop ▸ sqrt_roundedTo rnd free h hpos hformat,
      fun h h0 n => ⟨fun hop hq => hop ▸ rsq_power_of_four hf h hq rnd free, fun hop hq => hop ▸ exp2_whole hformat h h0 hq rnd free,
        fun hop hq => hop ▸ log2_two_zpow hformat h hq rnd free, fun hop hq => ?sin, fun hop hq => ?cos⟩,
      fun h h32 hop hpos => ?faithful, fun h h32 s m e hu hop => ?within, fun h hop hbig => turn_big hf h hop rnd free hbig⟩
    case inf =>
      have hv := sfuElem_inf op rnd free h
      cases op
      case rcp | exp2 | sin | cos => exact hv
      case rsq | sqrt | log2 => exact ite_of_eq_ite hv
    case zero =>
      have hv := sfuElem_zero op rnd free h h0
      cases op <;> exact hv
    case negative =>
      obtain ⟨m, e, hm, hu, hr, -⟩ := exists_fin_ne_zero h hneg.ne
      exact sfuElem_negative hu hm rnd free hop ((sgn_mul_neg_iff hm).mp (hr ▸ hneg))
    case sin =>
      subst hop
      exact (turn_quarters hf h (.inl rfl) rnd free h0 hq).trans (quarterValue_sin f n)
    case cos =>
      subst hop
      exact (turn_quarters hf h (.inr rfl) rnd free h0 hq).trans (quarterValue_cos f n)
    case faithful =>
      subst h32 hop
      obtain ⟨hfin, hpos, hroot⟩ := rsq_faithful h hpos rnd free
      exact ⟨hfin, hpos, hroot⟩
    case within =>
      subst h32
      rcases hop with ⟨rfl, hwhole, hlo, hhi⟩ | ⟨rfl, hpos, h2⟩ | ⟨hop, hsmall, h4⟩
      · exact exp2_within h hu rnd free hwhole hlo hhi
      · exact log2_within h hu rnd free hpos h2
      · exact turn_within h hu rnd free hop hsmall h4

end Sys2Proof
end
